-- ==== Sys2Proof/Word.lean ====
section
/-! DEFINITION. The word types of the block, its identifiers, and the sparse store that holds every addressed part of the state. -/

namespace Sys2Proof

/-- A 32-bit word: command words, registers and frame words are all of this width (R36, 02). -/
abbrev Word := BitVec 32

/-- One byte. -/
abbrev Byte := BitVec 8

/-- Sparse data by key, in one canonical form: keys strictly rising, and no entry equal to what an unlisted key reads as.
`Store Byte` is the host's list of cells. -/
abbrev Store (α : Type) := List (Nat × α)

/-- The five transports that carry command packets (R40, 02), numbered 0 to 4 in this order. -/
inductive Transport where
  | jtag | mailbox | smbus | stream | span
  deriving DecidableEq, Repr, Inhabited

/-- The number of a transport (R40, 02). -/
def Transport.id : Transport → Nat
  | .jtag => 0 | .mailbox => 1 | .smbus => 2 | .stream => 3 | .span => 4

/-- Names an outstanding command: its transport, the sending device (span transport only, R319, 13) and its tag (R45, 02). -/
structure CmdId where
  t : Transport
  dev : BitVec 12 := 0
  tag : Byte
  deriving DecidableEq, Repr, Inhabited

/-- A logical sector of a compute die: `die` 0 to 3 stands for die number 1 to 4 (R17, 01). -/
structure SecId where
  die : Fin 4
  sec : Fin 192
  deriving DecidableEq, Repr, Inhabited

/-- A sequenced DSP unit of a sector (R130, 06). -/
structure SduId where
  die : Fin 4
  sec : Fin 192
  unit : Fin 24
  deriving DecidableEq, Repr, Inhabited

/-- A block memory of a sector (R107, 05). -/
structure BmId where
  die : Fin 4
  sec : Fin 192
  mem : Fin 21
  deriving DecidableEq, Repr, Inhabited

/-- A transceiver lane: `die` 0 is H with 48 XM lanes, 1 to 4 a compute die with XL lanes 0 to 7 (R286, 12). -/
structure LaneId where
  die : Fin 5
  lane : Fin 48
  deriving DecidableEq, Repr, Inhabited

/-- A user I/O pin (R166, 07). -/
structure PinId where
  die : Fin 4
  bank : Fin 6
  pin : Fin 48
  deriving DecidableEq, Repr, Inhabited

/-- A tile of a compute die by its logical coordinates (04, the tile grid). -/
structure TileId where
  die : Fin 4
  x : Fin 512
  y : Fin 768
  deriving DecidableEq, Repr, Inhabited

/-- A monitored rail (R448, 20), in the bit order of `PWR_RAIL.good`. -/
inductive Rail where
  | vddAo | vaux | vccH | vccC | xm | xl | vbatt
  deriving DecidableEq, Repr, Inhabited

/-- Selects a fabric memory of a sector: a block memory or the deep memory (R107, 05). -/
inductive MemSel where
  | block (m : Fin 21)
  | deep
  deriving DecidableEq, Repr, Inhabited

/-- A readback that runs out of its time (R233, 09): the command, and how many units were completed before the one that exceeds 100 ms. -/
structure LateReadback where
  cmd : CmdId
  units : Nat
  deriving DecidableEq, Repr, Inhabited

/-- A memory that a scrubber walks: a block or deep memory, or X or Y of an SDU (R124, 05; R139, 06). -/
inductive ScrubSel where
  | mem (m : MemSel)
  | xy (u : Fin 24) (y : Bool)
  deriving DecidableEq, Repr, Inhabited

/-- What a core of the application cluster makes a request for (R406, R408, R409, R417; 18): a load, a fetch, a store or AMO, the LR and SC of a pair, the
write-back of a line that the caches give up, and the three Zicbom operations on a block. -/
inductive CoreAcc where
  | load | fetch | store | writeback | clean | flush | inval | lr | sc
  deriving DecidableEq, Repr, Inhabited

/-- A NoC request as an issuer presents it to its initiator port (R239, R243, R252; 10). Data flits hold bytes at their block positions;
`bad` marks the data flits that are poisoned; `hart` and `acc` say which core of the application cluster asks and for what, at its two ports. -/
structure NocReq where
  typ : BitVec 4
  otag : BitVec 4 := 0
  aop : BitVec 4 := 0
  addr : BitVec 64 := 0
  len : Byte := 0
  insp : Bool := false
  data : List (BitVec 256) := []
  bad : List Bool := []
  hart : Fin 8 := 0
  acc : CoreAcc := .load
  deriving DecidableEq, Repr, Inhabited

/-- What training found on a DDR channel (R329, R330, R335; 14): the environment's side of the training event. -/
structure TrainResult where
  /-- the steps passed at the rate named -/
  ok : Bool
  /-- rate code trained, 0 to 4 -/
  rate : BitVec 3 := 4
  /-- installed size in MiB -/
  sizeMib : Nat := 0
  /-- log2 of the number of ranks -/
  ranks : BitVec 2 := 0
  /-- 0 16 Gb, 1 32 Gb devices -/
  dens : Bool := false
  /-- slot 1 holds a module that is left unused or failed -/
  slot1Unused : Bool := false
  /-- SPD serial numbers of the DIMMs in slots 0 and 1 -/
  serial0 : Word := 0
  serial1 : Word := 0
  deriving DecidableEq, Repr, Inhabited

/-- What the DIMM returned for one line read (R342, 14): the symbols in error, and the physical faults met on the way. The line itself
is in the state; `raw` is what the devices return when it is not what was stored (an alteration that no code sees). -/
structure DimmRead where
  errs : List (Fin 80) := []
  raw : Option (BitVec 512) := none
  /-- outcome of a read-buffer word under its SEC-DED code (R345): 0 good, 1 corrected, 2 uncorrectable -/
  rdBuf : Fin 3 := 0
  /-- outcome of a write-buffer word (R345) -/
  wrBuf : Fin 3 := 0
  /-- correctable errors met in metadata lines (R372, 15) -/
  nodeCe : Nat := 0
  /-- a counter line or tree node was uncorrectable (R372) -/
  nodeUe : Bool := false
  /-- a tag line was uncorrectable (R372) -/
  tagUe : Bool := false
  /-- a leaf or node tag does not match (R372) -/
  nodeTagBad : Bool := false
  deriving DecidableEq, Repr, Inhabited

end Sys2Proof
end

