-- ==== Sys2Proof/Syntax.lean ====
section
/-! DEFINITION. The commands of the block: one constructor for each row of spec/opcode_table.json, with the operands the row's rule names.
An operand that says what the outside world did (a clock count, a symbol in error, a level on a pin) is the environment's side of the
event; what the block does with it is exec's. -/

namespace Sys2Proof

/-- One command, operation or event of the block: a row of the table. -/
inductive Instr where
  /-- `HUB_POWER_GOOD` (R56). -/
  | hubPowerGood
  /-- `IOSC_QUALIFIED` (R430). -/
  | ioscQualified (straps : BitVec 3)
  /-- `REFCLK_QUALIFY_DONE` (R429). -/
  | refclkQualifyDone (dom : Fin 64) (counts : List Nat)
  /-- `REFCLK_H_QUAL_TIMEOUT` (R58). -/
  | refclkHQualTimeout
  /-- `FLASH_DISCOVERY` (R64). -/
  | flashDiscovery (valid0 : Bool) (size0 : Nat) (valid1 : Bool) (size1 : Nat)
  /-- `SETTINGS_SELECT` (R73). -/
  | settingsSelect
  /-- `FIRMWARE_VERIFY` (R68). -/
  | firmwareVerify
  /-- `DIE_RELEASE` (R70). -/
  | dieRelease
  /-- `VCC_C_GOOD_TIMEOUT` (R70). -/
  | vccCGoodTimeout
  /-- `DIE_JOIN_TIMEOUT` (R71). -/
  | dieJoinTimeout (d : Fin 7)
  /-- `FLASH_LOAD_START` (R57). -/
  | flashLoadStart
  /-- `PORST_ASSERT` (R59). -/
  | porstAssert (ns : Nat)
  /-- `RAIL_LOSS` (R450). -/
  | railLoss (r : Rail)
  /-- `VDD_AO_DIP` (R492). -/
  | vddAoDip (mv : Nat) (ns : Nat)
  /-- `BROWN_OUT` (R452). -/
  | brownOut
  /-- `AUTO_RESTART` (R53). -/
  | autoRestart
  /-- `FATAL_AUTO_RESTART` (R404). -/
  | fatalAutoRestart
  /-- `MGR_LOCKSTEP_MISMATCH` (R35). -/
  | mgrLockstepMismatch
  /-- `PACKET_ARRIVAL` (R495). -/
  | packetArrival (t : Transport) (dev : BitVec 12) (words : List Word)
  /-- `PACKET_TIMEOUT` (R40). -/
  | packetTimeout (t : Transport)
  /-- `MGRCMD_UPDATE_DR` (R39). -/
  | mgrcmdUpdateDr (dr : BitVec 34)
  /-- `MGRCMD_CAPTURE_DR` (R39). -/
  | mgrcmdCaptureDr
  /-- `SMBUS_BLOCK_WRITE` (R494). -/
  | smbusBlockWrite (count : Nat) (words : List Word) (pecOk : Bool)
  /-- `SMBUS_BLOCK_READ` (R39). -/
  | smbusBlockRead
  /-- `SMBUS_READ_BYTE` (R39). -/
  | smbusReadByte
  /-- `MBX_SUBMIT` (R43). -/
  | mbxSubmit (v : Word)
  /-- `MBX_FLUSH` (R43). -/
  | mbxFlush
  /-- `MBX_RSP_DONE` (R43). -/
  | mbxRspDone
  /-- `NOP` (R50). -/
  | nop (c : CmdId)
  /-- `GET_STATUS` (R50). -/
  | getStatus (c : CmdId)
  /-- `GET_ID` (R51). -/
  | getId (c : CmdId)
  /-- `ABORT` (R54). -/
  | abort (c : CmdId)
  /-- `RESET_DEVICE` (R53). -/
  | resetDevice (c : CmdId)
  /-- `SET_MODE` (R53). -/
  | setMode (c : CmdId)
  /-- `GET_NOTICES` (R52). -/
  | getNotices (c : CmdId)
  /-- `CFG_BEGIN` (R189). -/
  | cfgBegin (c : CmdId)
  /-- `CFG_FRAMES` (R191). -/
  | cfgFrames (c : CmdId)
  /-- `CFG_KEY_ROLL` (R198). -/
  | cfgKeyRoll (c : CmdId)
  /-- `CFG_END` (R203). -/
  | cfgEnd (c : CmdId)
  /-- `CFG_SIGNATURE` (R204). -/
  | cfgSignature (c : CmdId)
  /-- `CFG_MEMINIT` (R498). -/
  | cfgMeminit (c : CmdId)
  /-- `CFG_COMMIT` (R221). -/
  | cfgCommit (c : CmdId)
  /-- `CFG_REGION_OPEN` (R216). -/
  | cfgRegionOpen (c : CmdId)
  /-- `CFG_REGION_CLEAR` (R220). -/
  | cfgRegionClear (c : CmdId)
  /-- `REGION_DRAIN_COMPLETE` (R217). -/
  | regionDrainComplete (r : Fin 16)
  /-- `REGION_DRAIN_TIMEOUT` (R217). -/
  | regionDrainTimeout (r : Fin 16)
  /-- `REGION_BLANK_COMPLETE` (R217). -/
  | regionBlankComplete (r : Fin 16)
  /-- `COMMIT_DUE` (R221). -/
  | commitDue (r : Fin 16)
  /-- `REGION_RELEASE_COMPLETE` (R223). -/
  | regionReleaseComplete (r : Fin 16) (us : Nat)
  /-- `DONE_LINE_HIGH` (R213). -/
  | doneLineHigh
  /-- `DONE_WAIT_TIMEOUT` (R213). -/
  | doneWaitTimeout
  /-- `STARTUP_COMPLETE` (R213). -/
  | startupComplete
  /-- `STREAM_INACTIVITY_TIMEOUT` (R186). -/
  | streamInactivityTimeout
  /-- `LOAD_FALLBACK_DECISION` (R225). -/
  | loadFallbackDecision
  /-- `CFG_STREAM_DATA` (R184). -/
  | cfgStreamData (w : Word)
  /-- `CFG_STREAM_ABORT` (R54). -/
  | cfgStreamAbort
  /-- `CAPTURE` (R228). -/
  | capture (c : CmdId)
  /-- `CAPTURE_SNAPSHOT` (R229). -/
  | captureSnapshot
  /-- `READBACK` (R230). -/
  | readback (c : CmdId)
  /-- `READBACK_TIMEOUT` (R233). -/
  | readbackTimeout (c : LateReadback)
  /-- `READ_MEM` (R42). -/
  | readMem (c : CmdId)
  /-- `PWR_VOTE` (R458). -/
  | pwrVote (c : CmdId)
  /-- `PWR_STATUS` (R50). -/
  | pwrStatus (c : CmdId)
  /-- `WATCH_SET` (R466). -/
  | watchSet (c : CmdId)
  /-- `CLK_SWITCH` (R436). -/
  | clkSwitch (c : CmdId)
  /-- `CLK_RAMP_STEP` (R436). -/
  | clkRampStep (dom : Fin 64)
  /-- `TB_CONFIG` (R439). -/
  | tbConfig (c : CmdId)
  /-- `CAL_SET` (R442). -/
  | calSet (c : CmdId)
  /-- `CAL_CLEAR` (R442). -/
  | calClear (c : CmdId)
  /-- `CAL_STATUS` (R442). -/
  | calStatus (c : CmdId)
  /-- `SET_READ` (R74). -/
  | setRead (c : CmdId)
  /-- `SET_WRITE` (R75). -/
  | setWrite (c : CmdId) (flashOk : Bool)
  /-- `FLASH_READ` (R493). -/
  | flashRead (c : CmdId)
  /-- `FLASH_PROGRAM` (R493). -/
  | flashProgram (c : CmdId) (flashOk : Bool)
  /-- `LOG_READ` (R400). -/
  | logRead (c : CmdId)
  /-- `KEY_LOAD_BBRAM` (R201). -/
  | keyLoadBbram (c : CmdId)
  /-- `KEY_SLOT_RETIRE` (R370). -/
  | keySlotRetire (c : CmdId)
  /-- `AUTH_CHALLENGE` (R414). -/
  | authChallenge (c : CmdId)
  /-- `AUTH_RESPOND` (R414). -/
  | authRespond (c : CmdId) (late : Bool)
  /-- `FUSE_READ` (R208). -/
  | fuseRead (c : CmdId)
  /-- `FUSE_PROGRAM` (R209). -/
  | fuseProgram (c : CmdId) (stuck : Nat)
  /-- `TEL_READ` (R480). -/
  | telRead (c : CmdId)
  /-- `TEL_THRESH` (R481). -/
  | telThresh (c : CmdId)
  /-- `BIST_RUN` (R474). -/
  | bistRun (c : CmdId)
  /-- `BIST_COMPLETE` (R475). -/
  | bistComplete (die : Fin 4) (failed : BitVec 5) (failRow : List Nat) (duration : BitVec 16)
  /-- `BIST_RESULT` (R474). -/
  | bistResult (c : CmdId)
  /-- `REPAIR_MAP_READ` (R21). -/
  | repairMapRead (c : CmdId)
  /-- `LANE_TEST` (R477). -/
  | laneTest (c : CmdId) (errors : Word) (compared : Word)
  /-- `SCAN_ENTER` (R478). -/
  | scanEnter (c : CmdId)
  /-- `MEE_REGION` (R356). -/
  | meeRegion (c : CmdId)
  /-- `MEE_REKEY` (R370). -/
  | meeRekey (c : CmdId)
  /-- `MEE_FLUSH_COMPLETE` (R370). -/
  | meeFlushComplete
  /-- `MEE_REENC_COMPLETE` (R370). -/
  | meeReencComplete
  /-- `DDR_REMAP` (R348). -/
  | ddrRemap (c : CmdId) (m : DimmRead)
  /-- `WDS_QUEUE_CFG` (R380). -/
  | wdsQueueCfg (c : CmdId)
  /-- `WDS_STATUS` (R380). -/
  | wdsStatus (c : CmdId)
  /-- `REG_WRITE` (R11). -/
  | regWrite (die : Fin 7) (off : BitVec 28) (w : Word) (fwg : BitVec 5)
  /-- `BM_READ` (R108). -/
  | bmRead (b : BmId) (portB : Bool) (addr : BitVec 12) (edge : Fin 3)
  /-- `BM_WRITE` (R116). -/
  | bmWrite (b : BmId) (portB : Bool) (we : BitVec 8) (addr : BitVec 12) (di : BitVec 72) (edge : Fin 3)
  /-- `DM_READ` (R111). -/
  | dmRead (s : SecId) (addr : BitVec 15) (edge : Fin 3)
  /-- `DM_WRITE` (R111). -/
  | dmWrite (s : SecId) (be : BitVec 8) (addr : BitVec 15) (data : BitVec 64) (edge : Fin 3)
  /-- `MEM_INIT` (R120). -/
  | memInit (s : SecId) (m : MemSel)
  /-- `MEM_INIT_COMPLETE` (R120). -/
  | memInitComplete (s : SecId) (m : MemSel)
  /-- `MEM_SCRUB_STEP` (R124). -/
  | memScrubStep (s : SecId) (m : ScrubSel)
  /-- `DM_REMAP_REQ` (R126). -/
  | dmRemapReq (s : SecId) (row : BitVec 9)
  /-- `ROW_COPY_COMPLETE` (R127). -/
  | rowCopyComplete (s : SecId)
  /-- `BM_ERRLOG_READ` (R129). -/
  | bmErrlogRead (b : BmId) (insp : Bool)
  /-- `DM_ERRLOG_READ` (R129). -/
  | dmErrlogRead (s : SecId) (insp : Bool)
  /-- `BM_CE_COUNT` (R11). -/
  | bmCeCount (s : SecId) (m : MemSel) (insp : Bool)
  /-- `BM_UE_COUNT` (R11). -/
  | bmUeCount (s : SecId) (m : MemSel) (insp : Bool)
  /-- `BRIDGE_PARITY_MISMATCH` (R98). -/
  | bridgeParityMismatch (boundary : Fin 3) (westward : Bool) (group : Fin 288)
  /-- `SDU_RUN` (R161). -/
  | sduRun (u : SduId)
  /-- `SDU_STOP` (R161). -/
  | sduStop (u : SduId)
  /-- `SDU_HALT` (R161). -/
  | sduHalt (u : SduId)
  /-- `SDU_RESUME` (R161). -/
  | sduResume (u : SduId)
  /-- `SDU_STEP` (R163). -/
  | sduStep (u : SduId)
  /-- `SDU_SWREQ` (R158). -/
  | sduSwreq (u : SduId)
  /-- `SWREQ` (R158). -/
  | swreq (u : SduId)
  /-- `SWITCH_SLOT` (R159). -/
  | switchSlot (u : SduId)
  /-- `SDU_STREAM_READY` (R161). -/
  | sduStreamReady (u : SduId) (sin : Option Word) (soutR : Bool)
  /-- `SDU_REG_WRITE` (R137). -/
  | sduRegWrite (u : SduId) (set : Bool) (code : BitVec 5) (w : Word)
  /-- `SDU_ISTORE_WRITE` (R162). -/
  | sduIstoreWrite (u : SduId) (n : BitVec 9) (hi : Bool) (w : Word)
  /-- `SDU_XY_CSR_ACCESS` (R140). -/
  | sduXyCsrAccess (u : SduId) (y : Bool) (pair : BitVec 10) (write : Option Word) (be : BitVec 4) (free : Bool)
  /-- `SDU_ECC` (R11). -/
  | sduEcc (u : SduId) (insp : Bool)
  /-- `MPY` (R132). -/
  | mpy (u : SduId)
  /-- `MAC` (R132). -/
  | mac (u : SduId)
  /-- `MSU` (R132). -/
  | msu (u : SduId)
  /-- `MPYD` (R133). -/
  | mpyd (u : SduId)
  /-- `MACD` (R133). -/
  | macd (u : SduId)
  /-- `MSUD` (R133). -/
  | msud (u : SduId)
  /-- `LDX` (R141). -/
  | ldx (u : SduId)
  /-- `LDY` (R141). -/
  | ldy (u : SduId)
  /-- `STX` (R145). -/
  | stx (u : SduId)
  /-- `STY` (R145). -/
  | sty (u : SduId)
  /-- `IN` (R148). -/
  | inSlot (u : SduId)
  /-- `OUT` (R148). -/
  | outSlot (u : SduId)
  /-- `ALU_NOP` (R147). -/
  | aluNop (u : SduId)
  /-- `CLR` (R147). -/
  | clr (u : SduId)
  /-- `MOVA` (R147). -/
  | mova (u : SduId)
  /-- `ADDA` (R147). -/
  | adda (u : SduId)
  /-- `SUBA` (R147). -/
  | suba (u : SduId)
  /-- `NEGA` (R147). -/
  | nega (u : SduId)
  /-- `ASH` (R147). -/
  | ash (u : SduId)
  /-- `LDA` (R147). -/
  | lda (u : SduId)
  /-- `ADDX` (R147). -/
  | addx (u : SduId)
  /-- `EXT` (R135). -/
  | ext (u : SduId)
  /-- `LCOMB` (R147). -/
  | lcomb (u : SduId)
  /-- `LCOMBS` (R147). -/
  | lcombs (u : SduId)
  /-- `CASCI` (R156). -/
  | casci (u : SduId)
  /-- `CASCA` (R156). -/
  | casca (u : SduId)
  /-- `CASCO` (R156). -/
  | casco (u : SduId)
  /-- `MOVX` (R147). -/
  | movx (u : SduId)
  /-- `MOVR` (R147). -/
  | movr (u : SduId)
  /-- `LDI` (R147). -/
  | ldi (u : SduId)
  /-- `BR` (R152). -/
  | br (u : SduId)
  /-- `LOOP` (R150). -/
  | loopOp (u : SduId)
  /-- `SLEEP` (R153). -/
  | sleep (u : SduId)
  /-- `HALT` (R153). -/
  | halt (u : SduId)
  /-- `ILLEGAL_INSTRUCTION` (R149). -/
  | illegalInstruction (u : SduId)
  /-- `FD_HOLD` (R157). -/
  | fdHold (u : SduId) (fa : BitVec 16) (fb : BitVec 16) (acc : Bool) (sgn : BitVec 2)
  /-- `FD_MPY` (R157). -/
  | fdMpy (u : SduId) (fa : BitVec 16) (fb : BitVec 16) (acc : Bool) (sgn : BitVec 2)
  /-- `FD_MAC` (R157). -/
  | fdMac (u : SduId) (fa : BitVec 16) (fb : BitVec 16) (acc : Bool) (sgn : BitVec 2)
  /-- `FD_MSU` (R157). -/
  | fdMsu (u : SduId) (fa : BitVec 16) (fb : BitVec 16) (acc : Bool) (sgn : BitVec 2)
  /-- `FD_MPYD` (R157). -/
  | fdMpyd (u : SduId) (fa : BitVec 16) (fb : BitVec 16) (acc : Bool) (sgn : BitVec 2)
  /-- `FD_MACD` (R157). -/
  | fdMacd (u : SduId) (fa : BitVec 16) (fb : BitVec 16) (acc : Bool) (sgn : BitVec 2)
  /-- `FD_CASCADE_MAC` (R157). -/
  | fdCascadeMac (u : SduId) (fa : BitVec 16) (fb : BitVec 16) (acc : Bool) (sgn : BitVec 2)
  /-- `FD_CLEAR` (R157). -/
  | fdClear (u : SduId) (fa : BitVec 16) (fb : BitVec 16) (acc : Bool) (sgn : BitVec 2)
  /-- `VCCIO_LOST` (R182). -/
  | vccioLost (die : Fin 4) (bank : Fin 6)
  /-- `VCCIO_RESTORED` (R182). -/
  | vccioRestored (die : Fin 4) (bank : Fin 6) (meas : BitVec 3) (tapQ : BitVec 16)
  /-- `ISLIP` (R173). -/
  | islip (p : PinId)
  /-- `IO_TAP_MEASURE` (R175). -/
  | ioTapMeasure (die : Fin 4) (bank : Fin 6) (tapQ : BitVec 16)
  /-- `IO_TAP_MOVE` (R176). -/
  | ioTapMove (p : PinId)
  /-- `IO_PIN_DLY_WRITE` (R175). -/
  | ioPinDlyWrite (p : PinId) (w : Word)
  /-- `RD` (R243). -/
  | rd (p : BitVec 10)
  /-- `WR` (R244). -/
  | wr (p : BitVec 10)
  /-- `ATOM` (R243). -/
  | atom (p : BitVec 10)
  /-- `FENCE` (R245). -/
  | fence (p : BitVec 10)
  /-- `INITIATOR_REQUEST_ISSUE` (R246). -/
  | initiatorRequestIssue (p : BitVec 10) (r : NocReq)
  /-- `FLIT_ROUTE` (R257). -/
  | flitRoute (router : BitVec 8) (inport : Fin 6) (vc : Fin 5)
  /-- `NOC_RESPONSE_ARRIVAL` (R248). -/
  | nocResponseArrival (p : BitVec 10) (txid : BitVec 16)
  /-- `RSP_TIMEOUT` (R262). -/
  | rspTimeout (p : BitVec 10) (txid : BitVec 16)
  /-- `QOS_CHANGE_APPLY` (R251). -/
  | qosChangeApply (p : BitVec 10)
  /-- `FABRIC_TARGET_RESPONSE` (R249). -/
  | fabricTargetResponse (p : BitVec 10) (id : BitVec 6) (status : BitVec 4) (data : List (BitVec 256)) (poison : List Bool)
  /-- `NOC_COMMIT` (R259). -/
  | nocCommit
  /-- `NOC_COMMIT_APPLY` (R259). -/
  | nocCommitApply
  /-- `PATH_SWITCH_DRAIN_END` (R261). -/
  | pathSwitchDrainEnd (timedOut : Bool)
  /-- `NOC_ERRLOG_READ` (R241). -/
  | nocErrlogRead (die : Fin 5) (insp : Bool)
  /-- `NOC_FW_LOG_READ` (R256). -/
  | nocFwLogRead (p : BitVec 10) (insp : Bool)
  /-- `NOC_PERR_COUNT` (R11). -/
  | nocPerrCount (die : Fin 5) (insp : Bool)
  /-- `NOC_IPORT_HOLD_CLR` (R397). -/
  | nocIportHoldClr (p : BitVec 10)
  /-- `ADL_PAIR_RECEIVE` (R268). -/
  | adlPairReceive (b : Fin 76) (slot0 : BitVec 288) (slot1 : BitVec 288) (r : BitVec 16)
  /-- `ADL_LINK_FLIT` (R270). -/
  | adlLinkFlit (b : Fin 76) (f : BitVec 288)
  /-- `ADL_REPLAY_TIMER` (R271). -/
  | adlReplayTimer (b : Fin 76)
  /-- `ADL_RECOVERY` (R272). -/
  | adlRecovery (b : Fin 76)
  /-- `ADL_RECOVERY_COMPLETE` (R272). -/
  | adlRecoveryComplete (b : Fin 76) (bad : BitVec 78) (third : Bool)
  /-- `ADL_BND_DISABLE` (R275). -/
  | adlBndDisable (b : Fin 76)
  /-- `ADL_BND_RECOVER` (R272). -/
  | adlBndRecover (b : Fin 76)
  /-- `ADL_BND_ERR` (R11). -/
  | adlBndErr (b : Fin 76) (receiver : Bool) (insp : Bool)
  /-- `REQ_OUT` (R274). -/
  | reqOut (b : Fin 76) (lane : BitVec 7) (test : Bool)
  /-- `STEER_OUT` (R274). -/
  | steerOut (b : Fin 76) (lane : BitVec 7) (test : Bool) (stag : Byte)
  /-- `REQ_IN` (R274). -/
  | reqIn (b : Fin 76) (lane : BitVec 7)
  /-- `STEER_IN` (R274). -/
  | steerIn (b : Fin 76) (lane : BitVec 7) (stag : Byte)
  /-- `HALF` (R264). -/
  | half (b : Fin 76) (stag : Byte)
  /-- `RLT_DWELL_EXPIRY` (R274). -/
  | rltDwellExpiry (b : Fin 76) (err : Bool)
  /-- `KEEPALIVE` (R277). -/
  | keepalive (k : Fin 9) (toLeader : Bool) (f : BitVec 64)
  /-- `ACK` (R277). -/
  | ack (k : Fin 9) (toLeader : Bool) (f : BitVec 64)
  /-- `HELLO` (R278). -/
  | hello (k : Fin 9) (toLeader : Bool) (f : BitVec 64)
  /-- `BOOT_GO` (R278). -/
  | bootGo (k : Fin 9) (toLeader : Bool) (f : BitVec 64)
  /-- `TRAIN_SYNC` (R278). -/
  | trainSync (k : Fin 9) (toLeader : Bool) (f : BitVec 64)
  /-- `LANE_MAP` (R278). -/
  | laneMap (k : Fin 9) (toLeader : Bool) (f : BitVec 64)
  /-- `CAP` (R278). -/
  | cap (k : Fin 9) (toLeader : Bool) (f : BitVec 64)
  /-- `JOINED` (R278). -/
  | joined (k : Fin 9) (toLeader : Bool) (f : BitVec 64) (bridgeFails : List (Bool × Fin 288 × Fin 33))
  /-- `PWR_REQ` (R284). -/
  | pwrReq (k : Fin 9) (toLeader : Bool) (f : BitVec 64)
  /-- `PWR_ACK` (R284). -/
  | pwrAck (k : Fin 9) (toLeader : Bool) (f : BitVec 64)
  /-- `PWR_DENY` (R284). -/
  | pwrDeny (k : Fin 9) (toLeader : Bool) (f : BitVec 64)
  /-- `PWR_REQ_TIMEOUT` (R284). -/
  | pwrReqTimeout (k : Fin 9)
  /-- `SIDEBAND_FENCE` (R282). -/
  | sidebandFence (k : Fin 9) (toLeader : Bool) (f : BitVec 64)
  /-- `REJOIN` (R283). -/
  | rejoin (k : Fin 9) (toLeader : Bool) (f : BitVec 64)
  /-- `RECOVER` (R272). -/
  | recover (k : Fin 9) (toLeader : Bool) (f : BitVec 64)
  /-- `DISABLE` (R275). -/
  | disable (k : Fin 9) (toLeader : Bool) (f : BitVec 64)
  /-- `NOTICE` (R392). -/
  | notice (k : Fin 9) (toLeader : Bool) (f : BitVec 64)
  /-- `SB_RESEND_TIMER` (R277). -/
  | sbResendTimer (k : Fin 9) (fromLeader : Bool)
  /-- `SB_KEEPALIVE_TIMER` (R277). -/
  | sbKeepaliveTimer (k : Fin 9) (fromLeader : Bool)
  /-- `SB_FAIL` (R277). -/
  | sbFail (k : Fin 9)
  /-- `SB_BREAK` (R276). -/
  | sbBreak (k : Fin 9) (cycles : Nat)
  /-- `JOIN_STEP_TIMEOUT` (R278). -/
  | joinStepTimeout (k : Fin 9)
  /-- `DIE_FENCE` (R282). -/
  | dieFence (d : Fin 7) (cause : BitVec 4)
  /-- `DIE_REJOIN` (R283). -/
  | dieRejoin (d : Fin 7) (thrice : Bool)
  /-- `ADL_FENCE_DIE` (R282). -/
  | adlFenceDie (d : BitVec 3)
  /-- `ADL_FENCE_REJOIN` (R283). -/
  | adlFenceRejoin (d : BitVec 3)
  /-- `ADL_SB_STATUS` (R11). -/
  | adlSbStatus (die : Fin 5) (k : Fin 9) (insp : Bool)
  /-- `LANE_PORT_ENABLE` (R291). -/
  | lanePortEnable (l : LaneId)
  /-- `LANE_PORT_DISABLE` (R291). -/
  | lanePortDisable (l : LaneId)
  /-- `LANE_DETECT_TIMER` (R291). -/
  | laneDetectTimer (l : LaneId)
  /-- `LANE_FAR_END_DETECT` (R291). -/
  | laneFarEndDetect (l : LaneId)
  /-- `TS1` (R290). -/
  | ts1 (l : LaneId) (set : List Byte)
  /-- `TS2` (R290). -/
  | ts2 (l : LaneId) (set : List Byte)
  /-- `LANE_TRAIN_TIMEOUT` (R291). -/
  | laneTrainTimeout (l : LaneId)
  /-- `LANE_EXCHANGE_TIMEOUT` (R291). -/
  | laneExchangeTimeout (l : LaneId)
  /-- `LANE_SYNC_LOSS` (R294). -/
  | laneSyncLoss (l : LaneId) (errs : Nat)
  /-- `LANE_SYMBOL_LOCK` (R291). -/
  | laneSymbolLock (l : LaneId)
  /-- `LANE_REALIGN_TIMEOUT` (R291). -/
  | laneRealignTimeout (l : LaneId)
  /-- `ETH_FEC_CODEWORD` (R296). -/
  | ethFecCodeword (l : LaneId) (symbolErrors : Nat)
  /-- `LN_PRBS_CLR` (R303). -/
  | lnPrbsClr (l : LaneId)
  /-- `LN_PRBS_TX_EN` (R303). -/
  | lnPrbsTxEn (l : LaneId) (on : Bool)
  /-- `LN_PRBS_RX_EN` (R303). -/
  | lnPrbsRxEn (l : LaneId) (on : Bool)
  /-- `LN_LPBK` (R306). -/
  | lnLpbk (l : LaneId) (v : BitVec 2)
  /-- `LN_ADAPT_HOLD` (R298). -/
  | lnAdaptHold (l : LaneId) (on : Bool)
  /-- `LN_PRBS_ERR_LO` (R304). -/
  | lnPrbsErrLo (l : LaneId) (insp : Bool)
  /-- `LN_CODE_ERR` (R11). -/
  | lnCodeErr (l : LaneId) (insp : Bool)
  /-- `LN_FEC` (R11). -/
  | lnFec (l : LaneId) (insp : Bool)
  /-- `LN_HELD` (R11). -/
  | lnHeld (l : LaneId) (insp : Bool)
  /-- `EYE_SCAN_GO` (R305). -/
  | eyeScanGo (l : LaneId) (w : Word)
  /-- `EYE_SCAN_DONE` (R305). -/
  | eyeScanDone (l : LaneId) (count : BitVec 31)
  /-- `PCIE_LINK_UP` (R299). -/
  | pcieLinkUp (c : Fin 2) (width : BitVec 5) (gen : BitVec 3)
  /-- `PCIE_LINK_DOWN` (R496). -/
  | pcieLinkDown (c : Fin 2)
  /-- `PCIE_INBOUND_REQUEST` (R301). -/
  | pcieInboundRequest (c : Fin 2) (bar : BitVec 3) (off : BitVec 40) (len : Byte) (write : Bool) (data : List (BitVec 256)) (ep : Bool)
  /-- `PCIE_L1_EXIT` (R496). -/
  | pcieL1Exit (c : Fin 2)
  /-- `PCIE_CFGDATA` (R302). -/
  | pcieCfgdata (c : Fin 2) (write : Option Word) (completion : Option Word) (insp : Bool)
  /-- `PCIE_OUTBOUND_ACCESS` (R302). -/
  | pcieOutboundAccess (c : Fin 2) (off : BitVec 18) (write : Option Word) (completion : Option Word)
  /-- `SPAN_PORT_UP` (R308). -/
  | spanPortUp (k : Fin 12)
  /-- `SPAN_PROGRESS_TIMEOUT` (R321). -/
  | spanProgressTimeout (k : Fin 12)
  /-- `AOS` (R310). -/
  | aos (k : Fin 12) (aligned : Bool)
  /-- `REQ` (R315). -/
  | req (k : Fin 12) (f : List Word)
  /-- `RSP` (R315). -/
  | rsp (k : Fin 12) (f : List Word)
  /-- `DATA` (R311). -/
  | data (k : Fin 12) (f : List Word)
  /-- `CMD` (R319). -/
  | cmd (k : Fin 12) (f : List Word)
  /-- `TRIG` (R320). -/
  | trig (k : Fin 12) (f : List Word)
  /-- `ALIGN` (R324). -/
  | align (k : Fin 12) (f : List Word)
  /-- `PROBE` (R323). -/
  | probe (k : Fin 12) (f : List Word) (turnaround : BitVec 48)
  /-- `ECHO` (R323). -/
  | echo (k : Fin 12) (f : List Word) (t4 : BitVec 48)
  /-- `TAG` (R326). -/
  | tag (k : Fin 12) (f : List Word)
  /-- `LINK` (R312). -/
  | link (k : Fin 12) (f : List Word)
  /-- `DELIVER` (R388). -/
  | deliver (k : Fin 12) (f : List Word)
  /-- `RELEASE` (R388). -/
  | release (k : Fin 12) (f : List Word)
  /-- `SPAN_RETRY_TIMER` (R312). -/
  | spanRetryTimer (k : Fin 12)
  /-- `SPAN_ACK_TIMER` (R312). -/
  | spanAckTimer (k : Fin 12)
  /-- `SPAN_TXN_TIMEOUT` (R316). -/
  | spanTxnTimeout (stid : BitVec 10)
  /-- `SPN_RT_WRITE` (R318). -/
  | spnRtWrite (w : BitVec 9) (v : Word)
  /-- `SPAN_ROUTE_DRAIN_END` (R318). -/
  | spanRouteDrainEnd (d : BitVec 12)
  /-- `SPN_CFG_WRITE` (R309). -/
  | spnCfgWrite (v : Word)
  /-- `SPAN_PROBE_TIMER` (R323). -/
  | spanProbeTimer (k : Fin 12) (t1 : BitVec 48)
  /-- `SPAN_GROUP_TIMER` (R326). -/
  | spanGroupTimer (k : Fin 12)
  /-- `TB_MARK_LOSS` (R324). -/
  | tbMarkLoss
  /-- `SPN_PERR` (R11). -/
  | spnPerr (k : Fin 12) (insp : Bool)
  /-- `DDR_TRAIN_COMPLETE` (R335). -/
  | ddrTrainComplete (c : Fin 12) (r : TrainResult)
  /-- `DDR_TRAIN_TIMEOUT` (R335). -/
  | ddrTrainTimeout (c : Fin 12)
  /-- `DDR_RANGE_OPEN` (R334). -/
  | ddrRangeOpen (bySoftware : Bool)
  /-- `DDR_MAP_WRITE` (R334). -/
  | ddrMapWrite (c : Fin 12) (m : Fin 6) (v : Word)
  /-- `DRAM_READ` (R342). -/
  | dramRead (c : Fin 12) (m : DimmRead)
  /-- `DRAM_WRITE` (R338). -/
  | dramWrite (c : Fin 12) (m : DimmRead)
  /-- `DRAM_ATOMIC` (R346). -/
  | dramAtomic (c : Fin 12) (m : DimmRead)
  /-- `DDR_ALERT` (R337). -/
  | ddrAlert (c : Fin 12) (progress : Bool)
  /-- `DDR_UPKEEP_TIMER` (R336). -/
  | ddrUpkeepTimer (c : Fin 12)
  /-- `DDR_REFRESH` (R336). -/
  | ddrRefresh (c : Fin 12) (bank : Fin 4)
  /-- `DDR_WB_DRAIN` (R338). -/
  | ddrWbDrain (c : Fin 12) (m : DimmRead)
  /-- `DDR_IDLE_CLOSE` (R339). -/
  | ddrIdleClose (c : Fin 12) (bank : Fin 128)
  /-- `DDR_PATROL_STEP` (R350). -/
  | ddrPatrolStep (c : Fin 12) (m : DimmRead)
  /-- `DDR_RETRAIN` (R11). -/
  | ddrRetrain (c : Fin 12) (insp : Bool)
  /-- `DDR_ECC` (R11). -/
  | ddrEcc (c : Fin 12) (insp : Bool)
  /-- `DDR_ERRLOG_READ` (R129). -/
  | ddrErrlogRead (c : Fin 12) (insp : Bool)
  /-- `MEE_SLOT_LOAD_GO` (R354). -/
  | meeSlotLoadGo (slot : BitVec 6)
  /-- `MEE_COUNT` (R11). -/
  | meeCount (insp : Bool)
  /-- `WDS_ENQUEUE` (R379). -/
  | wdsEnqueue (item : BitVec 256) (len : Byte) (poison : Bool)
  /-- `WDS_TAKE` (R384). -/
  | wdsTake (ctx : Fin 256) (len : Byte) (insp : Bool) (badPayload : Bool)
  /-- `WDS_TAKE_TIMEOUT` (R384). -/
  | wdsTakeTimeout (ctx : Fin 256)
  /-- `WDS_CTX_RELEASE` (R385). -/
  | wdsCtxRelease (ctx : Fin 256) (ticket : BitVec 16)
  /-- `WDS_SERVICE_TIMEOUT` (R386). -/
  | wdsServiceTimeout (ctx : Fin 256) (ticket : BitVec 16)
  /-- `WDS_CTX_REVIVE` (R386). -/
  | wdsCtxRevive (ctx : Fin 256)
  /-- `WDS_SPILL_TIMER` (R381). -/
  | wdsSpillTimer (q : BitVec 10)
  /-- `WDS_SPILL_RETRY` (R382). -/
  | wdsSpillRetry (q : BitVec 10)
  /-- `WDS_REFILL` (R382). -/
  | wdsRefill (q : BitVec 10)
  /-- `WDS_COUNT` (R11). -/
  | wdsCount (insp : Bool)
  /-- `KILN_WRITEBACK` (R399). -/
  | kilnWriteback (flashOk : Bool)
  /-- `MGR_ALERT_LATCH_CLEAR` (R401). -/
  | mgrAlertLatchClear
  /-- `MGR_FATAL_CLR` (R404). -/
  | mgrFatalClr
  /-- `CORE_FENCE` (R406). -/
  | coreFence (hart : Fin 8) (deviceIo : Bool)
  /-- `DBG_WDT_KICK` (R410). -/
  | dbgWdtKick (w : Fin 9)
  /-- `DBG_WDT_ENABLE` (R410). -/
  | dbgWdtEnable (w : Fin 9)
  /-- `WDT_EXPIRY` (R410). -/
  | wdtExpiry (w : Fin 9)
  /-- `HALTREQ` (R416). -/
  | haltreq (h : Fin 9)
  /-- `HART_HALTED` (R417). -/
  | hartHalted (h : Fin 9) (pc : BitVec 64)
  /-- `RESUMEREQ` (R416). -/
  | resumereq (h : Fin 9)
  /-- `ACCESS_REGISTER` (R416). -/
  | accessRegister (h : Fin 9) (reg : BitVec 16) (write : Option (BitVec 64))
  /-- `HART_TRIGGER` (R416). -/
  | hartTrigger (h : Fin 9) (t : Fin 4) (action : Bool) (timing : Bool)
  /-- `DBG_ACC_GO` (R418). -/
  | dbgAccGo (w : Word)
  /-- `JTAG_DBGACC_UPDATE` (R412). -/
  | jtagDbgaccUpdate (dr : BitVec 36)
  /-- `JTAG_TEST_LOGIC_RESET` (R412). -/
  | jtagTestLogicReset
  /-- `EXTEST` (R412). -/
  | extest
  /-- `XTI_EVENT` (R419). -/
  | xtiEvent (die : Fin 4) (line : Fin 16)
  /-- `DBG_XT_PULSE` (R419). -/
  | dbgXtPulse (w : Word)
  /-- `SFRZ_FREEZE` (R421). -/
  | sfrzFreeze (die : Fin 4)
  /-- `SFRZ_RELEASE` (R421). -/
  | sfrzRelease (die : Fin 4)
  /-- `DBG_HELD_ENTER` (R422). -/
  | dbgHeldEnter
  /-- `HELD_ENTRY_COMPLETE` (R422). -/
  | heldEntryComplete
  /-- `DBG_HELD_RELEASE` (R422). -/
  | dbgHeldRelease
  /-- `DBG_STIM` (R426). -/
  | dbgStim (n : Fin 32) (v : Word) (bytes : Fin 5)
  /-- `TRACE_FLUSH_TIMER` (R425). -/
  | traceFlushTimer
  /-- `CLOCK_FAIL` (R432). -/
  | clockFail (dom : Fin 64) (bundle : Fin 76)
  /-- `IOSC_FAIL` (R434). -/
  | ioscFail
  /-- `REFCLK_REQUAL_TIMER` (R435). -/
  | refclkRequalTimer (dom : Fin 64) (counts : List Nat)
  /-- `TB_TICK` (R439). -/
  | tbTick (a : Bool) (b : Bool) (interval : Word)
  /-- `TB_INDEX` (R439). -/
  | tbIndex
  /-- `TB_FRAME_PULSE` (R439). -/
  | tbFramePulse
  /-- `TB_PPS_EDGE` (R439). -/
  | tbPpsEdge
  /-- `TBC_POS_LO` (R14). -/
  | tbcPosLo (insp : Bool)
  /-- `TBC_STATUS` (R11). -/
  | tbcStatus (insp : Bool)
  /-- `TBC_CAL_ENT` (R11). -/
  | tbcCalEnt (e : Fin 256) (insp : Bool)
  /-- `CAL_ENTRY_DUE` (R443). -/
  | calEntryDue (e : Fin 256)
  /-- `TEL_SAMPLE` (R480). -/
  | telSample (group : Byte) (values : List (Byte × Word))
  /-- `CAL_PWR_VOTE` (R458). -/
  | calPwrVote (dom : Byte) (rung : BitVec 4)
  /-- `FAB_POWER_BEAT` (R459). -/
  | fabPowerBeat (die : Fin 4) (dom : BitVec 4) (rung : BitVec 4)
  /-- `PWR_DOMAIN_MOVE` (R460). -/
  | pwrDomainMove (dom : Fin 10)
  /-- `PWR_DRAIN_TIMEOUT` (R460). -/
  | pwrDrainTimeout (dom : Fin 10)
  /-- `PWR_MGR_CLR` (R458). -/
  | pwrMgrClr (w : Word)
  /-- `PWR_WARM_WRITE` (R464). -/
  | pwrWarmWrite (word : Fin 3) (v : Word)
  /-- `WAKE_N_LOW` (R467). -/
  | wakeNLow (ns : Nat)
  /-- `WAKE_TIMER` (R467). -/
  | wakeTimer
  /-- `WATCH_SAMPLE` (R465). -/
  | watchSample (temp : Byte) (edges : BitVec 16) (wakeN : Bool)
  /-- `WAKE_VOTE_WITHDRAW` (R467). -/
  | wakeVoteWithdraw
  /-- `COOLING_COMPLETE` (R468). -/
  | coolingComplete (bridgeFails : Nat) (lanePass : List (BitVec 7 × BitVec 7)) (flashOk : Bool)
  /-- `SECTOR_TEST_ROW` (R469). -/
  | sectorTestRow (die : Fin 4) (col : Fin 16) (row : Fin 13) (pass : Bool) (deepRows : List (BitVec 9))
  /-- `REPAIR_RECORD_WRITE` (R473). -/
  | repairRecordWrite (failSlots : List Nat)
  /-- `BG_BIST_TIMER` (R479). -/
  | bgBistTimer
  /-- `TEL_SAMPLE_TIMER` (R480). -/
  | telSampleTimer (values : List (Byte × Word))
  /-- `RAIL_GOOD` (R450). -/
  | railGood (r : Rail)
  /-- `ADL_ACK_TIMER` (R270). -/
  | adlAckTimer (b : Fin 76)
  /-- `MEE_REENC_GROUP` (R371). -/
  | meeReencGroup (c : Fin 12) (m : DimmRead)
  /-- `PWR_MOVE_COMPLETE` (R461). -/
  | pwrMoveComplete (dom : Fin 10)
  /-- `PLL_LOCK` (R429). -/
  | pllLock (dom : Fin 64)
  /-- `AOSC_QUALIFIED` (R430). -/
  | aoscQualified
  /-- `TILE_CLOCK_EDGE` (R82). -/
  | tileClockEdge (t : TileId) (ck1 : Bool) (pad : List Bool)
  deriving DecidableEq, Repr

end Sys2Proof
end

