-- ==== Sys2Proof/Decode.lean ====
section
/-! DEFINITION. The command a word spells by the bits of spec/opcode_table.json. -/

namespace Sys2Proof

/-- The command that the `nbits` bits `w` spell by the table's bits. No row of the table gives bits (every row's field list is empty), so
no word spells a command. -/
def decodeTableWord (_nbits _w : Nat) : Option Instr := none

end Sys2Proof
end

