-- ==== Sys2Proof/Config.lean ====
section
/-! DEFINITION. What the spec leaves open: the free values, the algorithms of external standards, and the layouts that only the device
database holds. Every constant here is opaque, so no proof can see its value. -/

namespace Sys2Proof

/-- A value the spec leaves open, at a point of the run (log 1). -/
opaque Config.free (w : Nat) : Nat → BitVec w

/-- The AES-256-GCM plaintext under key, IV, AAD and ciphertext (R196, 08); external standard (log 21). -/
opaque Config.gcmOpen : BitVec 256 → BitVec 96 → List Byte → List Byte → List Byte
/-- The AES-256-GCM ciphertext (R326, 13); external standard (log 21). -/
opaque Config.gcmSeal : BitVec 256 → BitVec 96 → List Byte → List Byte → List Byte
/-- The AES-256-GCM tag of key, IV, AAD and ciphertext (R196, 08); external standard (log 21). -/
opaque Config.gcmTag : BitVec 256 → BitVec 96 → List Byte → List Byte → BitVec 128
/-- AES-256 of one block under a key, first byte most significant (R358, 15); external standard (log 21). -/
opaque Config.aes256 : BitVec 256 → BitVec 128 → BitVec 128
/-- SHA-384 (R202, 08); external standard (log 21). -/
opaque Config.sha384 : List Byte → BitVec 384
/-- HMAC-SHA-384 of key and message (R414, 18); external standard (log 21). -/
opaque Config.hmac384 : BitVec 384 → List Byte → BitVec 384
/-- ECDSA P-384 verification of a digest against a public key and a signature (R204, 08); external standard (log 21). -/
opaque Config.ecdsa : List Word → BitVec 384 → List Word → Bool

/-- The Skovpetan firmware public key in the boot ROM, Qx then Qy (R67, 03); not printed in the spec (log 21). -/
opaque Config.fwKey : List Word

/-- Entry of a router for a destination router in the alternate set that MGR holds for a bundle (R261, 10): its contents are not stated
(log 22). -/
opaque Config.altEntry : Nat → Nat → Nat → BitVec 4

/-- Where the device database puts bit `b` of entry `i` of configuration field `f` in frames 0 to 439 of a sector (R190, 08): a bit number
below 440 × 8,192 after reduction (log 26). -/
opaque Config.place : Nat → Nat → Nat → Nat
/-- Rank by which the device database numbers the local block inputs of a tile (R84, 04): arguments x, y and the input (log 26). -/
opaque Config.localRank : Nat → Nat → Nat → Nat
/-- Tile, among those the spec allows, at whose crossbar the device database puts pin `p` of hard block `u` of a kind (R84, 04): 0 block memories, 1
deep memories, 2 SDUs, 3 fabric ports, 4 lanes (log 26). -/
opaque Config.pinTile : Nat → Nat → Nat → Nat
/-- Tile column of a sector in which its block memories stand (R107, 05; log 26). -/
opaque Config.bmColumn : Nat
/-- Sector of a die whose frames hold the configuration of a fabric PLL and of its globals (R428, 19; log 135). -/
opaque Config.pllSector : Nat → Nat
/-- Tile clock of a sector that FCLK of unit u is (R154, R157, 06): tile index × 2 + 1 for CK1 (log 128). -/
opaque Config.fclk : Nat → Nat
/-- Crossbar output that feeds LCK j at the tile of a sector's row 0 that R102 gives it (log 135). -/
opaque Config.lckOutput : Nat → Nat
/-- Which of the wires that end at the last tile before a die edge an end input of that tile names (R95, 04): arguments x, y, direction, input
(log 136). -/
opaque Config.cutWire : Nat → Nat → Nat → Nat → Nat
/-- Pin `p` of the fabric side of lane `n` of a compute die at a point of the run: the line's data and its timing are not in the commands
(R296, R297, 12; log 137). -/
opaque Config.laneOut : Nat → Nat → Nat → Bool
/-- Crossbar output that the device database gives to input n of the I/O cell at a tile of row 767 (R84): n = 0 to 7 OD, 8 OE, 9 ISLIP; arguments
x and n (log 26). -/
opaque Config.cellOutput : Nat → Nat → Nat
/-- Which tap a switch-box input reads that names a tapping L12 or L64 wire without its tap (R93, codes 23 to 26, 04): class and index
(log 27). -/
opaque Config.tap : Nat → Nat → Nat
/-- What the check code of a fabric memory reports when three or more stored check bits are inverted (R113, `BM_INJECT`, 05), by the
inverted bits: 0 good, 1 corrected, 2 uncorrectable; the code matrix is not part of the interface (log 29). -/
opaque Config.eccOutcome : BitVec 8 → Nat
/-- What it reports of a word whose address differs from the requested one in an even number of bits, four or more (R114, 05), by the difference and
the inverted check bits (log 29). -/
opaque Config.eccAddr : BitVec 15 → BitVec 8 → Nat
/-- The data such a word is returned with when it is reported corrected (log 29). -/
opaque Config.eccData : BitVec 8 → BitVec 72 → BitVec 72
/-- Data of a beat that a fabric target port was not given, or that an error response must carry and no rule states (R243, R252; log 146). -/
opaque Config.noBeat : Nat → BitVec 256
/-- Weight at which class 3 takes part beyond its share (R251): `NOC_QOS` names none (log 83). -/
opaque Config.weight3 : BitVec 8
/-- Data of a CAP page of die d of the part (R277, R278): the pages name what they carry, and no rule places it (log 148). -/
opaque Config.capPage : Nat → Nat → BitVec 32
/-- LTSSM codes of `PCIE_STATUS.ltssm`, in the order of the PCI Express Base Specification (12): 0 Detect, 1 L0, 2 L1; external standard (log
39). -/
opaque Config.ltssm : Nat → BitVec 6
/-- Lanes of the port an XL lane belongs to, minus 1, as a training set names them (R290, 12): the grouping is the user's (log 38). -/
opaque Config.xlPortLanes : Nat → Nat → BitVec 8
/-- Number of the span port at the far end of port k, which the sender puts into its initialisation vectors (R326, 13): the board's wiring (log
42). -/
opaque Config.peerPort : Nat → Nat
/-- Speed grade of the part, less 1 (R1, R51; log 30). -/
opaque Config.speedGrade : Fin 3
/-- The part's temperature range is I, not E (R1, R51; log 30). -/
opaque Config.tempRange : Bool

/-- What a register holds when both parts of one DSP instruction, its class field and a slot, write it in the same slot (R142, R144): the
rule orders the writes of different instructions only (log 116). Arguments: the instruction and the two values. -/
opaque Config.sameLanding : BitVec 48 → BitVec 16 → BitVec 16 → BitVec 16
/-- What register n of a hart holds that halted at point e of the run (R416): the harts' programs are outside the commands (log 18). -/
opaque Config.hartReg : Nat → Nat → BitVec 64
/-- Count of a domain's reference in one qualification window that its nominal frequency gives (R429), for a reference whose nominal
frequency the spec leaves to configuration or the strap of a pin (log 46). -/
opaque Config.refCount : Nat → Nat
/-- What the boundary register drives on pin p of bank b of compute die d under EXTEST (R412), none where it leaves the pin high-impedance: no
command loads the register, and its layout is in the BSDL file (log 45). -/
opaque Config.boundary : Nat → Nat → Nat → Option Bool

end Sys2Proof
end

