-- ==== Sys2Proof/Machine/Bits.lean ====
section
/-! DEFINITION. Bit fields, bytes and words, saturating counters, and the cyclic redundancy codes the spec computes. -/

namespace Sys2Proof

/-- Bits [hi:lo] of a bit vector, as a number. -/
def fld {w : Nat} (v : BitVec w) (hi lo : Nat) : Nat := (v.toNat >>> lo) % 2 ^ (hi + 1 - lo)

/-- Bit n. -/
def bit {w : Nat} (v : BitVec w) (n : Nat) : Bool := v.getLsbD n

/-- A number as a word, modulo 2^32. -/
def wd (n : Nat) : Word := BitVec.ofNat 32 n

/-- 0 or 1. -/
def b2n (b : Bool) : Nat := if b then 1 else 0

/-- `v` with bits [hi:lo] replaced by the low bits of `n`. -/
def setFld {w : Nat} (v : BitVec w) (hi lo n : Nat) : BitVec w :=
  BitVec.ofNat w (v.toNat - (fld v hi lo) * 2 ^ lo + (n % 2 ^ (hi + 1 - lo)) * 2 ^ lo)

/-- `v` with bit n set or cleared. -/
def setBit {w : Nat} (v : BitVec w) (n : Nat) (b : Bool) : BitVec w := setFld v n n (b2n b)

/-- A counter that counts up and saturates at all ones. -/
def satInc {w : Nat} (v : BitVec w) : BitVec w := if v = BitVec.allOnes w then v else v + 1

/-- A counter that counts up by n and saturates at all ones. -/
def satAdd {w : Nat} (v : BitVec w) (n : Nat) : BitVec w :=
  if v.toNat + n < 2 ^ w then BitVec.ofNat w (v.toNat + n) else BitVec.allOnes w

/-- The number of ones of a bit vector. -/
def ones {w : Nat} (v : BitVec w) : Nat := (List.range w).foldl (fun n i => n + b2n (v.getLsbD i)) 0

/-- The bytes of a number, least significant first. -/
def natBytes (n k : Nat) : List Byte := (List.range k).map (fun i => BitVec.ofNat 8 (n >>> (8 * i)))

/-- The bytes of words, each word least significant byte first (R36, 02). -/
def wordBytes (ws : List Word) : List Byte := ws.flatMap (fun w => natBytes w.toNat 4)

/-- The number whose bytes are `bs`, least significant first. -/
def bytesNat : List Byte → Nat
  | [] => 0
  | b :: bs => b.toNat + 256 * bytesNat bs

/-- The number whose words are `ws`, least significant first. -/
def wordsNat : List Word → Nat
  | [] => 0
  | w :: ws => w.toNat + 4294967296 * wordsNat ws

/-- Words of a number, least significant first. -/
def natWords (n k : Nat) : List Word := (List.range k).map (fun i => wd (n >>> (32 * i)))

/-- Word i of a list; zero beyond its end. -/
def wordAt (ws : List Word) (i : Nat) : Word := ws.getD i 0

/-- One bit of a reflected CRC. -/
def crc32Bit (c : Nat) : Nat := if c % 2 = 1 then (c / 2) ^^^ 0xEDB88320 else c / 2

/-- The CRC-32 of IEEE 802.3 of a byte string (R37, 02). -/
def crc32 (bs : List Byte) : Word :=
  wd ((bs.foldl (fun c b => crc32Bit (crc32Bit (crc32Bit (crc32Bit (crc32Bit (crc32Bit (crc32Bit (crc32Bit (c ^^^ b.toNat)))))))))
    0xFFFFFFFF) ^^^ 0xFFFFFFFF)

/-- One bit of a CRC that takes the most significant bit first: width w, generator g. -/
def crcStep (w g c : Nat) (b : Bool) : Nat :=
  let top := (c >>> (w - 1)) % 2 = 1
  let c := (2 * c) % 2 ^ w
  if (top != b) then c ^^^ g else c

/-- A CRC of width w with generator g and start value c, over bits in order. -/
def crcBits (w g c : Nat) (bs : List Bool) : Nat := bs.foldl (crcStep w g) c

/-- The bits of a bit vector, most significant first. -/
def msbBits {w : Nat} (v : BitVec w) : List Bool := (List.range w).map (fun i => v.getLsbD (w - 1 - i))

/-- A bit vector with the bits that `f` names. -/
def bvOf (w : Nat) (f : Nat → Bool) : BitVec w :=
  BitVec.ofNat w ((List.range w).foldl (fun n i => n + (if f i then 2 ^ i else 0)) 0)

/-- Replace element i of a list. -/
def setNth {α : Type} : List α → Nat → α → List α
  | [], _, _ => []
  | _ :: t, 0, v => v :: t
  | a :: t, n + 1, v => a :: setNth t n v

/-- `n` rounded up, divided by `d`. -/
def ceilDiv (n d : Nat) : Nat := (n + d - 1) / d

end Sys2Proof
end

