-- ==== Sys2Proof/Machine/StAdl.lean ====
section
/-! DEFINITION. The state of the Asueser die link: bundles, sidebands, dies. File 11. -/

namespace Sys2Proof.Machine

/-- State of a bundle (`ADL_BND_STATUS.state`, 11), in the order of its codes. -/
inductive BndState where
  | down | training | full | half | recovery | disabled | asleep
  deriving DecidableEq, Repr, Inhabited

/-- Stage of the rolling lane test at the receiver (R274, 11): a dwell over while lane changes must wait is `due`. -/
inductive RltStage where
  | idle | asked | testing | due | returning
  deriving DecidableEq, Repr, Inhabited

/-- A change of the lane map that applies from a tag (R269, R274; 11): a lane out, for the rolling test or as failed, a lane back, half width. -/
inductive LaneChange where
  | out (lane : BitVec 7) (test : Bool)
  | back (lane : BitVec 7)
  | half
  deriving DecidableEq, Repr, Inhabited

/-- A bundle (R264 to R275, 11). -/
structure Bundle where
  /-- state; reset down -/
  state : BndState := .down
  /-- the width it had before recovery or sleep; reset full DESIGN CHOICE (log 13) -/
  wasHalf : Bool := false
  /-- deepest rung it has slept at since it was last active, 0 when no rung stops it (R284); reset 0 -/
  slept : Nat := 0
  /-- it is drained for a switch of a network clock (R437); reset 0 -/
  clkStop : Bool := false
  /-- 78 bits: lanes marked failed when its recovery began (R272, R273); reset 0 -/
  was : BitVec 78 := 0
  /-- 2 bits: `rate`; reset 0 -/
  rate : BitVec 2 := 0
  /-- 78 bits: physical lanes marked failed (R264); reset 0 -/
  failed : BitVec 78 := 0
  /-- 7 bits: `test_lane`; reset 0 -/
  testLane : BitVec 7 := 0
  /-- stage of the rolling test (R274); reset idle -/
  rlt : RltStage := .idle
  /-- lane at which the receiver looks first for the next one to test (R274); reset 0 DESIGN CHOICE (log 13) -/
  rltNext : Nat := 0
  /-- lane out of service for the test at the transmitter and at the receiver (R274); reset none -/
  txOut : Option (BitVec 7) := none
  rxOut : Option (BitVec 7) := none
  /-- what the transmitter was asked and has not answered yet: out or back, `test`, lane (R274); reset none -/
  ask : Option (Bool × Bool × BitVec 7) := none
  /-- a lane change that waits for its tag at the transmitter and at the receiver (R274); reset none -/
  txNext : Option (Byte × LaneChange) := none
  rxNext : Option (Byte × LaneChange) := none
  /-- a STEER or HALF whose tag is not acknowledged yet: `stag` (R274); reset none -/
  stag : Option Byte := none
  /-- 8 bits: tag of the next new pair (R268); reset 0 -/
  txTag : Byte := 0
  /-- unacknowledged pairs, oldest first, at most 128: tag, slot 0, slot 1 (R271); reset empty -/
  unacked : List (Byte × BitVec 288 × BitVec 288) := []
  /-- slot 1 of the newest pair holds no flit yet and may take the next NoC flit (R267); reset 0 -/
  open1 : Bool := false
  /-- consecutive expiries of the replay timer without progress (R272); reset 0 -/
  expiries : Nat := 0
  /-- credits of the transmitter by virtual channel: flits in flight or unfreed (R250, R270); reset 0 -/
  used : Store Nat := []
  /-- link flits the transmitter has to send, oldest first (R269, R270); reset empty -/
  txLink : List (BitVec 288) := []
  /-- 8 bits: tag the receiver expects (R268); reset 0 -/
  rxTag : Byte := 0
  /-- a NAK was sent and pairs are discarded until the expected tag (R271); reset 0 -/
  nak : Bool := false
  /-- refusals in succession (R272); reset 0 -/
  refused : Nat := 0
  /-- pairs accepted since the last acknowledgement (R270); reset 0 -/
  accepted : Nat := 0
  /-- flit buffers freed and not yet returned as credits, by virtual channel (R270); reset 0 -/
  freed : Store Nat := []
  /-- the packet the receiver is forwarding: virtual channel and data flits left (R275); reset none -/
  rxPkt : Option (Fin 5 × Nat) := none
  /-- 16 bits each: `replays`, `crc_err`, `recoveries`; reset 0 -/
  replays : BitVec 16 := 0
  crcErr : BitVec 16 := 0
  recoveries : BitVec 16 := 0
  deriving DecidableEq, Repr, Inhabited

/-- One end of a boundary's sideband (R276, R277; 11). -/
structure SbEnd where
  /-- 1 bit: `up`; reset 0 -/
  up : Bool := false
  /-- 1 bit: `fail`; reset 0 -/
  fail : Bool := false
  /-- 16 bits: `resend`; reset 0 -/
  resend : BitVec 16 := 0
  /-- 4 bits: the sender's message counter; reset 0 DESIGN CHOICE (log 13) -/
  seq : BitVec 4 := 0
  /-- frames sent and not acknowledged, oldest first, each with its resends (R277); reset empty -/
  wait : List (BitVec 64 × Nat) := []
  /-- frames this end has to put on the wire, oldest first; reset empty -/
  tx : List (BitVec 64) := []
  deriving DecidableEq, Repr, Inhabited

/-- A boundary (R263, R278; 11). -/
structure Boundary where
  /-- the ends -/
  leader : SbEnd := {}
  follower : SbEnd := {}
  /-- join step reached, 0 before the break ends (R278); reset 0 -/
  step : Nat := 0
  /-- each end reported the step passed in TRAIN_SYNC (R278); reset 0 -/
  syncL : Bool := false
  syncF : Bool := false
  /-- 2 bits: rate code in training (R279); reset 0 -/
  rate : BitVec 2 := 0
  /-- the follower's HELLO: kind, version, highest rate code, features (R279); reset 0 -/
  kind : BitVec 16 := 0
  version : Byte := 0
  topRate : Byte := 0
  features : Byte := 0
  /-- CAP pages received from each end, as bits of the page number (R278 step 9); reset 0 -/
  capL : BitVec 4 := 0
  capF : BitVec 4 := 0
  /-- CAP data of the follower by page (R277); reset 0 -/
  caps : Store Word := []
  /-- the sequence is a rejoin (R283); reset 0 -/
  rejoin : Bool := false
  /-- the sequence is the wake of a boundary that kept its lanes: steps 4 to 6 and 8 alone (R284); reset 0 -/
  retrain : Bool := false
  /-- 0x2B05 was raised in this start (R279); reset 0 -/
  slowNoticed : Bool := false
  /-- a PWR_REQ waits for its answer: rung (R284); reset none -/
  pwrReq : Option Byte := none
  /-- the vote the MGR client holds for this boundary after a denial or no answer (R284); reset none -/
  pwrVote : Option (BitVec 4) := none
  deriving DecidableEq, Repr, Inhabited

/-- State of a die (`dstate`, `ADL_FENCE_STAT`; 11). -/
structure DieLink where
  /-- 2 bits: `dstate`: 0 offline, 1 joining, 2 joined, 3 fenced; reset 0 -/
  dstate : BitVec 2 := 0
  /-- 1 bit: `gave_up`; reset 0 -/
  gaveUp : Bool := false
  /-- 1 bit: `blank`; reset 0 -/
  blank : Bool := false
  /-- 8 bits: `count`; reset 0 -/
  count : Byte := 0
  /-- 4 bits: `cause`; reset 0 -/
  cause : BitVec 4 := 0
  /-- it joined or failed to join in this start: the boot order has passed it (R70); reset 0 -/
  settled : Bool := false
  /-- it named itself a terminator (R2, R278); reset 0 -/
  terminator : Bool := false
  /-- it joined at least once in this start (R28); reset 0 -/
  joinedOnce : Bool := false
  /-- the routing-table set that was active when its last fence began (R280): default base, tables, windows, alternates; reset none -/
  saved : Option (Bool × Store Word × Store Word × List (Fin 76)) := none
  deriving DecidableEq, Repr, Inhabited

/-- The die link (11). -/
structure Adl where
  /-- bundles 0 to 75 -/
  bundle : Store Bundle := []
  /-- boundaries 0 to 8 -/
  boundary : Store Boundary := []
  /-- dies 1 to 6 -/
  die : Store DieLink := []
  deriving DecidableEq, Repr, Inhabited

end Sys2Proof.Machine
end

