-- ==== Sys2Proof/Machine/StCfg.lean ====
section
/-! DEFINITION. The state of the configuration engine: session, regions, sectors, repair map, capture, stream port. Files 08, 09 and 01. -/

namespace Sys2Proof.Machine

/-- What `SC_STATUS.state` reports of a sector (09). -/
inductive SecState where
  | blank | loading | running | inRegion | held | unavailable
  deriving DecidableEq, Repr, Inhabited

/-- A logical sector as the loader sees it (09). -/
structure Sector where
  /-- 3 bits: `SC_STATUS.state` without the power-gated code, which the power state gives; reset 0x0 -/
  state : SecState := .blank
  /-- 4 bits: `region` (`SC_STATUS`); reset 0 -/
  region : BitVec 4 := 0
  /-- the regional clocks run (R103); reset 0 -/
  clkOn : Bool := false
  /-- GSR or the region reset is asserted (R104, R217); reset 1 -/
  inReset : Bool := true
  /-- the sector's fabric ports are open (R211, R213, R217); reset 0 -/
  portsOpen : Bool := false
  /-- a frame of the open or last session was written to it (R212); reset 0 -/
  written : Bool := false
  /-- boundary hold engaged (R218); reset 0 -/
  hold : Bool := false
  /-- 1 bit: `SC_CAPTURE.valid`; reset 0 -/
  capValid : Bool := false
  /-- 2 bits: `SC_CAPTURE.trig`; reset 0 -/
  capTrig : BitVec 2 := 0
  /-- 32 bits: `SC_CAPTURE_POS`; reset 0 -/
  capPos : Word := 0
  deriving DecidableEq, Repr, Inhabited

/-- Where a region stands (R217, R220, R223; 09). -/
inductive RegPhase where
  | closed | draining | blanking | opened | releasing
  deriving DecidableEq, Repr, Inhabited

/-- How a region's commit stands (`CFG_REGION_STATUS.commit`, R221, R222; 09). -/
inductive Commit where
  | none
  | armed (t : BitVec 48)
  | due (t : BitVec 48)
  deriving DecidableEq, Repr, Inhabited

/-- A region ID (R216 to R223, 09). -/
structure Region where
  /-- phase; reset closed -/
  phase : RegPhase := .closed
  /-- the blanking is that of CFG_REGION_CLEAR (R220); reset 0 -/
  clearing : Bool := false
  /-- 3 bits: `die`; reset 0 -/
  die : BitVec 3 := 0
  /-- 192 bits: the sectors; reset 0 -/
  mask : BitVec 192 := 0
  /-- 1 bit: `session`; reset 0 -/
  session : Bool := false
  /-- 2 bits: `commit`; reset none -/
  commit : Commit := .none
  /-- the commit fell due in Held or before CFG_END and is deferred (R222); reset 0 -/
  deferred : Bool := false
  /-- 16 bits: `late_us`; reset 0 -/
  late : BitVec 16 := 0
  /-- the command that waits for the phase to end; reset none -/
  cmd : Option CmdId := none
  deriving DecidableEq, Repr, Inhabited

/-- The image a flash load reads (R184, R206; 09: R226, 20: R464). -/
inductive Image where
  | primary | golden | warm
  deriving DecidableEq, Repr, Inhabited

/-- Phase of a session (`CFG_LOAD_STATUS.phase`, 09). -/
inductive SessPhase where
  | header | frames | awaiting | startup
  deriving DecidableEq, Repr, Inhabited

/-- The open configuration session (R48, 02; R186 to R206, 08). -/
structure Session where
  /-- owner: the outstanding CFG_BEGIN (R48) -/
  owner : CmdId
  /-- the stream header, 32 words (R188) -/
  hdr : List Word
  /-- region of a partial load (R188) -/
  region : Option (Fin 16) := none
  /-- the device of the flash image, none when a sender drives the session (R184) -/
  image : Option Image := none
  /-- phase -/
  phase : SessPhase := .header
  /-- words taken by the digest D so far, newest first (R202) -/
  dig : List Word := []
  /-- 256 bits: segment key (R196) -/
  key : BitVec 256 := 0
  /-- 32 bits: IV counter c of the next item (R197) -/
  ctr : Word := 1
  /-- ciphertext bytes under the segment key (R198) -/
  segBytes : Nat := 0
  /-- words of CFG_SIGNATURE (R204) -/
  sig : Option (List Word) := none
  /-- CFG_END is verified (R205) -/
  verified : Bool := false
  /-- frames written in this session, their words by frame key and their numbers (sector × 607 + frame): what MGR copies into the warm image (R464) -/
  wrote : Store Word := []
  frames : Store Bool := []
  /-- paused by a clock failure (R225) -/
  paused : Bool := false
  /-- runs on a fallback clock (R225) -/
  onFallback : Bool := false
  /-- the header checks have passed (R189, R206) -/
  passed : Bool := false
  /-- start-up waits for the DONE line (R213 step 2) -/
  doneWait : Bool := false
  /-- start-up step 3 is past (R213) -/
  started : Bool := false
  deriving DecidableEq, Repr, Inhabited

/-- A CAPTURE that waits for its trigger (R228, 09). -/
structure Capture where
  /-- the command -/
  cmd : CmdId
  /-- die 1 to 4 -/
  die : Fin 4
  /-- the sectors -/
  mask : BitVec 192
  /-- P7 -/
  p7 : Word
  deriving DecidableEq, Repr, Inhabited

/-- The stream port of H (08). -/
structure StreamPort where
  /-- 1 bit: `CFG_STREAM_CTRL.open`; reset 0 -/
  isOpen : Bool := false
  /-- words in the 1,024-word FIFO, oldest first; reset empty -/
  fifo : List Word := []
  /-- 1 bit: `overrun`; reset 0 -/
  overrun : Bool := false
  /-- 1 bit: `done`; reset 0 -/
  done : Bool := false
  /-- 8 bits: `result`; reset 0xFF -/
  result : Byte := 0xFF
  deriving DecidableEq, Repr, Inhabited

/-- The configuration engine (08, 09). -/
structure Cfg where
  /-- the open session (R48); reset none -/
  session : Option Session := none
  /-- regions 0 to 15 (R216); reset closed -/
  regions : Store Region := []
  /-- logical sectors, key die × 192 + sector (09) -/
  sectors : Store Sector := []
  /-- bytes of block memory words that loads have written since the last INIT of the memory, by word (R193, 08); reset none -/
  bytes : Store (BitVec 9) := []
  /-- per transport, the region opened by its last CFG_REGION_OPEN (R188); reset none -/
  lastOpen : Store (Option (Fin 16)) := []
  /-- the repair map in effect, 4 bits by die × 16 + column; none before the first full load of a start (R20, R21; 01); reset none -/
  repair : Option (Store (BitVec 4)) := none
  /-- first failed row f1 of the columns marked 0xE (R20, 01); reset empty -/
  firstFail : Store (BitVec 4) := []
  /-- capture cells that hold 1: key (die × 192 + sector) × 32,768 + bit (R229, R231; 09); reset 0 -/
  capCells : Store Bool := []
  /-- CAPTURE commands that wait for their trigger (R228); reset empty -/
  captures : List Capture := []
  /-- values held at the isolation stages of wires that leave a held region, by wire (R218); reset 0 -/
  holdVal : Store Bool := []
  /-- frames 0 to 439 of a sector at its last release: the isolation stage keeps the `hold` codes they gave, by frame key (R218); reset empty: constant 0 on every wire (R218) -/
  holdFrames : Store Word := []
  /-- sectors that have been released at least once in this start (R218); reset 0 -/
  holdSet : Store Bool := []
  /-- level of the shared DONE line as last seen (`done_line`); reset 0 -/
  doneLine : Bool := false
  /-- the device drives DONE low (`done_drive`, R215); reset 0 -/
  doneDrive : Bool := false
  /-- the image the next flash load would use after a failure: fall-back due (R206); reset none -/
  fallback : Option Image := none
  /-- the paused load awaits the decision of R225; reset 0 -/
  decision : Bool := false
  /-- read position in bytes of the running flash load (R184); reset 0 -/
  flashPos : Nat := 0
  /-- a flash load runs: its image (R184, R206); reset none -/
  flashLoad : Option Image := none
  /-- the stream port -/
  port : StreamPort := {}
  deriving DecidableEq, Repr, Inhabited

end Sys2Proof.Machine
end

