-- ==== Sys2Proof/Machine/StClk.lean ====
section
/-! DEFINITION. The state of the clock domains, the timebase and the event calendar. File 19. -/

namespace Sys2Proof.Machine

/-- State of a clock domain (`CLK_DOM_STATUS.state`, 19), in the order of its codes. -/
inductive ClkState where
  | off | qualifying | running | ramping | fallback | stopped
  deriving DecidableEq, Repr, Inhabited

/-- A clock domain (R427 to R437, 19). -/
structure ClkDom where
  /-- state; reset off -/
  state : ClkState := .off
  /-- 2 bits: `src`; reset 0x0 -/
  src : BitVec 2 := 0
  /-- 1 bit: `fail`; reset 0 -/
  fail : Bool := false
  /-- 8 bits: `fails`; reset 0 -/
  fails : Byte := 0
  /-- 8 bits each: `mon_tol`, `tol`; reset 20, 80 -/
  monTol : Byte := 20
  tol : Byte := 80
  /-- 32 bits: measured frequency in kHz; reset 0 -/
  khz : Word := 0
  /-- baseline count of the monitor (R431); reset 0 -/
  baseline : Nat := 0
  /-- its reference passed qualification (R429); reset 0 -/
  qualified : Bool := false
  /-- a switch in progress: new source, divider steps made, the command (R436); reset none -/
  ramp : Option (BitVec 2 × Nat × Option CmdId) := none
  deriving DecidableEq, Repr, Inhabited

/-- A calendar entry (R442, R443; 19). -/
structure CalEnt where
  /-- 48 bits: T; reset 0 -/
  t : BitVec 48 := 0
  /-- 1 bit: `armed`; reset 0 -/
  armed : Bool := false
  /-- 15 bits: `missed`; reset 0 -/
  missed : BitVec 15 := 0
  /-- 8 and 24 bits: `action`, `arg`; reset 0 -/
  action : Byte := 0
  arg : BitVec 24 := 0
  /-- 32 bits: `interval`; reset 0 -/
  interval : Word := 0
  deriving DecidableEq, Repr, Inhabited

/-- Clocks, timebase and calendar (19). -/
structure Clk where
  /-- domains 0 to 63 -/
  dom : Store ClkDom := []
  /-- IOSC has failed and monitoring runs on AO (R434); reset 0 -/
  ioscFailed : Bool := false
  /-- AOSC is qualified (R430); reset 0 -/
  aoscOk : Bool := false
  /-- 48 bits: position; reset 0 -/
  pos : BitVec 48 := 0
  /-- 3 and 16 bits: `mode`, `prescale`; reset: settings, factory default 0 -/
  mode : BitVec 3 := 0
  prescale : BitVec 16 := 0
  /-- 32 bits: `upd`; reset 0x0064_0000 -/
  upd : Word := 0x00640000
  /-- 1 bit: `lock`; reset 0 -/
  lock : Bool := false
  /-- 1 bit each: `stale`, `quiet`, `dir`; reset 0 -/
  stale : Bool := false
  quiet : Bool := false
  dir : Bool := false
  /-- 16 bits: `in_err`; reset 0 -/
  inErr : BitVec 16 := 0
  /-- 1 bit: `qw_force`; reset 0 -/
  qwForce : Bool := false
  /-- levels of TB_A and TB_B at the last sample (R439); reset 0 -/
  pinA : Bool := false
  pinB : Bool := false
  /-- edges or net counts towards the next tick (R439); reset 0 -/
  acc : Int := 0
  /-- the last tick or line intervals, newest first, at most 16, in 1/65,536 ns (R439); reset empty -/
  intervals : List Word := []
  /-- 48 bits: `TBC_INDEX`; reset 0 -/
  index : BitVec 48 := 0
  /-- 32 bits: latched `TBC_POS_HI`; reset 0 -/
  latHi : Word := 0
  /-- no PPS edge has been taken since a wake in mode 0x4 (R441); reset 0 -/
  ppsFirst : Bool := false
  /-- calendar entries 0 to 255 -/
  cal : Store CalEnt := []
  /-- actions deferred by Held, in due order, each with the position it was due at (R423); reset empty -/
  deferred : List (BitVec 48 × Byte × BitVec 24) := []
  /-- actions passed to MGR: TEL_SAMPLE and PWR_VOTE, in order (R444); reset empty -/
  toMgr : List (Byte × BitVec 24) := []
  deriving DecidableEq, Repr, Inhabited

end Sys2Proof.Machine
end

