-- ==== Sys2Proof/Machine/StDbg.lean ====
section
/-! DEFINITION. The state of the processors, the watchdogs and the debug system. File 18. -/

namespace Sys2Proof.Machine

/-- A hart: 0 to 7 of the application cluster, 8 MGR (R406, R416; 18). -/
structure Hart where
  /-- halted (R417); reset 0 -/
  halted : Bool := false
  /-- a halt was asked for and waits for an instruction boundary (R417); reset 0 -/
  haltReq : Bool := false
  /-- it was halted before the request for Held (R422); reset 0 -/
  heldBefore : Bool := false
  /-- 64 bits: pc shown while halted (R416); reset 0 DESIGN CHOICE (log 18) -/
  pc : BitVec 64 := 0
  /-- 64 bits each: GPRs, FPRs and CSRs by abstract register number, as an Access Register command has written them since the hart last halted (R416); reset none, which reads 0 DESIGN CHOICE (log 18) -/
  regs : Store (Option (BitVec 64)) := []
  /-- 64 bits each: the trigger registers, `tdata1` to `tdata3` of trigger t at 4t + 1 to 4t + 3, and the trigger selected at 16 (R416); reset 0 DESIGN CHOICE (log 18) -/
  trig : Store (BitVec 64) := []
  /-- point of the run at which the hart last ran, 0 when it has not run: the model's own, not the spec's; a register not written since reads as `Config.hartReg` of it; reset 0 DESIGN CHOICE (log 18) -/
  era : Nat := 0
  /-- an LR reservation is held (R417); reset 0 -/
  reservation : Bool := false
  /-- local interrupts 16 and 17 pending (R409, R410); reset 0 -/
  irq16 : Bool := false
  irq17 : Bool := false
  /-- the last access fault raised: cause and `mtval` (R409); reset none -/
  fault : Option (BitVec 6 × BitVec 64) := none
  /-- resets of this hart by its watchdog (R410); reset 0 -/
  resets : Nat := 0
  deriving DecidableEq, Repr, Inhabited

/-- A watchdog (R410, R411; 18). -/
structure Watchdog where
  /-- 1 bit: `en`; reset 0 -/
  en : Bool := false
  /-- 1 bit: `frz`; reset 1 -/
  frz : Bool := true
  /-- 24 bits: `period`; reset 100,000 -/
  period : BitVec 24 := 100000
  /-- 24 bits: remaining count in 10 us; reset 0 DESIGN CHOICE (log 18) -/
  left : BitVec 24 := 0
  /-- 1 bit: `expired_once`; reset 0 -/
  expired : Bool := false
  /-- 1 bit: `frozen`; reset 0 -/
  frozen : Bool := false
  deriving DecidableEq, Repr, Inhabited

/-- Trace (R424 to R426, 18). -/
structure Trace where
  /-- 32 bits: `DBG_TRACE_CFG`; reset 0 -/
  cfg : Word := 0
  /-- 32 bits each: `DBG_TRACE_BASE_LO`, `DBG_TRACE_BASE_HI`; reset 0 -/
  baseLo : Word := 0
  baseHi : Word := 0
  /-- 32 bits: `wptr`; reset 0 -/
  wptr : Word := 0
  /-- packets of the block that is filling, oldest first, four words each (R425); reset empty -/
  block : List (List Word) := []
  /-- packets since the last SYNC (R425); reset 0 -/
  sinceSync : Nat := 0
  /-- packets lost and not yet reported (R425); reset 0 -/
  lost : Nat := 0
  /-- packets still recorded after `trace_stop` (R425); reset none -/
  post : Option Nat := none
  /-- the ring filled with `stop_full` set (R425); reset 0 -/
  full : Bool := false
  deriving DecidableEq, Repr, Inhabited

/-- A line of DRAM in the caches of the application cluster (R406, R408, R409; 18). -/
structure CacheLine where
  /-- 512 bits: the line as the cores see it -/
  data : BitVec 512 := 0
  /-- it is poisoned, until a full-line write replaces it (R394, R409) -/
  poison : Bool := false
  /-- it has been written since it was last filled or written back -/
  dirty : Bool := false
  /-- core that last wrote it (R409) -/
  hart : Fin 8 := 0
  deriving DecidableEq, Repr, Inhabited

/-- Processors and debug (18). -/
structure Dbg where
  /-- lines in the caches of the application cluster, by local DRAM address ÷ 64: what the cores' own and the shared cache hold between them (R408); reset empty -/
  cache : Store (Option CacheLine) := []
  /-- harts 0 to 8 -/
  hart : Store Hart := []
  /-- watchdogs 0 to 8 -/
  wdt : Store Watchdog := []
  /-- 16 × 12 bits: `APC_DEVMAP` entries 1 to 15 (R407); reset 0 -/
  devmap : Store Word := []
  /-- 2 bits each: granted level of transports 0 to 4 (R413); reset 0 -/
  level : Store (BitVec 2) := []
  /-- the open challenge of a transport: level asked and nonce (R414); reset none -/
  challenge : Store (Option (BitVec 2 × List Word)) := []
  /-- authorisation failures in this start (R414); reset 0 -/
  failures : Nat := 0
  /-- 1 bit: `denied`; reset 0 -/
  denied : Bool := false
  /-- transports that AUTH_RESPOND has granted a level since the last start (R209); reset none -/
  granted : Store Bool := []
  /-- `DBG_HELD`: `cal_defer`, `prev`, `entering`, `held`; reset 1, 0, 0, 0 -/
  calDefer : Bool := true
  prev : BitVec 4 := 0
  entering : Bool := false
  held : Bool := false
  /-- the harts were asked to halt for a request for Held that has not been met yet (step 1 of R422); reset 0 -/
  asked : Bool := false
  /-- Held was asked for in Resting: the DBG client votes L0 on every domain until the release (R422); reset 0 -/
  heldVote : Bool := false
  /-- Debug Module (R416): `hartsel` and `dmactive` as last written to `dmcontrol`; reset 0 PRESUMED (log 45) -/
  dmControl : Word := 0
  /-- Debug Module: `data0`, `data1`; reset 0 PRESUMED (log 45) -/
  dmData : Store Word := []
  /-- Debug Module: `progbuf0` to `progbuf7` (R416); reset 0 PRESUMED (log 45) -/
  progbuf : Store Word := []
  /-- 3 bits: `abstractcs.cmderr`; reset 0 PRESUMED (log 45) -/
  cmdErr : BitVec 3 := 0
  /-- 32 bits each: `DBG_ACC_ADDR_LO`, `DBG_ACC_ADDR_HI`, `DBG_ACC_DATA`; reset 0 -/
  accLo : Word := 0
  accHi : Word := 0
  accData : Word := 0
  /-- `DBG_ACC_CTRL`: `status`, `insp`, `busy`, `wr`, `size`; reset 0, 0, 0, 0, 2 -/
  accStatus : BitVec 4 := 0
  accInsp : Bool := false
  accBusy : Bool := false
  accWr : Bool := false
  accSize : BitVec 2 := 2
  /-- the access of `DBG_ACC_CTRL.go` that the DBG initiator has not taken yet (R245, R251, R418); reset none -/
  accWait : Option NocReq := none
  /-- value read by the previous DBGACC operation over JTAG, while valid (R412); reset none -/
  jtagRead : Option Word := none
  /-- 8 bits: JTAG instruction register (R412); reset 0x02, IDCODE, the state of Test-Logic-Reset -/
  ir : Byte := 2
  /-- 32 bits each: `DBG_XT_LINE` 0 to 15 (R419); reset 0 -/
  xt : Store Word := []
  /-- 192 bits per compute die: frozen sectors (R421); reset 0 -/
  frozen : Store (BitVec 192) := []
  /-- 32 bits each: `DBG_SFRZ` masks, key die × 6 + word (R421); reset 0 -/
  sfrz : Store Word := []
  /-- trace -/
  trace : Trace := {}
  deriving DecidableEq, Repr, Inhabited

end Sys2Proof.Machine
end

