-- ==== Sys2Proof/Machine/StNoc.lean ====
section
/-! DEFINITION. The state of the network-on-chip: routers, initiator and target ports, routing tables. Files 10 and 17. -/

namespace Sys2Proof.Machine

/-- A request as it stands in a port, with its header fields (R239, R240; 10). -/
structure NReq where
  typ : BitVec 4 := 0
  otag : BitVec 4 := 0
  qos : BitVec 2 := 0
  hpoison : Bool := false
  insp : Bool := false
  src : BitVec 10 := 0
  dst : BitVec 10 := 0
  txid : BitVec 16 := 0
  aop : BitVec 4 := 0
  len : Byte := 0
  addr : BitVec 64 := 0
  fwg : BitVec 5 := 0
  sdev : BitVec 12 := 0
  /-- data flits, bytes at their block positions (R240) -/
  data : List (BitVec 256) := []
  /-- which data flits are poisoned (R241) -/
  bad : List Bool := []
  deriving DecidableEq, Repr, Inhabited

/-- A response as it stands in a port (R239, R243; 10). -/
structure NRsp where
  typ : BitVec 4 := 0
  otag : BitVec 4 := 0
  qos : BitVec 2 := 0
  hpoison : Bool := false
  src : BitVec 10 := 0
  dst : BitVec 10 := 0
  txid : BitVec 16 := 0
  status : BitVec 4 := 0
  aop : BitVec 4 := 0
  len : Byte := 0
  data : List (BitVec 256) := []
  bad : List Bool := []
  deriving DecidableEq, Repr, Inhabited

/-- A transaction an initiator port has issued and not returned to its issuer (R248, R262; 10). -/
structure Outst where
  /-- the request, with the `dst` the port gave it (R246) -/
  req : NReq
  /-- its response, or the one the port formed for it, in its order slot (R248) -/
  rsp : Option NRsp := none
  /-- it has left the port -/
  sent : Bool := true
  /-- core that asked, what for, and the address it gave (R409) -/
  hart : Fin 8 := 0
  acc : CoreAcc := .load
  issued : BitVec 64 := 0
  /-- the core's access that a line fill is for, with the address as the core gave it (R406, R408); reset none -/
  core : Option NocReq := none
  /-- the PCIe link went down: no completion is returned (R496) -/
  drop : Bool := false
  deriving DecidableEq, Repr, Inhabited

/-- An initiator port (R252, R262, R397). -/
structure IPort where
  /-- outstanding transactions in issue order, at most 64 (R252); reset empty -/
  out : List Outst := []
  /-- 16 bits: `txid` the port chooses next (R239); reset 0 DESIGN CHOICE (log 12) -/
  nextId : BitVec 16 := 0
  /-- transactions the port ended itself, whose late responses it discards: `txid`, `dst` and data flits of a read (R262, R282); reset empty -/
  ended : List (BitVec 16 × BitVec 10 × Nat) := []
  /-- paused by a path switch (R261); reset 0 -/
  paused : Bool := false
  /-- a `qos` value that waits until nothing is outstanding (R251); reset none -/
  qosPend : Option (BitVec 2) := none
  /-- a FENCE holds the port (R245): its order tag; reset none -/
  fence : Option (BitVec 4) := none
  /-- targets under hold, newest last (R397); reset empty -/
  holds : List (BitVec 10) := []
  /-- 10 bits: `NOC_IPORT_HOLD.tgt`, the target most recently held (R397); reset 0 -/
  lastHold : BitVec 10 := 0
  /-- 1 bit each: `poison_seen`, `timeout_seen`; reset 0 -/
  poisonSeen : Bool := false
  timeoutSeen : Bool := false
  /-- responses returned to the issuer and not taken by it, oldest first (R248, R252), and at the two ports of the application cluster what the caches answered (R408); reset empty -/
  ret : List NRsp := []
  deriving DecidableEq, Repr, Inhabited

/-- A target port (R242, R249, R256). -/
structure TPort where
  /-- requests that have arrived, oldest first (R248); reset empty -/
  inq : List NReq := []
  /-- requests at the front of these that were accepted before the port's region was opened and are still answered in order (R217, 09); reset 0 -/
  drain : Nat := 0
  /-- requests presented to user logic behind a fabric target port, by handle TRQ_ID (R249, R252); reset empty -/
  pres : List (BitVec 6 × NReq) := []
  /-- handle given next; reset 0 DESIGN CHOICE (log 12) -/
  nextId : BitVec 6 := 0
  /-- the denial in `NOC_FW_LOG`: write, group, source (R256); reset none -/
  fwLog : Option (Bool × BitVec 5 × BitVec 10) := none
  /-- 52 bits: `NOC_FW_ADDR`, the address of the last denial captured (R256); reset 0 -/
  fwAddr : BitVec 52 := 0
  deriving DecidableEq, Repr, Inhabited

/-- The flit stream of one input and virtual channel of a router (R250, R257). -/
structure Channel where
  /-- flits in the buffer, oldest first, at most 8 (R250); reset empty -/
  buf : List (BitVec 288) := []
  /-- output port code and data flits left of the packet that is being forwarded (R239); reset none -/
  cur : Option (BitVec 4 × BitVec 2 × Nat) := none
  deriving DecidableEq, Repr, Inhabited

/-- Arbitration at one output of a router (R251). -/
structure Arb where
  /-- cycles of the present run of 256 that this output has used, 0 to 255, one for each flit it moved (log 83); reset 0 -/
  cycles : Nat := 0
  /-- those of them that class 3 used with priority; reset 0 -/
  prior : Nat := 0
  /-- what is left of the weights of classes 0 to 3 in this round; reset 0: a new round begins -/
  left : List Nat := [0, 0, 0, 0]
  deriving DecidableEq, Repr, Inhabited

/-- Counters, log and commit state of a die's NOC block (10). -/
structure NocDie where
  /-- 16 bits each: `hdr_fix` and `perr`; reset 0 -/
  hdrFix : BitVec 16 := 0
  perr : BitVec 16 := 0
  /-- `NOC_ERRLOG` capture: kind, router, input port, source; reset none -/
  log : Option (BitVec 3 × BitVec 5 × BitVec 4 × BitVec 10) := none
  deriving DecidableEq, Repr, Inhabited

/-- The network (10). -/
structure Noc where
  /-- input channels, key (router ID × 6 + input port) × 5 + virtual channel; input 0 is the local one -/
  chan : Store Channel := []
  /-- arbitration by router output, key router ID × 9 + port code − 1, or + 5 + local port (R251) -/
  arb : Store Arb := []
  /-- flits of a packet arriving at a local port, key port ID × 5 + virtual channel; reset empty -/
  asm : Store (List (BitVec 288)) := []
  /-- initiator ports by port ID -/
  iport : Store IPort := []
  /-- target ports by port ID -/
  tport : Store TPort := []
  /-- shadow routing tables `NOC_RT_SHADOW`, key router ID × 32 + word (R259); reset 0xFFFFFFFF -/
  rtShadow : Store Word := []
  /-- active routing tables, as the words that differ from their base (R259); reset none -/
  rtActive : Store Word := []
  /-- the base of the active tables is the default set of R260, otherwise 0xFFFFFFFF everywhere (R259); reset 0 -/
  rtDefault : Bool := false
  /-- bundles whose alternate entries are active over the tables (R261, R280); reset none -/
  alts : List (Fin 76) := []
  /-- shadow fabric windows `NOC_FWIN`, key 2 × entry + word (R258); reset 0 -/
  fwShadow : Store Word := []
  /-- active fabric windows; reset 0 -/
  fwActive : Store Word := []
  /-- per-die counters and logs -/
  die : Store NocDie := []
  /-- 1 bit: `commit_busy`; reset 0 -/
  commitBusy : Bool := false
  /-- 1 bit: `commit_err`; reset 0 -/
  commitErr : Bool := false
  /-- 4 bits: `NOC_COMMIT.result`; reset 0x0 -/
  result : BitVec 4 := 0
  /-- bundles whose path switch runs or waits, oldest first (R261); `switching`; reset empty -/
  switches : List (Fin 76) := []
  /-- 1 bit: `alt_in_use`; reset 0 -/
  altInUse : Bool := false
  /-- writes to shadow registers that wait for the commit to end: store, key, value (R259); reset empty -/
  shadowWait : List (Bool × Nat × Word) := []
  deriving DecidableEq, Repr, Inhabited

end Sys2Proof.Machine
end

