-- ==== Sys2Proof/Machine/StDdr.lean ====
section
/-! DEFINITION. The state of the DDR5 controllers and of DRAM. File 14. -/

namespace Sys2Proof.Machine

/-- State of a channel (`DDR_CH_STATUS.state`, 14), in the order of its codes. -/
inductive ChState where
  | disabled | training | inService | selfRefresh | failed | down
  deriving DecidableEq, Repr, Inhabited

/-- A line in the write buffer (R338, 14): always a whole line. -/
structure WbLine where
  /-- channel address div 64 -/
  la : Nat
  /-- 512 bits: the line as it will be stored -/
  data : BitVec 512
  /-- it will be stored in poisoned form (R344) -/
  poison : Bool := false
  deriving DecidableEq, Repr, Inhabited

/-- Predictor and row of a bank (R339, R340; 14). -/
structure DBank where
  /-- 2 bits: saturating counter; reset 0b10 -/
  ctr : BitVec 2 := 2
  /-- row of the previous access; reset none -/
  last : Option Nat := none
  /-- the open row; reset none -/
  row : Option Nat := none
  /-- in-order service (R340); reset 0 -/
  inOrder : Bool := false
  deriving DecidableEq, Repr, Inhabited

/-- Device mark of a rank and subchannel (R343, 14). -/
structure DMark where
  /-- 1 bit: `marked`; reset 0 -/
  marked : Bool := false
  /-- 4 bits: `device`; reset 0 -/
  device : BitVec 4 := 0
  /-- corrected errors charged to each device in this pass; reset 0 -/
  charged : Store Nat := []
  /-- the next pass, and the present one, rewrite every line of the rank and subchannel (R343); reset 0 -/
  rewrite : Bool := false
  rewriting : Bool := false
  deriving DecidableEq, Repr, Inhabited

/-- A remap entry (R347, 14). -/
structure DRemap where
  /-- 1 bit: `active` -/
  active : Bool := false
  /-- 2 bits: `origin` -/
  origin : BitVec 2 := 0
  /-- 38 bits: CA of the line -/
  ca : BitVec 38 := 0
  deriving DecidableEq, Repr, Inhabited

/-- The capture in `DDR_ERRLOG` (14). -/
structure DErr where
  kind : BitVec 2
  scrub : Bool
  device : BitVec 4
  rank : BitVec 2
  sc : Bool
  ca : BitVec 38
  deriving DecidableEq, Repr, Inhabited

/-- A DDR5 channel (14). -/
structure Chan where
  /-- state; reset disabled -/
  state : ChState := .disabled
  /-- 3 bits: `rate`; reset 0 -/
  rate : BitVec 3 := 0
  /-- 2 bits: `ranks` (log2 R); reset 0 -/
  ranks : BitVec 2 := 0
  /-- 1 bit: `dens`; reset 0 -/
  dens : Bool := false
  /-- 1 bit: `slot1_unused`; reset 0 -/
  slot1Unused : Bool := false
  /-- 1 bit: `wr_ign`; reset 0 -/
  wrIgn : Bool := false
  /-- installed size in MiB (R331); reset 0 -/
  sizeMib : Nat := 0
  /-- 32 bits each: SPD serial numbers of slots 0 and 1 (R349); reset 0 -/
  serial0 : Word := 0
  serial1 : Word := 0
  /-- 32 bits each: map masks, sc, bg0 to bg2, ba0, ba1 (R334); reset: default of R334 at 16 Gb, one rank -/
  masks : List Word := [0x00082001, 0x00104002, 0x00208004, 0x00410008, 0x00820800, 0x01041000]
  /-- reads, writes and atomics queued in arrival order (R338); reset empty -/
  q : List NReq := []
  /-- write buffer, oldest first, at most 64 lines (R338); reset empty -/
  wb : List WbLine := []
  /-- bank counters, key ((rank × 2 + sc) × 8 + bank group) × 4 + bank (R339) -/
  bank : Store DBank := []
  /-- ALERT_n events in succession without progress (R337); reset 0 -/
  alertRun : Nat := 0
  /-- 16 bits: `alerts`; reset 0 -/
  alerts : BitVec 16 := 0
  /-- upkeep actions made, wrapping (R336); reset 0 -/
  upkeep : Nat := 0
  /-- refreshes made per same-bank set (R336); reset 0 -/
  refreshed : Store Nat := []
  /-- 16 bits: `pass_count`; reset 0 -/
  pass : BitVec 16 := 0
  /-- 1 bit: `late`; reset 0 -/
  late : Bool := false
  /-- next line of the patrol (R350); reset 0 DESIGN CHOICE (log 16) -/
  scrubPos : Nat := 0
  /-- lines that gave a correctable error outside a marked device in this pass and in the one before (R347); reset empty -/
  ceLines : List Nat := []
  cePrev : List Nat := []
  /-- 8 bits each: `buf_ue`, `buf_ce`, `ue_count`, `ce_count`; reset 0 -/
  bufUe : Byte := 0
  bufCe : Byte := 0
  ueCount : Byte := 0
  ceCount : Byte := 0
  /-- `DDR_ERRLOG`; reset none -/
  log : Option DErr := none
  /-- 38 bits: words 1 and 2 of `DDR_ERRLOG`, as they stand after a read of word 0 has cleared the capture; reset 0 -/
  logCa : BitVec 38 := 0
  /-- device marks, key 2 × rank + subchannel -/
  mark : Store DMark := []
  /-- 16 remap entries -/
  remap : Store DRemap := []
  /-- 0x2E03 was raised in this start (R347); reset 0 -/
  fullNoticed : Bool := false
  /-- the channel was tried once and retries at the next lower rate (R335); reset 0 -/
  retried : Bool := false
  deriving DecidableEq, Repr, Inhabited

/-- The DDR5 controllers and DRAM (14). -/
structure Ddr where
  /-- channels 0 to 11 -/
  chan : Store Chan := []
  /-- 1 bit: `open`; reset 0 -/
  isOpen : Bool := false
  /-- 12 bits: `set`; reset 0 -/
  set : BitVec 12 := 0
  /-- 20 bits: `usable_mib`; reset 0 -/
  usable : Nat := 0
  /-- training has ended on every enabled channel (R334); reset 0 -/
  trained : Bool := false
  /-- 8 bits each: DRAM contents as bytes, key channel × 2^38 + channel address (R331 to R333); an unlisted byte reads 0 DESIGN CHOICE (log 15) -/
  mem : List Host.Cell := []
  /-- lines in poisoned form, key channel × 2^32 + line address (R344); reset none -/
  poison : Store Bool := []
  deriving DecidableEq, Repr, Inhabited

end Sys2Proof.Machine
end

