-- ==== Sys2Proof/Machine/StFabric.lean ====
section
/-! DEFINITION. The state of the fabric: configuration plane, flip-flops, bridge groups, block and deep memories. Files 04 and 05. -/

namespace Sys2Proof.Machine

/-- A bridge group of 32 wires and a spare, one direction of one boundary (R97, R98; 04). -/
structure BridgeGroup where
  /-- the wire the spare replaces, none while the spare is not in use (R97, 04); reset none -/
  spare : Option (Fin 33) := none
  /-- more than one wire failed (R97, 04); reset 0 -/
  unusable : Bool := false
  /-- 1 bit: sticky BERR (R98, 04); reset 0 -/
  berr : Bool := false
  /-- 32 bits: values captured at the receiving edge (R98, 04); reset 0 DESIGN CHOICE (log 8) -/
  cap : Word := 0
  deriving DecidableEq, Repr, Inhabited

/-- Configuration plane, flip-flops and bridge wires (04). -/
structure Fabric where
  /-- 4 × 192 × 607 × 256 words: the frames of the configuration plane, M-tile storage among them (R88, R92; 04; R190, 08); a blank frame is 0; reset blank -/
  frames : Store Word := []
  /-- 1 bit each: the value a flip-flop last captured, 16 a tile (R80 to R82, 04); reset 0 -/
  ffs : Store Bool := []
  /-- number of releases of a sector from GSR or its region reset (R104, 04); reset 0 -/
  relSec : Store Nat := []
  /-- per tile clock: the release last seen and the edges since it (R104, 04); reset none seen -/
  relClk : Store (Nat × Nat) := []
  /-- 3 × 2 × 288 bridge groups: key (boundary × 2 + direction) × 288 + group (R97, 04) -/
  bridge : Store BridgeGroup := []
  /-- the bridge test of a boundary took spares into use, and 0x1411 + boundary was raised in this start (R97, 04); reset 0 -/
  spareNoticed : Store Bool := []
  /-- edge counters of the event lines CEV[15:0] of each die, advanced at each pulse (R445, 19); reset 0 -/
  cev : Store Nat := []
  /-- edge counters of the cross-trigger outputs XTO[15:0] of each die (R419, 18); reset 0 -/
  xto : Store Nat := []
  /-- per tile of logical tile row 0, key (die × 512 + column) × 32 + line: the pulses of CEV[15:0], then XTO[15:0], that its CK0 has seen (R419, 18; R445, 19); reset 0 -/
  evSeen : Store Nat := []
  deriving DecidableEq, Repr, Inhabited

/-- A stored word of a fabric memory (R107, R113; 05). -/
structure MemWord where
  /-- 72 bits: data; with the check code on, bit 9b + 8 of each byte is zero (R109) -/
  data : BitVec 72 := 0
  /-- 1 bit: the valid bit (R113) -/
  valid : Bool := false
  /-- 8 bits: check bits stored inverted (`BM_INJECT`); the check bits themselves are never visible (R113) -/
  inv : BitVec 8 := 0
  /-- 15 bits: the word address that the check code covers, 9 bits in a block memory (R113); an invalid word has none -/
  addr : BitVec 15 := 0
  deriving DecidableEq, Repr, Inhabited

/-- An error log capture (R129, 05). -/
structure MemErr where
  /-- uncorrectable -/
  ue : Bool
  /-- 2 bits: Source code -/
  src : BitVec 2
  /-- word index or word address -/
  word : Nat
  deriving DecidableEq, Repr, Inhabited

/-- An access taken at an edge, which accesses at this edge and the next are resolved against (R110, R117; 05). -/
structure MemAcc where
  /-- port B (or the write port of a deep memory) -/
  portB : Bool
  /-- it was a write -/
  write : Bool
  /-- word it touched -/
  word : Nat
  /-- the word before it -/
  old : MemWord
  /-- 8 bits: bytes it enabled in the word -/
  be : BitVec 8
  /-- its data in word position -/
  data : BitVec 72
  /-- it was a read-modify-write -/
  rmw : Bool
  deriving DecidableEq, Repr, Inhabited

/-- The data pins of a port after a read (R108, 05). -/
structure PortOut where
  /-- 72 bits: DO -/
  data : BitVec 72 := 0
  /-- SBE -/
  sbe : Bool := false
  /-- DERR -/
  derr : Bool := false
  deriving DecidableEq, Repr, Inhabited

/-- What a block memory and a deep memory share: error counters, log, scrubber, INIT (05). -/
structure MemCtl where
  /-- 16 bits: correctable count (`BM_CE_COUNT`, 05); reset 0 -/
  ce : BitVec 16 := 0
  /-- 16 bits: uncorrectable count (`BM_UE_COUNT`, 05); reset 0 -/
  ue : BitVec 16 := 0
  /-- the error log capture (R129, 05); reset none -/
  log : Option MemErr := none
  /-- 1 bit: `ce_seen` (05); reset 0 -/
  ceSeen : Bool := false
  /-- 1 bit: `ue_seen` (05); reset 0 -/
  ueSeen : Bool := false
  /-- 1 bit: `init_busy`, INITB (R120, 05); reset 0 -/
  initBusy : Bool := false
  /-- 1 bit: `BM_INJECT.arm` (05); reset 0 -/
  injArm : Bool := false
  /-- 8 bits: `BM_INJECT.mask` (05); reset 0 -/
  injMask : BitVec 8 := 0
  /-- 1 bit: `scrub_en` (05); reset 1 -/
  scrubEn : Bool := true
  /-- 1 bit: `scrub_qw` (05); reset 0 -/
  scrubQw : Bool := false
  /-- next word the scrubber reads (R124, 05); reset 0 DESIGN CHOICE (log 8) -/
  scrubPos : Nat := 0
  /-- 16 bits: `pass_count` (R124, 05); reset 0 -/
  pass : BitVec 16 := 0
  /-- accesses taken at the present edge (R110); reset none -/
  cur : List MemAcc := []
  /-- accesses taken at the edge before it (R116, R117); reset none -/
  prev : List MemAcc := []
  /-- ports whose access was refused at the present edge, their RDY low for it (R112, R117); reset none -/
  low : List Bool := []
  /-- 1 bit: RDY is low for the next cycle, in which a remap entry becomes active (R127); reset 0 -/
  gap : Bool := false
  /-- 1 bit: the present edge is in that cycle (R127); reset 0 -/
  shut : Bool := false
  /-- corrected words that wait for an idle cycle to be written back: the port, none for either, and the word (R122); reset none -/
  wb : List (Option Bool × Nat) := []
  deriving DecidableEq, Repr, Inhabited

/-- A block memory (05). -/
structure BlockMem where
  /-- 512 words (R107, 05); reset invalid (R128) -/
  words : Store MemWord := []
  /-- counters, log, scrubber, INIT -/
  ctl : MemCtl := {}
  /-- pins of port A and port B after their last reads (R108, 05); reset 0 DESIGN CHOICE (log 8) -/
  outA : PortOut := {}
  outB : PortOut := {}
  deriving DecidableEq, Repr, Inhabited

/-- An entry of a deep memory's remap table (R126, 05). -/
structure RemapEnt where
  /-- 2 bits: `origin` -/
  origin : BitVec 2 := 0
  /-- 1 bit: `active` -/
  active : Bool := false
  /-- 9 bits: `row` -/
  row : BitVec 9 := 0
  deriving DecidableEq, Repr, Inhabited

/-- A deep memory (05). -/
structure DeepMem where
  /-- 32,768 words and the 4 spare rows: physical word row × 64 + word, spare row i is row 512 + i (R107, R126; 05); reset invalid -/
  words : Store MemWord := []
  /-- counters, log, scrubber, INIT -/
  ctl : MemCtl := {}
  /-- pins of the read port (R111, 05); reset 0 DESIGN CHOICE (log 8) -/
  out : PortOut := {}
  /-- DERR of the write port after a refused narrow write (R118, 05); reset 0 -/
  wderr : Bool := false
  /-- `DM_REMAP0` to `DM_REMAP3` (R126, 05); reset inactive -/
  remap : List RemapEnt := [{}, {}, {}, {}]
  /-- the online row copy that runs: row and origin (R127, 05); reset none -/
  copy : Option (BitVec 9 × BitVec 2) := none
  /-- 1 bit: `remap_auto` (05); reset 1 -/
  remapAuto : Bool := true
  /-- rows that gave a correctable error in this pass and in the one before (R126, 05); reset empty -/
  ceRows : List (BitVec 9) := []
  cePrev : List (BitVec 9) := []
  /-- 0x2512 was raised since the last load (R127, 05); reset 0 -/
  fullNoticed : Bool := false
  deriving DecidableEq, Repr, Inhabited

end Sys2Proof.Machine
end

