-- ==== Sys2Proof/Machine/StIo.lean ====
section
/-! DEFINITION. The state of the user I/O banks and pins. File 07. -/

namespace Sys2Proof.Machine

/-- A user I/O bank (07). -/
structure Bank where
  /-- 3 bits: `vccio_meas` (`IO_BANK_STATUS`); reset 0x7 -/
  meas : BitVec 3 := 7
  /-- 1 bit: `mismatch` (R169); reset 0 -/
  mismatch : Bool := false
  /-- 1 bit: `lost` (R182); reset 0 -/
  lost : Bool := false
  /-- 1 bit: `frozen` (R180); reset 0 -/
  frozen : Bool := false
  /-- 1 bit: VOK (R182); reset 0 -/
  vok : Bool := false
  /-- 1 bit: `cal_en` (`IO_CAL`); reset 1 -/
  calEn : Bool := true
  /-- 8 bits: `period` (`IO_CAL`); reset 10 -/
  period : BitVec 8 := 10
  /-- 16 bits: `tap_q` (`IO_CAL`); reset 160 -/
  tapQ : BitVec 16 := 160
  /-- 2 bits: `vccio_code` in effect (R169); reset 0 (a blank frame) -/
  vccioCode : BitVec 2 := 0
  /-- 5 bits: `vref_trim` in effect (R169); reset 0 (a blank frame) -/
  vrefTrim : BitVec 5 := 0
  /-- user outputs are enabled: start-up step 3 of R213 is past (R179); reset 0 -/
  enabled : Bool := false
  deriving DecidableEq, Repr, Inhabited

/-- A user I/O pin (07). -/
structure Pin where
  /-- 32 bits: `IO_PIN_CFG` in effect (R171, R177, R180); reset 0 (a blank frame) -/
  cfg : Word := 0
  /-- 1 bit and 11 bits: `cal` and `dly` (`IO_PIN_DLY`, R175); reset 0 (a blank frame) -/
  cal : Bool := false
  dly : BitVec 11 := 0
  /-- 9 bits: applied tap count `taps` (R176); reset 0 -/
  taps : BitVec 9 := 0
  /-- 0x2703 was raised since the last load (R175); reset 0 -/
  clampNoticed : Bool := false
  /-- level on the pad as last seen at a clock edge of the cell's tile (R171, R177); reset 0 -/
  pad : Bool := false
  /-- words sampled by the output register, newest first, each OD and OE (R171, R173); reset empty: the registers are at `init` -/
  outPipe : List (BitVec 8 × Bool) := []
  /-- words sampled by the input register, newest first (R171, R173); reset empty -/
  inPipe : List (BitVec 8) := []
  /-- pad bits of the last whole cycle in time order, kept for the word boundary of the gearbox (R171, R173); reset empty -/
  bits : List Bool := []
  /-- word boundary in bits, 0 to 7 (R173); reset 0 -/
  slip : Nat := 0
  /-- slips taken at the last edges and not yet in effect: edges left (R173); reset empty -/
  slipPend : List Nat := []
  /-- ISLIP is high for the next edge (R173); reset 0 -/
  islip : Bool := false
  /-- VOK of the bank has risen, and the output drives from the next edge of the cell clock (R182); reset 0 -/
  vokWait : Bool := false
  /-- last level and drive state of the pad (R177); reset undriven 0 -/
  lastLevel : Bool := false
  lastOe : Bool := false
  deriving DecidableEq, Repr, Inhabited

end Sys2Proof.Machine
end

