-- ==== Sys2Proof/Machine/StLane.lean ====
section
/-! DEFINITION. The state of the transceiver lanes and the PCIe controllers. File 12. -/

namespace Sys2Proof.Machine

/-- State of a lane (`LN_STATUS.state`, R291; 12), in the order of its codes. -/
inductive LnState where
  | off | detect | train | exchange | active | realign | blind
  deriving DecidableEq, Repr, Inhabited

/-- A transceiver lane (12). -/
structure Lane where
  /-- state; reset Off -/
  state : LnState := .off
  /-- the port's owner has enabled it (R291); reset 0 -/
  enabled : Bool := false
  /-- 32 bits: `LN_CFG` in effect; reset 0 (a blank frame or the settings) -/
  cfg : Word := 0
  /-- 32 bits: `LN_RATE` in effect; reset 0 -/
  rate : Word := 0
  /-- 4 bits: `tries`; reset 0 -/
  tries : BitVec 4 := 0
  /-- 0x3C06 was raised since the last Active (R291); reset 0 -/
  triesNoticed : Bool := false
  /-- 1 bit each: `lost`, `wr_ign`, `prbs_lock`, `sym_lock`, `cdr_lock`, `sig_det`; reset 0 -/
  lost : Bool := false
  wrIgn : Bool := false
  prbsLock : Bool := false
  symLock : Bool := false
  cdrLock : Bool := false
  sigDet : Bool := false
  /-- receiver detect runs: a common-mode step was made (R291); reset 0 -/
  stepped : Bool := false
  /-- training sets received in succession in this state (R291); reset 0 -/
  tsRun : Nat := 0
  /-- TS2 received in succession that match (R291); reset 0 -/
  ts2Run : Nat := 0
  /-- 2, 1, 3, 1 and 1 bits: `lpbk`, `adapt_hold`, `prbs_sel`, `prbs_rx_en`, `prbs_tx_en` (`LN_CTRL`); reset 0 -/
  lpbk : BitVec 2 := 0
  adaptHold : Bool := false
  prbsSel : BitVec 3 := 0
  prbsRx : Bool := false
  prbsTx : Bool := false
  /-- 32 bits: `LN_EQ_TX`; reset 0x00003F00 (main 63) -/
  eqTx : Word := 0x3F00
  /-- 32 bits: `LN_EQ_RX`; reset 0 -/
  eqRx : Word := 0
  /-- 48 bits each: PRBS error and bit counters (R303); reset 0 -/
  prbsErr : BitVec 48 := 0
  prbsBits : BitVec 48 := 0
  /-- latched `LN_PRBS_ERR_HI`, `LN_PRBS_BITS_LO`, `LN_PRBS_BITS_HI` (R304); reset 0 -/
  latErrHi : BitVec 16 := 0
  latBits : BitVec 48 := 0
  /-- 16 bits each: `realigns`, `code_err`; reset 0 -/
  realigns : BitVec 16 := 0
  codeErr : BitVec 16 := 0
  /-- 16 bits each: `uncorr`, `corr` (`LN_FEC`); reset 0 -/
  fecUncorr : BitVec 16 := 0
  fecCorr : BitVec 16 := 0
  /-- 32 bits: `held_drop`; reset 0 -/
  heldDrop : Word := 0
  /-- 32 bits: `LN_FILL`; reset 0x5555_5555 -/
  fill : Word := 0x55555555
  /-- 32 bits: `LN_EYE_CTRL` without `go`; reset 0 -/
  eyeCtrl : Word := 0
  /-- an eye scan runs (R305); reset 0 -/
  eyeBusy : Bool := false
  /-- 1 and 31 bits: `LN_EYE_RESULT`; reset 0 -/
  eyeDone : Bool := false
  eyeCount : BitVec 31 := 0
  deriving DecidableEq, Repr, Inhabited

/-- A request the host has made and whose NoC request waits for its turn (R301, 12). -/
structure PcieIn where
  write : Bool
  addr : BitVec 64
  len : Byte
  data : List (BitVec 256) := []
  ep : Bool := false
  deriving DecidableEq, Repr, Inhabited

/-- How a host request ended (R301, R496; 12). -/
inductive Completion where
  | data (d : List (BitVec 256)) (ep : Bool)
  | done
  | unsupported
  | abort
  deriving DecidableEq, Repr, Inhabited

/-- A PCIe controller (12). -/
structure Pcie where
  /-- it was started at step 7 of R57; reset 0 -/
  enabled : Bool := false
  /-- 1 bit: `up`; reset 0 -/
  up : Bool := false
  /-- 5 bits: `width`; reset 0 -/
  width : BitVec 5 := 0
  /-- 3 bits: `gen`; reset 0 -/
  gen : BitVec 3 := 0
  /-- 6 bits: `ltssm`; reset 0 -/
  ltssm : BitVec 6 := 0
  /-- 1 bit: `down_seen`; reset 0 -/
  downSeen : Bool := false
  /-- the link is in L1 or L1.2 (R307, R496); reset 0 -/
  inL1 : Bool := false
  /-- 2 × 32 bits: `PCIE_WIN`; reset 0 -/
  winLo : Word := 0
  winHi : Word := 0
  /-- 6 bits: `win_lsize` as written; reset 20 -/
  lsize : BitVec 6 := 20
  /-- 6 bits: `win_lsize` in effect since the last link reset; reset 20 -/
  lsizeEff : BitVec 6 := 20
  /-- 2 × 32 bits: `PCIE_OB`; reset 0 -/
  obLo : Word := 0
  obHi : Word := 0
  /-- 32 bits: `PCIE_CFGREQ`; reset 0 DESIGN CHOICE (log 14) -/
  cfgReq : Word := 0
  /-- inbound requests that wait for earlier writes (R301); reset empty -/
  waiting : List PcieIn := []
  /-- completions returned to the host, oldest first (R301); reset empty -/
  compl : List Completion := []
  /-- requests made on the link as root port: bus address and write data (R302); reset empty -/
  outb : List (BitVec 64 × Option Word) := []
  /-- configuration requests made on the link: `PCIE_CFGREQ` and write data (R302); reset empty -/
  cfgOut : List (Word × Option Word) := []
  deriving DecidableEq, Repr, Inhabited

/-- Lanes and controllers (12). -/
structure Xcvr where
  /-- lanes, key die × 48 + lane, die 0 for H -/
  lane : Store Lane := []
  /-- controllers 0 and 1 -/
  pcie0 : Pcie := {}
  pcie1 : Pcie := {}
  /-- 12 bits: `span_ports` (`XCVR_ALLOC`); reset 0 before step 7 of R57 -/
  spanPorts : BitVec 12 := 0
  deriving DecidableEq, Repr, Inhabited

end Sys2Proof.Machine
end

