-- ==== Sys2Proof/Machine/StMee.lean ====
section
/-! DEFINITION. The state of memory and link encryption. File 15. -/

namespace Sys2Proof.Machine

/-- A key slot (R352, R357; 15). -/
structure Slot where
  /-- 2 bits: `state`: 0 empty, 1 generated, 2 loaded; reset 0x0 -/
  state : BitVec 2 := 0
  /-- 256 bits: the key; reset 0 -/
  key : BitVec 256 := 0
  /-- 32 bits: binding count (R357); reset 0 -/
  count : Word := 0
  deriving DecidableEq, Repr, Inhabited

/-- A protected region (R356 to R363, 15). -/
structure MRegion where
  /-- 1 bit: `en`; reset 0 -/
  en : Bool := false
  /-- 52 bits each: base and size; reset 0 -/
  base : BitVec 52 := 0
  size : BitVec 52 := 0
  /-- 6 bits: bound slot; reset 0 -/
  slot : BitVec 6 := 0
  /-- 32 bits: binding number b (R357); reset 0 -/
  binding : Word := 0
  /-- 32 bits: tree serial s (R361); reset 0 -/
  serial : Word := 0
  /-- offset of its share in the metadata area of each channel (R362); reset 0 -/
  share : Nat := 0
  /-- 32 bits: `max_major`; reset 0 -/
  maxMajor : Word := 0
  /-- 0x2F03 was raised for it in this start (R369); reset 0 -/
  limitNoticed : Bool := false
  deriving DecidableEq, Repr, Inhabited

/-- A re-encryption that runs (R370, 15). -/
structure Reenc where
  /-- the command that waits for it, none for R369 -/
  cmd : Option CmdId
  /-- regions still to move; the head is the one that moves -/
  regions : List (Fin 64)
  /-- the new slot -/
  slot : BitVec 6
  /-- the old slot is cleared at the end: KEY_SLOT_RETIRE -/
  retire : Option (BitVec 6)
  /-- the new slot was generated for this command: a rollback clears it (R55) -/
  gen : Bool := false
  /-- step 3 has begun (the commit point) -/
  climbing : Bool := false
  /-- binding number and tree serial of the region that moves, under the new slot -/
  binding : Word := 0
  serial : Word := 0
  /-- groups done, by channel -/
  done : Store Nat := []
  deriving DecidableEq, Repr, Inhabited

/-- The encryption engine (15). The metadata of a line is held as verified in the counter cache. -/
structure Mee where
  /-- key slots 0 to 63 -/
  slot : Store Slot := []
  /-- regions 0 to 63 -/
  region : Store MRegion := []
  /-- 32 bits: major counter by channel × 2^32 + group (CA div 4096) (R360); reset 0 -/
  major : Store Word := []
  /-- 7 bits: minor counter by channel × 2^32 + line address (R360); reset 0 -/
  minor : Store (BitVec 7) := []
  /-- 64 bits: tag by channel × 2^32 + line address (R359, R360); reset 0 -/
  tag : Store (BitVec 64) := []
  /-- 32 bits: count that tree serials are taken from (R361); reset 0 -/
  serialNext : Word := 0
  /-- 256 bits: K_T (R361); reset 0 before a start, a free value after -/
  kt : BitVec 256 := 0
  /-- the re-encryption that runs (R370); reset none -/
  reenc : Option Reenc := none
  /-- automatic re-encryptions that wait (R369); reset empty -/
  autoWait : List (Fin 64) := []
  /-- 1, 1 and 7 bits: `auto_rekey`, `reenc_qw`, `reenc_cap`; reset 1, 0, 10 -/
  autoRekey : Bool := true
  reencQw : Bool := false
  reencCap : BitVec 7 := 10
  /-- 16 bits each: `overflows`, `node_ce`; reset 0 -/
  overflows : BitVec 16 := 0
  nodeCe : BitVec 16 := 0
  /-- 6 and 3 bits: `MEE_SLOT_CTRL.slot`, `result`; reset 0 -/
  ctrlSlot : BitVec 6 := 0
  result : BitVec 3 := 0
  /-- 14 words: `MEE_SLOT_LOAD`; reset 0 -/
  load : Store Word := []
  deriving DecidableEq, Repr, Inhabited

end Sys2Proof.Machine
end

