-- ==== Sys2Proof/Machine/StMgr.lean ====
section
/-! DEFINITION. The state of the device manager: commands and replies, notices and the kiln log, start-up, settings, fuses, the always-on
island. Files 02, 03, 08 and 17 of the spec. Each field's docstring gives its width, what names it, and its value at reset. -/

namespace Sys2Proof.Machine

/-- The operating mode; its code is `Mode.code` (R4, 00). -/
inductive Mode where
  | greenware | bisque | firing | glazed | refiring | resting | held | cooling
  deriving DecidableEq, Repr, Inhabited

/-- An outstanding command (R45, 02). -/
structure Cmd where
  /-- transport, sending device, tag (R45) -/
  id : CmdId := { t := .jtag, tag := 0 }
  /-- the header word (R36) -/
  hdr : Word := 0
  /-- the parameter words (R36) -/
  params : List Word := []
  /-- it has started to execute (R46) -/
  started : Bool := false
  /-- its commit point is past (R50, R54) -/
  committed : Bool := false
  /-- it was accepted while the device was in Held (R47) -/
  inHeld : Bool := false
  deriving DecidableEq, Repr, Inhabited

/-- One transport's words in both directions (R39, R40, 02). -/
structure Port where
  /-- words of the packet that is still arriving, oldest first -/
  rx : List Word := []
  /-- replies formed and not yet read by the sender, oldest first, each with the words still to be read -/
  out : List (List Word) := []
  deriving DecidableEq, Repr, Inhabited

/-- An entry of the pending notice queue (R52, 02). -/
structure Notice where
  /-- 16 bits: the notice code -/
  code : BitVec 16 := 0
  /-- 16 bits: repeats since the notice was last returned, saturating -/
  rep : BitVec 16 := 0
  /-- 32 bits: timebase position [31:0] at the first occurrence -/
  pos : Word := 0
  deriving DecidableEq, Repr, Inhabited

/-- An entry of the kiln log (R398, 17). -/
structure KilnEntry where
  /-- 32 bits: entry number -/
  seq : Word := 0
  /-- 8 bits: further occurrences merged, saturating -/
  rep : Byte := 0
  /-- 3 bits: die that raised it -/
  origin : BitVec 3 := 0
  /-- 16 bits: notice code -/
  code : BitVec 16 := 0
  /-- 48 bits: timebase position at the first occurrence -/
  pos : BitVec 48 := 0
  /-- 16 bits: start number -/
  start : BitVec 16 := 0
  /-- 32 bits: first detail word -/
  detA : Word := 0
  /-- 32 bits: second detail word -/
  detB : Word := 0
  deriving DecidableEq, Repr, Inhabited

/-- A notice held in the always-on island while MGR is stopped (R399, 17). -/
structure HeldNotice where
  /-- 3 bits: die that raised it -/
  origin : BitVec 3 := 0
  /-- 16 bits: notice code -/
  code : BitVec 16 := 0
  /-- 48 bits: position at which it was raised -/
  pos : BitVec 48 := 0
  /-- 32 bits: detail words -/
  detA : Word := 0
  detB : Word := 0
  deriving DecidableEq, Repr, Inhabited

/-- The PCIe mailbox of physical function 0, BAR0 (02). -/
structure Mailbox where
  /-- 6,144 words: the command buffer at 0x2000 (BAR0 layout, 02); reset 0 DESIGN CHOICE (log 4) -/
  cmdBuf : Store Word := []
  /-- words of the reply in the reply buffer at 0x8000; empty when `rsp_valid` is clear (`MBX_RSP_LEN`, 02); reset empty -/
  rspBuf : List Word := []
  /-- 1 bit: `MBX_CTRL.irq_en` (02); reset 0 -/
  irqEn : Bool := false
  /-- 1 bit: `MBX_STATUS.overrun` (02); reset 0 -/
  overrun : Bool := false
  /-- 1 bit: `MBX_STATUS.rsp_valid` (02); reset 0 -/
  rspValid : Bool := false
  /-- 1 bit: `MBX_STATUS.cmd_free` (02); reset 0 -/
  cmdFree : Bool := false
  /-- 1 bit: `MBX_IRQ.cmd_free_ev` (02); reset 0 -/
  cmdFreeEv : Bool := false
  /-- 1 bit: `MBX_IRQ.rsp_ev` (02); reset 0 -/
  rspEv : Bool := false
  /-- forwarded packets whose final replies have not arrived: destination and tag (R43, 02); reset empty -/
  fwd : List (BitVec 12 × Byte) := []
  /-- messages of MSI-X vector 0 raised and not taken by the host (`MBX_CTRL`, 02); reset 0 -/
  msix : Nat := 0
  deriving DecidableEq, Repr, Inhabited

/-- Command handling of MGR (02). -/
structure Mgr where
  /-- outstanding commands of every transport in acceptance order, at most 16 a transport (R45, R46; 02); reset empty -/
  cmds : List Cmd := []
  /-- JTAG transport (id 0): arriving words and waiting replies (R40, 02); reset empty -/
  jtag : Port := {}
  /-- 34 bits: the MGRCMD data register as last captured (R39, R40; 02); reset 0 -/
  jtagDr : BitVec 34 := 0
  /-- words and byte that the last SMBus block read and read byte returned (R40, 02); reset empty, 0 -/
  smbRead : List Word := []
  smbByte : Byte := 0
  /-- 1 bit: the target acknowledged every byte of the last SMBus block write (R494, 02); reset 1 DESIGN CHOICE (log 10) -/
  smbAck : Bool := true
  /-- mailbox replies not yet in the reply buffer (R43, 02); reset empty -/
  mbxOut : List (List Word) := []
  /-- SMBus transport (id 2): arriving words and waiting replies (R40, R494; 02); reset empty -/
  smbus : Port := {}
  /-- configuration stream transport (id 3): arriving words (R185, 08); reset empty -/
  stream : Port := {}
  /-- span transport: arriving packets by `src` and `tag`, next segment number and words so far (R319, 13); reset empty -/
  spanIn : List (BitVec 12 × BitVec 8 × Nat × List Word) := []
  /-- the mailbox (02) -/
  mbx : Mailbox := {}
  /-- pending notice queue, oldest first, at most 256 entries (R52, 02); reset empty -/
  notices : List Notice := []
  /-- 16 bits: lost-notice count, saturating (R52, 02); reset 0 -/
  lost : BitVec 16 := 0
  /-- 32 bits: position of the first lost notice (R52, 02); reset 0 -/
  lostPos : Word := 0
  /-- kiln entries buffered in MGR's SRAM, oldest first, at most 1,024 (R399, 17); reset empty -/
  kiln : List KilnEntry := []
  /-- 32 bits: entries lost while the buffer was full (R399, 17); reset 0 -/
  kilnLost : Word := 0
  /-- 32 bits: the next `seq` MGR gives (R398, R399; 17); reset 0 DESIGN CHOICE (log 5) -/
  kilnSeq : Word := 0
  /-- 17 bits: entry place of the 4 MiB area written next (R398, 17); reset 0 DESIGN CHOICE (log 5) -/
  kilnSlot : BitVec 17 := 0
  /-- 16 bits: number of this start (R398, 17); reset 0 DESIGN CHOICE (log 5) -/
  startNo : BitVec 16 := 0
  /-- 1 bit: `MGR_ALERT.latch` (R401, 17); reset 0 -/
  alertLatch : Bool := false
  /-- 16 bits: `MGR_ALERT.first_code` (R401, 17); reset 0 -/
  firstCode : BitVec 16 := 0
  /-- 1 bit: `MGR_ALERT.image_fail` (R401, 17); reset 0 -/
  imageFail : Bool := false
  /-- 2 bits: `MGR_STATUS.image_source` (02); reset 0x0 -/
  imageSource : BitVec 2 := 0
  deriving DecidableEq, Repr, Inhabited

/-- The two flash ports and what MGR read from them (03). -/
structure Flash where
  /-- 2 bits: FSPI0 and FSPI1 have a valid JESD216 table (R64, 03); reset 0 -/
  valid0 : Bool := false
  valid1 : Bool := false
  /-- device sizes in bytes given by the ports' parameter tables (R493, 03); reset 0 -/
  size0 : Nat := 0
  size1 : Nat := 0
  /-- flash words of FSPI0 by word index (03); erased word 0xFFFFFFFF; reset: erased, DESIGN CHOICE (log 3) -/
  w0 : Store Word := []
  /-- flash words of FSPI1 by word index (03); reset: erased, DESIGN CHOICE (log 3) -/
  w1 : Store Word := []
  /-- the directory in use: word 3 and the four areas (offset, word 5+2k) (R66, 03); reset: the default map -/
  fwPref : Bool := false
  areas : List (Nat × Nat × Nat) := [(0, 0x01000000, 0x800000), (0, 0x01800000, 0x800000), (0, 0x02000000, 0x1E000000), (0, 0x20000000, 0x1E000000)]
  /-- sectors of 4 KiB that failed to erase or program and are skipped, as port and index (R482, 21); reset empty -/
  failed : List (Nat × Nat) := []
  deriving DecidableEq, Repr, Inhabited

/-- The steps of the start sequence that are done (R57, 03). -/
structure Boot where
  /-- hub power-good has been reached in this start (R56); reset 0 -/
  hubGood : Bool := false
  /-- step 2 done: IOSC qualified, straps sampled (R57, R430); reset 0 -/
  ioscOk : Bool := false
  /-- 3 bits: MODE[2:0] as sampled (R60); reset 0b000 DESIGN CHOICE (log 6) -/
  straps : BitVec 3 := 0
  /-- REFCLK_H failed to qualify within 10 ms of hub power-good (R58); reset 0 -/
  refclkFailed : Bool := false
  /-- step 5 done (R64); reset 0 -/
  flashDone : Bool := false
  /-- steps 6 and 7 done (R73); reset 0 -/
  settingsDone : Bool := false
  /-- MGR firmware runs (R57 step 10); reset 0 -/
  fwRuns : Bool := false
  /-- 1 bit: `MGR_STATUS.fw_copy` (R68); reset 0 -/
  fwCopy : Bool := false
  /-- the boot ROM serves the recovery set (R69); `MGR_ALERT.fw_recovery`; reset 0 -/
  recovery : Bool := false
  /-- number of dies released so far, in boot order (R70); reset 0 -/
  released : Nat := 0
  /-- VCC_C was not good 1 s after firmware started (R70); reset 0 -/
  vccCFailed : Bool := false
  /-- step 12 has run (R57); reset 0 -/
  loadStarted : Bool := false
  /-- the device left Greenware by PORST or power and waits; an automatic restart is due (R53, R404); reset 0 -/
  restart : Bool := false
  /-- the automatic restart is the one after a fatal outcome (R404); reset 0 -/
  fatalRestart : Bool := false
  /-- the device stays in Greenware until PORST_N is next asserted and released (R53, R404); reset 0 -/
  stay : Bool := false
  /-- PORST_N is low (R59); reset 0 -/
  porstLow : Bool := false
  deriving DecidableEq, Repr, Inhabited

/-- The settings record in effect (R72 to R75, 03). -/
structure Settings where
  /-- 1,024 words: the record in effect, as the words that differ from the factory defaults (R72, R74); reset: factory defaults -/
  words : Store Word := []
  /-- 1 bit: `MGR_STATUS.settings_defaulted` (R74); reset 0 -/
  defaulted : Bool := false
  /-- slot of the record in effect (R75); reset none -/
  slot : Option (Fin 256) := none
  deriving DecidableEq, Repr, Inhabited

/-- The fuses and the battery-backed key (R208, R209, R201; 08). -/
structure Fuses where
  /-- fuse bits as programmed, key field × 128 + word (R208, 08); reset: none programmed, DESIGN CHOICE (log 7) -/
  bits : Store Word := []
  /-- fuse bits as sensed at the start (R208, 08); reset: none -/
  sensed : Store Word := []
  /-- 256 bits and its fill: the battery-backed key, none when erased (R201, 08); reset none -/
  bbram : Option (BitVec 256) := none
  /-- the battery-backed key was lost or cleared (R201, 08); reset 0 -/
  bbramLost : Bool := false
  deriving DecidableEq, Repr, Inhabited

/-- What the always-on island keeps (R399, R403, R405; 17). -/
structure AlwaysOn where
  /-- 16 bits: `MGR_FATAL.cause` (R405, 17); reset 0 -/
  fatalCause : BitVec 16 := 0
  /-- 8 bits: `MGR_FATAL.count` (R405, 17); reset 0 -/
  fatalCount : BitVec 8 := 0
  /-- 32 bits: `MGR_FATAL_POS` (R405, 17); reset 0 -/
  fatalPos : Word := 0
  /-- 4 bits: `MGR_RESET_CAUSE.cause` (R405, 17); reset 0x1 -/
  resetCause : BitVec 4 := 1
  /-- notices raised while MGR is stopped, oldest first, at most 64 (R399, 17); reset empty -/
  held : List HeldNotice := []
  /-- 32 bits: notices lost beyond the 64 (R399, 17); reset 0 -/
  heldLost : Word := 0
  /-- 32 bits: position of the first notice lost beyond the 64 (R52, 02; R399, 17); reset 0 -/
  heldLostPos : Word := 0
  deriving DecidableEq, Repr, Inhabited

end Sys2Proof.Machine
end

