-- ==== Sys2Proof/Machine/StPwr.lean ====
section
/-! DEFINITION. The state of the rails, the power domains and wake. File 20. -/

namespace Sys2Proof.Machine

/-- A power domain (R455 to R460, 20). -/
structure PDom where
  /-- 4 bits each: votes of MGR, HOST, FAB, DBG, CAL; 0xF none; reset 0xF -/
  mgr : BitVec 4 := 0xF
  host : BitVec 4 := 0xF
  fab : BitVec 4 := 0xF
  dbg : BitVec 4 := 0xF
  cal : BitVec 4 := 0xF
  /-- 1 bit: the MGR vote is a wake vote (R467); reset 0 -/
  wakeVote : Bool := false
  /-- 4 bits: rung the domain is at (`eff`); reset 0 -/
  rung : BitVec 4 := 0
  /-- 1 bit: `moving`, with the rung it heads for (R460); reset none -/
  moving : Option (BitVec 4) := none
  deriving DecidableEq, Repr, Inhabited

/-- Power (20). -/
structure Pwr where
  /-- 7 bits: `PWR_RAIL.good`; reset 0 -/
  good : BitVec 7 := 0
  /-- 8 bits: `low_seen`; reset 0 -/
  lowSeen : BitVec 8 := 0
  /-- 4 bits each: `from`, `cause` (`PWR_WAKE`); reset 0 -/
  wakeFrom : BitVec 4 := 0
  wakeCause : BitVec 4 := 0
  /-- 1 bit: `fab_err`; reset 0 -/
  fabErr : Bool := false
  /-- 5 words: `PWR_WATCH`; reset 0 -/
  watch : Store Word := []
  /-- the parameters in force since the last entry to L6 or L7 (R466); reset 0 -/
  watchNow : Store Word := []
  /-- 32 and 20 bits: `PWR_WARM` base; reset 0 -/
  warmLo : Word := 0
  warmHi : BitVec 20 := 0
  /-- 10 bits: `size_mib`; reset 0 -/
  warmSize : BitVec 10 := 0
  /-- 1 bit: `held`; reset 0 -/
  warmHeld : Bool := false
  /-- the warm image: frames by frame key, the numbers (sector × 607 + frame) of those it holds, and the digest of each sector (R464); reset empty -/
  warm : Store Word := []
  warmFrames : Store Bool := []
  warmDigest : Store (BitVec 384) := []
  /-- 0x2282 was raised since this entry (R464); reset 0 -/
  l6Noticed : Bool := false
  /-- domains 0 to 9 -/
  dom : Store PDom := []
  /-- 192 bits per compute die: `PWR_RETAIN` (R463); reset 0 -/
  retain : Store (BitVec 192) := []
  /-- SLP_N is driven low (R451); reset 0 -/
  slpLow : Bool := false
  deriving DecidableEq, Repr, Inhabited

end Sys2Proof.Machine
end

