-- ==== Sys2Proof/Machine/StSdu.lean ====
section
/-! DEFINITION. The state of the sequenced DSP units. File 06. -/

namespace Sys2Proof.Machine

/-- One register set of a unit (R136, 06). -/
structure SduSet where
  /-- x0-x7, p0-p3, m0-m3, l0-l3, lc0, lc1 under their register codes 0x00 to 0x15, at most 16 bits each (R136); reset 0 -/
  r : Store (BitVec 16) := []
  /-- 16 bits: `st`, the loop flags `lact0` and `lact1` among its bits (R136); reset 0 -/
  st : BitVec 16 := 0
  /-- 9 bits: pc (R136); reset 0, in set 1 `entry1` -/
  pc : BitVec 9 := 0
  /-- start and end of loop 0 while `lact0` is set or after it closed, 9 bits each (R136); reset 0 -/
  loop0 : BitVec 9 × BitVec 9 := (0, 0)
  /-- start and end of loop 1 (R136); reset 0 -/
  loop1 : BitVec 9 × BitVec 9 := (0, 0)
  /-- 40 bits each: accumulators a0 and a1 (R132, R136); reset 0 -/
  a0 : BitVec 40 := 0
  a1 : BitVec 40 := 0
  deriving DecidableEq, Repr, Inhabited

/-- What a write in flight will do when it lands (R142 to R144, 06). -/
inductive Landing where
  /-- a 16-bit register by code takes a value -/
  | reg (code : BitVec 5) (v : BitVec 16)
  /-- a multiply whose value is not computed yet: the multiply operation, destination and product (two 20-bit lanes in dual form) -/
  | mul (mop : BitVec 3) (d : Bool) (prod : BitVec 40)
  /-- an accumulator takes a value, and its overflow flag is set -/
  | acc (d : Bool) (v : BitVec 40) (ov : Bool)
  deriving DecidableEq, Repr, Inhabited

/-- A write in flight: the set that issued it, the slots left until it lands, and the write (R142, R160; 06). -/
structure Flight where
  set : Bool
  left : Nat
  w : Landing
  deriving DecidableEq, Repr, Inhabited

/-- A stored word of an X or Y memory (R138, R139; 06). -/
structure XyWord where
  /-- 16 bits: data -/
  data : BitVec 16 := 0
  /-- 1 bit: valid -/
  valid : Bool := false
  /-- 22 bits: stored bits in error, data bits in [15:0] and check bits in [21:16]; only an upset sets one (log 9) -/
  flip : BitVec 22 := 0
  /-- 11 bits: the word address that the check code covers; an invalid word has none -/
  addr : BitVec 11 := 0
  deriving DecidableEq, Repr, Inhabited

/-- The unit states of R161 that a sequenced unit moves through. -/
inductive UnitState where
  | stopped | running | stalled | sleeping | halted | faulted
  deriving DecidableEq, Repr, Inhabited

/-- A sequenced DSP unit (06). -/
structure Sdu where
  /-- the two register sets (R136); reset as R162 -/
  set0 : SduSet := {}
  set1 : SduSet := {}
  /-- 1 bit: `act_set` (R162); reset 0 -/
  act : Bool := false
  /-- unit state (R161); reset Stopped -/
  state : UnitState := .stopped
  /-- the state a halt left (R161); reset Stopped -/
  before : UnitState := .stopped
  /-- 1 bit: a switch request is pending (R158); reset 0 -/
  swPending : Bool := false
  /-- slots that may still issue before the request counts as pending, at most 3 (R158); reset 0 -/
  swWait : Nat := 0
  /-- target of a taken branch whose delay slot is next to issue, or the address after it when not taken (R152); reset none -/
  branch : Option (BitVec 9) := none
  /-- the bubble slot of a zero-count LOOP is next (R150); reset 0 -/
  bubble : Bool := false
  /-- writes in flight in issue order (R142); reset empty -/
  flight : List Flight := []
  /-- 2,048 words each: X and Y memories (R138, R139); reset invalid -/
  x : Store XyWord := []
  y : Store XyWord := []
  /-- 40 bits: cascade register (R156); reset 0 -/
  casc : BitVec 40 := 0
  /-- the last two CASCO writes, newest first, with the DSP cycle at whose end each landed (R156); reset none -/
  cascHist : List (Nat × BitVec 40) := []
  /-- 40 bits: the cascade register before them (R156); reset 0 -/
  cascOut : BitVec 40 := 0
  /-- the DSP cycle of the unit's last slot, counted over its DSP column (R142, R156): the model's own; reset 0 DESIGN CHOICE (log 32) -/
  cyc : Nat := 0
  /-- input FIFO, oldest first, at most 4 words (R155); reset empty -/
  inF : List Word := []
  /-- output FIFO, oldest first, at most 4 entries of 40 bits and the issuing set (R155); reset empty -/
  outF : List (BitVec 40 × Bool) := []
  /-- next word that the scrubber of X and of Y reads (R139); reset 0 DESIGN CHOICE (log 8) -/
  scrubX : Nat := 0
  scrubY : Nat := 0
  /-- 512 × 48 bits: the instruction store (R162); reset 0 -/
  istore : Store (BitVec 48) := []
  /-- configuration bits `seq`, `start`, `fd_asat`, `entry1` (R130, `SDU_CFG`); reset 0 (a blank frame) -/
  seq : Bool := false
  start : Bool := false
  fdAsat : Bool := false
  entry1 : BitVec 9 := 0
  /-- 3 bits: `sw_en` (`SDU_CFG`); reset 0 (a blank frame) -/
  swEn : BitVec 3 := 0
  /-- 32 bits each: `SDU_CMP0` and `SDU_CMP1` (R164); reset 0 -/
  cmp0 : Word := 0
  cmp1 : Word := 0
  /-- comparator 0 or 1 matched an access of the instruction just issued, and the unit halts before the next (R164); reset 0 -/
  haltNext : Bool := false
  /-- the instruction about to issue was stopped once by an instruction comparator and now issues (R164); reset 0 -/
  skipCmp : Bool := false
  /-- 1 bit each: `wr_ign`, `hit0`, `hit1` (`SDU_STATUS`); reset 0 -/
  wrIgn : Bool := false
  hit0 : Bool := false
  hit1 : Bool := false
  /-- 32 bits: `SDU_FAULT` (R165); reset 0 -/
  fault : Word := 0
  /-- 16 bits each: `SDU_ECC` counts (R165); reset 0 -/
  ceCount : BitVec 16 := 0
  ueCount : BitVec 16 := 0
  /-- 40 bits each: the accumulators of fabric-driven mode (R157); reset 0 -/
  fd0 : BitVec 40 := 0
  fd1 : BitVec 40 := 0
  /-- what the last three edges of FCLK presented, newest first: the result of an operation, or none with FCE low (R157); reset empty -/
  fdPipe : List (Option (BitVec 40)) := []
  /-- the newest of them is of the edge at hand, which a tile clock edge of FCLK does not count again (R157): the model's own; reset 0 -/
  fdNew : Bool := false
  /-- 40 bits: FP (R157); reset 0 -/
  fp : BitVec 40 := 0
  deriving DecidableEq, Repr, Inhabited

end Sys2Proof.Machine
end

