-- ==== Sys2Proof/Machine/StSpan.lean ====
section
/-! DEFINITION. The state of the span link. File 13. -/

namespace Sys2Proof.Machine

/-- State of a span port (`SPN_PSTATUS.state`, 13), in the order of its codes. -/
inductive SpState where
  | disabled | bringUp | deskew | up | down
  deriving DecidableEq, Repr, Inhabited

/-- A span port (R308 to R328, 13). -/
structure SpPort where
  /-- state; reset disabled -/
  state : SpState := .disabled
  /-- the lanes are deskewed (R308, R310); reset 0 -/
  deskewed : Bool := false
  /-- 8 bits: next `fseq` sent (R312); reset 0 -/
  txSeq : Byte := 0
  /-- unacknowledged sequenced frames, oldest first, with their resends (R312, R321); reset empty -/
  unacked : List (Nat × List Word) := []
  /-- frames that wait for a credit or for room among the 128, oldest first, with their virtual channel: words 0 to 14 without `fseq` (R312, R313); reset
  empty -/
  txQ : List (Nat × List Word) := []
  /-- frames the transmitter put on the lanes that are never resent: ALIGN, PROBE, ECHO, LINK; oldest first; reset empty -/
  txU : List (List Word) := []
  /-- receiver buffers in use by virtual channel 0 to 2 (R313); reset 0 -/
  used : Store Nat := []
  /-- 8 bits: `fseq` expected (R312); reset 0 -/
  rxSeq : Byte := 0
  /-- a NAK was sent (R312); reset 0 -/
  nak : Bool := false
  /-- buffers freed and not yet returned as credits, by virtual channel (R313); reset 0 -/
  freed : Store Nat := []
  /-- frames accepted since the last acknowledgement (R312); reset 0 -/
  accepted : Nat := 0
  /-- REQ or RSP whose DATA frames have not all arrived, or whose end in transit cannot be seen, by virtual channel: its frame and the DATA frames so far
  (R313); reset none -/
  asm : Store (List (List Word)) := []
  /-- encryption is on since the port came up (`SPN_PCFG.enc`, R326); reset 0 -/
  encOn : Bool := false
  /-- key slot the port was last bound to, whose binding restarted the group counters (R326, R373); reset none -/
  boundSlot : Option (BitVec 6) := none
  /-- 64 bits each: the next group counter of the transmitter, and that of the open group (R326); reset 0 -/
  txCtr : BitVec 64 := 0
  grpCtr : BitVec 64 := 0
  /-- frames of the group that is open at the transmitter, oldest first (R326); reset empty -/
  txGroup : List (List Word) := []
  /-- frames received and not delivered until their group's tag verifies, oldest first (R326); reset empty -/
  rxGroup : List (List Word) := []
  /-- 16 bits each: `replays`, `crc_err`; reset 0 -/
  replays : BitVec 16 := 0
  crcErr : BitVec 16 := 0
  /-- the last 16 one-way delays, newest first (R323); reset empty -/
  delays : List (BitVec 48) := []
  /-- 1 bit each: `tag_fail`, `down_seen`; reset 0 -/
  tagFail : Bool := false
  downSeen : Bool := false
  /-- it was down since it was last up, so that 0x0D20 + k is due (R321); reset 0 -/
  wasDown : Bool := false
  deriving DecidableEq, Repr, Inhabited

/-- A span transaction (R314, 13). -/
structure Stx where
  /-- the local request -/
  req : NReq
  /-- destination device -/
  ddev : BitVec 12
  /-- the port its REQ left on -/
  port : BitVec 4
  deriving DecidableEq, Repr, Inhabited

/-- A request of another device that the SPN initiator issued here (R315, 13). -/
structure RemTx where
  /-- its `sdev` and `stid` -/
  sdev : BitVec 12
  stid : BitVec 10
  /-- the order tag and type of the request -/
  otag : BitVec 4
  typ : BitVec 4
  /-- `txid` at the SPN initiator port -/
  txid : BitVec 16
  deriving DecidableEq, Repr, Inhabited

/-- A route entry that drains (R318, 13). -/
structure RtDrain where
  dev : BitVec 12
  entry : BitVec 4
  deriving DecidableEq, Repr, Inhabited

/-- The span block (13). -/
structure Span where
  /-- span ports 0 to 11 -/
  port : Store SpPort := []
  /-- 12 bits: `port_en`; reset: settings -/
  portEn : BitVec 12 := 0
  /-- 12 bits: `dev_id`; reset: settings -/
  devId : BitVec 12 := 0
  /-- 1 bit: `SPN_STATUS.wr_ign`; reset 0 -/
  wrIgn : Bool := false
  /-- 1 bit: `tb_lost`; reset 0 -/
  tbLost : Bool := false
  /-- no mark has been applied since the follower started or since `tb_lost` (R324); reset 1 -/
  firstMark : Bool := true
  /-- error that is being slewed, in 1/64 ns, signed (R324); reset 0 -/
  slew : Int := 0
  /-- routing table `SPN_RT`, 512 words (R317); reset 0xFFFFFFFF -/
  rt : Store Word := []
  /-- entries that drain, oldest first (R318); reset empty -/
  drains : List RtDrain := []
  /-- frames in transit to devices whose entry drains, oldest first, each with its channel, a REQ with its DATA frames (R318); reset empty -/
  stalled : List (Nat × List (List Word)) := []
  /-- span transactions by `stid` (R314); reset none -/
  stx : Store (Option Stx) := []
  /-- whole REQ packets that wait for the SPN initiator, oldest first, with their arrival port (R315); reset empty -/
  reqIn : List (Nat × List (List Word)) := []
  /-- requests of other devices in service here (R315); reset empty -/
  rem : List RemTx := []
  deriving DecidableEq, Repr, Inhabited

end Sys2Proof.Machine
end

