-- ==== Sys2Proof/Machine/StTst.lean ====
section
/-! DEFINITION. The state of self-test, repair records, telemetry and background work. File 21. -/

namespace Sys2Proof.Machine

/-- The state of a compute die that a die test keeps in its save area (step 3 of R476, 21). -/
structure DieSave where
  /-- what its sectors were, by die × 192 + sector -/
  sectors : Store Sector := []
  /-- frames 0 to 511 as the configuration plane and the instruction stores hold them, and the block memories that are frames 512 to 606 -/
  frames : Store Word := []
  bm : Store BlockMem := []
  /-- the flip-flop image -/
  ffs : Store Bool := []
  /-- the deep memories -/
  dm : Store DeepMem := []
  /-- X and Y memories and register sets of the SDUs -/
  sdu : Store Sdu := []
  deriving DecidableEq, Repr, Inhabited

/-- A self-test that runs (R474 to R476, 21). -/
structure BistRun where
  /-- the command, none for a background test (R479) -/
  cmd : Option CmdId
  /-- kind 0x2, the whole die -/
  whole : Bool
  /-- compute die -/
  die : Fin 4
  /-- logical sector, kind 0x1 -/
  sec : Fin 192
  /-- 5 bits: test set, 0 all -/
  set : BitVec 5
  /-- the sector was loaded when the test began (R475) -/
  loaded : Bool
  /-- the sector was held blank, not blank, when the test began (R475) -/
  held : Bool := false
  /-- what a die test saved (R476) -/
  save : DieSave := {}
  /-- a die test is over and waits for the rejoin of its die: the sectors whose rows failed (R476); reset none -/
  tested : Option (List Nat) := none
  deriving DecidableEq, Repr, Inhabited

/-- Cooling (R468, 21). -/
structure Cooling where
  /-- RESET_DEVICE began it: the device leaves Greenware by itself (R53) -/
  reset : Bool
  /-- 1 bit: skip self-test -/
  skip : Bool
  /-- sector rows tested: die, column, row and whether it failed, newest first -/
  rows : List (Fin 4 × Fin 16 × Fin 13 × Bool) := []
  deriving DecidableEq, Repr, Inhabited

/-- Limits on a telemetry item (R481, 21). -/
structure TelLimit where
  /-- 32 bits each: high and low limit; disabled when 0x7FFF_FFFF and 0x8000_0000 -/
  hi : Word := 0x7FFFFFFF
  lo : Word := 0x80000000
  /-- an excursion has been noticed -/
  out : Bool := false
  deriving DecidableEq, Repr, Inhabited

/-- The newest verifying repair record (R471 to R473, 21). -/
structure Record where
  /-- 32 bits: `sequence`; reset 0 -/
  seq : Word := 0
  /-- slot 0 to 7; reset none -/
  slot : Option (Fin 8) := none
  /-- entries, four words each; reset empty -/
  entries : List (Word × Word × Word × Word) := []
  deriving DecidableEq, Repr, Inhabited

/-- Self-test and background work (21). -/
structure Tst where
  /-- self-tests that run, at most one a die; reset empty -/
  bist : List BistRun := []
  /-- last summary word and position by target: die × 256 + sector, or 1024 + die (R474); reset none -/
  result : Store (Word × Word) := []
  /-- Cooling in progress; reset none -/
  cooling : Option Cooling := none
  /-- the newest record -/
  record : Record := {}
  /-- entries to add and entries to remove that wait for a record write (R473); reset empty -/
  add : List (Word × Word × Word × Word) := []
  del : List (Word × Word × Word × Word) := []
  /-- lanes marked failed in this start: bundle and lane (R468); reset empty -/
  lanes : List (BitVec 7 × BitVec 7) := []
  /-- 1 bit: `scan`, and the dies named (R478); reset 0 -/
  scan : Bool := false
  scanDies : BitVec 5 := 0
  /-- last sample by item: value and position (R480); reset none -/
  tel : Store (Option (Word × Word)) := []
  /-- limits by item (R481) -/
  limit : Store TelLimit := []
  /-- 32 bits: `TST_BG_CFG`; reset 168 -/
  bgCfg : Word := 168
  /-- 32 bits each: `TST_SAVE_LO`, `TST_SAVE_HI`; reset 0 -/
  saveLo : Word := 0
  saveHi : Word := 0
  /-- 16 bits: `tel_period_ms`; reset 100 -/
  telPeriod : BitVec 16 := 100
  /-- per die, the blank sector the background test takes next (R479); reset 0 DESIGN CHOICE (log 20) -/
  bgNext : Store Nat := []
  deriving DecidableEq, Repr, Inhabited

end Sys2Proof.Machine
end

