-- ==== Sys2Proof/Machine/StWds.lean ====
section
/-! DEFINITION. The state of the work dispatcher. File 16. -/

namespace Sys2Proof.Machine

/-- An item the dispatcher holds (R375, R382, R388; 16). -/
structure WItem where
  /-- 256 bits: the item as written -/
  bits : BitVec 256 := 0
  /-- 20 bits: flow -/
  flow : BitVec 20 := 0
  /-- 3 bits: `prio` -/
  prio : BitVec 3 := 0
  /-- 8 bits: `tries` -/
  tries : Byte := 0
  /-- its payload is lost (`err`) -/
  err : Bool := false
  /-- a proxied item's origin device, context and ticket (R388) -/
  origin : Option (BitVec 12 × BitVec 8 × BitVec 16) := none
  deriving DecidableEq, Repr, Inhabited

/-- A block of a queue's ring: up to 8 items (R381, 16). -/
structure RBlock where
  /-- its place in the ring, in blocks -/
  slot : Nat := 0
  /-- items in it and not yet refilled, earliest first -/
  items : List WItem := []
  /-- items of the block that refill has already moved -/
  moved : Nat := 0
  /-- its spill write was issued, and was answered OK -/
  sent : Bool := false
  written : Bool := false
  /-- its spill write failed and has not been answered OK since (R382) -/
  failed : Bool := false
  deriving DecidableEq, Repr, Inhabited

/-- A ready queue (R377 to R382, 16). -/
structure WQueue where
  /-- 3 bits: `qprio`; reset 0 -/
  qprio : BitVec 3 := 0
  /-- 1 bit each: `use_iprio`, `en`, `spill`; reset 0 -/
  useIprio : Bool := false
  en : Bool := false
  spill : Bool := false
  /-- 17 bits: `ondie_max`; reset 0: acts as 65,536 -/
  ondieMax : BitVec 17 := 0
  /-- on-die items, earliest first; reset empty -/
  items : List WItem := []
  /-- blocks of the ring, earliest first (R381); reset empty -/
  ring : List RBlock := []
  /-- place of the next block in the ring (R381); reset 0 -/
  ringPos : Nat := 0
  /-- a refill read of the head block is outstanding, with its response once it has come (R382); reset none -/
  refill : Option (Option NRsp) := none
  /-- spill stopped under R382; reset 0 -/
  stopped : Bool := false
  /-- enqueues refused since the last WDS_STATUS (R380); reset 0 -/
  refused : Nat := 0
  deriving DecidableEq, Repr, Inhabited

/-- An item in service (R385, R386; 16). -/
structure InService where
  item : WItem
  /-- 16 bits: ticket -/
  ticket : BitVec 16
  /-- queue it came from -/
  queue : BitVec 10
  deriving DecidableEq, Repr, Inhabited

/-- A worker context (R383 to R388, 16). -/
structure WCtx where
  /-- 32 bits each: `WDS_CTX_CFG`, `WDS_CTX_BIND`; reset 0 -/
  cfg : Word := 0
  bind : Word := 0
  /-- 32 bits: `WDS_CTX_TIMER`; reset 0x03E8_03E8 -/
  timer : Word := 0x03E803E8
  /-- 32 bits: `WDS_CTX_REMOTE`; reset 0 -/
  remote : Word := 0
  /-- items in service in dispatch order, at most 16; reset empty -/
  inService : List InService := []
  /-- TAKE reads held, oldest first, at most 16 (R384); none stands for a read that did not come over the network; reset empty -/
  held : List (Option NReq) := []
  /-- 1 bit: `dead`; reset 0 -/
  dead : Bool := false
  deriving DecidableEq, Repr, Inhabited

/-- The work dispatcher (16). -/
structure Wds where
  /-- queues 0 to 1,023 -/
  queue : Store WQueue := []
  /-- contexts 0 to 255 -/
  ctx : Store WCtx := []
  /-- flow lock slots 0 to 16,383: locked, and the context that holds it or none while it waits for re-dispatch (R376, R378); reset unlocked -/
  lock : Store (Option (Option (Fin 256))) := []
  /-- items that wait for re-dispatch with their lock kept, in original dispatch order: queue, item, and a context that refused it (R386,
  R388); reset empty -/
  again : List (BitVec 10 × WItem × Option (Fin 256)) := []
  /-- spill writes and refill reads outstanding at the WDS initiator: `txid`, queue, place in the ring, write (R381, R382); reset empty -/
  issued : List (BitVec 16 × BitVec 10 × Nat × Bool) := []
  /-- answers to enqueues and TAKEs that did not come over the network, oldest first: status and item; reset empty -/
  answers : List (BitVec 4 × BitVec 256) := []
  /-- 16 bits: ticket given next (R385); reset 0 DESIGN CHOICE (log 17) -/
  ticket : BitVec 16 := 0
  /-- queue served last by the round robin (R377); reset 1,023 DESIGN CHOICE (log 17) -/
  rr : BitVec 10 := 1023
  /-- 6 bits: `spill_lsize`; reset 0 -/
  spillLsize : BitVec 6 := 0
  /-- 32 bits each: `WDS_SPILL_LO`, `WDS_SPILL_HI`; reset 0 -/
  spillLo : Word := 0
  spillHi : Word := 0
  /-- 1 bit: `spill_err`; reset 0 -/
  spillErr : Bool := false
  /-- 16 bits each: `redisp`, `stale`; reset 0 -/
  redisp : BitVec 16 := 0
  stale : BitVec 16 := 0
  deriving DecidableEq, Repr, Inhabited

end Sys2Proof.Machine
end

