-- ==== Sys2Proof/Machine/State.lean ====
section
/-! DEFINITION. The state of the block: every register, buffer, queue, counter, mode and pin the spec gives it, the queue of waiting commands,
the ways a step can stop, and the state after reset. The parts of the state are declared in the St files; every default there is the value
at reset. -/

namespace Sys2Proof.Machine

/-- The state of the block. -/
structure State where
  /-- commands that wait, first in first out; reset empty -/
  pending : List Instr := []
  /-- counter the free values are taken at: the model's own, not the spec's; reset 0 DESIGN CHOICE (log 1) -/
  fresh : Nat := 0
  /-- 32 bits: the word that the last register-read command returned to its reader: the model's own, not the spec's; reset 0 DESIGN CHOICE (log 10) -/
  readOut : Word := 0
  /-- 4 bits: operating mode (R4, 00); reset 0x1 -/
  mode : Mode := .greenware
  /-- device manager (02, 17) -/
  mgr : Mgr := {}
  /-- start sequence (03) -/
  boot : Boot := {}
  /-- flash ports (03) -/
  flash : Flash := {}
  /-- settings record in effect (03) -/
  settings : Settings := {}
  /-- fuses and battery-backed key (08) -/
  fuses : Fuses := {}
  /-- always-on island (17) -/
  ao : AlwaysOn := {}
  /-- configuration engine (08, 09) -/
  cfg : Cfg := {}
  /-- fabric (04) -/
  fab : Fabric := {}
  /-- block memories, key (die × 192 + sector) × 21 + memory (05) -/
  bm : Store BlockMem := []
  /-- deep memories, key die × 192 + sector (05) -/
  dm : Store DeepMem := []
  /-- SDUs, key (die × 192 + sector) × 24 + unit (06) -/
  sdu : Store Sdu := []
  /-- I/O banks, key die × 6 + bank (07) -/
  bank : Store Bank := []
  /-- user I/O pins, key (die × 6 + bank) × 48 + pin (07) -/
  pin : Store Pin := []
  /-- network-on-chip (10) -/
  noc : Noc := {}
  /-- die link (11) -/
  adl : Adl := {}
  /-- lanes and PCIe controllers (12) -/
  xcvr : Xcvr := {}
  /-- span link (13) -/
  span : Span := {}
  /-- DDR5 controllers and DRAM (14) -/
  ddr : Ddr := {}
  /-- encryption engine (15) -/
  mee : Mee := {}
  /-- work dispatcher (16) -/
  wds : Wds := {}
  /-- processors and debug (18) -/
  dbg : Dbg := {}
  /-- clocks, timebase, calendar (19) -/
  clk : Clk := {}
  /-- power (20) -/
  pwr : Pwr := {}
  /-- self-test, repair, telemetry (21) -/
  tst : Tst := {}
  /-- plain read-write register words that no other part holds, by local CSR offset die × 2^28 + offset, as values that differ from the reset value (R12, R29) -/
  regs : Store Word := []
  deriving DecidableEq, Repr, Inhabited

/-- The state right after power-on: Greenware, every field at the value its docstring states. -/
def State.reset : State := {}

/-- Why a step stops. No command of this block stops: the spec gives every command an effect, and one whose operands name nothing the part has
changes nothing (log 11). So there is no fault to name. -/
inductive Fault where
  deriving DecidableEq, Repr

/-- Why the model gives no meaning. -/
inductive Refusal where
  /-- a command the model does not cover yet, raised by its arm in `exec`; safe -/
  | notModelled (mnemonic : String)
  deriving DecidableEq, Repr, Inhabited

end Sys2Proof.Machine
end

