-- ==== Sys2Proof/Machine/Store.lean ====
section
/-! DEFINITION. Reading and writing a sparse store, and its canonical form. -/

namespace Sys2Proof

/-- What key `k` reads as in `m`, when an unlisted key reads as `d`. -/
def sget {α : Type} (d : α) : Store α → Nat → α
  | [], _ => d
  | (k', v) :: m, k => if k = k' then v else sget d m k

/-- `m` without key `k`. -/
def serase {α : Type} : Store α → Nat → Store α
  | [], _ => []
  | (k', v) :: m, k => if k = k' then m else (k', v) :: serase m k

/-- `m` with `v` at key `k`, in rising order of keys. -/
def sinsert {α : Type} : Store α → Nat → α → Store α
  | [], k, v => [(k, v)]
  | (k', w) :: m, k, v => if k < k' then (k, v) :: (k', w) :: m else if k = k' then (k, v) :: m else (k', w) :: sinsert m k v

/-- `m` after writing `v` at key `k`; writing what an unlisted key reads as removes the entry. -/
def sput {α : Type} [DecidableEq α] (d : α) (m : Store α) (k : Nat) (v : α) : Store α :=
  if v = d then serase m k else sinsert m k v

/-- `m` with the value at key `k` changed by `f`. -/
def smod {α : Type} [DecidableEq α] (d : α) (m : Store α) (k : Nat) (f : α → α) : Store α :=
  sput d m k (f (sget d m k))

/-- `m` with `f` applied to every listed value; `f` must keep the default in place. -/
def smap {α : Type} [DecidableEq α] (d : α) (m : Store α) (f : Nat → α → α) : Store α :=
  m.foldr (fun e r => if f e.1 e.2 = d then r else (e.1, f e.1 e.2) :: r) []

/-- `m` without the keys that `p` names. -/
def sdrop {α : Type} (m : Store α) (p : Nat → Bool) : Store α :=
  m.filter (fun e => !p e.1)

/-- Keys strictly rising from a lower bound. -/
def risingFrom {α : Type} : Nat → Store α → Bool
  | _, [] => true
  | b, (k, _) :: m => decide (b ≤ k) && risingFrom (k + 1) m

/-- The canonical form: keys strictly rising, and no entry equal to what an unlisted key reads as. -/
def Store.wf {α : Type} [DecidableEq α] (d : α) (m : Store α) : Bool :=
  risingFrom 0 m && m.all (fun e => decide (e.2 ≠ d))

end Sys2Proof
end

