-- ==== Sys2Proof/Machine/Ops.lean ====
section
/-! DEFINITION. The named operations over the parts of the state: updating one part, reading and writing one element of a store, the plain
registers, and the free values. -/

namespace Sys2Proof

/-- Key of a logical sector. -/
def SecId.key (x : SecId) : Nat := x.die.val * 192 + x.sec.val
/-- Key of a sequenced DSP unit. -/
def SduId.key (u : SduId) : Nat := (u.die.val * 192 + u.sec.val) * 24 + u.unit.val
/-- Key of the sector a sequenced DSP unit is in. -/
def SduId.sk (u : SduId) : Nat := u.die.val * 192 + u.sec.val
/-- Key of a block memory. -/
def BmId.key (b : BmId) : Nat := (b.die.val * 192 + b.sec.val) * 21 + b.mem.val
/-- Key of a pin. -/
def PinId.key (p : PinId) : Nat := (p.die.val * 6 + p.bank.val) * 48 + p.pin.val
/-- Key of a lane. -/
def LaneId.key (l : LaneId) : Nat := l.die.val * 48 + l.lane.val

end Sys2Proof

namespace Sys2Proof.Machine

/-- Update `mgr`. -/
def State.onMgr (f : Mgr → Mgr) (s : State) : State := { s with mgr := f s.mgr }
/-- Update `boot`. -/
def State.onBoot (f : Boot → Boot) (s : State) : State := { s with boot := f s.boot }
/-- Update `flash`. -/
def State.onFlash (f : Flash → Flash) (s : State) : State := { s with flash := f s.flash }
/-- Update `settings`. -/
def State.onSettings (f : Settings → Settings) (s : State) : State := { s with settings := f s.settings }
/-- Update `fuses`. -/
def State.onFuses (f : Fuses → Fuses) (s : State) : State := { s with fuses := f s.fuses }
/-- Update `ao`. -/
def State.onAo (f : AlwaysOn → AlwaysOn) (s : State) : State := { s with ao := f s.ao }
/-- Update `cfg`. -/
def State.onCfg (f : Cfg → Cfg) (s : State) : State := { s with cfg := f s.cfg }
/-- Update `fab`. -/
def State.onFab (f : Fabric → Fabric) (s : State) : State := { s with fab := f s.fab }
/-- Update `noc`. -/
def State.onNoc (f : Noc → Noc) (s : State) : State := { s with noc := f s.noc }
/-- Update `adl`. -/
def State.onAdl (f : Adl → Adl) (s : State) : State := { s with adl := f s.adl }
/-- Update `xcvr`. -/
def State.onXcvr (f : Xcvr → Xcvr) (s : State) : State := { s with xcvr := f s.xcvr }
/-- Update `span`. -/
def State.onSpan (f : Span → Span) (s : State) : State := { s with span := f s.span }
/-- Update `ddr`. -/
def State.onDdr (f : Ddr → Ddr) (s : State) : State := { s with ddr := f s.ddr }
/-- Update `mee`. -/
def State.onMee (f : Mee → Mee) (s : State) : State := { s with mee := f s.mee }
/-- Update `wds`. -/
def State.onWds (f : Wds → Wds) (s : State) : State := { s with wds := f s.wds }
/-- Update `dbg`. -/
def State.onDbg (f : Dbg → Dbg) (s : State) : State := { s with dbg := f s.dbg }
/-- Update `clk`. -/
def State.onClk (f : Clk → Clk) (s : State) : State := { s with clk := f s.clk }
/-- Update `pwr`. -/
def State.onPwr (f : Pwr → Pwr) (s : State) : State := { s with pwr := f s.pwr }
/-- Update `tst`. -/
def State.onTst (f : Tst → Tst) (s : State) : State := { s with tst := f s.tst }

/-- Apply `f` when `b` holds, and otherwise change nothing. -/
def State.when (b : Bool) (f : State → State) (s : State) : State := if b then f s else s

/-- Fold a state change over a list. -/
def State.each {α : Type} (l : List α) (f : α → State → State) (s : State) : State := l.foldl (fun t a => f a t) s

/-- The free value of width `w` at this point of the run, and the state with the counter advanced (log 1). -/
def State.take (s : State) (w : Nat) : BitVec w × State := (Config.free w s.fresh, { s with fresh := s.fresh + 1 })

/-- A register read returns its word to the reader (log 10). -/
def State.readTo (r : Word × State) : State := { r.2 with readOut := r.1 }

/-- Advance the counter of the free values. -/
def State.nextFree (s : State) : State := { s with fresh := s.fresh + 1 }


/-- `bm` at a key. -/
def State.bmAt (s : State) (b : BmId) : BlockMem := sget {} s.bm b.key
/-- Change it. -/
def State.bmAtMod (b : BmId) (f : BlockMem → BlockMem) (s : State) : State := { s with bm := smod {} s.bm b.key f }
/-- `dm` at a key. -/
def State.dmAt (s : State) (c : SecId) : DeepMem := sget {} s.dm c.key
/-- Change it. -/
def State.dmAtMod (c : SecId) (f : DeepMem → DeepMem) (s : State) : State := { s with dm := smod {} s.dm c.key f }
/-- `sdu` at a key. -/
def State.sduAt (s : State) (u : SduId) : Sdu := sget {} s.sdu u.key
/-- Change it. -/
def State.sduAtMod (u : SduId) (f : Sdu → Sdu) (s : State) : State := { s with sdu := smod {} s.sdu u.key f }
/-- `bank` at a key. -/
def State.bankAt (s : State) (n : Nat) : Bank := sget {} s.bank n
/-- Change it. -/
def State.bankAtMod (n : Nat) (f : Bank → Bank) (s : State) : State := { s with bank := smod {} s.bank n f }
/-- `pin` at a key. -/
def State.pinAt (s : State) (q : PinId) : Pin := sget {} s.pin q.key
/-- Change it. -/
def State.pinAtMod (q : PinId) (f : Pin → Pin) (s : State) : State := { s with pin := smod {} s.pin q.key f }
/-- `cfg.sectors` at a key. -/
def State.secAt (s : State) (n : Nat) : Sector := sget {} s.cfg.sectors n
/-- Change it. -/
def State.secAtMod (n : Nat) (f : Sector → Sector) (s : State) : State := s.onCfg (fun p => { p with sectors := smod {} p.sectors n f })
/-- `cfg.regions` at a key. -/
def State.regionAt (s : State) (n : Nat) : Region := sget {} s.cfg.regions n
/-- Change it. -/
def State.regionAtMod (n : Nat) (f : Region → Region) (s : State) : State := s.onCfg (fun p => { p with regions := smod {} p.regions n f })
/-- `fab.bridge` at a key. -/
def State.bridgeAt (s : State) (n : Nat) : BridgeGroup := sget {} s.fab.bridge n
/-- Change it. -/
def State.bridgeAtMod (n : Nat) (f : BridgeGroup → BridgeGroup) (s : State) : State := s.onFab (fun p => { p with bridge := smod {} p.bridge n f })
/-- `noc.chan` at a key. -/
def State.chanAt (s : State) (n : Nat) : Channel := sget {} s.noc.chan n
/-- Change it. -/
def State.chanAtMod (n : Nat) (f : Channel → Channel) (s : State) : State := s.onNoc (fun p => { p with chan := smod {} p.chan n f })
/-- `noc.iport` at a key. -/
def State.iportAt (s : State) (n : Nat) : IPort := sget {} s.noc.iport n
/-- Change it. -/
def State.iportAtMod (n : Nat) (f : IPort → IPort) (s : State) : State := s.onNoc (fun p => { p with iport := smod {} p.iport n f })
/-- `noc.tport` at a key. -/
def State.tportAt (s : State) (n : Nat) : TPort := sget {} s.noc.tport n
/-- Change it. -/
def State.tportAtMod (n : Nat) (f : TPort → TPort) (s : State) : State := s.onNoc (fun p => { p with tport := smod {} p.tport n f })
/-- `noc.die` at a key. -/
def State.nocDieAt (s : State) (n : Nat) : NocDie := sget {} s.noc.die n
/-- Change it. -/
def State.nocDieAtMod (n : Nat) (f : NocDie → NocDie) (s : State) : State := s.onNoc (fun p => { p with die := smod {} p.die n f })
/-- `adl.bundle` at a key. -/
def State.bundleAt (s : State) (n : Nat) : Bundle := sget {} s.adl.bundle n
/-- Change it. -/
def State.bundleAtMod (n : Nat) (f : Bundle → Bundle) (s : State) : State := s.onAdl (fun p => { p with bundle := smod {} p.bundle n f })
/-- `adl.boundary` at a key. -/
def State.bndAt (s : State) (n : Nat) : Boundary := sget {} s.adl.boundary n
/-- Change it. -/
def State.bndAtMod (n : Nat) (f : Boundary → Boundary) (s : State) : State := s.onAdl (fun p => { p with boundary := smod {} p.boundary n f })
/-- `adl.die` at a key. -/
def State.dieAt (s : State) (n : Nat) : DieLink := sget {} s.adl.die n
/-- Change it. -/
def State.dieAtMod (n : Nat) (f : DieLink → DieLink) (s : State) : State := s.onAdl (fun p => { p with die := smod {} p.die n f })
/-- `xcvr.lane` at a key. -/
def State.laneAt (s : State) (l : LaneId) : Lane := sget {} s.xcvr.lane l.key
/-- Change it. -/
def State.laneAtMod (l : LaneId) (f : Lane → Lane) (s : State) : State := s.onXcvr (fun p => { p with lane := smod {} p.lane l.key f })
/-- `span.port` at a key. -/
def State.portAt (s : State) (n : Nat) : SpPort := sget {} s.span.port n
/-- Change it. -/
def State.portAtMod (n : Nat) (f : SpPort → SpPort) (s : State) : State := s.onSpan (fun p => { p with port := smod {} p.port n f })
/-- `ddr.chan` at a key. -/
def State.ddrAt (s : State) (n : Nat) : Chan := sget {} s.ddr.chan n
/-- Change it. -/
def State.ddrAtMod (n : Nat) (f : Chan → Chan) (s : State) : State := s.onDdr (fun p => { p with chan := smod {} p.chan n f })
/-- `mee.slot` at a key. -/
def State.slotAt (s : State) (n : Nat) : Slot := sget {} s.mee.slot n
/-- Change it. -/
def State.slotAtMod (n : Nat) (f : Slot → Slot) (s : State) : State := s.onMee (fun p => { p with slot := smod {} p.slot n f })
/-- `mee.region` at a key. -/
def State.mregAt (s : State) (n : Nat) : MRegion := sget {} s.mee.region n
/-- Change it. -/
def State.mregAtMod (n : Nat) (f : MRegion → MRegion) (s : State) : State := s.onMee (fun p => { p with region := smod {} p.region n f })
/-- `wds.queue` at a key. -/
def State.queueAt (s : State) (n : Nat) : WQueue := sget {} s.wds.queue n
/-- Change it. -/
def State.queueAtMod (n : Nat) (f : WQueue → WQueue) (s : State) : State := s.onWds (fun p => { p with queue := smod {} p.queue n f })
/-- `wds.ctx` at a key. -/
def State.ctxAt (s : State) (n : Nat) : WCtx := sget {} s.wds.ctx n
/-- Change it. -/
def State.ctxAtMod (n : Nat) (f : WCtx → WCtx) (s : State) : State := s.onWds (fun p => { p with ctx := smod {} p.ctx n f })
/-- `dbg.hart` at a key. -/
def State.hartAt (s : State) (n : Nat) : Hart := sget {} s.dbg.hart n
/-- Change it. -/
def State.hartAtMod (n : Nat) (f : Hart → Hart) (s : State) : State := s.onDbg (fun p => { p with hart := smod {} p.hart n f })
/-- `dbg.wdt` at a key. -/
def State.wdtAt (s : State) (n : Nat) : Watchdog := sget {} s.dbg.wdt n
/-- Change it. -/
def State.wdtAtMod (n : Nat) (f : Watchdog → Watchdog) (s : State) : State := s.onDbg (fun p => { p with wdt := smod {} p.wdt n f })
/-- `clk.dom` at a key. -/
def State.domAt (s : State) (n : Nat) : ClkDom := sget {} s.clk.dom n
/-- Change it. -/
def State.domAtMod (n : Nat) (f : ClkDom → ClkDom) (s : State) : State := s.onClk (fun p => { p with dom := smod {} p.dom n f })
/-- `clk.cal` at a key. -/
def State.calAt (s : State) (n : Nat) : CalEnt := sget {} s.clk.cal n
/-- Change it. -/
def State.calAtMod (n : Nat) (f : CalEnt → CalEnt) (s : State) : State := s.onClk (fun p => { p with cal := smod {} p.cal n f })
/-- `pwr.dom` at a key. -/
def State.pdomAt (s : State) (n : Nat) : PDom := sget {} s.pwr.dom n
/-- Change it. -/
def State.pdomAtMod (n : Nat) (f : PDom → PDom) (s : State) : State := s.onPwr (fun p => { p with dom := smod {} p.dom n f })
/-- `tst.limit` at a key. -/
def State.limitAt (s : State) (n : Nat) : TelLimit := sget {} s.tst.limit n
/-- Change it. -/
def State.limitAtMod (n : Nat) (f : TelLimit → TelLimit) (s : State) : State := s.onTst (fun p => { p with limit := smod {} p.limit n f })

/-- Offset of a block within a die's CSR range (R30, 01). -/
def blkMgr : Nat := 0x0000000
def blkCfg : Nat := 0x0100000
def blkNoc : Nat := 0x0200000
def blkAdl : Nat := 0x0300000
def blkClk : Nat := 0x0400000
def blkPwr : Nat := 0x0500000
def blkTst : Nat := 0x0600000
def blkDbg : Nat := 0x0700000
def blkLane : Nat := 0x0800000
def blkSpn : Nat := 0x0900000
def blkDdr : Nat := 0x0A00000
def blkMee : Nat := 0x0B00000
def blkWds : Nat := 0x0C00000
def blkTbc : Nat := 0x0D00000

/-- Reset value of a plain read-write register of a die, by offset: the Reset columns of the register maps of 10, 11, 13 and 14. -/
def regReset (off : Nat) : Word :=
  if off = blkNoc + 0xC then 0x40040201
  else if blkNoc + 0x4000 ≤ off ∧ off < blkNoc + 0x8000 ∧ off % 0x20 = 0 then 0x03E80000
  else if off = blkAdl + 0x30 then 0x800003E8
  else if off = blkSpn + 0xC then 0x03E803E8
  else if off = blkSpn + 0x10 then 0x03E80064
  else if blkSpn + 0x100 ≤ off ∧ off < blkSpn + 0x400 ∧ off % 0x40 = 0 then 0x4000
  else if blkDdr ≤ off ∧ off < blkDdr + 0xC0000 ∧ off % 0x10000 = 4 then 0x10103C05
  else if blkDdr ≤ off ∧ off < blkDdr + 0xC0000 ∧ off % 0x10000 = 0x30 then 128
  else 0

/-- A plain read-write register. -/
def State.reg (s : State) (die off : Nat) : Word := sget (regReset off) s.regs (die * 2 ^ 28 + off)
/-- Write a plain read-write register. -/
def State.setReg (die off : Nat) (v : Word) (s : State) : State :=
  { s with regs := sput (regReset off) s.regs (die * 2 ^ 28 + off) v }

end Sys2Proof.Machine
end

