-- ==== Sys2Proof/Machine/NocMap.lean ====
section
/-! DEFINITION. The network's geography: routers, links, bundles, ports, address decoding and routing tables. Files 01, 10, 11 and 14. -/

namespace Sys2Proof.Machine

/-- Router IDs that exist (R235, R237): 24 on a compute die, 16 on H, 2 at a guest site. -/
def routerExists (r : Nat) : Bool :=
  let d := r / 32; let i := r % 32
  (d == 0 && i < 16) || (1 ≤ d && d ≤ 4 && i < 24) || ((d == 5 || d == 6) && i < 2)

/-- Router that port `code` of router `r` joins: 1 N, 2 E, 3 S, 4 W, 5 N2 (R236). -/
def nbr (r code : Nat) : Option Nat :=
  let d := r / 32; let i := r % 32
  if d = 0 then
    let k := i % 8; let south := decide (8 ≤ i)
    match code with
    | 1 => some (if south then k else 32 * (k / 2 + 1) + 2 * (k % 2))
    | 2 => some (if k < 7 then i + 1 else 192 + b2n south)
    | 3 => if south then none else some (k + 8)
    | 4 => some (if 0 < k then i - 1 else 160 + b2n south)
    | 5 => if south then none else some (32 * (k / 2 + 1) + 2 * (k % 2) + 1)
    | _ => none
  else if d ≤ 4 then
    let x := i % 4; let y := i / 4
    match code with
    | 1 => if y < 5 then some (r + 4) else none
    | 2 => if x < 3 then some (r + 1) else if d < 4 then some (r + 32 - 3) else none
    | 3 => if 0 < y then some (r - 4) else some (2 * (d - 1) + x / 2)
    | 4 => if 0 < x then some (r - 1) else if 1 < d then some (r - 32 + 3) else none
    | _ => none
  else if d = 5 ∧ code = 2 then some (8 * i)
  else if d = 6 ∧ code = 4 then some (8 * i + 7)
  else none

/-- Input port code at which router `q` takes flits from router `r` (R236). -/
def inportOf (r q : Nat) : Nat := (([1, 5, 2, 3, 4] : List Nat).find? (fun c => nbr q c == some r)).getD 0

/-- Bundle that carries the link out of port `code` of router `r`, none when the link stays on the die (R263). -/
def linkBundle (r code : Nat) : Option Nat :=
  match nbr r code with
  | none => none
  | some q =>
    let d := r / 32; let e := q / 32; let i := r % 32; let j := q % 32
    if d = e then none
    else if d = 0 then (if e ≤ 4 then some (36 + 8 * (e - 1) + 2 * (j % 4) + 1) else some (68 + 4 * (e - 5) + 2 * j + 1))
    else if e = 0 then (if d ≤ 4 then some (36 + 8 * (d - 1) + 2 * (i % 4)) else some (68 + 4 * (d - 5) + 2 * i))
    else some (12 * (min d e - 1) + 2 * (i / 4) + b2n (decide (e < d)))

/-- Sending router and port of a bundle (R263). -/
def bundleFrom (b : Nat) : Nat × Nat :=
  if b < 36 then
    let k := b / 12; let y := b % 12 / 2
    if b % 2 = 0 then (32 * (k + 1) + 4 * y + 3, 2) else (32 * (k + 2) + 4 * y, 4)
  else if b < 68 then
    let c := (b - 36) / 8; let x := (b - 36) % 8 / 2
    if b % 2 = 0 then (32 * (c + 1) + x, 3) else (2 * c + x / 2, if x % 2 = 0 then 1 else 5)
  else
    let g := (b - 68) / 4; let i := (b - 68) % 4 / 2
    if b % 2 = 0 then (32 * (5 + g) + i, if g = 0 then 2 else 4) else (8 * i + 7 * g, if g = 0 then 4 else 2)

/-- Receiving router of a bundle. -/
def bundleTo (b : Nat) : Nat := (nbr (bundleFrom b).1 (bundleFrom b).2).getD 0

/-- Bundle of the same link in the other direction (R270). -/
def bundleRev (b : Nat) : Nat := if b % 2 = 0 then b + 1 else b - 1

/-- Boundary of a bundle (R263). -/
def bundleBnd (b : Nat) : Nat := if b < 36 then b / 12 else if b < 68 then 3 + (b - 36) / 8 else 7 + (b - 68) / 4

/-- First bundle of a boundary and their number (R15, R263). -/
def bndBundles (k : Nat) : List Nat :=
  if k < 3 then (List.range 12).map (fun i => 12 * k + i)
  else if k < 7 then (List.range 8).map (fun i => 36 + 8 * (k - 3) + i)
  else (List.range 4).map (fun i => 68 + 4 * (k - 7) + i)

/-- Leader and follower dies of a boundary (R263). -/
def bndLeader (k : Nat) : Nat := if k < 3 then k + 1 else 0
def bndFollower (k : Nat) : Nat := if k < 3 then k + 2 else k - 2

/-- Boundary between a die and H. -/
def hubBnd (d : Nat) : Nat := d + 2

/-- Port IDs (R237). -/
def portDie (p : Nat) : Nat := p / 128
def portRouter (p : Nat) : Nat := p / 4
def portMgr : Nat := 0x00C
def portSink : Nat := 0x00D
def portDbg : Nat := 0x010
def portWdsI : Nat := 0x014
def portWdsT : Nat := 0x008
def portApc0 : Nat := 0x004
def portApc1 : Nat := 0x018
def portPcie0 : Nat := 0x02C
def portPcie1 : Nat := 0x030
def portSpn : Nat := 0x02D

/-- Fabric ports: local ports 0 and 1 of every compute router (R237). -/
def isFabricPort (p : Nat) : Bool := 1 ≤ portDie p && portDie p ≤ 4 && p / 4 % 32 < 24 && p % 4 < 2

/-- CSR targets (R237, R246). -/
def isCsrPort (p : Nat) : Bool := p == portSink || (1 ≤ portDie p && portDie p ≤ 4 && p % 128 == 2)

/-- Port ID of a DDR channel (R237). -/
def ddrPort (c : Nat) : Nat := (8 + c / 2 + 2 * b2n (decide (6 ≤ c))) * 4 + c % 2

/-- Channel of a DDR port. -/
def portDdr (p : Nat) : Option Nat := (List.range 12).find? (fun c => ddrPort c == p)

/-- Initiator ports of the part (R237). -/
def isIport (p : Nat) : Bool :=
  isFabricPort p || [portApc0, portMgr, portDbg, portWdsI, portApc1, portPcie0, portSpn, portPcie1].contains p

/-- Target ports of the part (R237). -/
def isTport (p : Nat) : Bool :=
  isFabricPort p || isCsrPort p || (portDdr p).isSome || [portWdsT, portPcie0, portSpn, portPcie1].contains p

/-- Port sector of a fabric port (R253). -/
def fabricPortSector (p : Nat) : Nat × Nat :=
  let i := p / 4 % 32
  (portDie p - 1, (2 * (i / 4) + p % 4) * 16 + 4 * (i % 4) + 2)

/-- Default route of router `r` to destination router `t` (R260). -/
def routeDefault (r t : Nat) : Nat :=
  let d := r / 32; let i := r % 32; let e := t / 32; let j := t % 32
  if !routerExists t then 0xF
  else if r = t then 0
  else if 1 ≤ d ∧ d ≤ 4 then
    if 1 ≤ e ∧ e ≤ 4 then
      let gx := 4 * (d - 1) + i % 4; let hx := 4 * (e - 1) + j % 4
      if gx < hx then 2 else if hx < gx then 4 else if i / 4 < j / 4 then 1 else 3
    else 3
  else if d = 0 then
    let k := i % 8; let south := decide (8 ≤ i)
    if e = 0 then
      let m := j % 8
      if south then 1
      else if k < m then 2 else if m < k then 4 else 3
    else if e ≤ 4 then
      let m := 2 * (e - 1) + j % 4 / 2
      if south then 1
      else if k < m then 2 else if m < k then 4 else if j % 2 = 0 then 1 else 5
    else
      let m := if e = 5 then 0 else 7
      if south then (if k = m ∧ j = 1 then (if e = 5 then 4 else 2) else 1)
      else if k < m then 2 else if m < k then 4 else if j = 1 then 3 else (if e = 5 then 4 else 2)
  else if d = 5 then 2 else 4

/-- Entry of the active set before any alternate entries (R257, R259). -/
def State.rtBase (s : State) (r t : Nat) : Nat :=
  let key := r * 32 + t / 8
  let dflt := if s.noc.rtDefault then (List.range 8).foldl (fun a i => a + routeDefault r (8 * (t / 8) + i) * 16 ^ i) 0 else 0xFFFFFFFF
  (sget (wd dflt) s.noc.rtActive key).toNat / 16 ^ (t % 8) % 16

/-- Whether the route from `r` to `t` under the entries `f` crosses bundle `b`, within `n` hops. -/
def routeCrosses (f : Nat → Nat → Nat) (b t : Nat) : Nat → Nat → Bool
  | 0, _ => false
  | n + 1, r =>
    let e := f r t
    linkBundle r e == some b || (match nbr r e with | some q => routeCrosses f b t n q | none => false)

/-- Entries of the active set with the alternate entries of the bundles listed, newest first (R261): an alternate set differs only in
entries whose route crosses its link. What MGR holds there is not stated (log 22). -/
def rtWith (f : Nat → Nat → Nat) : List (Fin 76) → Nat → Nat → Nat
  | [], r, t => f r t
  | b :: bs, r, t => if routeCrosses (rtWith f bs) b.val t 32 r then (Config.altEntry b.val r t).toNat else rtWith f bs r t

/-- Entry of the active set (R257). -/
def State.route (s : State) (r t : Nat) : Nat := rtWith s.rtBase s.noc.alts r t

/-- The own device ID (R309, 13). -/
def State.devId (s : State) : Nat := s.span.devId.toNat

/-- A die is offline (R28): not joined, and not a named terminator. -/
def State.dieOffline (s : State) (d : Nat) : Bool :=
  d != 0 && !((s.dieAt d).dstate == 2 || (s.dieAt d).terminator)

/-- Interleave set, ascending (R331). -/
def State.ddrSet (s : State) : List Nat := (List.range 12).filter (fun c => bit s.ddr.set c)

/-- Channel and channel address of a local DRAM address, none above the installed capacity or while the range is closed (R24, R332, R334). -/
def State.dramMap (s : State) (a : Nat) : Option (Nat × Nat) :=
  let l := s.ddrSet; let n := l.length
  if s.ddr.isOpen ∧ 0 < n ∧ a < n * s.ddr.usable * 1048576 then
    some (l.getD (a / 256 % n) 0, a / 256 / n * 256 + a % 256)
  else none

/-- Local DRAM address of a channel address: the inverse of `dramMap` on the interleave set. -/
def State.dramLocal (s : State) (c ca : Nat) : Nat :=
  let l := s.ddrSet
  (ca / 256 * l.length + (l.findIdx (· == c))) * 256 + ca % 256

/-- Fabric window entry e covers a local address (R258). -/
def fwCovers (m : Store Word) (a e : Nat) : Bool :=
  let w0 := sget 0 m (2 * e); let w1 := sget 0 m (2 * e + 1)
  let lsize := fld w1 25 20
  bit w1 31 && w0.toNat * 1048576 / 2 ^ lsize == a / 2 ^ lsize

/-- Fabric target port that claims a local address in a fabric window (R246, R258). -/
def State.fabricTarget (s : State) (a : Nat) : Option Nat :=
  let n := a / 0x10000000000 - 4
  ((List.range 64).map (fun i => 64 * n + i)).find? (fun e => fwCovers s.noc.fwActive a e && decide (fld (sget 0 s.noc.fwActive (2 * e + 1)) 7 3 < 24))
    |>.map (fun e => (n + 1) * 128 + fld (sget 0 s.noc.fwActive (2 * e + 1)) 7 3 * 4 + fld (sget 0 s.noc.fwActive (2 * e + 1)) 0 0)

/-- Where a local address goes: a target port ID, or none for UNMAPPED (R23, R246). -/
def State.localTarget (s : State) (a : Nat) : Option Nat :=
  if a < 0x40000000000 then (s.dramMap a).map (fun x => ddrPort x.1)
  else if a < 0x80000000000 then s.fabricTarget a
  else if a < 0x80100000000 then
    let d := (a - 0x80000000000) / 0x10000000
    if d = 0 then some portSink else if d ≤ 4 then some (d * 128 + 2) else if d ≤ 6 then some (d * 128) else none
  else if 0x90000000000 ≤ a ∧ a < 0xA0000000000 then some (if a < 0x98000000000 then 5 * 128 else 6 * 128)
  else none

/-- Die that a local address belongs to, H for DRAM (R25, R26, R29). -/
def localDie (a : Nat) : Nat :=
  if a < 0x40000000000 then 0
  else if a < 0x80000000000 then a / 0x10000000000 - 3
  else if a < 0x80100000000 then (a - 0x80000000000) / 0x10000000
  else if a < 0x98000000000 then 5 else 6

/-- Route of a device on the span link: a port that is named, none when there is no route (R317, 13). -/
def State.spanRoute (s : State) (dev : Nat) : Option Nat :=
  let e := (sget 0xFFFFFFFF s.span.rt (dev / 8)).toNat / 16 ^ (dev % 8) % 16
  if e < 12 then some e else none

end Sys2Proof.Machine
end

