-- ==== Sys2Proof/Machine/NocCore.lean ====
section
/-! DEFINITION. Flits, packets, and sending requests and responses into the network. File 10. -/

namespace Sys2Proof.Machine

/-- Data bits of a flit. -/
def flitData (f : BitVec 288) : BitVec 256 := f.setWidth 256

/-- Byte b of a flit matches its parity bit: the nine bits hold an odd number of ones (R239). -/
def byteOk (f : BitVec 288) (b : Nat) : Bool :=
  (ones (BitVec.ofNat 8 (f.toNat >>> (8 * b))) + b2n (f.getLsbD (256 + b))) % 2 == 1

/-- A flit with data `d`, whose bytes named by `bad` mismatch their parity. -/
def flitWith (d : BitVec 256) (bad : Nat → Bool) : BitVec 288 :=
  let par := bvOf 32 (fun b => (ones (BitVec.ofNat 8 (d.toNat >>> (8 * b))) % 2 == 0) != bad b)
  par ++ d

/-- A data flit, in the poisoned form when `bad` holds (R239, R241). -/
def mkFlit (d : BitVec 256) (bad : Bool) : BitVec 288 := flitWith d (fun _ => bad)

/-- Number of bytes of a flit whose parity mismatches. -/
def badBytes (f : BitVec 288) : Nat := (List.range 32).foldl (fun n b => n + b2n (!byteOk f b)) 0

/-- A data flit is poisoned (R241). -/
def isPoisoned (f : BitVec 288) : Bool := badBytes f == 32

/-- A link flit (R269, 11): even bytes mismatch, odd bytes match. -/
def isLinkFlit (f : BitVec 288) : Bool := (List.range 32).all (fun b => byteOk f b == (b % 2 == 1))

/-- Number of data flits of a transaction (R240). -/
def dataFlits (addr len : Nat) : Nat := ceilDiv (addr % 32 + len + 1) 32

/-- Header words 0 and 1 of a request (R239). -/
def reqHeader (r : NReq) : BitVec 256 :=
  let w0 := r.typ.toNat * 2 ^ 28 + r.otag.toNat * 2 ^ 24 + r.qos.toNat * 2 ^ 22 + b2n r.hpoison * 2 ^ 21 + b2n r.insp * 2 ^ 20 + r.src.toNat * 1024 + r.dst.toNat
  let w1 := r.txid.toNat * 65536 + r.aop.toNat * 256 + r.len.toNat
  let w4 := r.fwg.toNat * 4096 + r.sdev.toNat
  BitVec.ofNat 256 (w0 + w1 * 2 ^ 32 + r.addr.toNat * 2 ^ 64 + w4 * 2 ^ 128 + w0 * 2 ^ 192 + w1 * 2 ^ 224)

/-- Header of a response (R239): the address is zero. -/
def rspHeader (r : NRsp) : BitVec 256 :=
  let w0 := r.typ.toNat * 2 ^ 28 + r.otag.toNat * 2 ^ 24 + r.qos.toNat * 2 ^ 22 + b2n r.hpoison * 2 ^ 21 + r.src.toNat * 1024 + r.dst.toNat
  let w1 := r.txid.toNat * 65536 + r.status.toNat * 4096 + r.aop.toNat * 256 + r.len.toNat
  BitVec.ofNat 256 (w0 + w1 * 2 ^ 32 + w0 * 2 ^ 192 + w1 * 2 ^ 224)

/-- A header byte has no good copy: routers leave its parity bad in both, by which the error sink knows the packet (R241; log 35). -/
def headerLost (f : BitVec 288) : Bool := (List.range 8).any (fun b => !byteOk f b && !byteOk f (24 + b))

/-- Data flits with their poison marks. -/
def dataFlitsOf (data : List (BitVec 256)) (bad : List Bool) : List (BitVec 288) :=
  (List.range data.length).map (fun i => mkFlit (data.getD i 0) (bad.getD i false))

/-- Packet of a request and of a response (R239). -/
def reqPacket (r : NReq) : List (BitVec 288) := mkFlit (reqHeader r) false :: dataFlitsOf r.data r.bad
def rspPacket (r : NRsp) : List (BitVec 288) := mkFlit (rspHeader r) false :: dataFlitsOf r.data r.bad

/-- Type of a header flit, and whether it is a response (R243). -/
def hdrType (f : BitVec 288) : Nat := fld f 31 28
def hdrIsRsp (f : BitVec 288) : Bool := 8 ≤ hdrType f

/-- Data flits of a packet whose header is `f` (R240, R243). A response header carries no address, so the length of a read response is that
of the read it answers, which its initiator port holds; for an initiator outside the part the address counts as aligned (DEDUCED, log 23). -/
def State.hdrFlits (s : State) (f : BitVec 288) : Nat :=
  let ip := s.iportAt (fld f 9 0); let tx : BitVec 16 := BitVec.ofNat 16 (fld f 63 48)
  match hdrType f with
  | 1 => dataFlits (fld f 95 64) (fld f 39 32)
  | 2 => 1
  | 8 =>
    if fld f 47 44 = 0 ∨ fld f 47 44 = 4 then
      match ip.out.find? (fun o => o.req.txid == tx) with
      | some o => dataFlits o.req.addr.toNat o.req.len.toNat
      | none => match ip.ended.find? (fun e => e.1 == tx) with
        | some e => e.2.2
        | none => dataFlits 0 (fld f 39 32)
    else 0
  | 10 => if fld f 47 44 = 0 then 1 else 0
  | _ => 0

/-- Virtual channel of a header: the class of a request, 4 for a response (R250). -/
def hdrVc (f : BitVec 288) : Nat := if hdrIsRsp f then 4 else fld f 23 22

/-- A request read back from its packet. -/
def reqOfPacket (fs : List (BitVec 288)) : NReq :=
  let h := fs.headD 0
  { typ := BitVec.ofNat 4 (fld h 31 28), otag := BitVec.ofNat 4 (fld h 27 24), qos := BitVec.ofNat 2 (fld h 23 22), hpoison := bit h 21,
    insp := bit h 20, src := BitVec.ofNat 10 (fld h 19 10), dst := BitVec.ofNat 10 (fld h 9 0), txid := BitVec.ofNat 16 (fld h 63 48),
    aop := BitVec.ofNat 4 (fld h 43 40), len := BitVec.ofNat 8 (fld h 39 32), addr := BitVec.ofNat 64 (fld h 127 64),
    fwg := BitVec.ofNat 5 (fld h 144 140), sdev := BitVec.ofNat 12 (fld h 139 128), data := fs.tail.map flitData, bad := fs.tail.map isPoisoned }

/-- A response read back from its packet. -/
def rspOfPacket (fs : List (BitVec 288)) : NRsp :=
  let h := fs.headD 0
  { typ := BitVec.ofNat 4 (fld h 31 28), otag := BitVec.ofNat 4 (fld h 27 24), qos := BitVec.ofNat 2 (fld h 23 22), hpoison := bit h 21,
    src := BitVec.ofNat 10 (fld h 19 10), dst := BitVec.ofNat 10 (fld h 9 0), txid := BitVec.ofNat 16 (fld h 63 48),
    status := BitVec.ofNat 4 (fld h 47 44), aop := BitVec.ofNat 4 (fld h 43 40), len := BitVec.ofNat 8 (fld h 39 32),
    data := fs.tail.map flitData, bad := fs.tail.map isPoisoned }

/-- Response statuses (R243). -/
def stOk : BitVec 4 := 0
def stUnmapped : BitVec 4 := 1
def stDenied : BitVec 4 := 2
def stOffline : BitVec 4 := 3
def stPoison : BitVec 4 := 4
def stUnsupported : BitVec 4 := 5
def stTimeout : BitVec 4 := 6
def stUnreach : BitVec 4 := 7
def stTargetErr : BitVec 4 := 8

/-- Response of a request from a target or a port (R243): an error carries no data flits. -/
def rspFor (r : NReq) (status : BitVec 4) (data : List (BitVec 256)) (bad : List Bool) : NRsp :=
  let keep := status == stOk || (status == stPoison && r.typ == 0)
  { typ := r.typ + 8, otag := r.otag, qos := r.qos, hpoison := keep && bad.any id, src := r.dst, dst := r.src, txid := r.txid,
    status := status, aop := r.aop, len := r.len, data := if keep then data else [], bad := if keep then bad else [] }

/-- A response is poisoned (R242): its status, its header or one of its data flits says so. -/
def NRsp.poisoned (r : NRsp) : Bool := r.status == stPoison || r.hpoison || r.bad.any id

/-- Key of an input channel of a router. -/
def chanKey (r inport vc : Nat) : Nat := (r * 6 + inport) * 5 + vc

/-- Flits enter the network at the local input of a router. -/
def injectFlits (r vc : Nat) (fs : List (BitVec 288)) (s : State) : State :=
  s.chanAtMod (chanKey r 0 vc) (fun c => { c with buf := c.buf ++ fs })

/-- A target port sends a response (R243). -/
def sendRsp (tp : Nat) (r : NRsp) (s : State) : State := injectFlits (portRouter tp) 4 (rspPacket r) s

/-- Bytes of a transaction placed in its data flits (R240): `bs` at address `a`. -/
def placeBytes (a : Nat) (bs : List Byte) : List (BitVec 256) :=
  (List.range (dataFlits a (bs.length - 1))).map (fun j =>
    bvOf 256 (fun i => let k := 32 * j + i / 8; decide (a % 32 ≤ k) && (bs.getD (k - a % 32) 0).getLsbD (i % 8)))

/-- Bytes of a transaction taken from its data flits. -/
def takeBytes (a n : Nat) (ds : List (BitVec 256)) : List Byte :=
  (List.range n).map (fun k => let q := a % 32 + k; BitVec.ofNat 8 ((ds.getD (q / 32) 0).toNat >>> (8 * (q % 32))))

/-- Data flits that answer a request of `r`'s bytes, from the beats given; a beat not given is a free value (log 146). -/
def beatsFor (r : NReq) (ds : List (BitVec 256)) : List (BitVec 256) :=
  let n := r.len.toNat + 1
  placeBytes r.addr.toNat (takeBytes r.addr.toNat n ((List.range (dataFlits r.addr.toNat r.len.toNat)).map (fun j => ds.getD j (Config.noBeat j))))

/-- A POISON response (R242, R243): that of a read carries its data flits, all poisoned. -/
def poisonRsp (r : NReq) : NRsp :=
  let ds := if r.typ = 0 then beatsFor r [] else []
  rspFor r stPoison ds (ds.map (fun _ => true))

/-- A request breaks R240, or is an atomic of another size (R240, R254). -/
def reqIllFormed (r : NocReq) : Bool :=
  let a := r.addr.toNat; let n := r.len.toNat + 1
  (256 < a % 256 + n) || (r.typ == 2 && !((n == 4 || n == 8) && a % n == 0))

/-- The initiator's firewall group (R255). -/
def State.portFwg (s : State) (p : Nat) : BitVec 5 :=
  if p = portMgr then 31 else if p = portDbg then 30
  else BitVec.ofNat 5 (fld (s.reg (portDie p) (blkNoc + 0x4000 + 0x20 * (p % 128))) 6 2)

/-- The initiator's class (R251). -/
def State.portQos (s : State) (p : Nat) : BitVec 2 :=
  BitVec.ofNat 2 (fld (s.reg (portDie p) (blkNoc + 0x4000 + 0x20 * (p % 128))) 1 0)

/-- A target port serves at the effective rung of its domain (R454): DRAM and the H CSR target at L0 to L3, every other at L0. -/
def State.portServes (s : State) (t : Nat) : Bool :=
  let d := if (portDdr t).isSome then 8 else if t = portPcie0 ∨ t = portPcie1 then 9 else portDie t
  max (s.pdomAt d).rung.toNat (((s.pdomAt d).moving.getD 0).toNat) ≤ (if d = 8 ∨ t = portSink then 3 else 0)

/-- Range of the local map, and window within it, that a local address lies in (R23, R25, R26, R29, R30). -/
def addrRange (l : Nat) : Nat :=
  if l < 0x40000000000 then 0
  else if l < 0x80000000000 then 16 + l / 0x10000000000
  else if l < 0x80100000000 then 64 + (l - 0x80000000000) / 0x10000000
  else if l < 0x90000000000 then 1
  else if l < 0x98000000000 then 2
  else if l < 0xA0000000000 then 3
  else 4

/-- The bytes of a transaction span two ranges of the local map or two of its windows (R27). -/
def State.spansRanges (s : State) (r : NocReq) : Bool :=
  let a := r.addr.toNat % 2 ^ 52; let e := a + r.len.toNat
  r.addr.toNat / 2 ^ 52 == s.devId && (decide (2 ^ 52 ≤ e) || addrRange a != addrRange e)

/-- How an initiator port turns an address into a destination (R28, R34, R246, R317, R454): a port, or a status it forms itself. -/
def State.resolve (s : State) (a : Nat) : Except (BitVec 4) Nat :=
  if a / 2 ^ 52 ≠ s.devId then
    match s.spanRoute (a / 2 ^ 52) with
    | none => .error stUnmapped
    | some k => if (s.portAt k).state != .up then .error stUnreach else if s.portServes portSpn then .ok portSpn else .error stOffline
  else
    let l := a % 2 ^ 52
    match s.localTarget l with
    | some t => if s.dieOffline (localDie l) then .error stOffline
                else if 5 ≤ localDie l ∧ (s.dieAt (localDie l)).terminator then .error stUnmapped
                else if s.portServes t then .ok t else .error stOffline
    | none => .error (if 0x40000000000 ≤ l ∧ l < 0x80000000000 ∧ s.dieOffline (localDie l) then stOffline else stUnmapped)

/-- Initiator port `p` issues a request (R27, R239, R246, R252, R254, R397): the port adds its identity, sends the packet, holds it back behind a
hold, or forms the response itself. `qos`, `fwg` and `sdev` are those of the port or, for the SPN initiator, of the frame (R315). -/
def issueAs (p : Nat) (r : NocReq) (qos : BitVec 2) (fwg : BitVec 5) (sdev : BitVec 12) (hp : Bool) (s : State) : State :=
  let ip := s.iportAt p
  let base : NReq :=
    { typ := r.typ, otag := r.otag, qos := qos, hpoison := hp, insp := r.insp && fwg == 30, src := BitVec.ofNat 10 p, dst := 0, txid := ip.nextId,
      aop := if r.typ = 2 then r.aop else 0, len := r.len, addr := r.addr, fwg := fwg, sdev := sdev, data := r.data, bad := r.bad }
  let enter (o : Outst) : State := s.iportAtMod p (fun q => { q with
    out := q.out ++ [{ o with hart := r.hart, acc := r.acc, issued := r.addr }], nextId := q.nextId + 1 })
  if r.typ = 3 then
    (enter { req := base, sent := true }).iportAtMod p (fun q => { q with fence := some r.otag })
  else if s.spansRanges r then enter { req := base, rsp := some (rspFor base stUnmapped [] []) }
  else if 4 ≤ r.typ.toNat ∨ reqIllFormed r then enter { req := base, rsp := some (rspFor base stUnsupported [] []) }
  else match s.resolve r.addr.toNat with
    | .error st => enter { req := base, rsp := some (rspFor base st [] []) }
    | .ok t =>
      let q := { base with dst := BitVec.ofNat 10 t }
      if ip.holds.contains (BitVec.ofNat 10 t) then enter { req := q, sent := false }
      else injectFlits (portRouter p) qos.toNat (reqPacket q) (enter { req := q })

/-- Power domain of a port (R455): that of its die, and on H those of the application cluster, the DRAM channels and the PCIe controllers. -/
def portDomain (p : Nat) : Nat :=
  if p = portApc0 ∨ p = portApc1 then 7 else if (portDdr p).isSome then 8 else if p = portPcie0 ∨ p = portPcie1 then 9 else portDie p

/-- Clock domain of the network of a die (R427). -/
def netDomain (d : Nat) : Nat := if d = 0 then 3 else d + 3

/-- The clocks of a port have not stopped for want of a fallback: that of its die's network and that of the unit behind it (R427, R434). -/
def State.portClocked (s : State) (p : Nat) : Bool :=
  let unit : Nat :=
    if p = portMgr then 1 else if p = portApc0 ∨ p = portApc1 then 2 else if p = portPcie0 then 58 else if p = portPcie1 then 59
    else if p = portSpn then 60 else if p = portWdsI ∨ p = portWdsT then 61 else if p = portDbg then 63 else netDomain (portDie p)
  decide (5 ≤ portDie p) || ((s.domAt (netDomain (portDie p))).state != .stopped && (s.domAt unit).state != .stopped)

/-- The initiator port's domain runs (R454, R460): it is at L0, or for HUB at L0 to L3, and not on a move; in Cooling and in scan every initiator
port has stopped (R468, R478). -/
def State.portAwake (s : State) (p : Nat) : Bool :=
  let d := s.pdomAt (portDomain p)
  s.portClocked p && d.moving.isNone && decide (d.rung.toNat ≤ (if portDomain p = 0 then 3 else 0)) && s.mode != .cooling && !s.tst.scan

/-- The port takes a request from its issuer: it is awake and not paused, holds no FENCE and no change of class, and has room for a response
(R245, R250 to R252, R261). -/
def State.portTakes (s : State) (p : Nat) : Bool :=
  let ip := s.iportAt p
  isIport p && s.portAwake p && !ip.paused && ip.qosPend.isNone && ip.fence.isNone && decide (ip.out.length < 64)

/-- Issue under the port's own identity. -/
def issue (p : Nat) (r : NocReq) (s : State) : State :=
  issueAs p r (s.portQos p) (s.portFwg p) (BitVec.ofNat 12 s.devId) false s

end Sys2Proof.Machine
end

