-- ==== Sys2Proof/Machine/SpanCore.lean ====
section
/-! DEFINITION. Span frames and their transmission. File 13. -/

namespace Sys2Proof.Machine

/-- A frame without its check word: type, destination, origin, hops, and payload words from word 2 on (R311). -/
def mkFrame (ftype ddev sdev ttl : Nat) (payload : List Word) : List Word :=
  wd (ftype * 2 ^ 28) :: wd (ddev * 2 ^ 20 + sdev % 4096 * 256 + ttl % 256) :: (payload ++ List.replicate (13 - payload.length) 0)

/-- Fields of a frame (R311). -/
def frType (f : List Word) : Nat := fld (wordAt f 0) 31 28
def frSeq (f : List Word) : Nat := fld (wordAt f 0) 27 20
def frDdev (f : List Word) : Nat := fld (wordAt f 1) 31 20
def frSdev (f : List Word) : Nat := fld (wordAt f 1) 19 8
def frTtl (f : List Word) : Nat := fld (wordAt f 1) 7 0

/-- Virtual channel of a sequenced frame other than DATA and TAG, which follow the frame `prev` before them (R311). -/
def frVc (prev : Nat) (f : List Word) : Nat :=
  match frType f with
  | 1 => 0 | 2 => 1 | 4 => 0
  | 5 => if bit (wordAt f 2) 29 then 1 else 0
  | 6 => 2
  | _ => prev

/-- Frames of whole packets with their channels: DATA and TAG frames take that of the frame before. -/
def withVc : Nat → List (List Word) → List (Nat × List Word)
  | _, [] => []
  | prev, f :: fs => (frVc prev f, f) :: withVc (frVc prev f) fs

/-- Symbols of the slots that a frame takes on the four lanes (R310): K27.7 on each, then byte i as data symbol i div 4 on lane i mod 4. -/
def frameSlots (f : List Word) : List (List (Bool × Byte)) :=
  List.replicate 4 (true, 0xFB) :: (List.range 16).map (fun j => (List.range 4).map (fun l => (false, (wordBytes f).getD (4 * j + l) 0)))

/-- Symbols of the alignment ordered set, K28.3 D21.5 in the same two slots on all four lanes (R310). -/
def aosSlots : List (List (Bool × Byte)) := [List.replicate 4 (true, 0x7C), List.replicate 4 (false, 0xB5)]

/-- The frame with its check word (R311). -/
def sealFrame (f : List Word) : List Word := f.take 15 ++ [crc32 (wordBytes (f.take 15))]

/-- `ttl_init` of a port (`SPN_PCFG`). -/
def State.ttlInit (s : State) (k : Nat) : Nat := fld (s.reg 0 (blkSpn + 0x100 + 0x40 * k)) 15 8

/-- Header bits for acknowledgement and credits that ride in every frame (R312): the last `fseq` accepted, `nak`, and the credits of the
first channel that has any. -/
def ackBits (p : SpPort) : Nat :=
  let vc := (([0, 1, 2] : List Nat).find? (fun v => 0 < sget 0 p.freed v)).getD 0
  ((p.rxSeq.toNat + 255) % 256) * 4096 + 2048 + b2n p.nak * 1024 + vc * 256 + (min 63 (sget 0 p.freed vc)) * 4

/-- The port state after the pending acknowledgement and credits have left in a frame. -/
def ackSent (p : SpPort) : SpPort :=
  let vc := (([0, 1, 2] : List Nat).find? (fun v => 0 < sget 0 p.freed v)).getD 0
  { p with accepted := 0, freed := sput 0 p.freed vc (sget 0 p.freed vc - min 63 (sget 0 p.freed vc)) }

/-- Initialisation vector of a group (R326). -/
def spanIv (dev k ctr : Nat) : BitVec 96 := BitVec.ofNat 96 (dev * 2 ^ 84 + k * 2 ^ 80 + ctr * 65536)

/-- Plaintext of a group: words 2 to 13 of each frame; and its additional data: word 0 [31:20] and word 1 of each frame (R326). The 12 bits
are taken as two bytes, the high one first (DEDUCED, log 24). -/
def groupPlain (fs : List (List Word)) : List Byte := wordBytes (fs.flatMap (fun f => (f.drop 2).take 12))
def groupAad (fs : List (List Word)) : List Byte :=
  fs.flatMap (fun f => natBytes (fld (wordAt f 0) 31 28) 1 ++ natBytes (fld (wordAt f 0) 27 20) 1 ++ wordBytes [wordAt f 1])

/-- Key of a span port: that of the MEE slot it was bound to when it came up (R326, R373). -/
def State.spanKey (s : State) (k : Nat) : BitVec 256 := (s.slotAt ((s.portAt k).boundSlot.getD 0).toNat).key

/-- Close the open group of a port: its TAG frame joins the frames that wait (R326). -/
def closeGroup (k : Nat) (s : State) : State :=
  let p := s.portAt k
  if p.txGroup.isEmpty then s
  else
    let iv := spanIv s.devId k p.grpCtr.toNat
    let ct := Config.gcmSeal (s.spanKey k) iv (groupAad p.txGroup) (groupPlain p.txGroup)
    let tag := Config.gcmTag (s.spanKey k) iv (groupAad p.txGroup) ct
    let f := mkFrame 0xB 0 s.devId (s.ttlInit k)
      (natWords p.grpCtr.toNat 2 ++ natWords tag.toNat 4 ++ [wd (frSeq (p.txGroup.headD []) + p.txGroup.length * 256)])
    let f := setFld (wordAt f 0) 27 20 p.txSeq.toNat :: f.tail
    s.portAtMod k (fun p => { p with txGroup := [], txSeq := p.txSeq + 1, unacked := p.unacked ++ [(0, sealFrame f)] })

/-- With encryption on, the frame that finds no group open opens one, which takes the next counter (R326). -/
def openTx (p : SpPort) : SpPort := if p.encOn && p.txGroup.isEmpty then { p with grpCtr := p.txCtr, txCtr := p.txCtr + 1 } else p

/-- Put one frame on the lanes: it takes the next `fseq`, and with encryption on its words 2 to 13 are sealed as part of the open group. -/
def putFrame (k vc : Nat) (f : List Word) (s : State) : State :=
  let s := s.portAtMod k openTx
  let p := s.portAt k
  let w0 := wd ((wordAt f 0).toNat % 2 ^ 32 / 2 ^ 28 * 2 ^ 28 + p.txSeq.toNat * 2 ^ 20 + ackBits p)
  let f := w0 :: f.tail
  let grp := if p.encOn then p.txGroup ++ [f] else []
  let ct := Config.gcmSeal (s.spanKey k) (spanIv s.devId k p.grpCtr.toNat) (groupAad grp) (groupPlain grp)
  let body := ct.drop (48 * (grp.length - 1))
  let g := if p.encOn then f.take 2 ++ (List.range 12).map (fun i => wd (bytesNat ((body.drop (4 * i)).take 4))) ++ [wordAt f 14] else f
  let s := s.portAtMod k (fun p =>
    { ackSent p with txSeq := p.txSeq + 1, used := smod 0 p.used vc (· + 1), unacked := p.unacked ++ [(0, sealFrame g)], txGroup := grp })
  if 16 ≤ grp.length then closeGroup k s else s

/-- DATA frames of channel v that follow a REQ or RSP in a queue. -/
def dataRun (v : Nat) (q : List (Nat × List Word)) : Nat := ((q.filter (fun f => f.1 == v)).takeWhile (fun f => frType f.2 == 3)).length

/-- Frame `f` of channel `v` can leave, with `rest` behind it: fewer than 128 frames are unacknowledged and credits are held, for a REQ or RSP with its
DATA frames, which then follow it (R312, R313). -/
def SpPort.canSend (p : SpPort) (v : Nat) (f : List Word) (rest : List (Nat × List Word)) : Bool :=
  let need := if frType f = 1 ∨ frType f = 2 then 1 + dataRun v rest else 1
  decide (p.unacked.length + need ≤ 128) && decide (sget 0 p.used v + need ≤ 64)

/-- The first frame that can leave and passes no frame of its own channel, and the queue without it: the channels do not wait for each other (R313). -/
def SpPort.pick (p : SpPort) : List (Nat × List Word) → List (Nat × List Word) → Option ((Nat × List Word) × List (Nat × List Word))
  | _, [] => none
  | passed, q :: rest =>
    if !passed.any (fun x => x.1 == q.1) && p.canSend q.1 q.2 rest then some (q, passed ++ rest) else p.pick (passed ++ [q]) rest

/-- Send the frames that wait (R312, R313), at most n of them. -/
def spanPump (k : Nat) : Nat → State → State
  | 0, s => s
  | n + 1, s =>
    let p := s.portAt k
    if p.state != .up then s
    else match p.pick [] p.txQ with
      | none => s
      | some (f, rest) => spanPump k n (putFrame k f.1 f.2 (s.portAtMod k (fun p => { p with txQ := rest })))

/-- Queue frames at a port, each with its channel, and send what can be sent. -/
def spanQueue (k : Nat) (fs : List (Nat × List Word)) (s : State) : State :=
  let s := s.portAtMod k (fun p => { p with txQ := p.txQ ++ fs })
  spanPump k (s.portAt k).txQ.length s

/-- Queue whole packets. -/
def spanSend (k : Nat) (fs : List (List Word)) (s : State) : State := spanQueue k (withVc 0 fs) s

/-- Send an unsequenced frame: ALIGN, PROBE, ECHO or LINK. With encryption on, ALIGN, PROBE and ECHO take the next group counter in words 8
and 9 and carry a tag over words 0 to 9 in words 10 to 13 (R326). -/
def spanSendU (k : Nat) (f : List Word) (s : State) : State :=
  let p := s.portAt k
  let f := wd ((wordAt f 0).toNat + ackBits p) :: f.tail
  let s := s.portAtMod k ackSent
  if p.encOn && frType f != 0xF then
    let g := f.take 8 ++ natWords p.txCtr.toNat 2
    let tag := Config.gcmTag (s.spanKey k) (spanIv s.devId k p.txCtr.toNat) (wordBytes g) []
    s.portAtMod k (fun p => { p with txCtr := p.txCtr + 1, txU := p.txU ++ [sealFrame (g ++ natWords tag.toNat 4 ++ [wordAt f 14])] })
  else s.portAtMod k (fun p => { p with txU := p.txU ++ [sealFrame f] })

/-- Span ports named by a mask that are up. -/
def State.upPorts (s : State) (mask : Nat) : List Nat :=
  (List.range 12).filter (fun k => mask.testBit k && (s.portAt k).state == .up)

/-- Position and phase as words 3 and 4 of a TRIG frame, or words 2 and 3 of an ALIGN frame (R320, R322). -/
def posWords (pos phase : Nat) : List Word := [wd pos, wd (pos / 2 ^ 32 % 65536 + phase * 65536)]

/-- Send a TRIG frame on the ports of `trig_mask` other than `except` (R320). -/
def sendTrig (except : Option Nat) (sdev lines pos phase : Nat) (s : State) : State :=
  let ports := (s.upPorts (fld (s.reg 0 (blkSpn + 8)) 11 0)).filter (fun k => some k != except)
  s.each ports (fun k t => spanSend k [mkFrame 6 0 sdev (t.ttlInit k) (wd lines :: posWords pos phase)] t)

/-- Send an ALIGN frame on the ports of `down_mask` (R322). -/
def sendAlign (hops root phase : Nat) (s : State) : State :=
  s.each (s.upPorts (fld (s.reg 0 (blkSpn + 8)) 23 12)) (fun k t =>
    spanSendU k (mkFrame 8 0 t.devId (t.ttlInit k) (posWords t.clk.pos.toNat phase ++ [wd hops, wd root])) t)

end Sys2Proof.Machine
end

