-- ==== Sys2Proof/Machine/Notice.lean ====
section
/-! DEFINITION. Settings in effect, trace, cross-triggers, notices, the kiln buffer, ALERT_N, and the fatal halt. Files 02, 03, 17 and 18. -/

namespace Sys2Proof.Machine

/-- Code of a mode (R4, 00). -/
def Mode.code : Mode → Nat
  | .greenware => 1 | .bisque => 2 | .firing => 3 | .glazed => 4 | .refiring => 5 | .resting => 6 | .held => 7 | .cooling => 8

/-- Mode of a code; Greenware for a code that never appears. -/
def Mode.ofCode : Nat → Mode
  | 2 => .bisque | 3 => .firing | 4 => .glazed | 5 => .refiring | 6 => .resting | 7 => .held | 8 => .cooling | _ => .greenware

/-- Factory default of a settings word other than the check word (R72, R214, R404, and the settings tables of 12 to 20). -/
def factoryWord : Nat → Word
  | 0 => 0x5E771A65 | 1 => 1 | 3 => 0x4C | 4 => 0x00140015 | 7 => 0x10064 | 8 => 0x1C | 9 => 1000 | 17 => 0x300
  | 20 => 0x440000 | 22 => 0x555555 | 24 => 0x184FFF | _ => 0

/-- A word of the settings record in effect (R74). -/
def State.setting (s : State) (n : Nat) : Word := sget (factoryWord n) s.settings.words n

/-- MGR does not run: Greenware, HUB at rung L4 or deeper, or its clock has stopped (R35, R434, R462). -/
def State.mgrStopped (s : State) : Bool := s.mode == .greenware || decide (4 ≤ (s.pdomAt 0).rung.toNat) || (s.domAt 1).state == .stopped

/-- Phase of the timebase: a free value, since the table has no step for it (log 25). -/
def State.phase (s : State) : Nat := (Config.free 16 s.fresh).toNat

/-- Trace is on with a ring size in range (`DBG_TRACE_CFG`, R425). -/
def State.tracing (s : State) : Bool :=
  let c := s.dbg.trace.cfg
  bit c 31 && decide (12 ≤ fld c 29 24) && decide (fld c 29 24 ≤ 32)

/-- A trace packet (R424). -/
def State.packet (s : State) (ptype die src aux : Nat) (data : Word) : List Word :=
  [wd (ptype * 2 ^ 28 + die * 2 ^ 25 + src * 65536 + aux), wd s.clk.pos.toNat, wd (s.phase * 65536 + s.clk.pos.toNat / 2 ^ 32), data]

/-- The trace unit takes the responses to its own writes, which carry order tag 1 at the DBG initiator (R425). -/
def traceRetire (s : State) : State :=
  s.iportAtMod portDbg (fun q => { q with out := q.out.filter (fun o => !(o.req.otag == 1 && o.req.typ == 1 && o.rsp.isSome)) })

/-- Write the block that is filling into the ring, through the DBG initiator (R425). A packet that cannot be written is counted. -/
def traceFlush (s : State) : State :=
  let s := traceRetire s
  let t := s.dbg.trace
  if t.block.isEmpty then s
  else if s.portTakes portDbg then
    let ws := t.block.flatten
    let a := t.baseLo.toNat + t.baseHi.toNat * 2 ^ 32 + t.wptr.toNat
    let size := 2 ^ fld t.cfg 29 24
    let nx := t.wptr.toNat + 64
    let bs := wordBytes ws ++ List.replicate (64 - 4 * ws.length) 0
    let s := issue portDbg { typ := 1, otag := 1, addr := BitVec.ofNat 64 a, len := 63, data := placeBytes a bs, bad := [false, false] } s
    s.onDbg (fun d => { d with trace := { d.trace with
      block := [], wptr := wd (if size ≤ nx then (if bit t.cfg 30 then size else 0) else nx), full := bit t.cfg 30 && decide (size ≤ nx) } })
  else s.onDbg (fun d => { d with trace := { d.trace with block := [], lost := d.trace.lost + t.block.length } })

/-- Record one packet; a block leaves when it holds four (R425). -/
def tracePush (p : List Word) (s : State) : State :=
  if s.dbg.trace.full then s.onDbg (fun d => { d with trace := { d.trace with lost := d.trace.lost + 1 } })
  else
    let s := s.onDbg (fun d => { d with trace := { d.trace with block := d.trace.block ++ [p], sinceSync := d.trace.sinceSync + 1 } })
    if 4 ≤ s.dbg.trace.block.length then traceFlush s else s

/-- Record a packet while tracing is on: packets lost before it are reported in one LOST packet, a SYNC packet follows every 4,096, and the
packets that may still follow a stop are counted down (R425). -/
def trace (p : List Word) (s : State) : State :=
  if !s.tracing then s
  else
    let l := s.dbg.trace.lost
    let s := if 0 < l ∧ !s.dbg.trace.full then
        tracePush (s.packet 0xE 0 0 (min l 65535) 0) (s.onDbg (fun d => { d with trace := { d.trace with lost := 0 } })) else s
    let s := tracePush p s
    let s := if 4096 ≤ s.dbg.trace.sinceSync then
        (tracePush (s.packet 0xF 0 0 0 (wd s.dbg.trace.sinceSync)) s).onDbg (fun d => { d with trace := { d.trace with sinceSync := 0 } }) else s
    let s := s.nextFree
    match s.dbg.trace.post with
    | none => s
    | some n => s.onDbg (fun d => { d with trace := { d.trace with
        post := if n ≤ 1 then none else some (n - 1), cfg := if n ≤ 1 then setBit d.trace.cfg 31 false else d.trace.cfg } })

/-- Votes of the DBG client: L0 on the domain of every halted hart and frozen sector, and on every domain while Held is asked for in Resting
(R421, R422, R458). -/
def dbgVotes (s : State) : State :=
  let all := s.dbg.heldVote
  let hart := (List.range 8).any (fun h => (s.hartAt h).halted)
  s.each (List.range 10) (fun d t =>
    let on := all || (d == 7 && hart) || (d == 0 && (s.hartAt 8).halted) || (1 ≤ d && d ≤ 4 && sget 0 s.dbg.frozen (d - 1) != 0)
    t.pdomAtMod d (fun p => { p with dbg := if on then 0 else 0xF }))

/-- The first step of Held: the mode left is recorded, `entering` sets, and every hart is asked to halt (R422); once they are asked, a change of
mode is only recorded. -/
def heldStart (s : State) : State :=
  let t := if s.dbg.asked then s
    else s.each (List.range 8) (fun h t => t.hartAtMod h (fun x => { x with heldBefore := x.halted, haltReq := !x.halted }))
  t.onDbg (fun d => { d with entering := true, asked := true, prev := BitVec.ofNat 4 s.mode.code })

/-- A request for Held, by software or a cross-trigger (R422). -/
def requestHeld (s : State) : State :=
  match s.mode with
  | .bisque | .glazed | .refiring => if s.dbg.entering then s else heldStart s
  | .firing => s.onDbg (fun d => { d with entering := true })
  | .resting => if (s.pdomAt 0).rung.toNat ≤ 4 then dbgVotes (s.onDbg (fun d => { d with entering := true, heldVote := true })) else s
  | .greenware | .held | .cooling => s

/-- The dispatcher empty, with every queue disabled (R390). -/
def Wds.emptied (w : Wds) : Wds :=
  { w with queue := [], ctx := smap {} w.ctx (fun _ x => { x with inService := [], held := [] }), lock := [], again := [], issued := [] }

/-- The mode that user operation stands in: the recorded mode while the device is in Held, which only its release or a fatal outcome ends (R5,
R422). -/
def State.userMode (s : State) : Mode := if s.mode == .held then Mode.ofCode s.dbg.prev.toNat else s.mode

/-- The mode becomes `m`; the dispatcher is empty in Bisque and Cooling (R390); a request for Held that waited for it begins (R422). In Held the
change is recorded as the mode the release restores, and the device stays in Held (R5, R422; log 129). -/
def setMode (m : Mode) (s : State) : State :=
  let s := { s with wds := if m = Mode.bisque ∨ m = Mode.cooling then s.wds.emptied else s.wds }
  let s := if s.mode == .held then s.onDbg (fun d => { d with prev := BitVec.ofNat 4 m.code }) else { s with mode := m }
  if s.dbg.entering && (m == .bisque || m == .glazed || m == .refiring) then heldStart s else s

/-- Logical sectors of a die that a 192-bit mask names. -/
def maskSecs (m : BitVec 192) : List Nat := (List.range 192).filter (fun i => m.getLsbD i)

/-- Mask of a die's `DBG_SFRZ` registers (R421). -/
def State.sfrzMask (s : State) (die : Nat) : BitVec 192 :=
  BitVec.ofNat 192 (wordsNat ((List.range 6).map (fun i => sget 0 s.dbg.sfrz (die * 6 + i))))

/-- A sector is loaded (R421): it runs or awaits a region. -/
def State.secLoaded (s : State) (n : Nat) : Bool := (s.secAt n).state == .running

/-- Freeze the named loaded sectors of a compute die, 0 to 3 (R421). -/
def freezeDie (die : Nat) (s : State) : State :=
  let m := bvOf 192 (fun i => (s.sfrzMask die).getLsbD i && s.secLoaded (die * 192 + i))
  dbgVotes (s.onDbg (fun d => { d with frozen := smod 0 d.frozen die (· ||| m) }))

/-- Release every frozen sector of a compute die. -/
def releaseDie (die : Nat) (s : State) : State :=
  dbgVotes (s.onDbg (fun d => { d with frozen := sput 0 d.frozen die 0 }))

/-- Halt a unit (R161, R163): its state is kept to be resumed. -/
def sduHaltUnit (u : Sdu) : Sdu :=
  match u.state with
  | .running | .stalled | .sleeping => { u with state := .halted, before := u.state }
  | .stopped | .halted | .faulted => u

/-- Halt the SDUs of the sectors that the freeze mask of a die names (R421). -/
def haltDieSdus (die : Nat) (s : State) : State :=
  s.each (maskSecs (s.sfrzMask die)) (fun i t =>
    t.each (List.range 24) (fun u t => { t with sdu := smod {} t.sdu ((die * 192 + i) * 24 + u) sduHaltUnit }))

/-- Compute dies, 0 to 3, that a line's `dies` field names. -/
def lineDies (w : Word) : List Nat := (List.range 4).filter (fun n => bit w (20 + n))

/-- The sinks of one firing line (R419), other than `span_out`. -/
def lineSinks (lines l : Nat) (s : State) : State :=
  let w := sget 0 s.dbg.xt l
  let s := trace (s.packet 2 0 l 0 (wd lines)) s
  let s := s.when (bit w 30) (fun t =>
    let n := fld t.dbg.trace.cfg 23 16 * 16
    t.onDbg (fun d => { d with trace := if n = 0 then { d.trace with cfg := setBit d.trace.cfg 31 false } else { d.trace with post := some n } }))
  let s := s.when (bit w 28) (fun t => t.each (lineDies w) freezeDie)
  let s := s.when (bit w 27) (fun t => t.each (List.range 8) (fun h t => t.hartAtMod h (fun x => { x with haltReq := x.haltReq || !x.halted })))
  let s := s.when (bit w 26) (fun t => t.each (lineDies w) (fun n t => t.onFab (fun f => { f with xto := smod 0 f.xto (n * 16 + l) (· + 1) })))
  let s := s.when (bit w 25) (fun t => t.each (lineDies w) haltDieSdus)
  s.when (bit w 29) requestHeld

/-- Lines whose configuration has source bit `b`, among those that `p` allows. -/
def State.linesWith (s : State) (b : Nat) (p : Nat → Word → Bool) : Nat :=
  (List.range 16).foldl (fun m l => let w := sget 0 s.dbg.xt l; if bit w b && p l w then m + 2 ^ l else m) 0

/-- Cross-trigger lines fire: every enabled sink of each runs, and a line with `span_out` that fires from a local source sends one TRIG frame
with every line of this cycle (R419, R420). -/
def fireLines (lines : Nat) (loc : Bool) (s : State) : State :=
  let ls := (List.range 16).filter (fun l => lines.testBit l)
  let out := ls.any (fun l => bit (sget 0 s.dbg.xt l) 31)
  let s := s.each ls (lineSinks lines)
  s.when (loc && out) (fun t => (sendTrig none t.devId lines t.clk.pos.toNat t.phase t).nextFree)

/-- Enter a notice into the pending queue (R52). -/
def queueNotice (code : Nat) (pos : Word) (m : Mgr) : Mgr :=
  if m.notices.any (fun n => n.code.toNat == code) then
    { m with notices := m.notices.map (fun n => if n.code.toNat = code then { n with rep := satInc n.rep } else n) }
  else if m.notices.length < 256 then { m with notices := m.notices ++ [{ code := BitVec.ofNat 16 code, pos := pos }] }
  else { m with lost := satInc m.lost, lostPos := if m.lost = 0 then pos else m.lostPos }

/-- Enter a notice into the kiln buffer (R398, R399): repeats of one code from one origin merge, and entries beyond 1,024 are counted. -/
def bufferKiln (origin code : Nat) (pos : BitVec 48) (a b : Word) (m : Mgr) : Mgr :=
  if m.kiln.any (fun e => e.code.toNat == code && e.origin.toNat == origin) then
    { m with kiln := m.kiln.map (fun e => if e.code.toNat = code ∧ e.origin.toNat = origin then { e with rep := satInc e.rep } else e) }
  else if m.kiln.length < 1024 then
    { m with
      kilnSeq := m.kilnSeq + 1
      kiln := m.kiln ++ [{ seq := m.kilnSeq, origin := BitVec.ofNat 3 origin, code := BitVec.ofNat 16 code, pos := pos, start := m.startNo, detA := a, detB := b }] }
  else { m with kilnLost := m.kilnLost + 1 }

/-- The ALERT latch on a notice (R401): by `alert_mask`, with the exceptions for 0x3311 to 0x3316 and 0x3803. -/
def latchAlert (mask : Word) (code : Nat) (m : Mgr) : Mgr :=
  let on := if 0x3311 ≤ code ∧ code ≤ 0x3316 then bit mask 8 else if code = 0x3803 then false else bit mask (code / 4096)
  if on && !m.alertLatch then { m with alertLatch := true, firstCode := BitVec.ofNat 16 code } else m

/-- A notice reaches MGR (R391): pending queue, kiln buffer, ALERT latch. -/
def State.mgrNotice (s : State) (origin code : Nat) (pos : BitVec 48) (a b : Word) : State :=
  s.onMgr (fun m => latchAlert (s.setting 8) code (bufferKiln origin code pos a b (queueNotice code (wd pos.toNat) m)))

/-- A notice is raised and recorded; while MGR is stopped the always-on island holds it (R391, R399). -/
def record (origin code : Nat) (a b : Word) (s : State) : State :=
  if s.mgrStopped then
    s.onAo (fun o => if o.held.length < 64 then
      { o with held := o.held ++ [{ origin := BitVec.ofNat 3 origin, code := BitVec.ofNat 16 code, pos := s.clk.pos, detA := a, detB := b }] }
      else { o with heldLost := o.heldLost + 1, heldLostPos := if o.heldLost = 0 then wd s.clk.pos.toNat else o.heldLostPos })
  else s.mgrNotice origin code s.clk.pos a b

/-- A wake event other than source 0x7: the MGR client votes L0 on every domain, the cause is recorded, and notice 0x0281 is raised (R467). -/
def wake (cause : Nat) (s : State) : State :=
  let rung := ((List.range 10).map (fun d => (s.pdomAt d).rung.toNat)).foldl min 15
  let s := s.each (List.range 10) (fun d t => t.pdomAtMod d (fun p => { p with mgr := 0, wakeVote := true }))
  record 0 0x0281 0 0 (s.onPwr (fun p => { p with wakeCause := BitVec.ofNat 4 cause, wakeFrom := BitVec.ofNat 4 rung }))

/-- A notice with origin and detail: it is recorded, written as a NOTICE trace packet, fires the lines whose source is a notice of class
degraded or worse, and may wake the device from L1 to L4 (R391, R419, R424, R467). -/
def raiseD (origin code : Nat) (a b : Word) (s : State) : State :=
  let s := record origin code a b s
  let s := trace (s.packet 3 origin 0 0 (wd code)) s
  let s := s.when (decide (2 ≤ code / 4096)) (fun t =>
    let lines := t.linesWith 1 (fun _ _ => true)
    if lines = 0 then t else fireLines lines true t)
  s.when (s.mode == .resting && decide ((s.pdomAt 0).rung.toNat ≤ 4) && bit (s.setting 29) (8 + code / 4096)) (wake 5)

/-- A notice of a die without detail. -/
def raiseFrom (origin code : Nat) (s : State) : State := raiseD origin code 0 0 s

/-- A notice of H without detail. -/
def raise (code : Nat) (s : State) : State := raiseD 0 code 0 0 s

/-- MGR runs again: it takes the notices that the always-on island held, in the order raised, and those the island lost count as lost (R399). -/
def aoTake (s : State) : State :=
  let l := s.ao.held; let n := s.ao.heldLost.toNat; let p := s.ao.heldLostPos
  let s := s.onAo (fun o => { o with held := [], heldLost := 0, heldLostPos := 0 })
  let s := s.each l (fun h t => t.mgrNotice h.origin.toNat h.code.toNat h.pos h.detA h.detB)
  s.onMgr (fun m => { m with lost := satAdd m.lost n, lostPos := if m.lost = 0 ∧ 0 < n then p else m.lostPos, kilnLost := m.kilnLost + BitVec.ofNat 32 n })

/-- Entry to Greenware: reset is asserted on every die, and what lies outside the reset is kept: flash, fuses, the battery-backed key, the
always-on island, the rails, and the numbers MGR continues in the kiln log (R49, R59, R62, R403, R405). -/
def greenware (cause : Nat) (s : State) : State :=
  { State.reset with
    pending := s.pending
    fresh := s.fresh
    flash := { s.flash with failed := [] }
    fuses := s.fuses
    ao := { s.ao with resetCause := BitVec.ofNat 4 cause, held := [], heldLost := 0, heldLostPos := 0 }
    mgr := { State.reset.mgr with kilnSeq := s.mgr.kilnSeq, kilnSlot := s.mgr.kilnSlot, startNo := s.mgr.startNo }
    pwr := { State.reset.pwr with good := s.pwr.good }
    dbg := { State.reset.dbg with ir := s.dbg.ir }
    clk := { State.reset.clk with aoscOk := s.clk.aoscOk } }

/-- A fatal outcome (R403 to R405): the fatal record is written, keys are cleared and the device returns to Greenware; settings word 17 and
the count decide whether it leaves by itself. -/
def fatal (code : Nat) (s : State) : State :=
  let s := s.onAo (fun o => { o with fatalCause := BitVec.ofNat 16 code, fatalCount := satInc o.fatalCount, fatalPos := wd s.clk.pos.toNat })
  let w := s.setting 17
  let stay := bit w 0 || (fld w 15 8 != 0 && decide (fld w 15 8 ≤ s.ao.fatalCount.toNat))
  (greenware 5 s).onBoot (fun b => { b with stay := stay, restart := !stay, fatalRestart := !stay })

end Sys2Proof.Machine
end

