-- ==== Sys2Proof/Machine/MgrOps.lean ====
section
/-! DEFINITION. Command packets: acceptance, the start checks, replies, the mailbox. File 02. -/

namespace Sys2Proof.Machine

/-- Status codes (R44). -/
def rcOk : Nat := 0x00
def rcAccepted : Nat := 0x01
def rcTooLate : Nat := 0x02
def rcBusy : Nat := 0x03
def rcBadOpcode : Nat := 0x10
def rcBadLength : Nat := 0x11
def rcBadParam : Nat := 0x12
def rcDenied : Nat := 0x13
def rcWrongDevice : Nat := 0x14
def rcWrongMode : Nat := 0x15
def rcAuthFail : Nat := 0x20
def rcDecryptFail : Nat := 0x21
def rcTruncated : Nat := 0x22
def rcCheckFail : Nat := 0x23
def rcRollback : Nat := 0x24
def rcHwFault : Nat := 0x30
def rcTimeout : Nat := 0x31
def rcAborted : Nat := 0x32

/-- Resource classes (R46, R50). -/
inductive OpClass where
  | sys | cfg | obs | pwr | clk | set | sec | tel | tst | mem | wds
  deriving DecidableEq, Repr, Inhabited

/-- A row of the opcode table (R50): class, allowed modes, and the parameter counts its definition allows, as a list of ranges. -/
structure OpInfo where
  cls : OpClass
  modes : List Nat
  counts : List (Nat × Nat)
  deriving DecidableEq, Repr, Inhabited

/-- The opcode table (R50). The counts of CFG_FRAMES and CFG_END depend on the session and are checked at execution (R192, R203, R495). Counts that
a chapter gives: R188, R198, R204, R201, R209, R216, R228, R230, R414, R442, R466, R474,
R477, R478, R480, R481. -/
def opInfo (op : Nat) : Option OpInfo :=
  let all := [2, 3, 4, 5, 6, 7, 8]
  match op with
  | 0x01 => some ⟨.sys, all, [(0, 4095)]⟩
  | 0x02 | 0x03 => some ⟨.sys, all, [(0, 0)]⟩
  | 0x04 | 0x07 => some ⟨.sys, all, [(1, 1)]⟩
  | 0x05 | 0x06 => some ⟨.sys, [2, 4], [(1, 1)]⟩
  | 0x10 => some ⟨.cfg, [2, 5], [(32, 32)]⟩
  | 0x11 => some ⟨.cfg, [3, 5], [(1, 4095)]⟩
  | 0x12 => some ⟨.cfg, [3, 5], [(12, 12)]⟩
  | 0x13 => some ⟨.cfg, [3, 5], [(0, 4095)]⟩
  | 0x14 => some ⟨.cfg, [5], [(1, 1), (3, 3)]⟩
  | 0x15 => some ⟨.cfg, [4, 5], [(7, 7)]⟩
  | 0x16 => some ⟨.cfg, [5], [(1, 1)]⟩
  | 0x17 => some ⟨.cfg, [3, 5], [(7, 7)]⟩
  | 0x18 => some ⟨.cfg, [3, 5], [(48, 48)]⟩
  | 0x30 => some ⟨.obs, [4, 5, 7], [(8, 8)]⟩
  | 0x31 => some ⟨.obs, [4, 5, 7], [(4, 4)]⟩
  | 0x32 => some ⟨.obs, [2, 4, 5, 7], [(3, 3)]⟩
  | 0x40 => some ⟨.pwr, [2, 4, 5, 6], [(2, 2)]⟩
  | 0x41 => some ⟨.pwr, all, [(1, 1)]⟩
  | 0x42 => some ⟨.pwr, [2, 4], [(5, 5)]⟩
  | 0x50 => some ⟨.clk, [2, 4, 5], [(2, 2)]⟩
  | 0x51 => some ⟨.clk, [2, 4], [(2, 2)]⟩
  | 0x52 => some ⟨.clk, [2, 4, 5], [(5, 5)]⟩
  | 0x53 => some ⟨.clk, [2, 4, 5], [(1, 1)]⟩
  | 0x54 => some ⟨.clk, all, [(1, 1)]⟩
  | 0x60 => some ⟨.set, all, [(2, 2)]⟩
  | 0x61 => some ⟨.set, [2, 4], [(1024, 1024)]⟩
  | 0x62 => some ⟨.set, [2, 4, 5, 7], [(3, 3)]⟩
  | 0x63 => some ⟨.set, [2, 4], [(3, 4095)]⟩
  | 0x64 => some ⟨.set, all, [(2, 2)]⟩
  | 0x70 => some ⟨.sec, [2], [(14, 14)]⟩
  | 0x71 => some ⟨.sec, [4], [(2, 2)]⟩
  | 0x72 => some ⟨.sec, [2, 3, 4, 5, 6, 7], [(1, 1)]⟩
  | 0x73 => some ⟨.sec, [2, 3, 4, 5, 6, 7], [(12, 12)]⟩
  | 0x74 => some ⟨.sec, all, [(1, 1)]⟩
  | 0x75 => some ⟨.sec, [2], [(1, 4095)]⟩
  | 0x80 => some ⟨.tel, all, [(1, 64)]⟩
  | 0x81 => some ⟨.tel, [2, 4, 5, 6], [(3, 3)]⟩
  | 0x90 => some ⟨.tst, [2, 4, 5], [(2, 2)]⟩
  | 0x91 => some ⟨.tst, all, [(1, 1)]⟩
  | 0x92 => some ⟨.tst, all, [(1, 1)]⟩
  | 0x93 => some ⟨.tst, [2, 4, 5], [(2, 2)]⟩
  | 0x94 => some ⟨.tst, [2], [(1, 1)]⟩
  | 0xA0 => some ⟨.mem, [2, 4], [(6, 6)]⟩
  | 0xA1 => some ⟨.mem, [4], [(2, 2)]⟩
  | 0xA2 => some ⟨.mem, [2, 4, 5], [(3, 3)]⟩
  | 0xB0 => some ⟨.wds, [4, 5], [(3, 3)]⟩
  | 0xB1 => some ⟨.wds, [4, 5, 7], [(1, 1)]⟩
  | _ => none

/-- Fields of a command header (R36). -/
def hdrOp (h : Word) : Nat := fld h 31 24
def hdrTag (h : Word) : Nat := fld h 23 16
def hdrLen (h : Word) : Nat := fld h 11 0
def Cmd.op (c : Cmd) : Nat := hdrOp c.hdr
/-- Parameter word i. -/
def Cmd.p (c : Cmd) (i : Nat) : Word := wordAt c.params i
/-- Class of a command. -/
def Cmd.cls (c : Cmd) : OpClass := ((opInfo c.op).map OpInfo.cls).getD .sys

/-- ALERT_N is asserted: the latch or a condition of `MGR_ALERT` (R401). -/
def State.alert (s : State) : Bool :=
  s.mode != .greenware && (s.mgr.alertLatch || s.ao.fatalCause != 0 || s.mgr.imageFail || s.boot.recovery || s.boot.refclkFailed)

/-- Number of notices that wait for GET_NOTICES, the lost-notice entry among them (R52). -/
def State.noticeCount (s : State) : Nat := s.mgr.notices.length + b2n (s.mgr.lost != 0)

/-- Device rung: the shallowest effective rung (R457). -/
def State.devRung (s : State) : Nat := ((List.range 10).map (fun d => (s.pdomAt d).rung.toNat)).foldl min 7

/-- Owner of the session that is open (R48): the one whose CFG_BEGIN executes, and else the first CFG_BEGIN accepted, for the session opens at
acceptance; a second one of the same transport waits until the session ends (R46). -/
def State.sessOwner (s : State) : Option CmdId :=
  match s.cfg.session with
  | some x => some x.owner
  | none => (s.mgr.cmds.find? (fun c => c.op == 0x10)).map Cmd.id

/-- `MGR_STATUS` (02). -/
def State.mgrStatus (s : State) : Word :=
  let owner := match s.sessOwner with | some x => x.t.id | none => 7
  wd (s.devRung * 65536 + owner * 8192 + b2n s.boot.fwCopy * 4096 + s.mgr.imageSource.toNat * 1024 + b2n (decide (0 < s.noticeCount)) * 512
    + b2n s.alert * 256 + b2n s.settings.defaulted * 16 + s.mode.code)

/-- The next reply enters the mailbox reply buffer (R43). -/
def mbxPost (s : State) : State :=
  match s.mgr.mbxOut with
  | [] => s
  | r :: rest =>
    if s.mgr.mbx.rspValid then s
    else s.onMgr (fun m => { m with
      mbxOut := rest
      mbx := { m.mbx with rspBuf := r, rspValid := true, rspEv := true, msix := m.mbx.msix + b2n m.mbx.irqEn } })

/-- Frames that carry a packet or reply over the span link, 11 words a segment (R319). -/
def cmdFrames (ddev sdev ttl tag : Nat) (rsp : Bool) (ws : List Word) : List (List Word) :=
  let n := ceilDiv ws.length 11
  (List.range n).map (fun i =>
    let seg := (ws.drop (11 * i)).take 11
    mkFrame 5 ddev sdev ttl
      (wd (b2n (i == 0) * 2 ^ 31 + b2n (i + 1 == n) * 2 ^ 30 + b2n rsp * 2 ^ 29 + i * 65536 + tag * 256 + seg.length) :: seg))

/-- Send frames to a device by the routing table; frames with no route or whose port is not up are discarded (R317; log 130). -/
def spanTo (dev : Nat) (fs : Nat → List (List Word)) (s : State) : State :=
  match s.spanRoute dev with
  | none => s
  | some k => if (s.portAt k).state == .up then spanSend k (fs (s.ttlInit k)) s else s

/-- A reply leaves on the transport of its command (R36, R40). The stream transport takes no reply. -/
def deliverReply (id : CmdId) (ws : List Word) (s : State) : State :=
  match id.t with
  | .jtag => s.onMgr (fun m => { m with jtag := { m.jtag with out := m.jtag.out ++ [ws] } })
  | .mailbox => mbxPost (s.onMgr (fun m => { m with mbxOut := m.mbxOut ++ [ws] }))
  | .smbus => s.onMgr (fun m => { m with smbus := { m.smbus with out := m.smbus.out ++ [ws] } })
  | .stream => s
  | .span => spanTo id.dev.toNat (fun ttl => cmdFrames id.dev.toNat s.devId ttl id.tag.toNat true ws) s

/-- The words of a reply (R36, R37). -/
def replyWords (s : State) (tag status : Nat) (chk final : Bool) (data : List Word) : List Word :=
  let h := wd (status * 2 ^ 24 + tag * 65536 + b2n s.alert * 32768 + b2n (decide (0 < s.noticeCount)) * 16384 + b2n chk * 8192
    + b2n final * 4096 + data.length)
  let ws := h :: data
  if chk then ws ++ [crc32 (wordBytes ws)] else ws

/-- Send one reply to a command (R36). -/
def sendReply (c : Cmd) (status : Nat) (final : Bool) (data : List Word) (s : State) : State :=
  deliverReply c.id (replyWords s c.id.tag.toNat status (bit c.hdr 12) final data) s

/-- A wake vote of source 0x7 is withdrawn once no command is outstanding (R467). -/
def wakeCmdDone (s : State) : State :=
  if s.mgr.cmds.isEmpty && s.pwr.wakeCause == 7 && (s.pdomAt 0).wakeVote then
    s.pdomAtMod 0 (fun p => { p with mgr := 0xF, wakeVote := false })
  else s

/-- The final reply: the command is no longer outstanding (R45). -/
def finish (c : Cmd) (status : Nat) (data : List Word) (s : State) : State :=
  wakeCmdDone ((sendReply c status true data s).onMgr (fun m => { m with cmds := m.cmds.filter (fun x => x.id != c.id) }))

/-- Pack whole units into replies of at most 4,095 words (R39). -/
def packUnits : List (List Word) → List Word → List (List Word)
  | [], cur => [cur]
  | u :: us, cur => if cur.length + u.length ≤ 4095 then packUnits us (cur ++ u) else cur :: packUnits us u

/-- Send data in several replies; the last is final (R39). -/
def finishUnits (c : Cmd) (units : List (List Word)) (s : State) : State :=
  let rs := packUnits units []
  finish c rcOk (rs.getLastD []) (s.each rs.dropLast (sendReply c rcOk false))

/-- The same with a final reply of its own after all the data (R233). -/
def finishAfter (c : Cmd) (units : List (List Word)) (status : Nat) (last : List Word) (s : State) : State :=
  finish c status last (s.each (if units.isEmpty then [] else packUnits units []) (sendReply c rcOk false))

/-- Cut words into units of a size. -/
def inUnits (n : Nat) (ws : List Word) : List (List Word) := (List.range (ceilDiv ws.length n)).map (fun i => (ws.drop (n * i)).take n)

/-- Granted level of a transport (R413). -/
def State.levelOf (s : State) (t : Transport) : Nat := (sget 0 s.dbg.level t.id).toNat

/-- An outstanding command by its name (R45). -/
def State.findCmd (s : State) (id : CmdId) : Option Cmd := s.mgr.cmds.find? (fun c => c.id == id)

/-- Change an outstanding command. -/
def cmdMod (id : CmdId) (f : Cmd → Cmd) (s : State) : State :=
  s.onMgr (fun m => { m with cmds := m.cmds.map (fun c => if c.id = id then f c else c) })

/-- MGR executes commands now: it runs, in Resting only down to L3, or at L4 after a packet woke HUB (R47), and is not halted by debug (R416) nor without a clock (R434). -/
def State.mgrServes (s : State) : Bool := !s.mgrStopped && (s.boot.fwRuns || s.boot.recovery) && !(s.hartAt 8).halted && (s.domAt 1).state != .stopped

/-- Two commands may not execute at one time, for they share the configuration port: CAPTURE and READBACK execute between the session packets
(R48, log 117). -/
def samePort (a b : Nat) : Bool :=
  let port (x : Nat) : Bool := x == 0x30 || x == 0x31
  let pkt (x : Nat) : Bool := [0x11, 0x12, 0x13, 0x17, 0x18].contains x
  (port a && pkt b) || (pkt a && port b)

/-- The turn of a queued command has come (R46, R48): no earlier command of its class has yet to end, and none holds the configuration port
against it. While a CFG_BEGIN executes, neither it nor a second one that waits for the session to end is in the way of the other CFG packets
of its transport. -/
def State.turn (s : State) (c : Cmd) : Bool :=
  ((s.mgr.cmds.takeWhile (fun x => x.id != c.id)).all (fun x =>
    x.cls != c.cls || (x.op == 0x10 && c.op != 0x10 && s.mgr.cmds.any (fun y => y.op == 0x10 && y.started))))
  && !s.mgr.cmds.any (fun x => x.started && samePort x.op c.op)

/-- The mode a command is checked against (R47): Held for one accepted in Held, whenever it starts (log 131), and the recorded mode for one
accepted before Held that starts in Held. -/
def State.checkMode (s : State) (c : Cmd) : Nat :=
  if c.inHeld then Mode.held.code else s.userMode.code

/-- The mode check of R47. The flash loads that MGR starts itself, and a session packet of a region of a Refiring device, use the modes of
R50; a CFG_BEGIN of a flash load is taken in Firing (R50, R189). -/
def State.modeOk (s : State) (c : Cmd) : Bool :=
  match opInfo c.op with
  | none => false
  | some i => i.modes.contains (s.checkMode c) || (c.op == 0x10 && c.id.t == .stream && s.cfg.flashLoad.isSome && s.mode == .firing)

/-- Start the command `id` if it is an outstanding, queued command with this opcode whose turn has come (R46). In Resting deeper than L3 MGR
executes nothing. `body` runs after the mode check, and `bad` when that check fails. -/
def startCmdOr (bad : Cmd → State → State) (id : CmdId) (op : Nat) (body : Cmd → State → State) (s : State) : State :=
  match s.findCmd id with
  | none => s
  | some c =>
    if c.op != op || c.started || !s.mgrServes || !s.turn c then s
    else
      let s := cmdMod id (fun c => { c with started := true }) s
      if s.modeOk c then body c s else bad c s

/-- The same with the reply WRONG_MODE when the mode check fails (R47). -/
def startCmd (id : CmdId) (op : Nat) (body : Cmd → State → State) (s : State) : State :=
  startCmdOr (fun c => finish c rcWrongMode []) id op body s

/-- A check of a command's definition: it replies `status` when it fails. -/
def require (ok : Bool) (status : Nat) (c : Cmd) (k : State → State) (s : State) : State :=
  if ok then k s else finish c status [] s

/-- No bit of a parameter word is set outside the mask of named bits (R50). -/
def onlyBits (w : Word) (mask : Nat) : Bool := w.toNat &&& mask == w.toNat

/-- A transport takes packets: by the straps, the recovery set, and the rung of HUB, where at L4 a packet on JTAG, SMBus or the mailbox wakes it
(R47, R60, R61, R69). -/
def State.takesPackets (s : State) (t : Transport) : Bool :=
  s.mode != .greenware && (s.boot.fwRuns || s.boot.recovery) && (s.boot.straps != 4 || t == .jtag)
  && (!s.boot.recovery || t == .jtag || t == .mailbox)
  && (decide ((s.pdomAt 0).rung.toNat ≤ 3) || ((s.pdomAt 0).rung == 4 && (t == .jtag || t == .smbus || t == .mailbox)))

/-- A packet that arrives at L4 wakes the device (R47, R467). On the mailbox it first brings the link of controller 0 out of L1.2, which is wake
source 0x4 and wakes every domain. On JTAG and SMBus it is source 0x7: the MGR vote of HUB becomes L0 and the cause is recorded, without a
notice. -/
def wakeHub (t : Transport) (s : State) : State :=
  if (s.pdomAt 0).rung != 4 then s
  else if t == .mailbox then
    let s := s.onXcvr (fun x => { x with pcie0 := { x.pcie0 with inL1 := false, ltssm := if x.pcie0.inL1 then Config.ltssm 1 else x.pcie0.ltssm } })
    if s.pwr.wakeCause == 4 && (s.pdomAt 0).wakeVote then s else wake 4 s
  else (s.pdomAtMod 0 (fun p => { p with mgr := 0, wakeVote := true })).onPwr (fun p => { p with wakeCause := 7, wakeFrom := 4 })

/-- Opcodes of the recovery set (R69). -/
def recoverySet : List Nat := [0x01, 0x02, 0x03, 0x05, 0x07, 0x62, 0x63]

/-- Opcodes a transport takes (R41). -/
def transportTakes (t : Transport) (op : Nat) : Bool :=
  match t with
  | .stream => op == 1 || (0x10 ≤ op && op ≤ 0x18)
  | .span => !([0x70, 0x71, 0x72, 0x73, 0x75, 0x94].contains op)
  | .smbus => !([0x70, 0x75, 0x94].contains op)
  | .mailbox => op != 0x94
  | .jtag => true

/-- The tag of a packet is outstanding on its transport, on the mailbox also as that of a forwarded packet; on the span link tags are independent
per sending device (R43, R45, R319). -/
def State.tagTaken (s : State) (id : CmdId) : Bool :=
  (s.findCmd id).isSome || (id.t == .mailbox && s.mgr.mbx.fwd.any (fun e => e.2 == id.tag))

/-- Outstanding commands of a transport; forwarded packets count against the mailbox (R43, R45). -/
def State.queued (s : State) (t : Transport) : Nat :=
  (s.mgr.cmds.filter (fun c => c.id.t == t)).length + (if t = .mailbox then s.mgr.mbx.fwd.length else 0)

/-- A CFG packet meets a session of another transport (R48). -/
def State.cfgBusy (s : State) (id : CmdId) (op : Nat) : Bool :=
  0x10 ≤ op && op ≤ 0x18 && (match s.sessOwner with | some x => x.t != id.t | none => false)

/-- Width of a fuse field in bits, 0 for a field that is not one (R208). -/
def fuseWidth (f : Nat) : Nat := [3, 1, 384, 64, 2, 1, 1, 64, 256, 256, 256, 2432, 4096].getD f 0

/-- The parameter count is one that the opcode's definition allows (R495, check 7); that of FUSE_PROGRAM follows from the field (R209). -/
def countAllowed (i : OpInfo) (op len : Nat) (p0 : Word) : Bool :=
  i.counts.any (fun r => r.1 ≤ len && len ≤ r.2)
  && (op != 0x75 || fuseWidth p0.toNat == 0 || len == ceilDiv (fuseWidth p0.toNat) 32 + 1)

/-- Checks 1 to 3 of R495, which concern the words alone, `count` of them by the transport: the first that fails, or none. -/
def formCheck (count : Nat) (ws : List Word) : Option Nat :=
  let h := wordAt ws 0; let n := 1 + hdrLen h + b2n (bit h 12)
  if count ≠ n ∨ ws.length ≠ n then some rcBadLength
  else if bit h 12 && crc32 (wordBytes (ws.take (n - 1))) != wordAt ws (n - 1) then some rcCheckFail
  else if fld h 15 14 ≠ 0 then some rcBadParam
  else none

/-- The first acceptance check of R495 that fails, or none: the words delivered, `count` of them by the transport. -/
def State.acceptCheck (s : State) (id : CmdId) (count : Nat) (ws : List Word) : Option Nat :=
  let h := wordAt ws 0; let op := hdrOp h
  match formCheck count ws with
  | some st => some st
  | none => match opInfo op with
    | none => some rcBadOpcode
    | some i =>
      if s.boot.recovery && !recoverySet.contains op then some rcWrongMode
      else if !transportTakes id.t op then some (if id.t = .stream then rcBadOpcode else rcDenied)
      else if !countAllowed i op (hdrLen h) (wordAt ws 1) then some rcBadLength
      else if s.tagTaken id then some rcBadParam
      else if 16 ≤ s.queued id.t || s.cfgBusy id op then some rcBusy
      else none

/-- A refusal: one data word, the refused header (R38). -/
def refuse (id : CmdId) (h : Word) (status : Nat) (s : State) : State :=
  deliverReply id (replyWords s id.tag.toNat status (bit h 12) true [h]) s

/-- An accepted packet becomes outstanding; with `async` set, and always for CFG_BEGIN, it is first answered ACCEPTED (R36, R45, R50). -/
def accept (id : CmdId) (ws : List Word) (s : State) : State :=
  let h := wordAt ws 0
  let c : Cmd := { id := id, hdr := h, params := (ws.drop 1).take (hdrLen h), inHeld := s.mode == .held }
  let s := s.onMgr (fun m => { m with cmds := m.cmds ++ [c] })
  if bit h 13 ∨ hdrOp h = 0x10 then sendReply c rcAccepted false [] s else s

end Sys2Proof.Machine
end

