-- ==== Sys2Proof/Machine/WdsCore.lean ====
section
/-! DEFINITION. The work dispatcher's operations: items, enqueue, eligibility and dispatch, release, dead contexts, spill and refill. File 16. -/

namespace Sys2Proof.Machine

/-- An item as enqueued (R375): the dispatcher ignores word 1 [31:30] and [23:0]. -/
def itemOf (bits : BitVec 256) (origin : Option (BitVec 12 × BitVec 8 × BitVec 16)) : WItem :=
  { bits := bits, flow := BitVec.ofNat 20 (fld bits 31 12), prio := BitVec.ofNat 3 (fld bits 61 59), origin := origin }

/-- Bits of an item as the dispatcher hands it out (R375). -/
def itemBits (it : WItem) (q ticket : Nat) : BitVec 256 :=
  let w0 := it.flow.toNat * 4096 + q
  let w1 := b2n it.err * 2 ^ 31 + it.prio.toNat * 2 ^ 27 + it.tries.toNat * 65536 + ticket
  BitVec.ofNat 256 ((if it.err then 0 else it.bits.toNat / 2 ^ 64 * 2 ^ 64) + w1 * 2 ^ 32 + w0)

/-- The empty item (R384). -/
def emptyItem : BitVec 256 := BitVec.ofNat 256 (2 ^ 62)

/-- Flow lock slot of an item, none for one that takes no lock (R376, R382). -/
def WItem.slot (it : WItem) : Option Nat := if 0xFFFFE ≤ it.flow.toNat then none else some (it.flow.toNat % 16384)

/-- The dispatcher is in service (R390). -/
def State.wdsOn (s : State) : Bool :=
  match s.mode with
  | .firing | .glazed | .refiring | .held => true
  | .resting => decide ((s.pdomAt 0).rung.toNat ≤ 4)
  | .greenware | .bisque | .cooling => false

/-- On-die limit of a queue (R380). -/
def WQueue.max (q : WQueue) : Nat := if q.ondieMax = 0 then 65536 else q.ondieMax.toNat

/-- Items in the on-die store (`WDS_GSTATUS.ondie`). -/
def State.wdsOndie (s : State) : Nat := s.wds.queue.foldl (fun n e => n + e.2.items.length) s.wds.again.length

/-- Items of a queue in its ring. -/
def WQueue.spilled (q : WQueue) : Nat := q.ring.foldl (fun n b => n + b.items.length) 0

/-- log2 of the spill area, 0 for none (`WDS_GCFG`). -/
def State.spillSize (s : State) : Nat :=
  let l := s.wds.spillLsize.toNat
  if 18 ≤ l ∧ l ≤ 40 then l else 0

/-- Blocks in the ring of a queue (R381). -/
def State.ringBlocks (s : State) : Nat := 2 ^ (s.spillSize - 10) / 256

/-- Global address of a block of a ring (R381). -/
def State.ringAddr (s : State) (q slot : Nat) : Nat :=
  s.devId * 2 ^ 52 + (s.wds.spillLo.toNat + fld s.wds.spillHi 19 0 * 2 ^ 32) + q * 2 ^ (s.spillSize - 10) + slot * 256

/-- The WDS initiator issues a block access with tag 0 and notes what it is for (R381). -/
def wdsIssue (q slot : Nat) (write : Bool) (data : List (BitVec 256)) (s : State) : State :=
  let id := (s.iportAt portWdsI).nextId
  let s := s.onWds (fun w => { w with issued := w.issued ++ [(id, BitVec.ofNat 10 q, slot, write)] })
  issue portWdsI { typ := if write then 1 else 0, addr := BitVec.ofNat 64 (s.ringAddr q slot), len := 255, data := data, bad := data.map (fun _ => false) } s

/-- Bits of a block as it is written: 8 items, empty places zero. -/
def blockData (b : RBlock) : List (BitVec 256) :=
  (List.range 8).map (fun i => match b.items[i]? with | some it => it.bits | none => 0)

/-- Write the oldest block that is full, or with `part` any block not yet sent, while the initiator takes requests (R381). -/
def spillWrite (q : Nat) (part : Bool) (s : State) : State :=
  match (s.queueAt q).ring.find? (fun b => !b.sent && (part || b.items.length == 8)) with
  | none => s
  | some b =>
    if s.portTakes portWdsI && !(s.queueAt q).stopped then
      wdsIssue q b.slot true (blockData b)
        (s.queueAtMod q (fun x => { x with ring := x.ring.map (fun c => if c.slot = b.slot then { c with sent := true } else c) }))
    else s

/-- Begin the refill read of a queue whose head block is in DRAM, when there is room (R382). -/
def refillStart (q : Nat) (s : State) : State :=
  let x := s.queueAt q
  match x.ring.head? with
  | some b =>
    if b.written && x.refill.isNone && decide (x.items.length < x.max) && decide (s.wdsOndie < 65536) && s.portTakes portWdsI then
      wdsIssue q b.slot false [] (s.queueAtMod q (fun x => { x with refill := some none }))
    else s
  | none => s

/-- Spill and refill work of every queue that is due. -/
def wdsSpillWork (s : State) : State :=
  s.each (s.wds.queue.map (·.1)) (fun q t => refillStart q (spillWrite q false t))

/-- An item joins its queue's ring: its newest open block, or a new one (R381). -/
def ringAdd (q : Nat) (it : WItem) (s : State) : State :=
  let x := s.queueAt q
  let s := match x.ring.getLast? with
    | some b =>
      if !b.sent && decide (b.items.length < 8) then
        s.queueAtMod q (fun x => { x with ring := x.ring.dropLast ++ [{ b with items := b.items ++ [it] }] })
      else s.queueAtMod q (fun x => { x with ring := x.ring ++ [{ slot := x.ringPos % s.ringBlocks, items := [it] }], ringPos := x.ringPos + 1 })
    | none => s.queueAtMod q (fun x => { x with ring := [{ slot := x.ringPos % s.ringBlocks, items := [it] }], ringPos := x.ringPos + 1 })
  spillWrite q false s

/-- The ring of a queue can take an item. -/
def State.ringTakes (s : State) (q : Nat) : Bool :=
  let x := s.queueAt q
  x.spill && decide (0 < s.spillSize) && (decide (x.ring.length < s.ringBlocks)
    || match x.ring.getLast? with | some b => !b.sent && decide (b.items.length < 8) | none => false)

/-- The new item goes to the ring rather than the store (R381). -/
def State.needsRing (s : State) (q : Nat) : Bool :=
  let x := s.queueAt q
  decide (65536 ≤ s.wdsOndie) || decide (x.max ≤ x.items.length) || !x.ring.isEmpty

/-- The queue accepts an enqueue (R379, R381, R382). -/
def State.enqueueOk (s : State) (q : Nat) (it : WItem) : Bool :=
  let x := s.queueAt q
  s.wdsOn && x.en && it.flow != 0xFFFFE && !x.stopped && (!s.needsRing q || s.ringTakes q)

/-- Enqueue an item that was accepted. -/
def enqueueItem (q : Nat) (it : WItem) (s : State) : State :=
  if s.needsRing q then ringAdd q it s else s.queueAtMod q (fun x => { x with items := x.items ++ [it] })

/-- A flow slot is locked. -/
def State.locked (s : State) (slot : Nat) : Bool := (sget none s.wds.lock slot).isSome

/-- Items of queue q in service, as their flows. -/
def State.serviceOf (s : State) (q : Nat) : List WItem :=
  s.wds.ctx.flatMap (fun e => (e.2.inService.filter (fun i => i.queue.toNat == q)).map (·.item))

/-- Eligible items of a queue, earliest first, with their places (R377, R382). -/
def State.eligible (s : State) (q : Nat) : List (Nat × WItem) :=
  let items := (s.queueAt q).items; let serv := s.serviceOf q
  if serv.any (fun i => i.flow == 0xFFFFE) || s.wds.again.any (fun a => a.1.toNat == q && a.2.1.flow == 0xFFFFE) then []
  else (List.range items.length).filterMap (fun i =>
    let it := items.getD i {}; let before := items.take i
    let ok := if before.any (fun b => b.flow == 0xFFFFE) then false
      else if it.flow = 0xFFFFE then serv.isEmpty
      else match it.slot with | none => true | some l => !s.locked l && before.all (fun b => b.slot != some l)
    if ok then some (i, it) else none)

/-- Effective priority of an item (R377). -/
def WQueue.prioOf (q : WQueue) (it : WItem) : Nat := if q.useIprio then it.prio.toNat else q.qprio.toNat

/-- A context's fields. -/
def WCtx.kind (x : WCtx) : Nat := fld x.cfg 31 30
def WCtx.room (x : WCtx) : Bool := decide (x.inService.length ≤ fld x.cfg 29 26)
def WCtx.serves (x : WCtx) (q : Nat) : Bool := decide ((q + 1024 - fld x.cfg 25 16) % 1024 < fld x.cfg 15 5)

/-- What a context could be handed from the store: queue, place in the store, item (R377). -/
def State.candidates (s : State) (c : Nat) : List (Nat × Option Nat × WItem) :=
  let x := s.ctxAt c
  (s.wds.queue.filter (fun e => x.serves e.1)).flatMap (fun e => (s.eligible e.1).map (fun i => (e.1, some i.1, i.2)))

/-- The item that a context is handed next: one that waits for re-dispatch, in its dispatch order (R386, R388, DEDUCED, log entry 124), else from the
store (R377): the highest effective priority, then round robin among the queues, then the earliest. -/
def State.pick (s : State) (c : Nat) : Option (Nat × Option Nat × WItem) :=
  match s.wds.again.find? (fun a => (s.ctxAt c).serves a.1.toNat && a.2.2 != some (Fin.ofNat 256 c)) with
  | some a => some (a.1.toNat, none, a.2.1)
  | none =>
  let cs := s.candidates c
  let pr (a : Nat × Option Nat × WItem) : Nat := (s.queueAt a.1).prioOf a.2.2
  let best := (cs.map pr).foldl max 0
  let cs := cs.filter (fun a => pr a == best)
  let dist (q : Nat) : Nat := (q + 1023 - s.wds.rr.toNat) % 1024
  let near := (cs.map (fun a => dist a.1)).foldl min 1024
  cs.find? (fun a => dist a.1 == near)

/-- Dispatch an item to a context (R375, R378, R385): its slot is locked, and it takes the next ticket. -/
def dispatchItem (c : Nat) (a : Nat × Option Nat × WItem) (s : State) : State :=
  let t := s.wds.ticket
  let s := match a.2.1 with
    | some i => s.queueAtMod a.1 (fun x => { x with items := x.items.eraseIdx i })
    | none => s.onWds (fun w => { w with again := w.again.eraseP (fun y => y.1.toNat == a.1 && y.2.1 == a.2.2) })
  let s := s.ctxAtMod c (fun x => { x with inService := x.inService ++ [{ item := a.2.2, ticket := t, queue := BitVec.ofNat 10 a.1 }] })
  let s := s.onWds (fun w => { w with
    ticket := w.ticket + 1, rr := if a.2.1.isSome then BitVec.ofNat 10 a.1 else w.rr
    lock := match a.2.2.slot with | some l => sput none w.lock l (some (some (Fin.ofNat 256 c))) | none => w.lock })
  s.when a.2.2.err (raise 0x3102)

/-- Answer a TAKE or an enqueue: over the network, or to the command's sender. -/
def wdsAnswer (r : Option NReq) (st : BitVec 4) (data : List (BitVec 256)) (s : State) : State :=
  match r with
  | some q => sendRsp portSink (rspFor q st data (data.map (fun _ => false))) s
  | none => s.onWds (fun w => { w with answers := w.answers ++ [(st, data.headD 0)] })

/-- Words 2 to 13 of an ITEM frame (R388). -/
def itemPayload (iop octx rqueue : Nat) (refused : Bool) (ticket : Nat) (item : BitVec 256) : List Word :=
  wd (iop * 2 ^ 28 + octx * 2 ^ 20 + rqueue * 1024 + b2n refused * 512) :: wd ticket :: 0 :: 0 :: natWords item.toNat 8

/-- Send an ITEM frame to a device. -/
def sendItem (dev iop octx rqueue : Nat) (refused : Bool) (ticket : Nat) (item : BitVec 256) (s : State) : State :=
  spanTo dev (fun ttl => [mkFrame 4 dev s.devId ttl (itemPayload iop octx rqueue refused ticket item)]) s

/-- The span port to a device is up. -/
def State.devUp (s : State) (dev : Nat) : Bool :=
  match s.spanRoute dev with | some k => (s.portAt k).state == .up | none => false

/-- A context can be handed an item now (R384, R386, R388). -/
def State.canServe (s : State) (c : Nat) : Bool :=
  let x := s.ctxAt c
  !x.dead && x.room && (if x.kind = 1 then !x.held.isEmpty else x.kind == 2 && s.devUp (fld x.remote 31 20)) && (s.pick c).isSome

/-- Hand one item to a context: to its oldest held TAKE, or in a DELIVER frame (R384, R388). -/
def serveCtx (c : Nat) (s : State) : State :=
  match s.pick c with
  | none => s
  | some a =>
    let x := s.ctxAt c; let t := s.wds.ticket.toNat
    let s := dispatchItem c a s
    if x.kind = 2 then sendItem (fld x.remote 31 20) 1 c (fld x.remote 9 0) false t (itemBits a.2.2 a.1 t) s
    else wdsAnswer (x.held.headD none) stOk [itemBits a.2.2 a.1 t] (s.ctxAtMod c (fun x => { x with held := x.held.tail }))

/-- Serve contexts until none can be handed an item. The spec does not say which of several waiting contexts comes first: a free value names
where the search begins. -/
def serveN : Nat → State → State
  | 0, s => s
  | n + 1, s =>
    let cs := s.wds.ctx.map (·.1)
    if cs.any s.canServe then
      let (v, s) := s.take 8
      let order := cs.filter (fun c => v.toNat ≤ c) ++ cs.filter (fun c => c < v.toNat)
      match order.find? s.canServe with
      | some c => serveN n (serveCtx c s)
      | none => s
    else s

/-- Everything the dispatcher can do now. -/
def wdsServe (s : State) : State :=
  if s.wdsOn then wdsSpillWork (serveN s.wdsOndie s) else s

/-- An item leaves service: its slot is unlocked (R385). -/
def unlockItem (it : WItem) (s : State) : State :=
  match it.slot with | some l => s.onWds (fun w => { w with lock := sput none w.lock l none }) | none => s

/-- Release of a ticket by a context (R385); a proxied item is released at its origin (R388). -/
def wdsRelease (c : Nat) (ticket : BitVec 16) (s : State) : State :=
  match (s.ctxAt c).inService.find? (fun i => i.ticket == ticket) with
  | none => s.onWds (fun w => { w with stale := satInc w.stale })
  | some i =>
    let s := unlockItem i.item (s.ctxAtMod c (fun x => { x with inService := x.inService.filter (fun j => j.ticket != ticket) }))
    let s := match i.item.origin with
      | some (dev, octx, ot) => sendItem dev.toNat 2 octx.toNat 0 false ot.toNat 0 s
      | none => s
    wdsServe s

/-- Items of a context that `p` names wait for re-dispatch with their lock kept (R386). -/
def redispatch (c : Nat) (p : InService → Bool) (except : Option (Fin 256)) (s : State) : State :=
  let is := (s.ctxAt c).inService.filter p
  let s := s.ctxAtMod c (fun x => { x with inService := x.inService.filter (fun i => !p i) })
  s.onWds (fun w => { w with
    again := w.again ++ is.map (fun i => (i.queue, { i.item with tries := satInc i.item.tries }, except))
    redisp := satAdd w.redisp is.length
    lock := is.foldl (fun m i => match i.item.slot with | some l => sput none m l (some none) | none => m) w.lock })

/-- A context is declared dead (R386). -/
def ctxDead (c : Nat) (code : Nat) (s : State) : State :=
  if (s.ctxAt c).dead then s
  else
    let s := redispatch c (fun _ => true) none s
    let hs := (s.ctxAt c).held
    let s := s.ctxAtMod c (fun x => { x with dead := true, held := [] })
    wdsServe (raise code (s.each hs (fun r => wdsAnswer r stOk [emptyItem])))

/-- Contexts bound to a sector of an opening region are declared dead (R217, R386). -/
def wdsRegionOpen (die : Nat) (mask : BitVec 192) (s : State) : State :=
  s.each ((s.wds.ctx.filter (fun e => fld e.2.bind 31 30 == 2 && fld e.2.bind 29 27 == die && mask.getLsbD (fld e.2.bind 26 19))).map (·.1))
    (fun c => ctxDead c 0x0105)

/-- Contexts whose device is reached by a span port that went down are declared dead (R386). -/
def wdsPortDown (k : Nat) (s : State) : State :=
  s.each ((s.wds.ctx.filter (fun e => fld e.2.cfg 31 30 == 2 && s.spanRoute (fld e.2.remote 31 20) == some k)).map (·.1)) (fun c => ctxDead c 0x2101)

/-- A response at the WDS initiator (R382): a failed spill write stops the queue's spill; a refill read waits for the store to take it. -/
def wdsRsp (txid : BitVec 16) (r : NRsp) (s : State) : State :=
  match s.wds.issued.find? (fun e => e.1 == txid) with
  | none => s
  | some (_, q, slot, write) =>
    let s := s.onWds (fun w => { w with issued := w.issued.filter (fun e => e.1 != txid) })
    let block (f : RBlock → RBlock) (x : WQueue) : WQueue := { x with ring := x.ring.map (fun b => if b.slot = slot then f b else b) }
    if write then
      if r.status = stOk then wdsServe (s.queueAtMod q.toNat (fun x =>
        let x := block (fun b => { b with written := true, failed := false }) x
        { x with stopped := x.ring.any (·.failed) }))
      else raise 0x3103 ((s.queueAtMod q.toNat (fun x => { block (fun b => { b with sent := false, failed := true }) x with stopped := true })).onWds (fun w => { w with spillErr := true }))
    else s.queueAtMod q.toNat (fun x => { x with refill := some (some r) })

end Sys2Proof.Machine
end

