-- ==== Sys2Proof/Machine/LaneCore.lean ====
section
/-! DEFINITION. Shared operations of lanes and ports: configuration, coming up, going down; the loss of a span port and of a PCIe link. Files
12 and 13. -/

namespace Sys2Proof.Machine

/-- A lane the part has (R286): 48 on H, 8 on a compute die. -/
def laneExists (l : LaneId) : Bool := l.die == 0 || decide (l.lane.val < 8)

/-- Lane n of die d. -/
def laneOf (d n : Nat) : LaneId := { die := Fin.ofNat 5 d, lane := Fin.ofNat 48 n }

/-- Fields of `LN_CFG` and `LN_RATE`. -/
def Lane.owner (x : Lane) : Nat := fld x.cfg 27 25
def Lane.blind (x : Lane) : Bool := bit x.cfg 24
def Lane.pcs (x : Lane) : Nat := fld x.cfg 22 20
def Lane.kbps (x : Lane) : Nat := fld x.rate 27 0

/-- Number of lanes a PCIe width code stands for (R288). -/
def pcieWidth (code : Nat) : Nat := 2 ^ (min code 4)

/-- Lane rate of a PCIe generation in kb/s (PCI Express Base Specification 5.0, R299). -/
def pcieRate (gen : Nat) : Nat := [0, 2500000, 5000000, 8000000, 16000000, 32000000].getD gen 0

/-- Lane rate of a span port in kb/s (R309). -/
def spanRate (code : Nat) : Nat := [12500000, 25000000, 28125000, 32500000].getD code 0

/-- Lanes that the controllers take (R288). -/
def pcieLanes (w4 w20 : Word) (c : Nat) : Nat :=
  if c = 0 then (if fld w4 1 0 = 0 then 0 else pcieWidth (fld w20 18 16)) else (if fld w4 17 16 = 0 then 0 else pcieWidth (fld w20 22 20))

/-- Controller whose lanes hold XM lane n, if it takes it (R288). -/
def State.pcieOwner (s : State) (n : Nat) : Option Nat :=
  if n < 16 then (if n < pcieLanes (s.setting 4) (s.setting 20) 0 then some 0 else none)
  else if n < 32 then (if n - 16 < pcieLanes (s.setting 4) (s.setting 20) 1 then some 1 else none) else none

/-- `LN_CFG` of XM lane n, as the settings allot it (R288). -/
def State.xmCfg (s : State) (n : Nat) : Word :=
  match s.pcieOwner n with
  | some c => wd ((1 + c) * 2 ^ 25 + 3 * 2 ^ 20)
  | none => if s.xcvr.spanPorts.getLsbD (n / 4) then wd (3 * 2 ^ 25 + b2n (bit (s.setting 20) (n / 4)) * 2 ^ 24 + 2 ^ 20) else wd (7 * 2 ^ 25)

/-- `LN_RATE` of XM lane n (R288, R299, R309). -/
def State.xmRate (s : State) (n : Nat) : Word :=
  match s.pcieOwner n with
  | some c => wd (pcieRate (fld (s.setting 4) (4 + 16 * c) (2 + 16 * c)))
  | none => if s.xcvr.spanPorts.getLsbD (n / 4) then wd (spanRate (fld (s.setting 22) (2 * (n / 4) + 1) (2 * (n / 4)))) else 0

/-- The XM lanes take their allocation (step 7 of R57, R288). -/
def xmAllot (s : State) : State :=
  s.each (List.range 48) (fun n t => t.laneAtMod (laneOf 0 n) (fun x => { x with cfg := t.xmCfg n, rate := t.xmRate n }))

/-- A lane in electrical idle (R291, R307). -/
def Lane.idle (x : Lane) : Lane :=
  { x with state := .off, enabled := false, symLock := false, cdrLock := false, sigDet := false, prbsLock := false, stepped := false, tsRun := 0, ts2Run := 0 }

/-- Adaptation restarts from its reset values (R298). -/
def Lane.readapt (x : Lane) : Lane := if x.adaptHold then x else { x with eqRx := 0 }

/-- The lane's owner enables it (R289, R291, R292): a trained 8b/10b lane goes to Detect, a trained Ethernet lane trains, and any other lane
starts blind. A lane without a rate is not configured. -/
def Lane.enable (x : Lane) : Lane :=
  if x.kbps = 0 ∨ x.pcs = 3 then x
  else
    let x := { x with enabled := true, tsRun := 0, ts2Run := 0, stepped := false }
    if !x.blind && x.pcs == 1 then { x with state := .detect } else if !x.blind && x.pcs == 4 then { x with state := .train } else { x with state := .blind }

/-- The lane returns to Detect (R291, R298). -/
def Lane.toDetect (x : Lane) : Lane :=
  { x.readapt with state := .detect, symLock := false, cdrLock := false, sigDet := false, stepped := false, tsRun := 0, ts2Run := 0 }

/-- Span transactions that left on port k end with UNREACH in their order slots, and a later response finds none (R321). -/
def stxUnreach (k : Nat) (s : State) : State :=
  let xs := s.span.stx.filterMap (fun e => e.2.bind (fun x => if x.port.toNat = k then some x else none))
  let s := s.onSpan (fun p => { p with stx := smap none p.stx (fun _ x => match x with | some y => if y.port.toNat = k then none else x | none => none) })
  s.each xs (fun x => sendRsp portSpn (rspFor x.req stUnreach [] []))

/-- Alignment marks are lost (R324). -/
def marksLost (s : State) : State :=
  if s.span.tbLost then s else raise 0x2D03 (s.onSpan (fun p => { p with tbLost := true, firstMark := true, slew := 0 }))

/-- A span port goes down (R321, R386). Its receiver and transmitter are empty, and notice 0x3D10 + k is raised if it was up. -/
def spanDown (k : Nat) (s : State) : State :=
  let p := s.portAt k
  if p.state == .up then
    let s := s.portAtMod k (fun p => { p with
      state := .down, deskewed := false, unacked := [], txQ := [], txU := [], used := [], freed := [], accepted := 0, nak := false, asm := []
      txGroup := [], rxGroup := [], downSeen := true, wasDown := true })
    let s := s.onSpan (fun p => { p with reqIn := p.reqIn.filter (fun r => r.1 != k) })
    let s := wdsPortDown k (raise (0x3D10 + k) (stxUnreach k s))
    let c := s.reg 0 (blkSpn + 8)
    s.when (fld c 31 30 == 2 && fld c 29 26 == k) marksLost
  else s.portAtMod k (fun p => if p.state == .disabled then p else { p with state := .bringUp, deskewed := false })

/-- An enabled span port that exists brings up its four lanes (R308). -/
def spanEnable (k : Nat) (s : State) : State :=
  if s.xcvr.spanPorts.getLsbD k then
    (s.portAtMod k (fun p => { p with state := .bringUp, deskewed := false })).each (List.range 4)
      (fun i t => t.laneAtMod (laneOf 0 (4 * k + i)) Lane.enable)
  else s

/-- Software clears the enable of a span port: it goes down, and its lanes are Off (R291, R321). -/
def spanDisable (k : Nat) (s : State) : State :=
  let s := (spanDown k s).portAtMod k (fun p => { p with state := .disabled, deskewed := false })
  if s.xcvr.spanPorts.getLsbD k then s.each (List.range 4) (fun i t => t.laneAtMod (laneOf 0 (4 * k + i)) Lane.idle) else s

/-- Span port that lane l belongs to. -/
def State.laneSpan (s : State) (l : LaneId) : Option Nat :=
  if l.die = 0 ∧ (s.laneAt l).owner = 3 then some (l.lane.val / 4) else none

/-- The port of a lane goes down other than by its owner's disable (R303, R306, R307). -/
def lanePortDown (l : LaneId) (s : State) : State :=
  let s := raiseFrom l.die.val 0x3C03 s
  match s.laneSpan l with | some k => spanDown k s | none => s

/-- Quads whose owner sectors a mask holds (R287). -/
def quadsOf (m : BitVec 192) : List Nat :=
  (if m.getLsbD 176 && m.getLsbD 177 then [0] else []) ++ (if m.getLsbD 190 && m.getLsbD 191 then [1] else [])

/-- Lanes of the port minus 1 (R290): 3 for a span port; the grouping of XL lanes is the user's (log 38). -/
def portLanes (l : LaneId) : Nat := if l.die = 0 then 3 else (Config.xlPortLanes l.die.val l.lane.val).toNat

/-- Number of a lane within its port (R290). -/
def laneInPort (l : LaneId) : Nat := if l.die = 0 then l.lane.val % 4 else l.lane.val % 4 % (portLanes l + 1)

/-- First lanes of the ports of a quad that have an enabled lane. -/
def State.quadPorts (s : State) (n q : Nat) : List Nat :=
  (((List.range 4).filter (fun i => (s.laneAt (laneOf n (4 * q + i))).enabled)).map (fun i => 4 * q + i - laneInPort (laneOf n (4 * q + i)))).eraseDups

/-- A quad of compute die n, 1 to 4, goes to electrical idle, and each of its ports that was enabled goes down with a notice (R287). -/
def quadIdle (n q : Nat) (s : State) : State :=
  ((s.each (List.range 4) (fun i t => t.laneAtMod (laneOf n (4 * q + i)) Lane.idle)).each (s.quadPorts n q) (fun _ => raiseFrom n 0x3C03))

/-- Owner sectors of a quad of a compute die, 0 to 3 (R287). -/
def quadOwners (die q : Nat) : Nat × Nat := if q = 0 then (die * 192 + 176, die * 192 + 177) else (die * 192 + 190, die * 192 + 191)

/-- Lanes of a compute die that the device enables at the start of user operation and after a wake (R307). -/
def enableQuad (n q : Nat) (s : State) : State :=
  s.each (List.range 4) (fun i t => t.laneAtMod (laneOf n (4 * q + i)) Lane.enable)

/-- The PCIe link of controller c goes down: no completion is returned for what is outstanding, and `win_lsize` takes effect (R300, R496). -/
def pcieDown (c : Nat) (s : State) : State :=
  let f (x : Pcie) : Pcie := if x.up then { x with
    up := false, width := 0, gen := 0, ltssm := Config.ltssm 0, inL1 := false, downSeen := true, waiting := [], compl := [], lsizeEff := x.lsize } else x
  let was := if c = 0 then s.xcvr.pcie0.up else s.xcvr.pcie1.up
  let s := s.onXcvr (fun x => if c = 0 then { x with pcie0 := f x.pcie0 } else { x with pcie1 := f x.pcie1 })
  s.when was (fun s => s.iportAtMod (if c = 0 then portPcie0 else portPcie1) (fun q => { q with out := q.out.map (fun o => { o with drop := true }) }))

end Sys2Proof.Machine
end

