-- ==== Sys2Proof/Machine/AdlCore.lean ====
section
/-! DEFINITION. The die link's operations: lanes, pairs, link flits, lane changes by tag, the sideband's frames and the join sequence. File 11. -/

namespace Sys2Proof.Machine

/-- The quiet window is open (R446). -/
def State.quietWin (s : State) : Bool := s.clk.quiet || s.clk.qwForce

/-- Bits of a flit, bit 0 first (R267). -/
def flitBits (f : BitVec 288) : List Bool := (List.range 288).map f.getLsbD

/-- The control bits r of a pair under a sequence tag: CRC-16 over tag bits 7 to 0, then slot 0 and slot 1 from bit 0 (R268). -/
def pairCrc (tag : Byte) (a b : BitVec 288) : Nat := crcBits 16 0x8BB7 0xFFFF (msbBits tag ++ flitBits a ++ flitBits b)

/-- Logical lane that a physical lane carries under a set of excluded lanes: its rank among those not excluded (R264). -/
def logicalLane (excl : BitVec 78) (p : Nat) : Option Nat :=
  if p < 78 ∧ !excl.getLsbD p then some ((List.range p).filter (fun i => !excl.getLsbD i)).length else none

/-- The four bits of logical lane `j` in a link cycle of a pair, first UI in bit 0 (R264, R267). -/
def pairNibble (half : Bool) (f0 f1 : BitVec 288) (r : BitVec 16) (cycle j : Nat) : BitVec 4 :=
  if half then
    let f := if cycle / 2 = 0 then f0 else f1
    if j < 36 then bvOf 4 (fun i => f.getLsbD (144 * (cycle % 2) + 4 * j + i))
    else if j = 36 then bvOf 4 (fun i => r.getLsbD (15 - 4 * cycle - i)) else 0
  else
    let f := if cycle = 0 then f0 else f1
    if j < 72 then bvOf 4 (fun i => f.getLsbD (4 * j + i))
    else if j = 72 then bvOf 4 (fun i => r.getLsbD (15 - 4 * cycle - i))
    else if j = 73 then bvOf 4 (fun i => r.getLsbD (7 - 4 * cycle - i)) else 0

/-- Lanes that an end of a bundle excludes: those marked failed, and the one it has out for the rolling test (R264, R274). -/
def Bundle.excl (x : Bundle) (receiver : Bool) : BitVec 78 :=
  match (if receiver then x.rxOut else x.txOut) with
  | some l => setBit x.failed l.toNat true
  | none => x.failed

/-- What a physical lane of a bundle carries in a link cycle of a pair with tag `tag` (R264, R267, R268): a lane without a logical lane is low, and a lane
out for the rolling test carries PRBS15, which is not given here (R274). -/
def Bundle.laneBits (x : Bundle) (tag : Byte) (f0 f1 : BitVec 288) (cycle p : Nat) : BitVec 4 :=
  match logicalLane (x.excl false) p with
  | some j => pairNibble (x.state == .half) f0 f1 (BitVec.ofNat 16 (pairCrc tag f0 f1)) cycle j
  | none => 0

/-- A link flit (R269): `lop`, `abnd`, `nak`, `aseq`, the five credit fields, `stag`, `test`, `plane`. -/
def linkFlit (lop abnd : Nat) (nak : Bool) (aseq cr stag : Nat) (test : Bool) (plane : Nat) : BitVec 288 :=
  flitWith (BitVec.ofNat 256 (0xF * 2 ^ 28 + lop * 2 ^ 24 + abnd * 2 ^ 17 + b2n nak * 65536 + aseq % 256 * 256 + cr * 2 ^ 32
    + (stag % 256 * 2 ^ 24 + b2n test * 2 ^ 17 + plane * 1024) * 2 ^ 64)) (fun b => b % 2 == 0)

/-- The link flit of a slot with nothing to send (R269). -/
def idleLinkFlit : BitVec 288 := linkFlit 0 0x7F false 0 0 0 false 0

/-- A NoC flit as a transmitter puts it on a bundle: one with 1 to 31 mismatching bytes takes the poisoned form (R269). -/
def txFlit (f : BitVec 288) : BitVec 288 := if 0 < badBytes f ∧ badBytes f < 32 then mkFlit (flitData f) true else f

/-- Nothing crosses the bundle any more: what is sent to it is discarded (R275, R282). -/
def Bundle.dead (x : Bundle) : Bool := x.state == .down || x.state == .disabled

/-- The bundle carries flits. -/
def Bundle.works (x : Bundle) : Bool := x.state == .full || x.state == .half

/-- Tag `t` is at or before tag `a`, in the window of 128 (R268). -/
def tagPast (t a : Byte) : Bool := (a - t).toNat < 128

/-- The transmitter's lane map from a tag on (R274). -/
def Bundle.txTurn (x : Bundle) : Bundle :=
  match x.txNext with
  | none => x
  | some (t, c) =>
    if !tagPast t x.txTag then x
    else match c with
      | .out l true => { x with txNext := none, txOut := some l }
      | .out l false => { x with txNext := none, failed := setBit x.failed l.toNat true }
      | .back _ => { x with txNext := none, txOut := none }
      | .half => { x with txNext := none }

/-- Send a new pair: it takes the next tag, and is kept until it is acknowledged (R268, R271). -/
def Bundle.push (f0 f1 : BitVec 288) (x : Bundle) : Bundle :=
  let x := x.txTurn
  { x with txTag := x.txTag + 1, unacked := x.unacked ++ [(x.txTag, f0, f1)], open1 := false }

/-- Send a NoC flit: it takes slot 1 of the newest pair where that is still to go, `join`, or slot 0 of a new one (R267; log 147). -/
def Bundle.sendNoc (join : Bool) (f : BitVec 288) (x : Bundle) : Bundle :=
  match x.unacked.getLast? with
  | some (t, a, _) => if join && x.open1 then { x with unacked := x.unacked.dropLast ++ [(t, a, f)], open1 := false } else { x.push f idleLinkFlit with open1 := true }
  | none => { x.push f idleLinkFlit with open1 := true }

/-- Send the link flits that wait while fewer than 128 pairs are unacknowledged (R269, R271). -/
def linkPump : Nat → Bundle → Bundle
  | 0, x => x
  | n + 1, x =>
    match x.txLink with
    | [] => x
    | f :: fs => if x.works && decide (x.unacked.length < 128) then linkPump n (({ x with txLink := fs } : Bundle).push f idleLinkFlit) else x

/-- Send a link flit on a bundle. -/
def linkSend (c : Nat) (f : BitVec 288) (s : State) : State :=
  s.bundleAtMod c (fun x => linkPump (x.txLink.length + 1) { x with txLink := x.txLink ++ [f] })

/-- The bundle that carries link flits back to the transmitter of `b` (R270): the reverse bundle, or while it is disabled the lowest-numbered
working one of the boundary in that direction. -/
def State.ackBundle (s : State) (b : Nat) : Option Nat :=
  let r := bundleRev b
  if !(s.bundleAt r).dead then some r
  else (bndBundles (bundleBnd b)).find? (fun c => c % 2 == r % 2 && (s.bundleAt c).works)

/-- Send a link flit back to the transmitter of `b`. -/
def linkBack (b : Nat) (f : BitVec 288) (s : State) : State := match s.ackBundle b with | some c => linkSend c f s | none => s

/-- A link flit that names `b` leaves its receiver with what is pending (R270). -/
def sendAck (b : Nat) (s : State) : State :=
  match s.ackBundle b with
  | none => s
  | some c =>
    let x := s.bundleAt b
    let cr (v : Nat) : Nat := min 15 (sget 0 x.freed v)
    let f := linkFlit 0 b x.nak (if x.nak then x.rxTag.toNat else x.rxTag.toNat + 255)
      ((List.range 5).foldl (fun n v => n + cr v * 16 ^ v) 0) 0 false 0
    let s := s.bundleAtMod b (fun x => { x with
      accepted := 0, freed := (List.range 5).foldl (fun m v => sput 0 m v (sget 0 x.freed v - min 15 (sget 0 x.freed v))) x.freed })
    linkSend c f s

/-- A link flit is due at once (R270). -/
def Bundle.ackDue (x : Bundle) : Bool := decide (32 ≤ x.accepted) || (List.range 5).any (fun v => decide (4 ≤ sget 0 x.freed v))
/-- Something waits to be acknowledged or returned. -/
def Bundle.ackPending (x : Bundle) : Bool := x.nak || decide (0 < x.accepted) || (List.range 5).any (fun v => decide (0 < sget 0 x.freed v))

/-- Both ends have a feature and version 0x2 (R279). -/
def State.feature (s : State) (k n : Nat) : Bool :=
  let d := s.bndAt k
  d.features.getLsbD n && (decide (2 ≤ d.version.toNat) || decide (2 ≤ n))

/-- A lane marked failed in the field joins the newest repair record (R273, R471). -/
def recordLane (b lane : Nat) (s : State) : State :=
  let e : Word × Word × Word × Word := (wd (3 * 2 ^ 28 + b * 2 ^ 20 + lane * 2 ^ 13), 0, 0, 0)
  if s.tst.record.entries.contains e || s.tst.add.contains e then s else s.onTst (fun t => { t with add := t.add ++ [e] })

/-- A lane is marked failed in the field: it is recorded, and a spare is taken into use (R273). -/
def failLane (b lane : Nat) (s : State) : State :=
  if (s.bundleAt b).failed.getLsbD lane then s
  else
    let s := s.onTst (fun t => { t with lanes := t.lanes ++ [(BitVec.ofNat 7 b, BitVec.ofNat 7 lane)] })
    raise 0x1B01 (recordLane b lane (s.bundleAtMod b (fun x => { x with failed := setBit x.failed lane true })))

/-- Lane changes are made now (R274): with `rlt_qw` at the receiver only inside a quiet window. -/
def State.laneWindow (s : State) (b : Nat) : Bool := !bit (s.reg (bundleTo b / 32) (blkAdl + 0x30)) 30 || s.quietWin

/-- The rolling test may run on a bundle (R274): it is at full width with fewer than four lanes marked failed, and both ends have the feature. -/
def State.rltMay (s : State) (b : Nat) : Bool :=
  (s.bundleAt b).state == .full && decide (ones (s.bundleAt b).failed < 4) && s.feature (bundleBnd b) 1

/-- The rolling test runs at the receiver, an end of the part (R274). -/
def State.rltRuns (s : State) (b : Nat) : Bool :=
  decide (bundleTo b / 32 < 5) && bit (s.reg (bundleTo b / 32) (blkAdl + 0x30)) 31 && s.rltMay b

/-- The lane that the receiver tests next: ascending from the last, wrapping from 77 to 0, past those marked failed (step 1 of R274). -/
def Bundle.rltLane (x : Bundle) : Nat := (((List.range 78).map (fun i => (x.rltNext + i) % 78)).find? (fun l => !x.failed.getLsbD l)).getD 0

/-- Step 1 and 2 of the rolling test (R274): the receiver picks a lane and sends REQ_OUT; a dwell that ended while lane changes had to wait sends its
REQ_IN. -/
def rltBegin (b : Nat) (s : State) : State :=
  let x := s.bundleAt b
  if !s.laneWindow b then s
  else if x.rlt == .idle && s.rltRuns b && x.rxOut.isNone && x.rxNext.isNone then
    linkBack b (linkFlit 4 0x7F false 0 0 0 true x.rltLane)
      (s.bundleAtMod b (fun x => { x with rlt := .asked, testLane := BitVec.ofNat 7 x.rltLane, rltNext := (x.rltLane + 1) % 78 }))
  else if x.rlt == .due then
    linkBack b (linkFlit 5 0x7F false 0 0 0 true x.testLane.toNat) (s.bundleAtMod b (fun x => { x with rlt := .returning }))
  else s

/-- Step 3 of the rolling test, and its end (R274): the transmitter answers what it was asked with STEER_OUT or STEER_IN, at a tag 8 pairs ahead, once the
previous tag is acknowledged. -/
def steerSend (b : Nat) (s : State) : State :=
  let x := s.bundleAt b
  match x.ask with
  | none => s
  | some (out, test, l) =>
    if x.works && x.stag.isNone && s.laneWindow b then
      let t : Byte := x.txTag + BitVec.ofNat 8 (8 + x.txLink.length)
      linkSend b (linkFlit (if out then 1 else 2) 0x7F false 0 0 t.toNat test l.toNat)
        (s.bundleAtMod b (fun x => { x with ask := none, stag := some t, txNext := some (t, if out then .out l test else .back l) }))
    else s

/-- A quiet window opens, or the rolling test is switched on: what waits goes on (R274). -/
def rltResume (s : State) : State := s.each (List.range 76) (fun b t => steerSend b (rltBegin b t))

/-- The receiver's lane map from a tag on (R264, R274). -/
def rxTurn (b : Nat) (s : State) : State :=
  let x := s.bundleAt b
  match x.rxNext with
  | none => s
  | some (t, c) =>
    if !tagPast t x.rxTag then s
    else
      let s := s.bundleAtMod b (fun x => { x with rxNext := none })
      match c with
      | .out l true => s.bundleAtMod b (fun x => { x with rxOut := some l, rlt := .testing, testLane := l })
      | .out l false => failLane b l.toNat s
      | .back _ => rltBegin b (s.bundleAtMod b (fun x => { x with rxOut := none, rlt := .idle }))
      | .half => raise 0x2B03 (s.bundleAtMod b (fun x => { x with state := .half, rlt := .idle, rxOut := none, txOut := none, txNext := none, ask := none }))

/-- A lane change reaches the receiver (R274): it applies from its tag. -/
def rxChange (b : Nat) (stag : Byte) (c : LaneChange) (s : State) : State :=
  if (s.bundleAt b).works then rxTurn b (s.bundleAtMod b (fun x => { x with rxNext := some (stag, c) })) else s

/-- A packet that a receiver has begun to forward is completed with poisoned data flits of zero data (R275). -/
def completePacket (b : Nat) (s : State) : State :=
  match (s.bundleAt b).rxPkt with
  | none => s
  | some (vc, n) =>
    let q := bundleTo b
    let s := s.bundleAtMod b (fun x => { x with rxPkt := none })
    s.chanAtMod (chanKey q (inportOf (bundleFrom b).1 q) vc.val) (fun c => { c with buf := c.buf ++ List.replicate n (mkFlit 0 true) })

/-- No lane change is under way (R272, R274). -/
def Bundle.settle (x : Bundle) : Bundle := { x with rlt := .idle, stag := none, txNext := none, rxNext := none, txOut := none, rxOut := none, ask := none }

/-- The state of a bundle's link layer at tag 0 (R278 step 10). -/
def Bundle.fresh (x : Bundle) : Bundle :=
  { x.settle with
    txTag := 0, unacked := [], expiries := 0, used := [], txLink := [], rxTag := 0, nak := false, refused := 0, accepted := 0, freed := [],
    rxPkt := none, open1 := false, slept := 0, clkStop := false }

/-- A bundle stops: nothing is sent or kept (R275, R282). -/
def stopBundle (st : BndState) (b : Nat) (s : State) : State :=
  (completePacket b s).bundleAtMod b (fun x => { x.fresh with state := st })

/-- A sideband frame (R277): message, bundle, sequence, data and argument with the check of bits [63:8]. -/
def sbFrame (msg bnd seq data arg : Nat) : BitVec 64 :=
  let v : BitVec 64 := BitVec.ofNat 64 (msg * 2 ^ 56 + bnd * 2 ^ 52 + seq % 16 * 2 ^ 48 + data % 2 ^ 32 * 65536 + arg % 256 * 256)
  BitVec.ofNat 64 (v.toNat + crcBits 8 7 0 ((List.range 56).map (fun i => v.getLsbD (63 - i))))

/-- Change one end of a boundary. -/
def sbEndMod (k : Nat) (leader : Bool) (f : SbEnd → SbEnd) (s : State) : State :=
  s.bndAtMod k (fun b => if leader then { b with leader := f b.leader } else { b with follower := f b.follower })
def Boundary.sb (b : Boundary) (leader : Bool) : SbEnd := if leader then b.leader else b.follower

/-- An end sends a message: it takes the next counter value and waits for its acknowledgement, unless it is KEEPALIVE (R277). What a guest's end sends is
its own. -/
def sbSend (k : Nat) (leader : Bool) (msg bnd data arg : Nat) (s : State) : State :=
  if !leader && decide (7 ≤ k) then s
  else sbEndMod k leader (fun e =>
    let f := sbFrame msg bnd e.seq.toNat data arg
    if e.up then { e with seq := e.seq + 1, tx := e.tx ++ [f], wait := if msg = 0 then e.wait else e.wait ++ [(f, 0)] } else e) s

/-- An end whose sideband stops (R276, R277). -/
def SbEnd.stop (e : SbEnd) : SbEnd := { e with up := false, wait := [] }

/-- The break on a boundary ends, and its sideband runs (step 1 of R278); a compute follower sends HELLO: kind 0x0001, version 0x2, rate code 0x0 and
every feature (R279; log 148). -/
def endBreak (k : Nat) (rejoin : Bool) (s : State) : State :=
  let s := s.bndAtMod k (fun b => { step := 1, rejoin := rejoin, slowNoticed := b.slowNoticed, leader := { b.leader.stop with up := true },
                                    follower := { b.follower.stop with up := true } })
  s.when (decide (k < 7)) (sbSend k false 0x10 0xF 0x00010200 0xF)

/-- A boundary stops: its sideband is down, no join step runs, and its bundles carry nothing (R71, R276). -/
def stopBnd (k : Nat) (s : State) : State :=
  (s.each (bndBundles k) (stopBundle .down)).bndAtMod k (fun b => { slowNoticed := b.slowNoticed, leader := b.leader.stop, follower := b.follower.stop })

/-- The ends of the part report a join step passed, and what they exchange in it (R278): LANE_MAP in step 8 is sent by `spareChoose`, and the four CAP
pages in step 9. The step's own work, in calibrators and pattern checkers, is not in the commands (log 148). -/
def stepReport (k : Nat) (s : State) : State :=
  let n := (s.bndAt k).step
  let s := s.when (n == 9) (fun s => s.each [true, false] (fun l t => t.each (List.range 4) (fun p =>
    sbSend k l 0x14 0xF (Config.capPage (if l then bndLeader k else bndFollower k) p).toNat p)))
  let s := s.each [true, false] (fun l t => sbSend k l 0x12 0xF 1 n t)
  s.when (decide (7 ≤ k)) (State.bndAtMod k (fun b => { b with syncL := true, capL := if n = 9 then 0xF else b.capL }))

end Sys2Proof.Machine
end

