-- ==== Sys2Proof/Machine/Start.lean ====
section
/-! DEFINITION. The start sequence, settings, flash directory and firmware, resets. File 03, with the sub-steps of 95. -/

namespace Sys2Proof.Machine

/-- A word of a flash port; erased words read as ones. -/
def flashWord (m : Store Word) (i : Nat) : Word := sget 0xFFFFFFFF m i

/-- Words of FSPI0 or FSPI1: a port whose parameter table is not valid is treated as empty (R64). -/
def State.flashOf (s : State) (port : Nat) : Store Word :=
  if port = 0 then (if s.flash.valid0 then s.flash.w0 else []) else if s.flash.valid1 then s.flash.w1 else []

/-- Words [i, i + n) of a flash port. -/
def flashWords (m : Store Word) (i n : Nat) : List Word := (List.range n).map (fun k => flashWord m (i + k))

/-- No word of the range is programmed. -/
def flashErased (m : Store Word) (i n : Nat) : Bool := m.all (fun e => decide (e.1 < i) || decide (i + n ≤ e.1))

/-- A word of a fuse field, as sensed at the last start (R208). -/
def State.fuse (s : State) (field i : Nat) : Word := sget 0 s.fuses.sensed (field * 128 + i)

/-- Hub power-good with PORST_N high: step 1 of the start (R56, R57). -/
def startHub (s : State) : State :=
  (s.onPwr (fun p => { p with good := p.good ||| 7 })).onBoot (fun _ => { hubGood := true })

/-- `HUB_POWER_GOOD` (R5, R56, R57): the hub rails are good and PORST_N is high. A device that stays in Greenware leaves it only after PORST_N
was asserted (R53, R404). -/
def hubPowerGoodF (s : State) : State :=
  if s.mode == .greenware && !s.boot.hubGood && (!s.boot.stay || s.boot.porstLow) then startHub s else s
def execHubPowerGood (s : State) : Host.Outcome State Fault Refusal := .next (hubPowerGoodF s)

/-- Granted levels at a start, from the DEBUG_LEVEL fuse (R413). -/
def startLevels (debugLevel : Nat) : Store (BitVec 2) :=
  if debugLevel = 0 then (List.range 5).map (fun t => (t, 2)) else []

/-- `IOSC_QUALIFIED` (R57, R60, R63, R208, R398, R413, R430): the straps are sampled, the boot ROM starts in Bisque, senses the fuses, drives
DONE low and counts the start; a reserved strap value raises 0x0307. -/
def ioscQualifiedF (straps : BitVec 3) (s : State) : State :=
  if s.mode == .greenware && s.boot.hubGood && !s.boot.ioscOk then
    let s := { s with mode := .bisque, fuses := { s.fuses with sensed := s.fuses.bits } }
    let s := s.onBoot (fun b => { b with ioscOk := true, straps := straps })
    let s := s.onDbg (fun d => { d with level := startLevels (fld (s.fuse 4 0) 1 0) })
    let s := s.onCfg (fun c => { c with doneDrive := true })
    let s := s.onMgr (fun m => { m with startNo := m.startNo + 1 })
    s.when (straps == 3 || straps == 5 || straps == 6 || straps == 7) (raise 0x0307)
  else s
def execIoscQualified (straps : BitVec 3) (s : State) : Host.Outcome State Fault Refusal := .next (ioscQualifiedF straps s)

/-- `REFCLK_H_QUAL_TIMEOUT` (R58): REFCLK_H has not passed 10 ms after hub power-good; the boot ROM continues without PCIe. -/
def refclkHQualTimeoutF (s : State) : State :=
  if s.boot.ioscOk && !(s.domAt 25).qualified && !s.boot.refclkFailed then
    raise 0x3308 ((s.onBoot (fun b => { b with refclkFailed := true })).onXcvr
      (fun x => { x with pcie0 := { x.pcie0 with enabled := false }, pcie1 := { x.pcie1 with enabled := false } }))
  else s
def execRefclkHQualTimeout (s : State) : Host.Outcome State Fault Refusal := .next (refclkHQualTimeoutF s)

/-- The areas a directory copy names, as port, offset and size in bytes (R65). -/
def dirAreas (w : Nat → Word) : List (Nat × Nat × Nat) :=
  (List.range 4).map (fun k => (fld (w (5 + 2 * k)) 31 30, (w (4 + 2 * k)).toNat, fld (w (5 + 2 * k)) 23 0 * 1024))

/-- Two ranges on one port share a byte. -/
def overlaps (a b : Nat × Nat × Nat) : Bool := a.1 == b.1 && decide (max a.2.1 b.2.1 < min (a.2.1 + a.2.2) (b.2.1 + b.2.2))

/-- A directory copy verifies (R65, R66). -/
def dirVerifies (w : Nat → Word) (valid1 : Bool) : Bool :=
  let as := dirAreas w
  w 0 == 0x7D1B0D1A && w 1 == 1 && w 2 != 0xFFFFFFFF && onlyBits (w 3) 1
  && (List.range 4).all (fun k => fld (w (5 + 2 * k)) 29 24 == 0 && (w (4 + 2 * k)).toNat % 0x1000 == 0)
  && (List.range 1011).all (fun i => w (12 + i) == 0)
  && as.all (fun a => decide (a.1 < 2) && (a.1 == 0 || valid1) && !overlaps a (0, 0, 0x1000000))
  && (List.range 4).all (fun i => (List.range i).all (fun j => !overlaps (as.getD i (0, 0, 0)) (as.getD j (0, 0, 0))))
  && w 1023 == crc32 (wordBytes ((List.range 1023).map w))

/-- `FLASH_DISCOVERY` (R57, R58, R64 to R66): once REFCLK_H has passed or step 4 has timed out, the parameter tables are read, and the verifying directory copy with the higher sequence is chosen, or
the default map. -/
def flashDiscoveryF (valid0 : Bool) (size0 : Nat) (valid1 : Bool) (size1 : Nat) (s : State) : State :=
  if s.boot.ioscOk && ((s.domAt 25).qualified || s.boot.refclkFailed) && !s.boot.flashDone then
    let s := s.onBoot (fun b => { b with flashDone := true })
    let s := s.onFlash (fun f => { f with valid0 := valid0, size0 := if valid0 then size0 else 0, valid1 := valid1, size1 := if valid1 then size1 else 0 })
    let copy (i : Nat) : Nat → Word := fun k => flashWord s.flash.w0 (1024 * i + k)
    let v0 := valid0 && dirVerifies (copy 0) valid1; let v1 := valid0 && dirVerifies (copy 1) valid1
    let use (i : Nat) (s : State) : State := s.onFlash (fun f => { f with fwPref := bit (copy i 3) 0, areas := dirAreas (copy i) })
    if v0 && v1 then (if (copy 0 2).toNat < (copy 1 2).toNat then use 1 s else use 0 s)
    else if v0 then raise 0x2304 (use 0 s)
    else if v1 then raise 0x2304 (use 1 s)
    else raise 0x2304 (s.onFlash (fun f => { f with fwPref := false, areas := State.reset.flash.areas }))
  else s
def execFlashDiscovery (valid0 : Bool) (size0 : Nat) (valid1 : Bool) (size1 : Nat) (s : State) : Host.Outcome State Fault Refusal :=
  .next (flashDiscoveryF valid0 size0 valid1 size1 s)

/-- The bits of a settings word that some chapter assigns (R72, R214, R404 and the settings tables of 12, 13, 14, 19, 20). -/
def settingsMask : Nat → Nat
  | 0 => 0xFFFFFFFF | 1 => 0xFFFF | 2 => 0xFFFFFFFF | 3 => 0x7F | 4 => 0x001F001F | 5 => 0xFFFFFFFF | 6 => 0xFFFF | 7 => 0x1FFFF
  | 8 => 0x11F | 9 => 0xFFFF | 16 => 0xFFFF0001 | 17 => 0xFF01 | 20 => 0xFF770FFF | 21 => 0xFFFFFF | 22 => 0xFFFFFF | 24 => 0xFFFFFF
  | 25 => 0xFFFFF | 26 => 0xFFFF0007 | 28 => 0xFFFFFFFF | 29 => 0x1FFF | 1023 => 0xFFFFFFFF | _ => 0

/-- Every reserved field is zero and every assigned field is in range (R73). -/
def settingsValid (w : Nat → Word) : Bool :=
  w 0 == 0x5E771A65 && fld (w 1) 15 0 == 1 && (List.range 1024).all (fun i => onlyBits (w i) (settingsMask i))
  && fld (w 4) 1 0 != 3 && fld (w 4) 17 16 != 3 && 1 ≤ fld (w 4) 4 2 && fld (w 4) 4 2 ≤ 5 && 1 ≤ fld (w 4) 20 18 && fld (w 4) 20 18 ≤ 5
  && fld (w 7) 15 0 != 0 && fld (w 20) 18 16 ≤ 4 && fld (w 20) 22 20 ≤ 4 && fld (w 24) 14 12 ≤ 4 && fld (w 24) 23 16 != 0 && fld (w 26) 2 0 ≤ 4

/-- Word index of a settings slot (R72). -/
def settingsBase (slot : Nat) : Nat := 0x40000 + 0x400 * slot

/-- A record verifies (R73). -/
def settingsVerifies (w : Nat → Word) : Bool :=
  settingsValid w && w 2 != 0xFFFFFFFF && w 1023 == crc32 (wordBytes ((List.range 1023).map w))

/-- Insert a slot into a ranking by sequence, highest first, then slot number (R73). -/
def rankInsert (seq : Nat → Nat) (x : Nat) : List Nat → List Nat
  | [] => [x]
  | y :: ys => if seq y < seq x then x :: y :: ys else y :: rankInsert seq x ys

/-- Slots whose header matches, in rank order. -/
def rankSlots (n : Nat) (ok : Nat → Bool) (seq : Nat → Nat) : List Nat :=
  ((List.range n).filter ok).foldl (fun l x => rankInsert seq x l) []

/-- Entries of a repair record as four words each. -/
def recordEntries (w : Nat → Word) : List (Word × Word × Word × Word) :=
  (List.range (min (fld (w 3) 15 0) 8187)).map (fun i => (w (16 + 4 * i), w (17 + 4 * i), w (18 + 4 * i), w (19 + 4 * i)))

/-- Word index of a repair record slot (R471). -/
def recordBase (slot : Nat) : Nat := 0x180000 + 0x8000 * slot

/-- A repair record verifies (R471, R472). -/
def recordVerifies (w : Nat → Word) : Bool :=
  w 0 == 0x7E9A1BEC && w 1 == 1 && w 2 != 0xFFFFFFFF && decide (fld (w 3) 15 0 ≤ 8187) && (List.range 12).all (fun i => w (4 + i) == 0)
  && w 32764 == 0 && w 32765 == 0 && w 32766 == 0 && w 32767 == crc32 (wordBytes ((List.range 32767).map w))

/-- `REPAIR_RECORD_SELECT` (R472): the newest verifying repair record, or 0x22C2 when none verifies and not every slot is erased. -/
def recordSelect (s : State) : State :=
  let w (i : Nat) : Nat → Word := fun k => flashWord (s.flashOf 0) (recordBase i + k)
  let rank := rankSlots 8 (fun i => w i 0 == 0x7E9A1BEC && fld (w i 1) 15 0 == 1 && w i 2 != 0xFFFFFFFF) (fun i => (w i 2).toNat)
  match rank.find? (fun i => recordVerifies (w i)) with
  | some i => s.onTst (fun t => { t with record := { seq := w i 2, slot := some (Fin.ofNat 8 i), entries := recordEntries (w i) } })
  | none => s.when (!flashErased (s.flashOf 0) 0x180000 0x40000) (raise 0x22C2)

/-- Span ports that exist: none of their lanes is taken by a PCIe controller (R288). -/
def spanPortsOf (w4 w20 : Word) : BitVec 12 :=
  let n0 := pcieLanes w4 w20 0; let n1 := pcieLanes w4 w20 1
  bvOf 12 (fun k => (8 ≤ k) || (k < 4 && n0 ≤ 4 * k) || (4 ≤ k && k < 8 && n1 ≤ 4 * (k - 4)))

/-- `SETTINGS_TAKE_EFFECT` (step 7 of R57): lanes are allotted and the enabled PCIe controllers start, unless R58 or R61 keeps them in reset. -/
def settingsTakeEffect (s : State) : State :=
  let run := s.boot.straps != 4 && !s.boot.refclkFailed
  xmAllot <| s.onXcvr (fun x => { x with
    spanPorts := spanPortsOf (s.setting 4) (s.setting 20)
    pcie0 := { x.pcie0 with enabled := run && fld (s.setting 4) 1 0 != 0 }
    pcie1 := { x.pcie1 with enabled := run && fld (s.setting 4) 17 16 != 0 } })

/-- `SETTINGS_SELECT` (R72 to R74, R472): the slots are ranked and the first record that verifies is in effect, or the factory defaults are; a slot of
higher sequence that was skipped, by its version among other causes, raises 0x1303. -/
def settingsSelectF (s : State) : State :=
  if s.boot.flashDone && !s.boot.settingsDone then
    let w (i : Nat) : Nat → Word := fun k => flashWord (s.flashOf 0) (settingsBase i + k)
    let rank := rankSlots 256 (fun i => w i 0 == 0x5E771A65 && fld (w i 1) 15 0 == 1 && w i 2 != 0xFFFFFFFF) (fun i => (w i 2).toNat)
    let s := s.onBoot (fun b => { b with settingsDone := true })
    let s := match rank.find? (fun i => settingsVerifies (w i)) with
      | some i =>
        let words := (List.range 1024).foldl (fun m k => sput (factoryWord k) m k (w i k)) []
        let s := { s with settings := { words := words, defaulted := false, slot := some (Fin.ofNat 256 i) } }
        s.when ((List.range 256).any (fun j => w j 0 == 0x5E771A65 && w j 2 != 0xFFFFFFFF && decide ((w i 2).toNat < (w j 2).toNat))) (raise 0x1303)
      | none =>
        let s := { s with settings := { words := [], defaulted := true, slot := none } }
        raise (if flashErased (s.flashOf 0) 0x40000 0x40000 then 0x0301 else 0x2302) s
    settingsTakeEffect (recordSelect s)
  else s
def execSettingsSelect (s : State) : Host.Outcome State Fault Refusal := .next (settingsSelectF s)

/-- A firmware copy verifies: header, length, and ECDSA over the SHA-384 of header and code (R67). -/
def firmwareVerifies (s : State) (area : Nat × Nat × Nat) : Bool :=
  let w : Nat → Word := fun k => flashWord (s.flashOf area.1) (area.2.1 / 4 + k)
  let len := (w 2).toNat
  w 0 == 0xF1A05EED && len % 4 == 0 && decide (len ≤ 229376)
  && (List.range 12).all (fun i => w (4 + i) == 0)
  && Config.ecdsa Config.fwKey (Config.sha384 (wordBytes ((List.range (16 + len / 4)).map w))) ((List.range 24).map (fun i => w (16 + len / 4 + i)))

/-- `MBX_STATUS.cmd_free` becomes set (02). -/
def setCmdFree (m : Mgr) : Mgr :=
  { m with mbx := { m.mbx with cmdFree := true, cmdFreeEv := true, msix := m.mbx.msix + b2n (m.mbx.irqEn && !m.mbx.cmdFree) } }

/-- Places of the kiln log that hold something, of its 131,072 (R398): place i is eight words at word index 0x80000 + 8i. -/
def State.kilnPlaces (s : State) : List Nat :=
  (((s.flashOf 0).filter (fun e => decide (0x80000 ≤ e.1) && decide (e.1 < 0x180000))).map (fun e => (e.1 - 0x80000) / 8)).eraseDups

/-- The words of a place of the kiln log. -/
def State.kilnAt (s : State) (i : Nat) : List Word := flashWords (s.flashOf 0) (0x80000 + 8 * i) 8

/-- A written kiln entry verifies (R398). -/
def kilnOk (w : List Word) : Bool := wordAt w 0 != 0xFFFFFFFF && wordAt w 7 == crc32 (wordBytes (w.take 7))

/-- The newest entry of the log (R482): the verifying entry with the highest `seq`, as place and `seq`. -/
def State.kilnNewest (s : State) : Option (Nat × Nat) :=
  (s.kilnPlaces.filter (fun i => kilnOk (s.kilnAt i))).foldl (fun b i =>
    let q := (wordAt (s.kilnAt i) 0).toNat
    match b with | some (_, r) => if r < q then some (i, q) else b | none => some (i, q)) none

/-- The place after the newest entry, and a `seq` above it and above every `seq` given (R398, R399, R482). -/
def kilnResume (s : State) : State :=
  match s.kilnNewest with
  | none => s
  | some (i, q) => s.onMgr (fun m => { m with kilnSlot := BitVec.ofNat 17 (i + 1), kilnSeq := wd (max m.kilnSeq.toNat (q + 1)) })

/-- At every start with a fatal cause still recorded, MGR reports it (R404). -/
def fatalNotice (s : State) : State :=
  s.when (s.ao.fatalCause != 0) (raiseD 0 0x0230 (wd s.ao.fatalCause.toNat) s.ao.fatalPos)

/-- `FIRMWARE_START` (step 10 of R57, R260, R309, R329, R404, R439, R482): firmware runs; it takes the transports, span identity, timebase mode and default routes,
trains the enabled DDR channels, finds the end of the kiln log, and reports a held fatal cause. -/
def firmwareStart (copy : Bool) (s : State) : State :=
  let s := kilnResume (s.onBoot (fun b => { b with fwRuns := true, fwCopy := copy }))
  let s := s.onMgr setCmdFree
  let s := s.onSpan (fun p => { p with devId := BitVec.ofNat 12 (fld (s.setting 21) 11 0), portEn := BitVec.ofNat 12 (fld (s.setting 21) 23 12) })
  let s := s.each ((List.range 12).filter (fun k => s.span.portEn.getLsbD k)) spanEnable
  let s := s.onClk (fun c => { c with mode := BitVec.ofNat 3 (fld (s.setting 26) 2 0), prescale := BitVec.ofNat 16 (fld (s.setting 26) 31 16) })
  let s := s.onNoc (fun n => { n with rtDefault := true, rtActive := [], fwActive := [] })
  let s := s.each ((List.range 12).filter (fun k => bit (s.setting 24) k)) (fun k t => t.ddrAtMod k (fun x => { x with state := .training }))
  fatalNotice (aoTake s)

/-- `FIRMWARE_VERIFY` (R67 to R69): the preferred copy, then the other; with neither, the recovery set. -/
def firmwareVerifyF (s : State) : State :=
  if s.boot.settingsDone && !s.boot.fwRuns && !s.boot.recovery then
    let area (b : Bool) := s.flash.areas.getD (b2n b) (0, 0, 0)
    if firmwareVerifies s (area s.flash.fwPref) then firmwareStart s.flash.fwPref s
    else if firmwareVerifies s (area !s.flash.fwPref) then firmwareStart (!s.flash.fwPref) (raise 0x2305 s)
    else fatalNotice (raise 0x3306 ((s.onBoot (fun b => { b with recovery := true })).onMgr setCmdFree))
  else s
def execFirmwareVerify (s : State) : Host.Outcome State Fault Refusal := .next (firmwareVerifyF s)

/-- `DIE_RELEASE` (R70, R276, R278): MGR ends the break of the next die in the boot order, once the die before it has joined or timed out; a
compute die only with VCC_C good. -/
def dieReleaseF (s : State) : State :=
  let d := s.boot.released + 1
  if s.boot.fwRuns && decide (d ≤ 6) && (d == 1 || (s.dieAt (d - 1)).settled) && (decide (5 ≤ d) || s.pwr.good.getLsbD 3) then
    let s := s.onBoot (fun b => { b with released := d })
    let s := s.dieAtMod d (fun x => { x with dstate := 1 })
    endBreak (hubBnd d) false s
  else s
def execDieRelease (s : State) : Host.Outcome State Fault Refusal := .next (dieReleaseF s)

/-- A die has failed to join (R71): it is offline until the next start, and its boundary with H stops. -/
def joinFailed (d : Nat) (s : State) : State :=
  raise (0x3310 + d) ((stopBnd (hubBnd d) s).dieAtMod d (fun x => { x with dstate := 0, settled := true }))

/-- `VCC_C_GOOD_TIMEOUT` (R70, R71): VCC_C is not good 1 s after firmware starts, so every compute die has failed to join. -/
def vccCGoodTimeoutF (s : State) : State :=
  if s.boot.fwRuns && !s.pwr.good.getLsbD 3 && !s.boot.vccCFailed then
    let s := s.onBoot (fun b => { b with vccCFailed := true, released := max 4 b.released })
    s.each [1, 2, 3, 4] (fun d t => if (t.dieAt d).settled then t else joinFailed d t)
  else s
def execVccCGoodTimeout (s : State) : Host.Outcome State Fault Refusal := .next (vccCGoodTimeoutF s)

/-- `DIE_JOIN_TIMEOUT` (R71, R278): the 100 ms join limit of a die that is joining has passed. A rejoin that fails leaves the die fenced out. -/
def dieJoinTimeoutF (d : Fin 7) (s : State) : State :=
  if (s.dieAt d.val).dstate == 1 then joinFailed d.val s else s
def execDieJoinTimeout (d : Fin 7) (s : State) : Host.Outcome State Fault Refusal := .next (dieJoinTimeoutF d s)

/-- `FLASH_LOAD_START` (step 12 of R57, R60, R184): every die has joined or timed out; a flash start enters Firing and begins the load. -/
def flashLoadStartF (s : State) : State :=
  if s.boot.fwRuns && !s.boot.loadStarted && s.mode == .bisque && [1, 2, 3, 4, 5, 6].all (fun d => (s.dieAt d).settled) then
    let s := s.onBoot (fun b => { b with loadStarted := true })
    if s.boot.straps = 0 ∨ s.boot.straps = 1 then
      ({ s with mode := .firing }).onCfg (fun c => { c with flashLoad := some (if s.boot.straps = 0 then .primary else .golden), flashPos := 0 })
    else s
  else s
def execFlashLoadStart (s : State) : Host.Outcome State Fault Refusal := .next (flashLoadStartF s)

/-- `PORST_ASSERT` (R59, R405): 10 µs or longer resets the device to Greenware; shorter than 1 µs is ignored; between them either happens,
which a free value decides. -/
def porstAssertF (ns : Nat) (s : State) : State :=
  let reset (s : State) : State := (greenware 2 s).onBoot (fun b => { b with porstLow := true })
  if 10000 ≤ ns then reset s
  else if ns < 1000 then s
  else
    let (b, s) := s.take 1
    if b = 1 then reset s else s
def execPorstAssert (ns : Nat) (s : State) : Host.Outcome State Fault Refusal := .next (porstAssertF ns s)

/-- `AUTO_RESTART` (R53): after RESET_DEVICE the device leaves Greenware by itself, as if PORST_N had been released. -/
def autoRestartF (s : State) : State :=
  if s.mode == .greenware && s.boot.restart && !s.boot.fatalRestart && !s.boot.hubGood then startHub s else s
def execAutoRestart (s : State) : Host.Outcome State Fault Refusal := .next (autoRestartF s)

/-- `FATAL_AUTO_RESTART` (R404): the same, 10 ms after a fatal halt, unless settings word 17 holds the device. -/
def fatalAutoRestartF (s : State) : State :=
  if s.mode == .greenware && s.boot.fatalRestart && !s.boot.stay && !s.boot.hubGood then startHub s else s
def execFatalAutoRestart (s : State) : Host.Outcome State Fault Refusal := .next (fatalAutoRestartF s)

/-- `MGR_LOCKSTEP_MISMATCH` (R35, R402): a fatal outcome, while MGR runs. -/
def mgrLockstepMismatchF (s : State) : State := if s.mgrStopped then s else fatal 0x4320 s
def execMgrLockstepMismatch (s : State) : Host.Outcome State Fault Refusal := .next (mgrLockstepMismatchF s)

end Sys2Proof.Machine
end

