-- ==== Sys2Proof/Machine/Fabric.lean ====
section
/-! DEFINITION. The fabric: configuration fields, combinational values, flip-flops, tile memories, bridge wires. File 04. -/

namespace Sys2Proof.Machine

/-- Sector (key die × 192 + index) of a logical tile (R17). -/
def tileSec (die x y : Nat) : Nat := die * 192 + y / 64 * 16 + x / 32

/-- Key of word `w` of frame `f` of a sector. -/
def frameKey (sec f w : Nat) : Nat := (sec * 607 + f) * 256 + w

/-- A word of the configuration plane. -/
def State.frameWord (s : State) (sec f w : Nat) : Word := sget 0 s.fab.frames (frameKey sec f w)

/-- Bit `b` of entry `i` of field `f`, in the frames `m` of a sector (R190). -/
def planeBit (m : Store Word) (sec f i b : Nat) : Bool :=
  let p := Config.place f i b % (440 * 8192)
  bit (sget 0 m (frameKey sec (p / 8192) (p % 8192 / 32))) (p % 32)

/-- A configuration field of `w` bits. -/
def planeField (m : Store Word) (sec f i w : Nat) : Nat :=
  (List.range w).foldl (fun n b => n + b2n (planeBit m sec f i b) * 2 ^ b) 0

/-- A configuration field in effect. -/
def State.field (s : State) (sec f i w : Nat) : Nat := planeField s.fab.frames sec f i w

/-- Write one bit of a field. -/
def setPlaneBit (sec f i b : Nat) (v : Bool) (s : State) : State :=
  let p := Config.place f i b % (440 * 8192)
  s.onFab (fun t => { t with frames := smod 0 t.frames (frameKey sec (p / 8192) (p % 8192 / 32)) (fun w => setBit w (p % 32) v) })

/-- Numbers of the configuration fields of file 04 and of the fields other chapters define. -/
def fTbl : Nat := 0
def fCell : Nat := 1
def fFf : Nat := 2
def fSr : Nat := 3
def fTmode : Nat := 4
def fXbar : Nat := 5
def fSwitch : Nat := 6
def fBridge : Nat := 7
def fGroup : Nat := 8
def fHold : Nat := 9
def fSdu : Nat := 10
def fPin : Nat := 11
def fPinDly : Nat := 12
def fBank : Nat := 13
def fBm : Nat := 14
def fDm : Nat := 15
def fLane : Nat := 16
def fRate : Nat := 17
def fPinInit : Nat := 18
def fFir : Nat := 19
def fRck : Nat := 20
def fCk : Nat := 21
def fPll : Nat := 22

/-- Index of a tile within its sector. -/
def tileIdx (x y : Nat) : Nat := y % 64 * 32 + x % 32

/-- A signal of the fabric: a crossbar output, a wire at its start, a wire as another tile sees it, the outputs of a cell, and an outgoing
bridge wire. Coordinates are die, x, y. -/
inductive Sig where
  | xb (d x y o : Nat)
  | wire (d x y cls dir i : Nat)
  | seen (d x y cls dir i tx ty : Nat)
  | tabU (d x y c : Nat)
  | tabL (d x y c : Nat)
  | sum (d x y c : Nat)
  | co (d x y c : Nat)
  | ou (d x y c : Nat)
  | q (d x y c n : Nat)
  | bridge (d x y pos : Nat) (east : Bool)
  | loc (d x y n : Nat)
  deriving DecidableEq, Repr, Inhabited

/-- Lengths, counts and first numbers of the wire classes L1, L2, L4, L12, L64 (R91). -/
def clsLen (c : Nat) : Nat := [1, 2, 4, 12, 64].getD c 1
def clsCount (c : Nat) : Nat := [16, 12, 12, 8, 2].getD c 16
def clsBase (c : Nat) : Nat := [0, 16, 28, 40, 48].getD c 0

/-- Tile at which a wire started that is read at (x, y) after `t` tiles in direction `dir` (0 N, 1 E, 2 S, 3 W), if it is on the die
(R91, R95; log 27). -/
def startTile (x y dir t : Nat) : Option (Nat × Nat) :=
  match dir with
  | 0 => if t ≤ y then some (x, y - t) else none
  | 1 => if t ≤ x then some (x - t, y) else none
  | 2 => if y + t < 768 then some (x, y + t) else none
  | _ => if x + t < 512 then some (x + t, y) else none

/-- Key of a routing wire, and of an outgoing bridge wire, at an isolation stage (R218). -/
def wireKey (d x y cls dir i : Nat) : Nat := ((d * 768 + y) * 512 + x) * 256 + dir * 50 + clsBase cls + i
def bridgeKey (d x y pos : Nat) (east : Bool) : Nat := ((d * 768 + y) * 512 + x) * 256 + 200 + b2n east * 12 + pos

/-- The boundary hold of a sector is engaged: it is held for a region, or unavailable (R218, R22). -/
def State.secHeld (s : State) (sec : Nat) : Bool := (s.secAt sec).hold || (s.secAt sec).state == .unavailable

/-- What the isolation stage of a wire gives while the hold is engaged (R218). -/
def State.heldValue (s : State) (sec idx key : Nat) : Bool :=
  let code := if sget false s.cfg.holdSet sec then planeField s.cfg.holdFrames sec fHold idx 2 else 1
  if code = 1 then false else if code = 2 then true else sget false s.cfg.holdVal key

/-- Index of a routing wire among the `hold` fields of its sector. -/
def holdIdx (key : Nat) : Nat := key % 256 + 256 * tileIdx (key / 256 % 512) (key / 256 / 512 % 768)

/-- A configuration field of a cell: `split`, `ousel`, `cgsel`, `cisel` (2 bits), `lchain`. -/
def State.cell (s : State) (d x y c : Nat) : Nat := s.field (tileSec d x y) fCell (tileIdx x y * 8 + c) 6

/-- Fields of a flip-flop: `dsel` (2), `init`, `srval`, `cksel`, `cesel` (3), `srsel` (2). -/
def State.ffCfg (s : State) (d x y c n : Nat) : BitVec 10 := BitVec.ofNat 10 (s.field (tileSec d x y) fFf (tileIdx x y * 16 + 2 * c + n) 10)

/-- Key of a flip-flop: its bit in the sector's flip-flop image (R231). -/
def ffKey (d x y c n : Nat) : Nat := tileSec d x y * 32768 + 16 * (32 * (y % 64) + x % 32) + 2 * c + n

/-- Mode of a tile's tables (R85): 1 tile memory, 2 lane delay, otherwise logic. -/
def State.tmode (s : State) (d x y : Nat) : Nat :=
  if x % 2 = 1 then (let m := s.field (tileSec d x y) fTmode (tileIdx x y) 2; if m = 3 then 0 else m) else 0

/-- Bit of a cell's table. -/
def State.tbl (s : State) (d x y c i : Nat) : Bool := planeBit s.fab.frames (tileSec d x y) fTbl (tileIdx x y * 8 + c) i

/-- Key of the regional-clock synchroniser of a tile clock (R104). -/
def relKey (d x y : Nat) (ck1 : Bool) : Nat := ((d * 768 + y) * 512 + x) * 2 + b2n ck1

/-- A flip-flop on tile clock `ck1` is still held in reset: its sector is in reset, or fewer than two edges came since the release (R104). -/
def State.ffHeld (s : State) (d x y : Nat) (ck1 : Bool) : Bool :=
  let sec := tileSec d x y
  let r := sget (0, 0) s.fab.relClk (relKey d x y ck1)
  (s.secAt sec).inReset || r.1 != sget 0 s.fab.relSec sec || decide (r.2 < 2)

/-- A number from the table inputs A1 to A6 of a cell that `sel` names, lowest first. -/
def tabIndex (ev : Sig → Bool) (d x y c : Nat) (sel : List Nat) : Nat :=
  (List.range sel.length).foldl (fun n i => n + b2n (ev (.xb d x y (6 * c + sel.getD i 0 - 1))) * 2 ^ i) 0

/-- The write address WA1 to WA6 of an M-tile. -/
def waIndex (ev : Sig → Bool) (d x y : Nat) : Nat := (List.range 6).foldl (fun n i => n + b2n (ev (.xb d x y (70 + i))) * 2 ^ i) 0

/-- Bypass input BX1 or BX2 of a cell. -/
def bx (ev : Sig → Bool) (d x y c n : Nat) : Bool := ev (.xb d x y (48 + 2 * c + n))

/-- Group g (0 SRA, 1 SRB) is asserted, by its polarity (R83). -/
def State.srOn (s : State) (ev : Sig → Bool) (d x y g : Nat) : Bool :=
  ev (.xb d x y (68 + g)) != planeBit s.fab.frames (tileSec d x y) fSr (tileIdx x y * 2 + g) 0

/-- Group g is asynchronous. -/
def State.srAsync (s : State) (d x y g : Nat) : Bool := planeBit s.fab.frames (tileSec d x y) fSr (tileIdx x y * 2 + g) 1

/-- A tile is the last one before the die edge in a direction. -/
def lastTile (x y dir : Nat) : Bool :=
  match dir with | 0 => y == 767 | 1 => x == 511 | 2 => y == 0 | _ => x == 0

/-- Tiles that a wire has run which ends at a tile: its length, or, at the last tile before the die edge, where shorter wires end as well, what the
database gives the input (R91, R95; log 136). -/
def endRun (x y dir cls i : Nat) : Nat :=
  if lastTile x y dir then Config.cutWire x y dir (clsBase cls + i) % clsLen cls + 1 else clsLen cls

/-- A wire arriving at a tile: class, index and tiles run (R84, R91). -/
def arriving (ev : Sig → Bool) (d x y dir cls i t : Nat) : Bool :=
  match startTile x y dir t with
  | some (sx, sy) => ev (.seen d sx sy cls dir i x y)
  | none => false

/-- A wire that ends at a tile (R91, R95). -/
def ending (ev : Sig → Bool) (d x y dir cls i : Nat) : Bool := arriving ev d x y dir cls i (endRun x y dir cls i)

/-- Input `n` of direction `dir` of a crossbar (R84). -/
def xbWire (ev : Sig → Bool) (d x y dir n : Nat) : Bool :=
  if n < 16 then ending ev d x y dir 0 n
  else if n < 28 then ending ev d x y dir 1 (n - 16)
  else if n < 40 then ending ev d x y dir 2 (n - 28)
  else if n < 48 then ending ev d x y dir 3 (n - 40)
  else if n < 56 then arriving ev d x y dir 3 (n - 48) 4
  else if n < 64 then arriving ev d x y dir 3 (n - 56) 8
  else if n < 66 then ending ev d x y dir 4 (n - 64)
  else arriving ev d x y dir 4 ((n - 66) % 2) (16 * ((n - 66) / 2 + 1))

/-- Output f (0 OU pin, 1 OL, 2 Q1, 3 Q2) of a cell. -/
def cellOut (ev : Sig → Bool) (d x y c f : Nat) : Bool :=
  match f with
  | 0 => ev (.ou d x y c) | 1 => ev (.tabL d x y c) | 2 => ev (.q d x y c 0) | _ => ev (.q d x y c 1)

/-- Switch-box inputs that name cells and CO7, codes 0 to 9, for a wire with index i (R93). -/
def muxLow (ev : Sig → Bool) (d x y i code : Nat) : Bool :=
  if code = 0 then false
  else if code ≤ 4 then cellOut ev d x y (i % 8) (code - 1)
  else if code ≤ 8 then cellOut ev d x y ((i + 4) % 8) (code - 5)
  else ev (.co d x y 7)

/-- The multiplexer of wire i of class c in direction dir (R93). A turn left into `dir` comes from a wire that travels `dir` + 1. Of "the two turns"
of codes 11 and 12 the rule gives no order: DESIGN CHOICE, 11 is the turn left (log 138). -/
def muxWire (ev : Sig → Bool) (d x y c dir i code : Nat) : Bool :=
  let l := (dir + 1) % 4; let r := (dir + 3) % 4
  let ends (k a : Nat) := ending ev d x y a k (i % clsCount k)
  match code with
  | 10 => ends c dir | 11 => ends c l | 12 => ends c r | 13 => ends c ((dir + 2) % 4)
  | 14 => ends ((c + 4) % 5) dir | 15 => ends ((c + 4) % 5) l | 16 => ends ((c + 4) % 5) r
  | 17 => ends ((c + 1) % 5) dir | 18 => ends ((c + 1) % 5) l | 19 => ends ((c + 1) % 5) r
  | 20 => ends ((c + 2) % 5) dir | 21 => ends ((c + 2) % 5) l | 22 => ends ((c + 2) % 5) r
  | 23 => arriving ev d x y dir 3 (i % 8) (4 * (Config.tap 3 (i % 8) % 2 + 1))
  | 24 => arriving ev d x y dir 4 (i % 2) (16 * (Config.tap 4 (i % 2) % 3 + 1))
  | 25 => arriving ev d x y l 3 (i % 8) (4 * (Config.tap 3 (i % 8) % 2 + 1))
  | 26 => arriving ev d x y r 4 (i % 2) (16 * (Config.tap 4 (i % 2) % 3 + 1))
  | _ => if code < 10 then muxLow ev d x y i code else false

/-- A die has joined and is not fenced (R99): die numbers here are 1 to 4. -/
def State.present (s : State) (n : Nat) : Bool := (s.dieAt n).dstate == 2

/-- Its neighbours see a compute die as present: it has joined, and isolation has not engaged (R99, R453). -/
def State.pres (s : State) (n : Nat) : Bool := s.present n && decide ((s.pdomAt n).rung.toNat < 2)

/-- H feeds its crossbar inputs: they are clamped at 0 from L2 on (R453). -/
def State.hubFeeds (s : State) : Bool := decide ((s.pdomAt 0).rung.toNat < 2)

/-- Die of a clock domain, 0 for H (R427). -/
def clkDie (k : Nat) : Nat := if 4 ≤ k ∧ k ≤ 7 then k - 3 else if 26 ≤ k ∧ k ≤ 57 then (k - 26) / 8 + 1 else 0

/-- CKNMI of a compute die, 1 to 4 (R432): a domain of the die or of H has `fail` set. -/
def State.cknmi (s : State) (n : Nat) : Bool := s.hubFeeds && s.clk.dom.any (fun e => e.2.fail && (clkDie e.1 == 0 || clkDie e.1 == n))

/-- Key of a bridge group: boundary 0 to 2, direction, group. -/
def groupKey (b : Nat) (westward : Bool) (g : Nat) : Nat := (b * 2 + b2n westward) * 288 + g

/-- Number k of an edge wire at tile row y, position pos (R96), and its group. -/
def bandWire (y pos : Nat) : Nat := y % 64 * 12 + pos
def wireGroup (y pos : Nat) : Nat := 24 * (y / 64) + bandWire y pos / 32

/-- Configuration of a bridge group at its receiving die: `breg`, `bsafe` (2), `brck`. The group lies in the edge sector of its band. -/
def State.groupCfg (s : State) (d : Nat) (east : Bool) (g : Nat) : Nat :=
  s.field (d * 192 + g / 24 * 16 + (if east then 15 else 0)) fGroup (b2n east * 24 + g % 24) 4

/-- The incoming bridge wire `pos` of an edge tile; `east` names the edge (R96, R98, R99). -/
def bridgeIn (s : State) (ev : Sig → Bool) (d y pos : Nat) (east : Bool) : Bool :=
  let b := if east then d else d - 1
  let nb := if east then d + 1 else d - 1
  if (east && d == 3) || (!east && d == 0) then false
  else
    let grp := sget {} s.fab.bridge (groupKey b east (wireGroup y pos))
    let cfg := s.groupCfg d east (wireGroup y pos)
    let live := (s.secAt (tileSec d (if east then 511 else 0) y)).state
    let k := bandWire y pos % 32
    if !s.pres (nb + 1) || live == .loading then
      (let safe := cfg / 2 % 4; if safe = 1 then true else if safe = 2 then grp.cap.getLsbD k else false)
    else if cfg % 2 = 1 then grp.cap.getLsbD k
    else ev (.bridge nb (if east then 0 else 511) y pos (!east))

/-- Sector whose frames hold a bank's configuration (R166). -/
def bankSector (d b : Nat) : Nat := d * 192 + 178 + 2 * b

/-- Modes and standard of a pin (`IO_PIN_CFG`). -/
def Pin.std (p : Pin) : Nat := fld p.cfg 31 28
def Pin.omode (p : Pin) : Nat := fld p.cfg 17 15
def Pin.imode (p : Pin) : Nat := fld p.cfg 14 12
/-- Pin n is the N pin of a differential pair, whose fabric signals are inactive (R170). -/
def Pin.isN (p : Pin) (n : Nat) : Bool := (p.std == 9 || p.std == 0xA) && n % 2 == 1
/-- Bits a word of a path mode holds; a reserved mode is treated as direct (R171). -/
def modeBits (m : Nat) : Nat := if m = 2 then 2 else if m = 3 then 4 else if m = 4 then 8 else 1

/-- Bank and pin whose cell stands at a tile (R166). -/
def cellAt (x y : Nat) : Option (Nat × Nat) :=
  if y = 767 ∧ 64 ≤ x ∧ x < 448 ∧ (x - 64) % 4 < 3 then some ((x - 64) / 64, 3 * ((x - 64) % 64 / 4) + (x - 64) % 4) else none
/-- Tile column of a cell, in tile row 767 (R166). -/
def cellCol (b n : Nat) : Nat := 64 + 64 * b + 4 * (n / 3) + n % 3

/-- The registers of a cell are held at `init` (R172): the reset of its cell clock holds. -/
def State.cellHeld (s : State) (d b n : Nat) : Bool := s.ffHeld d (cellCol b n) 767 false

/-- The word that a path's register gives at `init`. -/
def State.initWord (s : State) (d b n mode : Nat) : Byte :=
  if s.field (bankSector d b) fPinInit n 1 = 1 then BitVec.ofNat 8 (2 ^ modeBits mode - 1) else 0

/-- ID[7:0] of a cell (R170 to R172, R178, R182): 0 while VOK is 0; direct follows the pad. -/
def State.cellInput (s : State) (d b n : Nat) : Byte :=
  let p := sget {} s.pin ((d * 6 + b) * 48 + n)
  if !(s.bankAt (d * 6 + b)).vok || p.isN n || p.std == 0 then 0
  else if p.imode = 0 ∨ 5 ≤ p.imode then BitVec.ofNat 8 (b2n p.pad)
  else if s.cellHeld d b n then s.initWord d b n p.imode
  else p.inPipe.headD (s.initWord d b n p.imode)

/-- A local block input of a tile (R84): a receiver of bridge wire `pos` or the BERR of a group at an edge, presence, failure and event lines, VOK of a
bank, ID of an I/O cell, and pin `pin` of a memory, an SDU, a fabric port or a lane. -/
inductive Loc where
  | bridge (pos : Nat) (east : Bool)
  | berr (g : Nat) (east : Bool)
  | presW | presE | presH | cknmi | pvR
  | cev (l : Nat)
  | xto (l : Nat)
  | vok (b : Nat)
  | cell (b n i : Nat)
  | bm (m pin : Nat)
  | dm (pin : Nat)
  | sdu (u pin : Nat)
  | port (p pin : Nat)
  | lane (n pin : Nat)
  deriving DecidableEq, Repr, Inhabited

/-- Pins that a block memory, a deep memory, an SDU, a fabric port and the fabric side of a lane present to the crossbars (R108, R111, R154, R252, R297). -/
def bmPins : Nat := 151
def dmPins : Nat := 70
def sduPins : Nat := 86
def portPins : Nat := 604
def lanePins : Nat := 512

/-- Fabric port whose port sector holds a tile of tile columns 0 to 3 (R253). -/
def portAt (d x y : Nat) : Option Nat :=
  let c := x / 32; let r := y / 64
  if x % 32 < 4 ∧ c % 4 = 2 then some ((d + 1) * 128 + (r / 2 * 4 + c / 4) * 4 + r % 2) else none

/-- Lanes whose fabric signals may stand at a tile of row 767: those of the quad of its owner sectors (R287). -/
def quadLanes (x : Nat) : List Nat := if x < 64 then [0, 1, 2, 3] else if 448 ≤ x then [4, 5, 6, 7] else []

/-- Bridge receivers of an edge tile and the BERR of their groups (R96, R98). -/
def edgeLocs (y : Nat) (east : Bool) : List Loc :=
  (List.range 12).map (fun p => .bridge p east) ++ (((List.range 12).map (wireGroup y)).eraseDups.map (fun g => .berr g east))

/-- The local block inputs of a tile: what each chapter places there (R96, R98, R99, R107, R154, R166, R182, R253, R287, R419, R432, R445, R459);
the database fixes the tile of a pin among those a rule allows (log 26). -/
def locHere (d x y : Nat) : List Loc :=
  let st := tileIdx x y; let ty := y % 64
  (if x = 0 ∧ 0 < d then edgeLocs y false else []) ++ (if x = 511 ∧ d < 3 then edgeLocs y true else [])
  ++ (if x = 0 then [.presW] else []) ++ (if x = 511 then [.presE] else [])
  ++ (if y = 0 then [.presH, .cknmi] ++ (List.range 16).map .cev ++ (List.range 16).map .xto ++ (if x = 32 then [.pvR] else []) else [])
  ++ (if y = 767 then
        (if 64 ≤ x ∧ x < 448 then [.vok ((x - 64) / 64)] else [])
        ++ (match cellAt x y with | some (b, n) => (List.range 8).map (.cell b n) | none => [])
        ++ (quadLanes x).flatMap (fun n => ((List.range lanePins).filter (fun p => decide (Config.pinTile 4 n p % 64 = x % 64))).map (.lane n))
      else [])
  ++ (if x % 32 = Config.bmColumn % 32 ∧ ty < 63 then
        ((List.range bmPins).filter (fun p => decide (Config.pinTile 0 (ty / 3) p % 3 = ty % 3))).map (.bm (ty / 3)) else [])
  ++ ((List.range dmPins).filter (fun p => decide (Config.pinTile 1 0 p % 2048 = st))).map .dm
  ++ (List.range 24).flatMap (fun u => ((List.range sduPins).filter (fun p => decide (Config.pinTile 2 u p % 2048 = st))).map (.sdu u))
  ++ (match portAt d x y with
      | some k => ((List.range portPins).filter (fun p => decide (Config.pinTile 3 0 p % 256 = ty * 4 + x % 32))).map (.port k)
      | none => [])

/-- Local block input n of a tile, in the order the device database numbers them (R84; log 26). -/
def locAt (d x y n : Nat) : Option Loc :=
  let l := locHere d x y
  (rankSlots l.length (fun _ => true) (Config.localRank x y))[n]?.bind (l[·]?)

/-- Pins in a row, lowest first, each group with a width and a value: pin n of them. -/
def pickPin : List (Nat × Nat) → Nat → Bool
  | [], _ => false
  | (w, v) :: t, n => if n < w then v.testBit n else pickPin t (n - w)

/-- RDY of a port (R108, R112): low in the second cycle of its own read-modify-write, at a lock that refused it, in INIT, and in the cycle in which a
remap entry becomes active. -/
def MemCtl.rdy (k : MemCtl) (portB : Bool) : Bool :=
  !k.initBusy && !k.gap && !k.low.contains portB && !k.cur.any (fun a => a.rmw && a.portB == portB)

/-- DO, SBE, DERR and RDY of ports A and B, and INITB (R108). -/
def bmPin (m : BlockMem) : Nat → Bool :=
  pickPin [(72, m.outA.data.toNat), (1, b2n m.outA.sbe), (1, b2n m.outA.derr), (1, b2n (m.ctl.rdy false)),
    (72, m.outB.data.toNat), (1, b2n m.outB.sbe), (1, b2n m.outB.derr), (1, b2n (m.ctl.rdy true)), (1, b2n m.ctl.initBusy)]

/-- RDATA, RSBE, RDERR, RRDY, WRDY and INITB, and DERR of the write side (R111, R118): the pin list names none for the last, so it is a pin of the
model's own, kept until the next write (DESIGN CHOICE, log 139). -/
def dmPin (m : DeepMem) : Nat → Bool :=
  pickPin [(64, m.out.data.toNat), (1, b2n m.out.sbe), (1, b2n m.out.derr), (1, b2n (m.ctl.rdy false)), (1, b2n (m.ctl.rdy true)),
    (1, b2n m.ctl.initBusy), (1, b2n m.wderr)]

/-- SIN_R, SOUT_D, SOUT_SET, SOUT_V, ACTSET, RUN, FAULT and FP (R154): an output is low in a mode that does not use it. -/
def sduPin (u : Sdu) : Nat → Bool :=
  let o := u.outF.headD (0, false)
  let q (b : Bool) : Nat := b2n (u.seq && b)
  pickPin [(1, q (decide (u.inF.length < 4))), (40, if u.seq then o.1.toNat else 0), (1, q o.2), (1, q (!u.outF.isEmpty)), (1, q u.act),
    (1, q (u.state == .running || u.state == .stalled)), (1, b2n (u.state == .faulted)), (40, if u.seq then 0 else u.fp.toNat)]

/-- The outputs of a fabric port (R252): the readies, the oldest response returned, and the oldest request that waits for user logic, each with the
first flit of its data; a command of the port moves a whole packet (log 140). -/
def State.portPin (s : State) (p : Nat) : Nat → Bool :=
  let i := s.iportAt p; let t := s.tportAt p
  let r := i.ret.headD {}; let q := t.inq.headD {}
  let rv := b2n (!i.ret.isEmpty); let qv := b2n (!t.inq.isEmpty && decide (t.pres.length < 64))
  let wv := if q.typ = 1 ∨ q.typ = 2 then qv else 0
  pickPin [(1, b2n (s.portTakes p)), (1, b2n (s.portTakes p)),
    (1, rv), (4, r.otag.toNat), (4, r.status.toNat), (256, (r.data.headD 0).toNat), (1, b2n (r.bad.headD r.hpoison)), (1, rv * b2n (decide (r.data.length ≤ 1))),
    (1, qv), (6, t.nextId.toNat), (2, q.typ.toNat), (4, q.aop.toNat), (52, q.addr.toNat % 2 ^ 52), (8, q.len.toNat), (1, b2n q.hpoison),
    (1, wv), (256, (q.data.headD 0).toNat), (1, b2n (q.bad.headD false)), (1, wv * b2n (decide (q.data.length ≤ 1))), (1, 1)]

/-- A line of the events that a tile of row 0 sees is high: a pulse came that its CK0 has not seen (R419, R445). -/
def State.evHigh (s : State) (m : Store Nat) (d x l off : Nat) : Bool :=
  s.hubFeeds && sget 0 m (d * 16 + l) != sget 0 s.fab.evSeen ((d * 512 + x) * 32 + off + l)

/-- The value of a local block input at a tile (R84). -/
def locValue (s : State) (ev : Sig → Bool) (d x y : Nat) : Loc → Bool
  | .bridge pos east => bridgeIn s ev d y pos east
  | .berr g east => (sget {} s.fab.bridge (groupKey (if east then d else d - 1) east g)).berr
  | .presW => decide (0 < d) && s.pres d
  | .presE => decide (d < 3) && s.pres (d + 2)
  | .presH => s.present (d + 1) && s.hubFeeds
  | .cknmi => s.cknmi (d + 1)
  | .pvR => s.hubFeeds
  | .cev l => s.evHigh s.fab.cev d x l 0
  | .xto l => s.evHigh s.fab.xto d x l 16
  | .vok b => (s.bankAt (d * 6 + b)).vok
  | .cell b n i => (s.cellInput d b n).getLsbD i
  | .bm m pin => bmPin (sget {} s.bm (tileSec d x y * 21 + m)) pin
  | .dm pin => dmPin (sget {} s.dm (tileSec d x y)) pin
  | .sdu u pin => sduPin (sget {} s.sdu (tileSec d x y * 24 + u)) pin
  | .port p pin => s.portPin p pin
  | .lane n pin => Config.laneOut (d * 8 + n) pin s.fresh

/-- One level of the combinational value of a signal, from those of the signals it reads (R77 to R99). -/
def sigStep (s : State) (ev : Sig → Bool) : Sig → Bool
  | .xb d x y o =>
    let code := s.field (tileSec d x y) fXbar (tileIdx x y * 512 + o) 9
    if code = 0 then false
    else if code < 289 then xbWire ev d x y ((code - 1) / 72) ((code - 1) % 72)
    else if code < 321 then cellOut ev d x y ((code - 289) / 4) ((code - 289) % 4)
    else if code = 321 then ev (.co d x y 7)
    else ev (.loc d x y (code - 322))
  | .wire d x y c dir i => muxWire ev d x y c dir i (s.field (tileSec d x y) fSwitch (tileIdx x y * 200 + dir * 50 + clsBase c + i) 5)
  | .seen d x y c dir i tx ty =>
    let sec := tileSec d x y
    if sec ≠ tileSec d tx ty ∧ s.secHeld sec then s.heldValue sec (holdIdx (wireKey d x y c dir i)) (wireKey d x y c dir i)
    else ev (.wire d x y c dir i)
  | .tabU d x y c =>
    let a := tabIndex ev d x y c [1, 2, 3, 4, 5]
    if s.tmode d x y = 0 ∧ s.cell d x y c % 2 = 1 then s.tbl d x y c (32 + a)
    else s.tbl d x y c (a + 32 * b2n (ev (.xb d x y (6 * c + 5))))
  | .tabL d x y c =>
    if s.tmode d x y = 1 then s.tbl d x y c (waIndex ev d x y)
    else if s.tmode d x y = 2 then s.tbl d x y c 63
    else s.tbl d x y c (tabIndex ev d x y c [1, 2, 3, 4, 6])
  | .sum d x y c =>
    let ci := s.cell d x y c / 8 % 4
    let carry := match ci with
      | 0 => if 0 < c then ev (.co d x y (c - 1)) else if y % 64 = 0 then false else ev (.co d x (y - 1) 7)
      | 1 => false | 2 => true | _ => bx ev d x y c 1
    ev (.tabU d x y c) != carry
  | .co d x y c =>
    let g := if s.cell d x y c / 4 % 2 = 1 then bx ev d x y c 0 else ev (.tabL d x y c)
    if ev (.tabU d x y c) then ev (.sum d x y c) != true else g
  | .ou d x y c => if s.cell d x y c / 2 % 2 = 1 then ev (.sum d x y c) else ev (.tabU d x y c)
  | .q d x y c n =>
    let f := s.ffCfg d x y c n; let sr := fld f 9 8
    if s.ffHeld d x y (f.getLsbD 4) then f.getLsbD 2
    else if (sr = 1 ∨ sr = 2) ∧ s.srAsync d x y (sr - 1) ∧ s.srOn ev d x y (sr - 1) then f.getLsbD 3
    else sget false s.fab.ffs (ffKey d x y c n)
  -- the bridge driver's select code is 4 bits wide, 10 to 15 act as 0 to 5, and the wire's position is its index i (DESIGN CHOICE, log 138)
  | .bridge d x y pos east =>
    let sec := tileSec d x y; let key := bridgeKey d x y pos east
    if s.secHeld sec then s.heldValue sec (holdIdx key) key
    else muxLow ev d x y pos (s.field sec fBridge (tileIdx x y * 24 + b2n east * 12 + pos) 4 % 10)
  | .loc d x y n => match locAt d x y n with | some l => locValue s ev d x y l | none => false

/-- The combinational value of a signal. A loop of more than `fuel` levels has no stated value: it is free (log 1). -/
def sig (s : State) : Nat → Sig → Bool
  | 0, _ => (Config.free 1 s.fresh).getLsbD 0
  | n + 1, g => sigStep s (sig s n) g

/-- Depth to which combinational paths are followed: more than any path without a loop can have on one die row of tiles (log 27). -/
def sigDepth : Nat := 1000000

/-- The value of a signal. -/
def State.val (s : State) (g : Sig) : Bool := sig s sigDepth g

/-- What flip-flop n of cell c takes at an edge of its tile clock (R80 to R82). -/
def State.ffNext (s : State) (d x y c n : Nat) : Bool :=
  let f := s.ffCfg d x y c n; let sr := fld f 9 8; let ce := fld f 7 5
  let old := s.val (.q d x y c n)
  if s.ffHeld d x y (f.getLsbD 4) then f.getLsbD 2
  else if (sr = 1 ∨ sr = 2) ∧ s.srOn s.val d x y (sr - 1) then f.getLsbD 3
  else if ce = 4 ∨ (ce < 4 ∧ s.val (.xb d x y (64 + ce))) then
    match fld f 1 0, n with
    | 0, 0 => s.val (.tabU d x y c) | 0, _ => s.val (.tabL d x y c)
    | 1, _ => bx s.val d x y c n
    | 2, _ => s.val (.sum d x y c)
    | _, 0 => false | _, _ => s.val (.tabU d x y c)
  else old

/-- Tile memory write of R86 at an edge of CK0. -/
def tileMemWrite (s0 : State) (d x y : Nat) (s : State) : State :=
  if s0.val (.xb d x y 76) && s0.val (.xb d x y 64) then
    s.each (List.range 8) (fun c t => if bx s0.val d x y c 1 then
      setPlaneBit (tileSec d x y) fTbl (tileIdx x y * 8 + c) (waIndex s0.val d x y) (bx s0.val d x y c 0) t else t)
  else s

/-- Lane input of a delay lane (R87). -/
def laneIn (s0 : State) (d x y c : Nat) : Bool :=
  if s0.cell d x y c / 32 % 2 = 1 then
    (if 0 < c then s0.tbl d x y (c - 1) 63 else if y % 64 = 0 then false else s0.tbl d x (y - 1) 7 63)
  else bx s0.val d x y c 0

/-- Lane shift of R87 at an edge of CK0. -/
def laneShift (s0 : State) (d x y : Nat) (s : State) : State :=
  if s0.val (.xb d x y 64) then
    s.each (List.range 8) (fun c t => t.each (List.range 64) (fun k t =>
      setPlaneBit (tileSec d x y) fTbl (tileIdx x y * 8 + c) k (if k = 0 then laneIn s0 d x y c else s0.tbl d x y c (k - 1)) t))
  else s

/-- Source of global g of a compute die: 0 the PLL output, 1 + j clock-capable pin j (R101, R428; log 135). -/
def State.gckSrc (s : State) (d g : Nat) : Nat := s.field (d * 192 + Config.pllSector (g / 4) % 192) fPll (32 + g) 4
/-- Divider of PLL output O(g mod 4), 2 to 128 (R428; log 135). -/
def State.gckDiv (s : State) (d g : Nat) : Nat := min 128 (2 + s.field (d * 192 + Config.pllSector (g / 4) % 192) fPll g 7)
/-- Reference of a fabric PLL: 0 REFCLK_H, 1 the die's REFCLK_XL, 2 + j clock-capable pin j (R428; log 135). -/
def State.pllRef (s : State) (d m : Nat) (alt : Bool) : Nat :=
  s.field (d * 192 + Config.pllSector m % 192) fPll (64 + m) 9 / (if alt then 16 else 1) % 16
/-- `align` of a fabric PLL (R428). -/
def State.pllAlign (s : State) (d m : Nat) : Bool := (s.field (d * 192 + Config.pllSector m % 192) fPll (64 + m) 9).testBit 8

/-- A domain gives edges: it runs from its source or its fallback, at whatever divider step (R432, R436). -/
def State.domLive (s : State) (k : Nat) : Bool :=
  let x := (s.domAt k).state
  x == .running || x == .ramping || x == .fallback

/-- Global g of compute die d runs (R101, R428): its PLL's domain is live, or it follows a clock-capable pin. -/
def State.gckRuns (s : State) (d g : Nat) : Bool := s.gckSrc d g != 0 || s.domLive (26 + 8 * d + g / 4)

/-- Two fabric PLLs are aligned (R428): `align` set, REFCLK_H in use, and equal output dividers and measured frequencies. -/
def State.pllAligned (s : State) (d m d' m' : Nat) : Bool :=
  let ok (d m : Nat) : Bool := let x := s.domAt (26 + 8 * d + m); s.pllAlign d m && x.state == .running && s.pllRef d m (x.src == 1) == 0
  ok d m && ok d' m' && (s.domAt (26 + 8 * d + m)).khz == (s.domAt (26 + 8 * d' + m')).khz
    && (List.range 4).all (fun k => s.gckDiv d (4 * m + k) == s.gckDiv d' (4 * m' + k))

/-- Source of the regional clock that a tile clock uses: 0 to 31 a global, 32 to 35 LCK0 to LCK3; and the tile's inversion bit (R83, R102; log 135). -/
def State.ckSource (s : State) (d x y : Nat) (ck1 : Bool) : Nat × Bool :=
  let sel := s.field (tileSec d x y) fCk (tileIdx x y * 2 + b2n ck1) 5
  (s.field (tileSec d x y) fRck (sel % 16) 6, decide (16 ≤ sel))

/-- A rising edge of a tile clock can come (R101, R102): its global runs, or the crossbar of the tile that feeds its LCK has just taken the level that
the edge leads to. -/
def State.ckTicks (s : State) (d x y : Nat) (ck1 : Bool) : Bool :=
  let (r, inv) := s.ckSource d x y ck1
  if r < 32 then s.gckRuns d r
  else if r < 36 then s.val (.xb d (x / 32 * 32 + 8 * (r - 32)) (y / 64 * 64) (Config.lckOutput (r - 32) % 512)) != inv
  else false

/-- First edge tile row of a group. -/
def groupRow (g : Nat) : Nat := 64 * (g / 24) + g % 24 * 32 / 12

/-- Capture of the registered groups whose clock is this tile clock (R98). The rule gives `brck` neither a width nor the tile whose clock it chooses:
DESIGN CHOICE, one bit, CK0 or CK1 of the group's first edge tile (log 138). -/
def bridgeCapture (s0 : State) (d x y : Nat) (ck1 : Bool) (s : State) : State :=
  let east := x == 511
  if (x ≠ 0 ∧ x ≠ 511) ∨ (east ∧ d = 3) ∨ (!east ∧ d = 0) then s
  else
    let b := if east then d else d - 1; let nb := if east then d + 1 else d - 1
    s.each (List.range 288) (fun g t =>
      let cfg := s0.groupCfg d east g
      if groupRow g = y ∧ cfg % 2 = 1 ∧ decide (cfg / 8 = 1) = ck1 ∧ s0.pres (nb + 1) then
        t.bridgeAtMod (groupKey b east g) (fun q => { q with cap := bvOf 32 (fun i =>
          let k := g % 24 * 32 + i
          s0.val (.bridge nb (if east then 0 else 511) (64 * (g / 24) + k / 12) (k % 12) (!east))) })
      else t)

/-- Sectors whose clocks run: ungated, not frozen, not held (R103, R421, R105). -/
def State.clocked (s : State) (sec : Nat) : Bool :=
  (s.secAt sec).clkOn && !(sget 0 s.dbg.frozen (sec / 192)).getLsbD (sec % 192) && s.mode != .held
  && decide ((s.pdomAt (sec / 192 + 1)).rung = 0)

/-- OD[7:0] and OE as the crossbar gives them (R84, R171). -/
def State.cellOd (s : State) (d x : Nat) : Byte × Bool :=
  (bvOf 8 (fun i => s.val (.xb d x 767 (Config.cellOutput x i))), s.val (.xb d x 767 (Config.cellOutput x 8)))

/-- The word an output path sends after an edge: SDR the one sampled at it, DDR the one before, a gearbox the one before that; registers at
`init` where none was sampled (R171, R172). -/
def Pin.sent (p : Pin) (init : Bool) : Byte × Bool :=
  p.outPipe.getD (if p.omode = 1 then 0 else if p.omode = 2 then 1 else 2) (if init then 0xFF else 0, init)

/-- The input path at an edge (R171, R173): `pad` holds the levels sampled in the cycle that ends here, in time order, and then the level at
this edge. A slip taken two edges ago moves the word boundary; `init` is what the word register holds at its reset value. -/
def cellIn (init : Byte) (slipNow : Bool) (pad : List Bool) (p : Pin) : Pin :=
  let n := modeBits p.imode
  let pend := p.slipPend.map (· - 1)
  let slip := (p.slip + (pend.filter (· == 0)).length) % n
  let old := if p.bits.isEmpty then (List.range n).map init.getLsbD else p.bits
  let stream := old ++ pad.take n
  let word : Byte :=
    if p.imode = 1 then BitVec.ofNat 8 (b2n (pad.getLastD p.pad))
    else if p.imode = 2 then bvOf 8 (fun i => decide (i < 2) && pad.getD i false)
    else bvOf 8 (fun i => decide (i < n) && stream.getD (slip + i) false)
  { p with
    bits := if 3 ≤ p.imode then pad.take n else [], inPipe := [word], slip := slip
    slipPend := pend.filter (· != 0) ++ (if slipNow && (p.imode == 3 || p.imode == 4) then [2] else []), islip := false }

/-- The fast clock of a gearbox is two or four times its cell clock and both come from outputs of one PLL (R173, R428). -/
def State.gearClocked (s : State) (d b n mode : Nat) : Bool :=
  let fast := s.field (bankSector d b) fBank (1 + fld (sget {} s.pin ((d * 6 + b) * 48 + n)).cfg 10 10) 5
  let (cell, _) := s.ckSource d (cellCol b n) 767 false
  decide (cell < 32) && s.gckSrc d cell == 0 && s.gckSrc d fast == 0 && fast / 4 == cell / 4
    && s.gckDiv d cell == (if mode = 3 then 2 else 4) * s.gckDiv d fast

/-- A gearbox moves words of undefined contents, for want of its clocks (R173). -/
def State.gearOff (s : State) (d b n mode : Nat) : Bool := (mode == 3 || mode == 4) && !s.gearClocked d b n mode

/-- The level at a clock edge of a cell's tile (R171, R177). -/
def padSee (d x y : Nat) (pad : List Bool) (s : State) : State :=
  match cellAt x y, pad.getLast? with
  | some (b, n), some l => { s with pin := smod {} s.pin ((d * 6 + b) * 48 + n) (fun p => { p with pad := l }) }
  | _, _ => s

/-- An edge of the cell clock (R171 to R173, R178, R182): both registers stay at `init` while reset holds them. A gearbox without its clocks takes and
sends free words. -/
def cellEdge (s0 : State) (d x y : Nat) (pad : List Bool) (s : State) : State :=
  match cellAt x y with
  | none => s
  | some (b, n) =>
    let key := (d * 6 + b) * 48 + n
    let p := sget {} s0.pin key
    if p.isN n || p.std == 0 || !(s0.bankAt (d * 6 + b)).enabled then s
    else if s0.ffHeld d x y false then
      { s with pin := smod {} s.pin key (fun p => { p with outPipe := [], inPipe := [], bits := [], slip := 0, slipPend := [], vokWait := false }) }
    else
      let q := cellIn (s0.initWord d b n p.imode) (p.islip || s0.val (.xb d x y (Config.cellOutput x 9))) pad p
      let (f, s) := s.take 16
      let od := s0.cellOd d x
      let q := { q with
        inPipe := if s0.gearOff d b n p.imode then [BitVec.ofNat 8 (f.toNat % 2 ^ modeBits p.imode)] else q.inPipe
        outPipe := ((if s0.gearOff d b n p.omode then BitVec.ofNat 8 (f.toNat / 256) else od.1, od.2) :: p.outPipe).take 3, vokWait := false }
      let w := q.sent (s0.field (bankSector d b) fPinInit n 1 == 1)
      let q := if 1 ≤ p.omode ∧ p.omode ≤ 4 then { q with lastLevel := w.1.getLsbD (modeBits p.omode - 1), lastOe := w.2 } else q
      { s with pin := sput {} s.pin key q }

/-- Flip-flops whose asynchronous set or reset line is asserted take `srval` (R82), in every sector that has configuration. -/
def asyncHold (s : State) : State :=
  s.each ((s.fab.frames.map (fun e => e.1 / (607 * 256))).eraseDups) (fun sec t => t.each (List.range 32768) (fun i t =>
    let d := sec / 192; let x := sec % 192 % 16 * 32 + i / 16 % 32; let y := sec % 192 / 16 * 64 + i / 512
    let c := i % 16 / 2; let n := i % 2
    let f := s.ffCfg d x y c n; let sr := fld f 9 8
    if !s.ffHeld d x y (f.getLsbD 4) && (sr == 1 || sr == 2) && s.srAsync d x y (sr - 1) && s.srOn s.val d x y (sr - 1) then
      t.onFab (fun g => { g with ffs := sput false g.ffs (ffKey d x y c n) (f.getLsbD 3) }) else t))

/-- A tile of row 0 has seen the pulses of its event lines for one cycle of its CK0 (R419, R445). -/
def evSee (d x y : Nat) (s : State) : State :=
  if y ≠ 0 then s
  else s.onFab (fun f => { f with evSeen := (List.range 16).foldl (fun m l =>
    sput 0 (sput 0 m ((d * 512 + x) * 32 + l) (sget 0 f.cev (d * 16 + l))) ((d * 512 + x) * 32 + 16 + l) (sget 0 f.xto (d * 16 + l))) f.evSeen })

/-- An edge of FCLK with FCE low moves the results of a fabric-driven unit one edge on (R157); the edge of an operation is counted with it. -/
def fdEdge (u : Sdu) : Sdu :=
  if u.seq then u
  else if u.fdNew then { u with fdNew := false }
  else { u with fp := (u.fdPipe.getD 2 none).getD u.fp, fdPipe := (none :: u.fdPipe).take 3 }

/-- The fabric-driven units of a sector whose FCLK is a tile clock take its edge. -/
def fdEdges (d x y : Nat) (ck1 : Bool) (s : State) : State :=
  s.each ((List.range 24).filter (fun u => Config.fclk u % 4096 == tileIdx x y * 2 + b2n ck1)) (fun u t =>
    { t with sdu := smod {} t.sdu (tileSec d x y * 24 + u) fdEdge })

/-- `TILE_CLOCK_EDGE` (R80 to R87, R98, R101, R102, R104, R171 to R173): a rising edge of CK0 or CK1 of a tile whose clock runs; at a tile with an I/O
cell, CK0 is the cell clock and `pad` the levels sampled on its pad. Tiles that share a regional clock take their edges as commands one after another, in
the order given (log 141). -/
def tileClockEdgeF (t : TileId) (ck1 : Bool) (pad : List Bool) (s : State) : State :=
  let d := t.die.val; let x := t.x.val; let y := t.y.val; let sec := tileSec d x y
  if !s.clocked sec || !s.ckTicks d x y ck1 then s
  else
    let s := asyncHold (padSee d x y pad s)
    let s1 := s.each (List.range 8) (fun c u => u.each [0, 1] (fun n u =>
      if (s.ffCfg d x y c n).getLsbD 4 == ck1 then
        u.onFab (fun f => { f with ffs := sput false f.ffs (ffKey d x y c n) (s.ffNext d x y c n) }) else u))
    let s2 := if ck1 then s1 else if s.tmode d x y = 1 then tileMemWrite s d x y s1 else if s.tmode d x y = 2 then laneShift s d x y s1 else s1
    let s3 := bridgeCapture s d x y ck1 s2
    let s4 := if ck1 then s3 else evSee d x y (cellEdge s d x y pad s3)
    (fdEdges d x y ck1 s4).onFab (fun f =>
      let r := sget (0, 0) f.relClk (relKey d x y ck1); let n := sget 0 f.relSec sec
      if (s.secAt sec).inReset then f
      else { f with relClk := sput (0, 0) f.relClk (relKey d x y ck1) (n, if r.1 = n then min 2 (r.2 + 1) else 1) })
def execTileClockEdge (t : TileId) (ck1 : Bool) (pad : List Bool) (s : State) : Host.Outcome State Fault Refusal :=
  .next (tileClockEdgeF t ck1 pad s)

/-- `BRIDGE_PARITY_MISMATCH` (R98, R99): a registered group whose spare is not in use mismatches at a capture edge. The notice is raised
once per group per load. -/
def bridgeParityMismatchF (b : Fin 3) (westward : Bool) (g : Fin 288) (s : State) : State :=
  let k := groupKey b.val westward g.val; let q := s.bridgeAt k
  let d := if westward then b.val else b.val + 1
  if s.groupCfg d westward g.val % 2 = 1 ∧ q.spare.isNone ∧ s.pres (b.val + 1) ∧ s.pres (b.val + 2) ∧ !q.berr then
    raiseFrom (d + 1) (0x3431 + b.val) (s.bridgeAtMod k (fun q => { q with berr := true }))
  else s
def execBridgeParityMismatch (boundary : Fin 3) (westward : Bool) (group : Fin 288) (s : State) : Host.Outcome State Fault Refusal :=
  .next (bridgeParityMismatchF boundary westward group s)

/-- The assembly-test record of bridge wires that failed, on boundary b of 1 to 3 (R208 REPAIR_BRIDGE): direction, group, wire. -/
def State.fuseBridge (s : State) (b : Nat) : List (Bool × Nat × Nat) :=
  (List.range 128).filterMap (fun i => let w := s.fuse 0xC i
    if bit w 31 && fld w 27 26 == b && fld w 24 16 < 288 && fld w 5 0 < 33 then some (bit w 25, fld w 24 16, fld w 5 0) else none)

/-- `BRIDGE_TEST` of boundary b, 0 to 2 (R97): failed wires found by the test and named by the fuses are spared; a group with more than one is
unusable until the next start. -/
def bridgeTest (b : Nat) (found : List (Bool × Nat × Nat)) (s : State) : State :=
  let all := (found ++ s.fuseBridge (b + 1)).eraseDups
  let groups := (all.map (fun f => (f.1, f.2.1))).eraseDups
  let s := s.each groups (fun g t =>
    let fs := all.filter (fun f => f.1 == g.1 && f.2.1 == g.2)
    t.bridgeAtMod (groupKey b g.1 g.2) (fun q => { q with
      unusable := q.unusable || decide (1 < fs.length) || (match q.spare with | some w => fs.any (fun f => f.2.2 != w.val) | none => false)
      spare := match q.spare with | some w => some w | none => some (Fin.ofNat 33 ((fs.headD (false, 0, 0)).2.2)) }))
  let bad := groups.any (fun g => (s.bridgeAt (groupKey b g.1 g.2)).unusable)
  let s := if groups.isEmpty || sget false s.fab.spareNoticed b then s
    else raise (0x1411 + b) (s.onFab (fun f => { f with spareNoticed := sput false f.spareNoticed b true }))
  s.when bad (raise (0x3421 + b))

/-- Value of every wire and bridge wire of a sector at the isolation stages that lie outside it, kept when the hold engages (R218). -/
def holdValues (s : State) (sec : Nat) (m : Store Bool) : Store Bool :=
  let d := sec / 192; let c := sec % 192 % 16; let r := sec % 192 / 16
  (List.range 2048).foldl (fun m t =>
    let x := c * 32 + t % 32; let y := r * 64 + t / 32
    let m := (List.range 5).foldl (fun m cls => (List.range 4).foldl (fun m dir => (List.range (clsCount cls)).foldl (fun m i =>
      sput false m (wireKey d x y cls dir i) (s.val (.wire d x y cls dir i))) m) m) m
    if x = 0 ∨ x = 511 then
      (List.range 12).foldl (fun m p => sput false m (bridgeKey d x y p (x == 511)) (s.val (.bridge d x y p (x == 511)))) m
    else m) m

/-- The receivers of combinational bridge groups that keep the last value (`bsafe` 0b10) take it before compute die d, 1 to 4, is fenced or
isolated (R99, R453). -/
def holdBridge (d : Nat) (s0 : State) : State :=
  if s0.fab.frames.isEmpty then s0
  else s0.each ((if 2 ≤ d then [(d - 2, true)] else []) ++ (if d ≤ 3 then [(d, false)] else [])) (fun re t =>
    t.each (List.range 288) (fun g t =>
      if s0.groupCfg re.1 re.2 g % 8 = 4 then
        t.bridgeAtMod (groupKey (if re.2 then re.1 else re.1 - 1) re.2 g) (fun q => { q with cap := bvOf 32 (fun i =>
          let k := g % 24 * 32 + i
          s0.val (.bridge (d - 1) (if re.2 then 0 else 511) (64 * (g / 24) + k / 12) (k % 12) (!re.2))) })
      else t))

/-- Engage the boundary hold of the sectors listed (R218): a sector whose hold is engaged already keeps the values on its wires. -/
def engageHold (secs : List Nat) (s : State) : State :=
  let m := (secs.filter (fun n => !s.secHeld n)).foldl (fun m n => holdValues s n m) s.cfg.holdVal
  s.each secs (fun n t => t.secAtMod n (fun x => { x with hold := true })) |>.onCfg (fun c => { c with holdVal := m })

/-- Remove the hold of a sector and copy its new `hold` values (R218, R223 step 4). -/
def releaseHold (sec : Nat) (s : State) : State :=
  let own (k : Nat) : Bool := k / (607 * 256) == sec
  let kept := s.cfg.holdFrames.filter (fun e => !own e.1)
  let new := s.fab.frames.filter (fun e => own e.1)
  let m := new.foldl (fun m e => sput 0 m e.1 e.2) kept
  (s.secAtMod sec (fun x => { x with hold := false })).onCfg (fun c =>
    { c with holdFrames := m, holdSet := sput false c.holdSet sec true })

/-- The levels that an output path puts on its pad in the present cycle of the cell clock, earliest first, none where it does not drive (R171 to R173,
R182): one in direct and SDR mode, two halves in DDR, the bits of the word, bit 0 first, in a gearbox. -/
def State.pathWave (s : State) (d b n : Nat) : List (Option Bool) :=
  let p := sget {} s.pin ((d * 6 + b) * 48 + n)
  if p.std == 0 || p.isN n || p.vokWait then [none]
  else if p.omode = 0 ∨ 5 ≤ p.omode then (let o := s.cellOd d (cellCol b n); [if o.2 then some (o.1.getLsbD 0) else none])
  else
    let init := s.field (bankSector d b) fPinInit n 1 == 1
    let w := if s.cellHeld d b n then (if init then 0xFF else 0, init) else p.sent init
    (List.range (modeBits p.omode)).map (fun i => if w.2 then some (w.1.getLsbD i) else none)

/-- The level an output path gives at the end of the present cycle (R171, R172). -/
def State.pathOut (s : State) (d b n : Nat) : Option Bool := (s.pathWave d b n).getLastD none

/-- The pins of the banks `sel` that are on keep the level and drive state of this moment: before a freeze, a deeper rung and Held (R177, R178,
R180). -/
def holdPads (sel : Nat → Bool) (s : State) : State :=
  { s with pin := smap {} s.pin (fun k p =>
      let b := k / 48
      if sel b && (s.bankAt b).enabled && !(s.bankAt b).frozen then
        match s.pathOut (b / 6) (b % 6) (k % 48) with
        | some v => { p with lastLevel := v, lastOe := true }
        | none => { p with lastOe := false }
      else p) }

end Sys2Proof.Machine
end

