-- ==== Sys2Proof/Machine/Repair.lean ====
section
/-! DEFINITION. The repair map of sectors and deep memories, blank sectors, and the reset of a sequenced DSP unit. Files 01, 05, 06 and 09. -/

namespace Sys2Proof.Machine

/-- A repair record entry: four words. -/
abbrev RecEntry := Word × Word × Word × Word

/-- A kind 0x1 entry in the form of R471: die 1 to 4, column, row 0 to 12 or 0xE. -/
def entrySector (e : RecEntry) : Option (Nat × Nat × Nat) :=
  let w := e.1; let row := fld w 20 17
  if fld w 31 28 = 1 ∧ onlyBits w 0xFFFE0000 ∧ e.2.1 = 0 ∧ e.2.2.1 = 0 ∧ e.2.2.2 = 0 ∧ 1 ≤ fld w 27 25 ∧ fld w 27 25 ≤ 4 ∧ (row ≤ 12 ∨ row = 14)
  then some (fld w 27 25, fld w 24 21, row) else none

/-- A kind 0x2 entry: die 1 to 4, column, physical sector row, row. -/
def entryDeep (e : RecEntry) : Option (Nat × Nat × Nat × Nat) :=
  let w := e.1
  if fld w 31 28 = 2 ∧ onlyBits w 0xFFFFFF00 ∧ e.2.1 = 0 ∧ e.2.2.1 = 0 ∧ e.2.2.2 = 0 ∧ 1 ≤ fld w 27 25 ∧ fld w 27 25 ≤ 4 ∧ fld w 20 17 ≤ 12
  then some (fld w 27 25, fld w 24 21, fld w 20 17, fld w 16 8) else none

/-- Value of REPAIR_SECTOR for a column of a die, 1 to 4 (R208). -/
def State.fuseColumn (s : State) (die col : Nat) : Nat :=
  let b := 64 * (die - 1) + 4 * col
  fld (s.fuse 0xA (b / 32)) (b % 32 + 3) (b % 32)

/-- Repair map entry of a column and its first failed row (R20). -/
def State.formEntry (s : State) (die col : Nat) : Nat × Nat :=
  let f := s.fuseColumn die col
  let rec_ := s.tst.record.entries.filterMap entrySector |>.filter (fun e => e.1 == die && e.2.1 == col)
  let rows := ((if 1 ≤ f ∧ f ≤ 13 then [f - 1] else []) ++ (rec_.map (fun e => e.2.2)).filter (· ≤ 12)).eraseDups
  let mark := decide (14 ≤ f) || rec_.any (fun e => e.2.2 == 14)
  match rows, mark with
  | [], false => (15, 0)
  | [r], false => (r, 0)
  | _, true => (14, 0)
  | r :: rs, false => (14, rs.foldl min r)

/-- Repair map entry of a column (die 0 to 3) in effect; 0xF before the first full load of a start (R21). -/
def State.repairEnt (s : State) (die col : Nat) : Nat :=
  match s.cfg.repair with | none => 15 | some m => (sget 15 m (die * 16 + col)).toNat

/-- Sector row `r` of a column is unavailable under R22. -/
def State.colFailed (s : State) (die col r : Nat) : Bool :=
  let e := s.repairEnt die col
  (e == 13 || e == 14) && decide ((sget 0 s.cfg.firstFail (die * 16 + col)).toNat ≤ r)

/-- Physical row of a logical sector row (R18); 0xF while it is unavailable. -/
def State.prow (s : State) (sec : Nat) : Nat :=
  let die := sec / 192; let col := sec % 192 % 16; let r := sec % 192 / 16
  let e := s.repairEnt die col
  if (s.secAt sec).state == .unavailable then 15 else if e ≤ 12 ∧ e ≤ r then r + 1 else r

/-- `REPAIR_MAP_FORM` (R20, R226): the repair map of every compute die, with the masked notice of each die whose map names a failed row. -/
def formRepair (s : State) : State :=
  let es := (List.range 64).map (fun k => s.formEntry (k / 16 + 1) (k % 16))
  let m := (List.range 64).foldl (fun m k => sput (15 : BitVec 4) m k (BitVec.ofNat 4 (es.getD k (15, 0)).1)) []
  let ff := (List.range 64).foldl (fun m k => sput (0 : BitVec 4) m k (BitVec.ofNat 4 (es.getD k (15, 0)).2)) []
  let s := s.onCfg (fun c => { c with repair := some m, firstFail := ff })
  s.each (List.range 4) (fun d t => t.when ((List.range 16).any (fun c => (es.getD (d * 16 + c) (15, 0)).1 ≤ 12)) (raiseFrom (d + 1) (0x1901 + d)))

/-- Add an entry to a deep memory's remap table, if it has room and the row is not in it (R126, R127). -/
def remapAdd (origin : BitVec 2) (row : BitVec 9) (l : List RemapEnt) : List RemapEnt :=
  if l.any (fun e => e.active && e.row == row) then l
  else match l.findIdx? (fun e => !e.active) with
    | some i => setNth l i { origin := origin, active := true, row := row }
    | none => l

/-- The remap tables of every deep memory as a full load forms them: from the newest repair record, in entry order (R126, R471). -/
def formRemaps (s : State) : State :=
  let s := { s with dm := smap {} s.dm (fun _ m => { m with remap := [{}, {}, {}, {}] }) }
  s.each (s.tst.record.entries.filterMap entryDeep) (fun e t =>
    let at_ (r : Nat) : Nat := (e.1 - 1) * 192 + r * 16 + e.2.1
    match (List.range 12).find? (fun r => t.prow (at_ r) == e.2.2.1) with
    | some r => { t with dm := smod {} t.dm (at_ r) (fun m => { m with remap := remapAdd 0 (BitVec.ofNat 9 e.2.2.2) m.remap }) }
    | none => t)

/-- Set-reset of a unit (R162): FIFOs, register sets, cascade register, pipeline and fault are cleared, and the unit is Stopped. -/
def sduReset (u : Sdu) : Sdu :=
  { u with
    set0 := {}, set1 := { pc := u.entry1 }, act := false, state := .stopped, before := .stopped, swPending := false, swWait := 0, branch := none, bubble := false
    flight := [], casc := 0, cascHist := [], cascOut := 0, inF := [], outF := [], haltNext := false, skipCmp := false, fault := 0, fd0 := 0, fd1 := 0, fdPipe := [], fdNew := false, fp := 0 }

/-- Loss of the flip-flops of a unit's sector (R163): every register goes the way of R162, and those of its CSR area take their reset values. -/
def sduLose (u : Sdu) : Sdu :=
  { sduReset u with cmp0 := 0, cmp1 := 0, hit0 := false, hit1 := false, wrIgn := false, ceCount := 0, ueCount := 0 }

/-- Configuration bits of a unit as its frames give them (R130, R154, `SDU_CFG`): `seq`, `start`, `fd_asat`, `sw_en` (3), `entry1` (9). -/
def sduConfig (m : Store Word) (sec unit : Nat) (u : Sdu) : Sdu :=
  let v : BitVec 15 := BitVec.ofNat 15 (planeField m sec fSdu unit 15)
  { u with seq := v.getLsbD 0, start := v.getLsbD 1, fdAsat := v.getLsbD 2, swEn := BitVec.ofNat 3 (fld v 5 3), entry1 := BitVec.ofNat 9 (fld v 14 6) }

/-- INIT of a memory (R120): every valid bit is cleared, and what is stored is unreachable. -/
def initCtl (c : MemCtl) : MemCtl := { c with cur := [], prev := [], low := [], gap := false, shut := false, wb := [], initBusy := false }
def bmInit (m : BlockMem) : BlockMem := { m with words := [], ctl := initCtl m.ctl }
def dmInit (m : DeepMem) : DeepMem := { m with words := [], ctl := initCtl m.ctl, copy := none }

/-- INIT of the block memories, deep memory and X and Y memories of the sectors that `p` names: bytes that a load wrote into a block memory before it
are discarded (R120, R121, R139, R193). -/
def initMems (p : Nat → Bool) (s : State) : State :=
  { s with
    cfg := { s.cfg with bytes := sdrop s.cfg.bytes (fun k => p (k / 512 / 21)) }
    bm := smap {} s.bm (fun k m => if p (k / 21) then bmInit m else m)
    dm := smap {} s.dm (fun k m => if p k then dmInit m else m)
    sdu := smap {} s.sdu (fun k u => if p (k / 24) then { u with x := [], y := [] } else u) }

/-- The SDUs of the sectors that `p` names lose their registers; `sw_en` is again what the frames give (R163, `SDU_CFG`). -/
def loseSdus (p : Nat → Bool) (s : State) : State :=
  { s with sdu := smap {} s.sdu (fun k u => if p (k / 24) then { sduLose u with swEn := (sduConfig s.fab.frames (k / 24) (k % 24) u).swEn } else u) }

/-- Every SDU of the sectors that `p` names is set-reset (R162). -/
def resetSdus (p : Nat → Bool) (s : State) : State :=
  { s with sdu := smap {} s.sdu (fun k u => if p (k / 24) then sduReset u else u) }

/-- Every frame of the sectors that `p` names is cleared: configuration, instruction stores, M-tile storage, flip-flops (R217 step 5). -/
def clearFrames (p : Nat → Bool) (s : State) : State :=
  let s := s.onFab (fun f => { f with frames := sdrop f.frames (fun k => p (k / (607 * 256))), ffs := sdrop f.ffs (fun k => p (k / 32768)) })
  { s with sdu := smap {} s.sdu (fun k u => if p (k / 24) then { u with seq := false, start := false, fdAsat := false, entry1 := 0, swEn := 0, istore := [] } else u) }

/-- The sectors that `p` names are blank. -/
def blankSectors (p : Nat → Bool) (s : State) : State := resetSdus p (initMems p (clearFrames p s))

/-- Capture cells of the sectors that `p` names are invalidated (R217, R229). -/
def dropCapture (p : Nat → Bool) (s : State) : State :=
  s.onCfg (fun c => { c with
    capCells := sdrop c.capCells (fun k => p (k / 32768))
    sectors := smap {} c.sectors (fun k x => if p k then { x with capValid := false, capTrig := 0, capPos := 0 } else x) })

/-- Owner sectors of bank b of a compute die (R166). -/
def bankOwners (die b : Nat) : Nat × Nat := (die * 192 + 178 + 2 * b, die * 192 + 179 + 2 * b)

/-- Target tap count of a pin and whether it is clamped (R175): `dly` taps, or round(`dly` × 64 / `tap_q`) with `cal` set; above 511 it is
511. No tap size in the stated range makes the quotient fall half way between two counts. -/
def tapTarget (cal : Bool) (dly tapQ : Nat) : Nat × Bool :=
  if cal then
    let t := if tapQ = 0 then 512 else (2 * (dly * 64) + tapQ) / (2 * tapQ)
    (min t 511, decide (511 < t))
  else (min dly 511, false)

/-- Target of a pin under its bank's tap size. -/
def Pin.target (p : Pin) (tapQ : BitVec 16) : Nat × Bool := tapTarget p.cal p.dly.toNat tapQ.toNat

/-- A clamped target raises 0x2703 once per pin per load (R175). -/
def clampCheck (die b n : Nat) (s : State) : State :=
  let key := (die * 6 + b) * 48 + n
  let p := sget {} s.pin key
  if (p.target (s.bankAt (die * 6 + b)).tapQ).2 && !p.clampNoticed then
    raiseFrom (die + 1) 0x2703 { s with pin := sput {} s.pin key { p with clampNoticed := true } }
  else s

/-- A bank is configured: frames of its owner sector hold something (R166; log 142). -/
def State.bankConfigured (s : State) (die b : Nat) : Bool :=
  s.fab.frames.any (fun e => decide (e.1 / (607 * 256) = (bankOwners die b).1))

/-- The configuration of a bank and its pins takes effect from the frames of its owner sector, and the bank is checked (R169, R175, R179,
R180): a configured bank whose VCCIO does not match stays in the safe state with `mismatch` set and raises 0x3702. A bank with an unavailable owner
stays in the safe state (R167). -/
def bankApply (die b : Nat) (s : State) : State :=
  let n := die * 6 + b; let (o1, o2) := bankOwners die b
  if (s.secAt o1).state == .unavailable || (s.secAt o2).state == .unavailable then s.bankAtMod n (fun q => { q with enabled := false, frozen := false })
  else
    let s := s.each (List.range 48) (fun i t => { t with pin := smod {} t.pin (n * 48 + i) (fun p =>
      let d : BitVec 12 := BitVec.ofNat 12 (t.field o1 fPinDly i 12)
      { p with cfg := wd (t.field o1 fPin i 32), cal := d.getLsbD 11, dly := BitVec.ofNat 11 (fld d 10 0), clampNoticed := false
               outPipe := [], inPipe := [], bits := [], slip := 0, slipPend := [], islip := false, vokWait := false }) })
    let v := s.field o1 fBank 0 7
    let ok := decide ((s.bankAt n).meas.toNat = v % 4)
    let bad := !ok && s.bankConfigured die b
    let s := s.bankAtMod n (fun q => { q with
      vccioCode := BitVec.ofNat 2 v, vrefTrim := BitVec.ofNat 5 (v / 4), frozen := false, enabled := true, mismatch := q.mismatch || bad, vok := ok })
    (s.when bad (raiseFrom (die + 1) 0x3702)).each (List.range 48) (clampCheck die b)

/-- The lanes of a quad of compute die 0 to 3 take the configuration in the frames of its first owner sector and come up (R287, R298): a quad
with an unavailable owner stays in electrical idle. -/
def quadApply (die q : Nat) (s : State) : State :=
  let (o1, o2) := quadOwners die q
  if (s.secAt o1).state == .unavailable || (s.secAt o2).state == .unavailable then quadIdle (die + 1) q s
  else
    let blind := bit (s.setting 20) (24 + 2 * die + q)
    let s := s.each (List.range 4) (fun i t => t.laneAtMod (laneOf (die + 1) (4 * q + i)) (fun x => { x with
      cfg := wd (b2n blind * 2 ^ 24 + t.field o1 fLane (2 * i) 3 * 2 ^ 20 + t.field o1 fLane (2 * i + 1) 2 * 2 ^ 18)
      rate := wd (t.field o1 fRate i 29), eqTx := wd (t.field o1 fFir i 22) &&& 0x003FFF3F }))
    enableQuad (die + 1) q s

end Sys2Proof.Machine
end

