-- ==== Sys2Proof/Machine/CfgOps.lean ====
section
/-! DEFINITION. Operations of the configuration engine: sessions, decryption, decompression, frames, regions, release, failure. Files 08 and 09. -/

namespace Sys2Proof.Machine

/-- Fields of a stream header (R188). -/
def hArv (h : List Word) : Nat := fld (wordAt h 3) 6 0
def hDies (h : List Word) : Nat := fld (wordAt h 4) 11 8
def hClkFb (h : List Word) : Bool := bit (wordAt h 4) 4
def hSigned (h : List Word) : Bool := bit (wordAt h 4) 3
def hKeySel (h : List Word) : Bool := bit (wordAt h 4) 2
def hEnc (h : List Word) : Bool := bit (wordAt h 4) 1
def hPartial (h : List Word) : Bool := bit (wordAt h 4) 0
def hRegion (h : List Word) : Nat := fld (wordAt h 5) 7 0

/-- Reserved fields are zero, `arv` is in range, and the key fields are zero when `enc` is clear (check 2 of R189). -/
def headerOk (h : List Word) : Bool :=
  fld (wordAt h 0) 15 0 == 1 && onlyBits (wordAt h 3) 0x7F && hArv h ≤ 64 && onlyBits (wordAt h 4) 0xF1F && onlyBits (wordAt h 5) 0xFF
  && ((h.drop 20).take 12).all (· == 0) && (hEnc h || ((h.drop 6).take 14).all (· == 0))

/-- Change the open session. -/
def sessMod (f : Session → Session) (s : State) : State := s.onCfg (fun c => { c with session := c.session.map f })

/-- A region by ID is open (R216). -/
def State.regionOpen (s : State) (r : Nat) : Bool := (s.regionAt r).phase != .closed

/-- Sectors of a region, as keys. -/
def Region.secs (g : Region) : List Nat := (maskSecs g.mask).map (fun i => (g.die.toNat - 1) * 192 + i)
def Region.has (g : Region) (sec : Nat) : Bool :=
  g.phase != .closed && g.die.toNat == sec / 192 + 1 && g.mask.getLsbD (sec % 192)

/-- No region is open. -/
def State.noRegion (s : State) : Bool := (List.range 16).all (fun r => !s.regionOpen r)

/-- The region that a partial load's header names for a sender on transport t (R188). -/
def State.namedRegion (s : State) (t : Transport) (h : List Word) : Option (Fin 16) :=
  if !hPartial h then none
  else if hRegion h = 0xFF then sget none s.cfg.lastOpen t.id
  else if hRegion h < 16 then some (Fin.ofNat 16 (hRegion h)) else none

/-- The region is open and has no session (check 4 of R189). -/
def State.regionFree (s : State) (r : Fin 16) : Bool := (s.regionAt r.val).phase == .opened && !(s.regionAt r.val).session

/-- The session that is open (R48): the one whose CFG_BEGIN executes, or else that of the first CFG_BEGIN accepted, which has done nothing yet and
will load the region that its header names. -/
def State.openSess (s : State) : Option Session :=
  match s.cfg.session with
  | some x => some x
  | none => (s.mgr.cmds.find? (fun c => c.op == 0x10)).map (fun c =>
      { owner := c.id, hdr := c.params, region := (s.namedRegion c.id.t c.params).filter s.regionFree
        image := if c.id.t == .stream then s.cfg.flashLoad else none })

/-- The mode once a region has closed (R219, R223). -/
def closeMode (s : State) : State := if s.userMode == .refiring && s.noRegion then setMode .glazed s else s

/-- A closed region is no longer the one that a transport opened last (R188). -/
def regionForget (r : Nat) (s : State) : State :=
  s.onCfg (fun c => { c with lastOpen := smap none c.lastOpen (fun _ x => if x = some (Fin.ofNat 16 r) then none else x) })

/-- Banks owned by a region: both owner sectors lie in it (R180). -/
def Region.banks (g : Region) : List Nat :=
  (List.range 6).filter (fun b => g.mask.getLsbD (178 + 2 * b) && g.mask.getLsbD (179 + 2 * b))

/-- A region closes with its sectors blank and held behind their hold values, its banks in the safe state (R219). -/
def closeBlank (r : Nat) (s : State) : State :=
  let g := s.regionAt r
  let s := blankSectors (fun n => g.has n) s
  let s := s.each g.secs (fun n t => t.secAtMod n (fun x => { x with
    state := if x.state == .unavailable then .unavailable else .held, region := 0, clkOn := false, inReset := true, portsOpen := false, written := false, hold := true }))
  let s := s.each g.banks (fun b t => t.bankAtMod ((g.die.toNat - 1) * 6 + b) (fun q => { q with enabled := false, frozen := false }))
  closeMode (regionForget r (s.regionAtMod r (fun g => { late := g.late })))

/-- The sectors of a blank fabric, those of the dies that `load` names in a load: what the repair map in effect excludes is unavailable on every
compute die (R20, R22). -/
def State.freshSecs (s : State) (load : Nat → Bool) : Store Sector :=
  (List.range 768).filterMap (fun n =>
    if s.colFailed (n / 192) (n % 192 % 16) (n % 192 / 16) then some (n, { state := .unavailable })
    else if load (n / 192) then some (n, { state := .loading }) else none)

/-- The fabric of every compute die is blank: GSR held, outputs off, DONE low (R206). -/
def blankAll (s : State) : State :=
  let s := blankSectors (fun _ => true) s
  let s := s.onCfg (fun c => { c with sectors := s.freshSecs (fun _ => false), capCells := [], doneDrive := true, doneLine := false })
  { s with bank := smap {} s.bank (fun _ q => { q with enabled := false, frozen := false, vok := false }) }

/-- A session of transport 3 ends: its status is shown (R187). -/
def streamResult (status : Nat) (s : State) : State :=
  s.onCfg (fun c => { c with port := { c.port with done := true, result := BitVec.ofNat 8 status } })

/-- The queued CFG packets of a session end ABORTED (R187, R55): every packet of class CFG of the owner's transport that has not started, other than
the session's own CFG_BEGIN, up to the next CFG_BEGIN in the queue; with `all`, that one and those behind it too (log 28). -/
def abortQueued (owner : CmdId) (all : Bool) (s : State) : State :=
  let q := s.mgr.cmds.filter (fun c => c.id.t == owner.t && c.cls == .cfg && !c.started && c.id != owner)
  s.each (if all then q else q.takeWhile (fun c => c.op != 0x10)) (fun c => finish c rcAborted [])

/-- The session ends with the final reply of its CFG_BEGIN; its keys go with it (R48, R187, R200). -/
def endSession (status : Nat) (s : State) : State :=
  match s.openSess with
  | none => s
  | some x =>
    let s := s.onCfg (fun c => { c with session := none, decision := false })
    let s := match s.findCmd x.owner with | some c => finish c status [] s | none => s
    s.when (x.owner.t == .stream && x.image != some .warm) (streamResult status)

/-- Outcome of a failed flash load (R206, R464). -/
def flashFailed (img : Image) (status : Nat) (build : Word) (s : State) : State :=
  let s := (blankAll s).onMgr (fun m => { m with imageSource := 0 })
  if img = .primary ∧ bit (s.setting 7) 16 ∧ s.boot.straps = 0 then
    raiseD 0 0x2801 build (wd status) (s.onCfg (fun c => { c with flashLoad := some .golden, flashPos := 0 }))
  else if img = .warm then
    let s := raise 0x3283 s
    if s.boot.straps = 0 ∨ s.boot.straps = 1 then
      s.onCfg (fun c => { c with flashLoad := some (if s.boot.straps = 0 then .primary else .golden), flashPos := 0 })
    else setMode .bisque (s.onCfg (fun c => { c with flashLoad := none }))
  else
    let s := s.onCfg (fun c => { c with flashLoad := none })
    raiseD 0 0x3802 build (wd status) (setMode .bisque (s.onMgr (fun m => { m with imageFail := true })))

/-- `LOAD_FAILURE` (R187, R206): the open session fails with a status. -/
def loadFail (status : Nat) (s : State) : State :=
  match s.openSess with
  | none => s
  | some x =>
    let build := wordAt x.hdr 2
    let s := endSession status (abortQueued x.owner x.image.isSome s)
    match x.image with
    | some img => flashFailed img status build s
    | none =>
      if hPartial x.hdr then
        let s := match x.region with | some r => closeBlank r.val s | none => s
        raiseD 0 0x3804 build (wd status) s
      else if x.passed then raiseD 0 0x3803 build (wd status) (setMode .bisque (blankAll s))
      else raiseD 0 0x3803 build (wd status) s

/-- A flash load fails (R184, R206): its session, or, when the image gave none, the load alone with `build_id` 0. -/
def flashLoadFail (status : Nat) (s : State) : State :=
  if s.openSess.any (fun x => x.image.isSome) then loadFail status s
  else match s.cfg.flashLoad with
    | some img => flashFailed img status 0 (streamResult status s)
    | none => s

/-- A session packet of the owner ends with a status other than OK, and the load fails with it (R497). -/
def sessFail (status : Nat) (c : Cmd) (s : State) : State :=
  let s := finish c status [] s
  match s.openSess with
  | some x => if x.owner.t = c.id.t ∧ !x.verified then loadFail status s else s
  | none => s

/-- A check of a session packet. -/
def sessCheck (ok : Bool) (status : Nat) (c : Cmd) (k : State → State) (s : State) : State := if ok then k s else sessFail status c s

/-- Start a session packet (R48, R497): with no session it replies BAD_PARAM, as it does once CFG_END is verified. -/
def startSess (id : CmdId) (op : Nat) (body : Session → Cmd → State → State) (s : State) : State :=
  startCmdOr (sessFail rcWrongMode) id op (fun c s =>
    match s.cfg.session with
    | none => finish c rcBadParam [] s
    | some x =>
      if x.owner.t ≠ c.id.t then finish c rcBusy [] s
      else if x.verified then finish c rcBadParam [] s
      else if x.paused then cmdMod id (fun c => { c with started := false }) s
      else body x c s) s

/-- Initialisation vector of item c of a session (R197), as the number of its bytes, first byte highest. -/
def sessIv (hdr : List Word) (ctr : Nat) : BitVec 96 :=
  BitVec.ofNat 96 ((wordBytes ((hdr.drop 6).take 2)).foldl (fun n b => n * 256 + b.toNat) 0 * 2 ^ 32 + ctr)

/-- A key or tag from its words (R208, R197). -/
def keyOf (ws : List Word) : BitVec 256 := BitVec.ofNat 256 (wordsNat ws)
def tagOf (ws : List Word) : BitVec 128 := BitVec.ofNat 128 (wordsNat ws)

/-- The device key that `key_sel` names: its presence and value (R199). -/
def State.deviceKey (s : State) (bbram : Bool) : Option (BitVec 256) :=
  if bbram then s.fuses.bbram
  else
    let k := keyOf ((List.range 8).map (fun i => s.fuse 8 i))
    if k = 0 then none else some k

/-- Open an encrypted item: none when its tag does not verify (R197). -/
def gcmItem (key : BitVec 256) (iv : BitVec 96) (aad ct : List Byte) (tag : BitVec 128) : Option (List Byte) :=
  if Config.gcmTag key iv aad ct = tag then some (Config.gcmOpen key iv aad ct) else none

/-- Words of a byte string, least significant byte first. -/
def bytesWords (bs : List Byte) : List Word := (List.range (bs.length / 4)).map (fun i => wd (bytesNat ((bs.drop (4 * i)).take 4)))

/-- Copy `n` bytes from distance `d`, one at a time (R194). The output is held newest first. -/
def copyBack (d : Nat) : Nat → List Byte → List Byte
  | 0, out => out
  | n + 1, out => copyBack d n (out.getD (d - 1) 0 :: out)

/-- Decompress tokens until `size` bytes stand in the output, newest first (R194, R195): none on a check failure, else the output and the
bytes left. -/
def inflate (size : Nat) : Nat → List Byte → List Byte → Option (List Byte × List Byte)
  | 0, _, _ => none
  | fuel + 1, inp, out =>
    if out.length = size then some (out, inp)
    else
      let copy (n d : Nat) (rest : List Byte) : Option (List Byte × List Byte) :=
        if d = 0 ∨ out.length < d ∨ size < out.length + n then none else inflate size fuel rest (copyBack d n out)
      let run (n : Nat) (v : Byte) (rest : List Byte) : Option (List Byte × List Byte) :=
        if size < out.length + n then none else inflate size fuel rest (List.replicate n v ++ out)
      match inp with
      | [] => none
      | t :: r =>
        let k := t.toNat
        if k < 0x80 then
          if r.length < k + 1 ∨ size < out.length + k + 1 then none
          else inflate size fuel (r.drop (k + 1)) ((r.take (k + 1)).reverse ++ out)
        else if k < 0xBF then (match r with | v :: r => run (k - 0x80 + 3) v r | _ => none)
        else if k = 0xBF then (match r with | e :: v :: r => run (66 + e.toNat) v r | _ => none)
        else if k < 0xFF then (match r with | a :: b :: r => copy (k - 0xC0 + 4) (a.toNat + 256 * b.toNat) r | _ => none)
        else (match r with | e :: a :: b :: r => copy (67 + e.toNat) (a.toNat + 256 * b.toNat) r | _ => none)

/-- Decompress a payload of n frames (R194, R195). -/
def decompress (n : Nat) (bs : List Byte) : Option (List Byte) :=
  match inflate (1024 * n) (bs.length + 1) bs [] with
  | some (out, rest) => if rest.length ≤ 3 ∧ rest.all (· == 0) then some out.reverse else none
  | none => none

/-- One byte of the frames of instruction stores: byte `pos` of a unit's span (R190). -/
def istoreByte (sec unit pos : Nat) (v : Byte) (s : State) : State :=
  let f (i : BitVec 48) : BitVec 48 := setFld i (8 * (pos % 6) + 7) (8 * (pos % 6)) v.toNat
  { s with sdu := smod {} s.sdu (sec * 24 + unit) (fun u => { u with istore := smod 0 u.istore (pos / 6) f }) }

/-- One byte of a block memory's initial contents: a word becomes valid once its nine bytes have been written (R190, R193). -/
def bmInitByte (sec pos : Nat) (v : Byte) (s : State) : State :=
  if 96768 ≤ pos then s
  else
    let m := pos / 4608; let w := pos % 4608 / 9; let b := pos % 9
    let key := (sec * 21 + m) * 512 + w
    let got := setBit (sget (0 : BitVec 9) s.cfg.bytes key) b true
    let s := s.onCfg (fun c => { c with bytes := sput 0 c.bytes key got })
    let f (x : MemWord) : MemWord := { data := setFld x.data (8 * b + 7) (8 * b) v.toNat, valid := x.valid || got == 0x1FF, inv := 0, addr := BitVec.ofNat 15 w }
    { s with bm := smod {} s.bm (sec * 21 + m) (fun q => { q with words := smod {} q.words w f }) }

/-- Write one frame of a sector (R190, R193); an unavailable sector takes none (R22). -/
def writeFrame (sec f : Nat) (ws : List Word) (s : State) : State :=
  if (s.secAt sec).state == .unavailable then s
  else
    let s := s.secAtMod sec (fun x => { x with written := true })
    if f < 440 then
      s.onFab (fun t => { t with frames := (List.range 256).foldl (fun m k => sput 0 m (frameKey sec f k) (wordAt ws k)) t.frames })
    else
      let bs := wordBytes ws
      if f < 512 then s.each (List.range 1024) (fun j => istoreByte sec ((f - 440) / 3) ((f - 440) % 3 * 1024 + j) (bs.getD j 0))
      else s.each (List.range 1024) (fun j => bmInitByte sec ((f - 512) * 1024 + j) (bs.getD j 0))

/-- Frame n enters the digest and is written (R193, R202). -/
def takeFrame (die sec f : Nat) (ws : List Word) (s : State) : State :=
  let a := wd (die * 2 ^ 28 + sec * 2 ^ 20 + f * 1024); let n := (die - 1) * 192 + sec
  let loads := (s.secAt n).state != .unavailable
  writeFrame n f ws (sessMod (fun x => { x with
    dig := ws.reverse ++ a :: x.dig
    wrote := if loads then (List.range 256).foldl (fun m k => sput 0 m (frameKey n f k) (wordAt ws k)) x.wrote else x.wrote
    frames := if loads then sput false x.frames (n * 607 + f) true else x.frames }) s)

/-- A sector takes again the frames that the warm image holds of it (R283, R464, R475). -/
def warmWrite (n : Nat) (s : State) : State :=
  s.each ((List.range 607).filter (fun f => sget false s.pwr.warmFrames (n * 607 + f))) (fun f t =>
    writeFrame n f ((List.range 256).map (fun w => sget 0 t.pwr.warm (frameKey n f w))) t)

/-- The digest D of a session, as its 48 bytes (R202). -/
def sessDigest (x : Session) : List Byte := natBytes (Config.sha384 (wordBytes x.dig.reverse)).toNat 48

/-- Frames of sector `sec` configure a driver or receiver of a bridge wire in an unusable group (R100). -/
def State.usesUnusable (s : State) (sec : Nat) : Bool :=
  let d := sec / 192; let col := sec % 192 % 16; let r := sec % 192 / 16
  (col == 0 || col == 15) && (List.range 64).any (fun ty => (List.range 12).any (fun p =>
    let x := if col = 0 then 0 else 511; let y := 64 * r + ty; let east := col == 15
    let b := if east then d else d - 1
    if (east && d == 3) || (!east && d == 0) then false
    else
      let out := (s.bridgeAt (groupKey b (!east) (wireGroup y p))).unusable
      let inn := (s.bridgeAt (groupKey b east (wireGroup y p))).unusable
      (out && s.field sec fBridge (tileIdx x y * 24 + b2n east * 12 + p) 4 != 0)
      || (inn && (List.range 512).any (fun o => let code := s.field sec fXbar (tileIdx x y * 512 + o) 9
            decide (322 ≤ code) && locAt d x y (code - 322) == some (.bridge p east)))))

/-- Sectors of a load that R100 makes unavailable are held in reset and isolated, each with its notice (R100, R213 step 1, R227). -/
def markUnusable (secs : List Nat) (s : State) : State :=
  s.each secs (fun n t => if (t.secAt n).state != .unavailable && t.usesUnusable n then
    raiseFrom (n / 192 + 1) (0x3911 + n / 192) (t.secAtMod n (fun x => { x with state := .unavailable, clkOn := false, inReset := true, portsOpen := false }))
    else t)

/-- A sector self-test that a command asked for runs on the sector (R475). -/
def State.underTest (s : State) (n : Nat) : Bool := s.tst.bist.any (fun b => b.cmd.isSome && !b.whole && b.die.val * 192 + b.sec.val == n)

/-- Background tests of the named sectors stop without a result; the sectors are as they were (R479). -/
def bgStop (ns : List Nat) (s : State) : State :=
  let hit (b : BistRun) : Bool := b.cmd.isNone && !b.whole && ns.contains (b.die.val * 192 + b.sec.val)
  let bs := s.tst.bist.filter hit
  (s.onTst (fun t => { t with bist := t.bist.filter (fun b => !hit b) })).each bs (fun b =>
    State.secAtMod (b.die.val * 192 + b.sec.val) (fun x => { x with state := if b.held then .held else .blank }))

/-- Every self-test ends; those of commands reply ABORTED (R474). -/
def testsAbort (s : State) : State :=
  let bs := s.tst.bist
  (s.onTst (fun t => { t with bist := [] })).each bs (fun b t =>
    match b.cmd.bind t.findCmd with | some c => finish c rcAborted [] t | none => t)

/-- Step 2 and 3 of a full load (R210, R211, R121, R126, R227): Firing, repair maps, GSR, DONE low, INIT. -/
def fullBegin (dies : Nat) (s : State) : State :=
  let s := testsAbort (setMode .firing s)
  let s := formRepair (blankAll s)
  let s := s.onCfg (fun c => { c with sectors := s.freshSecs (fun d => dies.testBit d) })
  let s := formRemaps s
  let s := { s with
    dm := smap {} s.dm (fun _ m => { m with fullNoticed := false })
    pin := smap {} s.pin (fun _ p => { p with clampNoticed := false }) }
  let s := s.onFab (fun f => { f with bridge := smap {} f.bridge (fun _ g => { g with berr := false }) })
  s.each ((List.range 768).filter (fun n => (s.secAt n).state == .unavailable)) (fun n => raiseFrom (n / 192 + 1) (0x3911 + n / 192))

/-- Loaded sectors of the open full load: those of `die_mask` dies that are available and were written (R212, R213). -/
def State.loadSecs (s : State) (dies : Nat) : List Nat :=
  (List.range 768).filter (fun n => dies.testBit (n / 192) && (s.secAt n).state != .unavailable && (s.secAt n).written)

/-- Sectors of the joined compute dies that the stream never wrote, those of dies outside `die_mask` among them, stay blank and run as empty
sectors once GSR is released (R212). -/
def State.emptySecs (s : State) : List Nat :=
  (List.range 768).filter (fun n => s.present (n / 192 + 1) && (s.secAt n).state != .unavailable && !(s.secAt n).written)

/-- Step 3 of start-up (R213, R169, R179). -/
def startupPins (s : State) : State :=
  match s.cfg.session with
  | none => s
  | some x =>
    let s := sessMod (fun x => { x with started := true, doneWait := false, phase := .startup }) s
    s.each ((List.range 4).filter (fun d => (hDies x.hdr).testBit d)) (fun d t => (t.each (List.range 6) (bankApply d)).each [0, 1] (quadApply d))

/-- SDUs of a sector take their configuration, and those with `start` set begin (R130, R156). -/
def startSdus (sec : Nat) (s : State) : State :=
  s.each (List.range 24) (fun u t => { t with sdu := smod {} t.sdu (sec * 24 + u) (fun q =>
    let q := sduReset (sduConfig t.fab.frames sec u q)
    if q.seq && q.start then { q with state := .running } else q) })

/-- A sector leaves reset: its clocks are ungated, GSR or the region reset is released, the hold is removed and its ports open (R213, R223).
`GSR_RELEASE` (R104) is the advance of the release count. -/
def releaseSec (sec : Nat) (s : State) : State :=
  let s := startSdus sec (releaseHold sec s)
  let s := s.onFab (fun f => { f with relSec := smod 0 f.relSec sec (· + 1) })
  s.secAtMod sec (fun x => { x with state := .running, region := 0, clkOn := true, inReset := false, portsOpen := true })

/-- The warm image takes the frames of a load, with the digest of each sector, when its area holds at least 456 MiB (R464, `PWR_WARM`). -/
def warmStore (full : Bool) (wrote : Store Word) (frames : Store Bool) (s : State) : State :=
  if s.pwr.warmSize.toNat < 456 ∨ (!full && !s.pwr.warmHeld) then s
  else
    let secs := (frames.map (fun e => e.1 / 607)).eraseDups
    let has := frames.foldl (fun m e => sput false m e.1 e.2) (if full then [] else sdrop s.pwr.warmFrames (fun k => secs.contains (k / 607)))
    let keep := if full then [] else sdrop s.pwr.warm (fun k => secs.contains (k / (607 * 256)))
    let warm := wrote.foldl (fun m e => sput 0 m e.1 e.2) keep
    let dig := secs.foldl (fun m n => sput 0 m n (Config.sha384 (wordBytes ((warm.filter (fun e => e.1 / (607 * 256) == n)).map (·.2)))))
      (if full then [] else s.pwr.warmDigest)
    s.onPwr (fun p => { p with warm := warm, warmFrames := has, warmDigest := dig, warmHeld := true })

/-- A full load is complete: steps 4 to 6 of R213. -/
def startupDone (s : State) : State :=
  match s.cfg.session with
  | none => s
  | some x =>
    let s := s.each s.emptySecs (fun n t => t.secAtMod n (fun x => { x with state := .blank, inReset := false }))
    let s := s.each (s.loadSecs (hDies x.hdr)) releaseSec
    let s := s.onCfg (fun c => { c with doneDrive := false, flashLoad := none })
    let s := s.onMgr (fun m => { m with
      imageSource := match x.image with | some .primary => 1 | some .golden => 2 | some .warm => m.imageSource | none => 3
      imageFail := false })
    let s := warmStore true x.wrote x.frames s
    endSession rcOk (setMode .glazed s)

/-- The release of a region begins (R222, R223 step 1): the commit point of its session. -/
def releaseBegin (r : Nat) (s : State) : State :=
  let g := s.regionAt r
  let late := g.deferred
  let s := s.regionAtMod r (fun g => { g with phase := .releasing, commit := .none })
  let s := match s.cfg.session with | some x => cmdMod x.owner (fun c => { c with committed := true }) s | none => s
  let s := sessMod (fun x => { x with phase := .startup }) s
  let s := s.each g.banks (fun b t => bankApply (g.die.toNat - 1) b t)
  let s := s.each (quadsOf g.mask) (fun q t => quadApply (g.die.toNat - 1) q t)
  s.when late (raiseFrom g.die.toNat 0x2906)

/-- The open session belongs to region r. -/
def State.sessionOf (s : State) (r : Nat) : Option Session := s.cfg.session.bind (fun x => if x.region = some (Fin.ofNat 16 r) then some x else none)

/-- A commit of region r falls due (R221, R222): release begins, or it is deferred (`COMMIT_DEFERRAL`) before CFG_END is verified, before
the session has begun, and in Held. -/
def commitFalls (t : BitVec 48) (r : Nat) (s : State) : State :=
  let g := s.regionAt r
  if g.phase == .closed || g.phase == .releasing || g.clearing || g.deferred then s
  else
    let ready := g.phase == .opened && (match s.sessionOf r with | some x => x.verified | none => false) && s.mode != .held
    if ready then releaseBegin r s
    else s.regionAtMod r (fun g => { g with commit := .due t, deferred := true })

/-- Deferred commits whose wait is over begin their release, in ascending ID order (R222, R223). -/
def releaseDeferred (s : State) : State :=
  s.each (List.range 16) (fun r t =>
    let g := t.regionAt r
    if g.phase == .opened && g.deferred && t.mode != .held && (match t.sessionOf r with | some x => x.verified | none => false) then releaseBegin r t else t)

/-- Fabric ports of the sectors of a region (R253). -/
def Region.ports (g : Region) : List Nat :=
  ((List.range 96).map (fun i => g.die.toNat * 128 + i / 4 * 4 + i % 4)).filter (fun p =>
    isFabricPort p && g.has ((fabricPortSector p).1 * 192 + (fabricPortSector p).2))

/-- Nothing that the ports of a region issued or had accepted before it was opened remains (R217 step 2). -/
def State.drained (s : State) (g : Region) : Bool :=
  g.ports.all (fun p => (s.iportAt p).out.isEmpty && (s.tportAt p).drain == 0 && (s.tportAt p).pres.isEmpty)

/-- Steps 3 and 4 of region open (R217, R218, R180). -/
def regionHold (r : Nat) (s : State) : State :=
  let g := s.regionAt r
  let s := engageHold g.secs (holdPads (fun n => n / 6 + 1 == g.die.toNat && g.banks.contains (n % 6)) s)
  let s := s.each g.banks (fun b t => t.bankAtMod ((g.die.toNat - 1) * 6 + b) (fun q => { q with frozen := true }))
  let s := s.each g.secs (fun n t => t.secAtMod n (fun x => { x with clkOn := false, inReset := true }))
  let s := dropCapture (fun n => g.has n) (resetSdus (fun n => g.has n) s)
  s.regionAtMod r (fun g => { g with phase := .blanking })

/-- An aborted or reset session, before its commit point (R54, R55). One whose CFG_BEGIN has not started ends without effect, unless a flash load
is given up with it. -/
def sessionRollback (s : State) : State :=
  match s.openSess with
  | none => s
  | some x =>
    let begun := s.cfg.session.isSome
    let s := endSession rcAborted (abortQueued x.owner true s)
    if !begun ∧ x.image.isNone then s
    else if hPartial x.hdr ∧ x.image.isNone then (match x.region with | some r => closeBlank r.val s | none => s)
    else setMode .bisque (blankAll (s.onCfg (fun c => { c with flashLoad := none })))

/-- The session is before its commit point (R50, R222). -/
def Session.early (x : Session) (s : State) : Bool :=
  if hPartial x.hdr then !(match x.region with | some r => (s.regionAt r.val).phase == .releasing | none => false) else !x.verified

end Sys2Proof.Machine
end

