-- ==== Sys2Proof/Machine/Memory.lean ====
section
/-! DEFINITION. Block and deep memories: ports, check code, INIT, scrubbing, row remap, error logs. File 05. -/

namespace Sys2Proof.Machine

/-- The outcome of a word's stored bits under its check code (R113): 0 good, 1 corrected, 2 uncorrectable. One inverted check bit is a single error,
two are a double error. -/
def memEcc (inv : BitVec 8) : Nat :=
  match ones inv with | 0 => 0 | 1 => 1 | 2 => 2 | _ => Config.eccOutcome inv % 3

/-- The outcome of a read at address `req` that delivers the stored word `w` (R113, R114): a word of an address that differs in an odd number of bits,
or in exactly two, is uncorrectable. -/
def memOutcome (req : BitVec 15) (w : MemWord) : Nat :=
  let k := ones (req ^^^ w.addr)
  if k = 0 then memEcc w.inv else if k % 2 = 1 ∨ k = 2 then 2 else Config.eccAddr (req ^^^ w.addr) w.inv % 3

/-- The data of a word as read, corrected where the code corrects (R119, R122, R123). -/
def memData (req : BitVec 15) (w : MemWord) : BitVec 72 :=
  if (3 ≤ ones w.inv ∨ req ≠ w.addr) ∧ memOutcome req w = 1 then Config.eccData w.inv w.data else w.data

/-- Data bits of a word with the check code on: the ninth bit of each byte reads zero (R109). -/
def chkMask (chk : Bool) (v : BitVec 72) : BitVec 72 :=
  if chk then bvOf 72 (fun i => i % 9 != 8 && v.getLsbD i) else v

/-- Reading a word under the check code at an address, and its outcome: an invalid word gives zero (R119). -/
def wordRead (req : Nat) (w : MemWord) : BitVec 72 × Nat :=
  let r := BitVec.ofNat 15 req
  if !w.valid then (0, 0) else (memData r w, memOutcome r w)

/-- Reading a block memory word: one without the check code gives what is stored (R115). -/
def memRead (chk : Bool) (req : Nat) (w : MemWord) : BitVec 72 × Nat :=
  if chk then (chkMask true (wordRead req w).1, (wordRead req w).2) else (if w.valid then w.data else 0, 0)

/-- A word whose read `r` was corrected as it is written back (R122); every other word stays. -/
def wordFix (req : Nat) (r : BitVec 72 × Nat) (w : MemWord) : MemWord :=
  if r.2 = 1 then { w with data := r.1, inv := 0, addr := BitVec.ofNat 15 req } else w

/-- Capture an error in the log (R129). -/
def logErr (e : MemErr) (l : Option MemErr) : Option MemErr :=
  match l with
  | none => some e
  | some h => if e.ue && !h.ue then some e else some h

/-- Count, flag and log an outcome (R122, R123, R129). -/
def ctlErr (outcome : Nat) (src : BitVec 2) (word : Nat) (c : MemCtl) : MemCtl :=
  if outcome = 1 then { c with ce := satInc c.ce, ceSeen := true, log := logErr ⟨false, src, word⟩ c.log }
  else if outcome = 2 then { c with ue := satInc c.ue, ueSeen := true, log := logErr ⟨true, src, word⟩ c.log }
  else c

/-- Merge enabled bytes of nine bits into a word. -/
def mergeBytes (be : BitVec 8) (d old : BitVec 72) : BitVec 72 :=
  bvOf 72 (fun i => if be.getLsbD (i / 9) then d.getLsbD i else old.getLsbD i)

/-- Fabric access to the memories of a sector: it runs, is not held, and its die is at L0 (R128, R211). -/
def State.memRuns (s : State) (sec : Nat) : Bool :=
  ((s.secAt sec).state == .running || (s.secAt sec).state == .blank && !(s.secAt sec).inReset) && (s.mode == .glazed || s.mode == .refiring)
  && s.clocked sec

/-- The SDU, block memory and deep memory areas of a sector take accesses (R33). -/
def State.areaOpen (s : State) (sec : Nat) : Bool :=
  match (s.secAt sec).state with
  | .unavailable | .inRegion | .held => false
  | .blank | .loading | .running => decide ((s.pdomAt (sec / 192 + 1)).rung.toNat ≤ 2)

/-- A port had an idle cycle at the present edge (R124): it took no access, and its RDY was high. -/
def MemCtl.idle (k : MemCtl) (portB : Bool) : Bool :=
  !k.initBusy && !k.shut && !k.low.contains portB && !k.cur.any (fun a => a.portB == portB) && !k.prev.any (fun a => a.rmw && a.portB == portB)

/-- Words whose write-back is done before an access at edge `edge` (R122): at the next edge those whose port idled at the present one, at a later
edge all. -/
def MemCtl.due (k : MemCtl) (edge : Nat) : List (Option Bool × Nat) :=
  if edge = 1 then []
  else if edge = 2 then k.wb.filter (fun e => match e.1 with | some p => k.idle p | none => k.idle false || k.idle true)
  else k.wb

/-- The edge at which an access is presented (R110, R116, R117): 1 the present one, 2 the next, 0 a later one. -/
def MemCtl.advance (edge : Nat) (k : MemCtl) : MemCtl :=
  if edge = 1 then k
  else
    let wb := k.wb.filter (fun e => !(k.due edge).contains e)
    { k with cur := [], prev := if edge = 2 then k.cur else [], low := [], gap := false, shut := edge == 2 && k.gap, wb := wb }

/-- An access presented at the present edge is taken (R112, R117): RDY of its port is high, and no read-modify-write of the other port locks the word. -/
def MemCtl.takes (k : MemCtl) (portB : Bool) (word : Nat) : Bool :=
  !k.initBusy && !k.shut && !k.cur.any (fun a => a.portB == portB) && !k.prev.any (fun a => a.rmw && (a.portB == portB || a.word == word))

/-- A refused access: RDY of its port is low at this edge (R112, R117). -/
def MemCtl.refuse (portB : Bool) (k : MemCtl) : MemCtl := if k.low.contains portB then k else { k with low := k.low ++ [portB] }

/-- What an access meets that is presented at the edge of another port's write to its word (R110). -/
def MemCtl.meets (k : MemCtl) (word : Nat) : Option MemAcc := k.cur.find? (fun a => a.write && a.word == word)

/-- A correctable word waits for its write-back (R122); a write drops one that waits. -/
def MemCtl.await (port : Option Bool) (word : Nat) (k : MemCtl) : MemCtl :=
  if k.wb.any (fun e => e.2 == word) then k else { k with wb := k.wb ++ [(port, word)] }
def MemCtl.drop (word : Nat) (k : MemCtl) : MemCtl := { k with wb := k.wb.filter (fun e => e.2 != word) }

/-- Configuration of a block memory (`BM_CFG`): `chk_en`, width codes, `oreg`, `syncab`. -/
def State.bmCfg (s : State) (b : BmId) : BitVec 8 := BitVec.ofNat 8 (s.field (b.die.val * 192 + b.sec.val) fBm b.mem.val 8)

/-- Word, first byte and number of bytes of a port address (R109). -/
def bmDecode (wid : Nat) (addr : BitVec 12) : Nat × Nat × Nat :=
  let nb := 8 / 2 ^ wid
  (addr.toNat / 2 ^ wid % 512, addr.toNat % 2 ^ wid * nb, nb)

/-- Width code of a port. -/
def bmWid (cfg : BitVec 8) (portB : Bool) : Nat := if portB then fld cfg 4 3 else fld cfg 2 1

/-- The memory moves to the edge of an access, with the write-backs of idle cycles before it (R122). -/
def bmAdvance (chk : Bool) (edge : Nat) (m : BlockMem) : BlockMem :=
  { m with words := (m.ctl.due edge).foldl (fun ws e => smod {} ws e.2 (fun w => wordFix e.2 (memRead chk e.2 w) w)) m.words, ctl := m.ctl.advance edge }

/-- An access of a port to a word changes its side of the memory (R108). -/
def BlockMem.onOut (portB : Bool) (f : PortOut → PortOut) (m : BlockMem) : BlockMem :=
  if portB then { m with outB := f m.outB } else { m with outA := f m.outA }

/-- `BM_READ` (R108 to R110, R112, R114, R117, R119, R122, R123): a port takes a read of a word. -/
def bmReadF (b : BmId) (portB : Bool) (addr : BitVec 12) (edge : Fin 3) (s : State) : State :=
  let sec := b.die.val * 192 + b.sec.val
  if !s.memRuns sec then s
  else
    let s := asyncHold s
    let cfg := s.bmCfg b; let chk := bit cfg 0
    let (w, first, nb) := bmDecode (bmWid cfg portB) addr
    let s := s.bmAtMod b (bmAdvance chk edge.val)
    let m := s.bmAt b
    if !m.ctl.takes portB w then s.bmAtMod b (fun m => { m with ctl := m.ctl.refuse portB })
    else
      let cur := sget {} m.words w
      let (pick, s) := match m.ctl.meets w with
        | some l => if bit cfg 7 then (l.old, s) else (let (f, s) := s.take 1; (if f = 1 then l.old else cur, s))
        | none => (cur, s)
      let (v, oc) := memRead chk w pick
      let out : PortOut := { data := (v >>> (9 * first)) &&& BitVec.ofNat 72 (2 ^ (9 * nb) - 1), sbe := oc == 1, derr := oc == 2 }
      let acc : MemAcc := { portB := portB, write := false, word := w, old := cur, be := 0, data := 0, rmw := false }
      let enter (k : MemCtl) : MemCtl :=
        let k := ctlErr oc (if portB then 1 else 0) w { k with cur := k.cur ++ [acc] }
        if oc = 1 then k.await (some portB) w else k
      let s := s.bmAtMod b (fun m => BlockMem.onOut portB (fun _ => out) { m with ctl := enter m.ctl })
      s.when (oc == 2) (raiseFrom (b.die.val + 1) 0x3513)
def execBmRead (b : BmId) (portB : Bool) (addr : BitVec 12) (edge : Fin 3) (s : State) : Host.Outcome State Fault Refusal :=
  .next (bmReadF b portB addr edge s)

/-- `BM_WRITE` (R108 to R110, R112, R115 to R119): a full or narrow write; with no enable in use it is a read. -/
def bmWriteF (b : BmId) (portB : Bool) (we : BitVec 8) (addr : BitVec 12) (di : BitVec 72) (edge : Fin 3) (s : State) : State :=
  let sec := b.die.val * 192 + b.sec.val
  let cfg := s.bmCfg b; let chk := bit cfg 0
  let (w, first, nb) := bmDecode (bmWid cfg portB) addr
  let be : BitVec 8 := BitVec.ofNat 8 (we.toNat % 2 ^ nb * 2 ^ first)
  if be = 0 then bmReadF b portB addr edge s
  else if !s.memRuns sec then s
  else
    let s := (asyncHold s).bmAtMod b (bmAdvance chk edge.val)
    let m := s.bmAt b
    if !m.ctl.takes portB w then s.bmAtMod b (fun m => { m with ctl := m.ctl.refuse portB })
    else
      let cur := sget {} m.words w
      let data := di <<< (9 * first)
      let other := m.ctl.meets w
      -- which of two writes at one edge is applied last: port A where the ports share a clock, else a free bit
      let (mineLast, s) := match other with
        | some _ => if bit cfg 7 then (!portB, s) else (let (f, s) := s.take 1; (f = 1, s))
        | none => (true, s)
      let base := match other with | some l => l.old | none => cur
      let narrow := chk && be != 0xFF
      let (old, oc) := if narrow then memRead chk w base else (if base.valid then base.data else 0, 0)
      let acc : MemAcc := { portB := portB, write := oc != 2, word := w, old := base, be := be, data := data, rmw := narrow }
      let enter (k : MemCtl) : MemCtl := ctlErr oc (if portB then 1 else 0) w { k with cur := k.cur ++ [acc] }
      if oc = 2 then
        raiseFrom (b.die.val + 1) 0x3513 (s.bmAtMod b (fun m => BlockMem.onOut portB (fun o => { o with derr := true }) { m with ctl := enter m.ctl }))
      else
        let merged := match other with
          | some l => if mineLast then mergeBytes be data (mergeBytes l.be l.data old) else mergeBytes l.be l.data (mergeBytes be data old)
          | none => mergeBytes be data old
        let inj := chk && be == 0xFF && m.ctl.injArm
        s.bmAtMod b (fun m => { m with
          words := sput {} m.words w { data := chkMask chk merged, valid := true, inv := if inj then m.ctl.injMask else 0, addr := BitVec.ofNat 15 w }
          ctl := { (enter m.ctl).drop w with injArm := m.ctl.injArm && !inj } })
def execBmWrite (b : BmId) (portB : Bool) (we : BitVec 8) (addr : BitVec 12) (di : BitVec 72) (edge : Fin 3) (s : State) :
    Host.Outcome State Fault Refusal := .next (bmWriteF b portB we addr di edge s)

/-- Physical word of a deep memory address: an active remap entry sends its row to its spare (R126). -/
def dmPhys (m : DeepMem) (addr : Nat) : Nat :=
  match m.remap.findIdx? (fun e => e.active && e.row.toNat == addr / 64) with
  | some i => (512 + i) * 64 + addr % 64
  | none => addr

/-- First free remap entry, the spare that an online copy fills. -/
def dmSpare (m : DeepMem) : Option Nat := m.remap.findIdx? (fun e => !e.active)

/-- The `sync` bit of a deep memory (`DM_CFG`). -/
def State.dmSync (s : State) (sec : Nat) : Bool := s.field sec fDm 0 1 == 1

/-- The memory moves to the edge of an access, with the write-backs of idle cycles before it (R122). -/
def dmAdvance (edge : Nat) (m : DeepMem) : DeepMem :=
  { m with words := (m.ctl.due edge).foldl (fun ws e => smod {} ws (dmPhys m e.2) (fun w => wordFix e.2 (wordRead e.2 w) w)) m.words, ctl := m.ctl.advance edge }

/-- `DM_READ` (R110 to R112, R114, R117, R119, R122, R123). -/
def dmReadF (c : SecId) (addr : BitVec 15) (edge : Fin 3) (s : State) : State :=
  if !s.memRuns c.key then s
  else
    let s := (asyncHold s).dmAtMod c (dmAdvance edge.val)
    let m := s.dmAt c; let a := addr.toNat
    if !m.ctl.takes false a then s.dmAtMod c (fun m => { m with ctl := m.ctl.refuse false })
    else
      let cur := sget {} m.words (dmPhys m a)
      let (pick, s) := match m.ctl.meets a with
        | some l => if s.dmSync c.key then (l.old, s) else (let (f, s) := s.take 1; (if f = 1 then l.old else cur, s))
        | none => (cur, s)
      let (v, oc) := wordRead a pick
      let acc : MemAcc := { portB := false, write := false, word := a, old := cur, be := 0, data := 0, rmw := false }
      let s := s.dmAtMod c (fun m => { m with
        ctl := (let k := ctlErr oc 0 a { m.ctl with cur := m.ctl.cur ++ [acc] }; if oc = 1 then k.await (some true) a else k)
        out := { data := v, sbe := oc == 1, derr := oc == 2 } })
      s.when (oc == 2) (raiseFrom (c.die.val + 1) 0x3514)
def execDmRead (c : SecId) (addr : BitVec 15) (edge : Fin 3) (s : State) : Host.Outcome State Fault Refusal := .next (dmReadF c addr edge s)

/-- Merge enabled bytes of eight bits. -/
def merge64 (be : BitVec 8) (d old : BitVec 64) : BitVec 64 := bvOf 64 (fun i => if be.getLsbD (i / 8) then d.getLsbD i else old.getLsbD i)

/-- `DM_WRITE` (R111, R112, R116 to R119, R127): while a row copy runs, a write to its row goes to both rows. -/
def dmWriteF (c : SecId) (be : BitVec 8) (addr : BitVec 15) (data : BitVec 64) (edge : Fin 3) (s : State) : State :=
  if !s.memRuns c.key then s
  else
    let s := (asyncHold s).dmAtMod c (dmAdvance edge.val)
    let m := s.dmAt c; let a := addr.toNat; let p := dmPhys m a
    if !m.ctl.takes true a then s.dmAtMod c (fun m => { m with ctl := m.ctl.refuse true })
    else
      let cur := sget {} m.words p
      let narrow := be != 0xFF
      let (old, oc) := if narrow then wordRead a cur else (0, 0)
      let acc : MemAcc := { portB := true, write := oc != 2, word := a, old := cur, be := be, data := data.setWidth 72, rmw := narrow }
      let enter (k : MemCtl) : MemCtl := ctlErr oc 1 a { k with cur := k.cur ++ [acc] }
      if oc = 2 then
        raiseFrom (c.die.val + 1) 0x3514 (s.dmAtMod c (fun m => { m with ctl := enter m.ctl, wderr := true }))
      else
        let inj := !narrow && m.ctl.injArm
        let w : MemWord := { data := (merge64 be data (old.setWidth 64)).setWidth 72, valid := true, inv := if inj then m.ctl.injMask else 0, addr := addr }
        s.dmAtMod c (fun m => { m with
          words := (let ws := sput {} m.words p w
            match m.copy, dmSpare m with
            | some (row, _), some i => if row.toNat = a / 64 then sput {} ws ((512 + i) * 64 + a % 64) w else ws
            | _, _ => ws)
          ctl := { (enter m.ctl).drop a with injArm := m.ctl.injArm && !inj }
          wderr := false })
def execDmWrite (c : SecId) (be : BitVec 8) (addr : BitVec 15) (data : BitVec 64) (edge : Fin 3) (s : State) : Host.Outcome State Fault Refusal :=
  .next (dmWriteF c be addr data edge s)

/-- The block memory a selection names. -/
def memBm (c : SecId) (m : Fin 21) : BmId := { die := c.die, sec := c.sec, mem := m }

/-- Change the part that a block memory and a deep memory share. -/
def ctlMod (c : SecId) (m : MemSel) (f : MemCtl → MemCtl) (s : State) : State :=
  match m with
  | .block i => s.bmAtMod (memBm c i) (fun q => { q with ctl := f q.ctl })
  | .deep => s.dmAtMod c (fun q => { q with ctl := f q.ctl })

/-- The shared part of a selected memory. -/
def State.ctlOf (s : State) (c : SecId) (m : MemSel) : MemCtl :=
  match m with | .block i => (s.bmAt (memBm c i)).ctl | .deep => (s.dmAt c).ctl

/-- `MEM_INIT` (R33, R120): one pass starts; one that arrives during a pass is absorbed. A gated, held or unavailable memory takes none. -/
def memInitF (c : SecId) (m : MemSel) (s : State) : State :=
  if !s.areaOpen c.key then s
  else
    let s := match m with
      | .block i => s.bmAtMod (memBm c i) bmInit
      | .deep => s.dmAtMod c (fun q => { q with words := [], ctl := initCtl q.ctl })
    ctlMod c m (fun k => { k with initBusy := true }) s
def execMemInit (c : SecId) (m : MemSel) (s : State) : Host.Outcome State Fault Refusal := .next (memInitF c m s)

/-- `MEM_INIT_COMPLETE` (R120): the pass ends and RDY rises. -/
def memInitCompleteF (c : SecId) (m : MemSel) (s : State) : State := ctlMod c m (fun k => { k with initBusy := false }) s
def execMemInitComplete (c : SecId) (m : MemSel) (s : State) : Host.Outcome State Fault Refusal := .next (memInitCompleteF c m s)

/-- Start an online remap of a deep memory row (R127): ignored while a copy runs or for a row already remapped; with no entry free the row
stays in service and 0x2512 is raised once per load. -/
def remapStart (c : SecId) (row : BitVec 9) (origin : BitVec 2) (s : State) : State :=
  let m := s.dmAt c
  if m.copy.isSome || m.remap.any (fun e => e.active && e.row == row) then s
  else match dmSpare m with
    | some _ => s.dmAtMod c (fun q => { q with copy := some (row, origin) })
    | none => if m.fullNoticed then s else raiseFrom (c.die.val + 1) 0x2512 (s.dmAtMod c (fun q => { q with fullNoticed := true }))

/-- `DM_REMAP_REQ` (R33, R126, R127): software asks for an online remap. -/
def dmRemapReqF (c : SecId) (row : BitVec 9) (s : State) : State := if s.areaOpen c.key then remapStart c row 2 s else s
def execDmRemapReq (c : SecId) (row : BitVec 9) (s : State) : Host.Outcome State Fault Refusal := .next (dmRemapReqF c row s)

/-- Copy word k of a row to its spare, corrected; an uncorrectable word is copied invalid and logged (R127). Whether a word corrected in the copy is
counted and logged is not stated: DESIGN CHOICE, it is not (log 143). -/
def copyWord (c : SecId) (row spare k : Nat) (s : State) : State :=
  let m := s.dmAt c; let a := row * 64 + k
  let w := sget {} m.words (dmPhys m a); let (v, oc) := wordRead a w
  let new : MemWord := if w.valid && oc != 2 then { data := v, valid := true, inv := 0, addr := BitVec.ofNat 15 a } else {}
  let s := s.dmAtMod c (fun q => { q with
    words := sput {} q.words ((512 + spare) * 64 + k) new
    ctl := if oc = 2 then ctlErr 2 3 (row * 64 + k) q.ctl else q.ctl })
  s.when (oc == 2) (raiseFrom (c.die.val + 1) 0x3514)

/-- `ROW_COPY_COMPLETE` (R126, R127): the entry becomes active in a cycle in which RDY of both ports is low, is noted for the repair record, and 0x1511
is raised. -/
def rowCopyCompleteF (c : SecId) (s : State) : State :=
  let m := s.dmAt c
  match m.copy, dmSpare m with
  | some (row, origin), some i =>
    let s := s.each (List.range 64) (copyWord c row.toNat i)
    let s := s.dmAtMod c (fun q => { q with copy := none, remap := setNth q.remap i { origin := origin, active := true, row := row }, ctl := { q.ctl with gap := true } })
    let e := wd (2 * 2 ^ 28 + (c.die.val + 1) * 2 ^ 25 + c.sec.val % 16 * 2 ^ 21 + s.prow c.key * 2 ^ 17 + row.toNat * 256)
    raiseFrom (c.die.val + 1) 0x1511 (s.onTst (fun t => { t with add := t.add ++ [(e, 0, 0, 0)] }))
  | _, _ => s
def execRowCopyComplete (c : SecId) (s : State) : Host.Outcome State Fault Refusal := .next (rowCopyCompleteF c s)

/-- The scrubber runs (R124, R125, R128). -/
def State.scrubs (s : State) (sec : Nat) (k : MemCtl) : Bool :=
  s.memRuns sec && k.scrubEn && !k.initBusy && (!k.scrubQw || s.quietWin)

/-- Scrub step of a block memory: the next valid word is read; at the end of the pass the count advances (R124). In a memory with no valid word
the rule gives the count no rule: DESIGN CHOICE, every step is a pass (log 143). -/
def scrubBm (b : BmId) (s : State) : State :=
  let m := s.bmAt b
  if !s.scrubs (b.die.val * 192 + b.sec.val) m.ctl then s
  else
    let next (p : Nat) := m.words.find? (fun e => e.2.valid && decide (p ≤ e.1))
    match next m.ctl.scrubPos with
    | none => s.bmAtMod b (fun q => { q with ctl := { q.ctl with scrubPos := 0, pass := q.ctl.pass + 1 } })
    | some (w, x) =>
      let oc := (memRead (bit (s.bmCfg b) 0) w x).2
      let last := (next (w + 1)).isNone
      let s := s.bmAtMod b (fun q => { q with ctl :=
        let k := ctlErr oc 2 w q.ctl
        let k := if oc = 1 then k.await none w else k
        { k with scrubPos := if last then 0 else w + 1, pass := if last then k.pass + 1 else k.pass } })
      s.when (oc == 2) (raiseFrom (b.die.val + 1) 0x3513)

/-- Scrub step of a deep memory, by logical address; a row with a correctable error in two passes in succession is remapped when
`remap_auto` is set (R124, R126). -/
def scrubDm (c : SecId) (s : State) : State :=
  let m := s.dmAt c
  if !s.scrubs c.key m.ctl then s
  else
    let spare (p : Nat) : Option Nat := (m.remap.getD (p / 64 - 512) {}).row.toNat * 64 + p % 64
    let logical := m.words.filterMap (fun e => if !e.2.valid then none
      else if e.1 < 32768 then (if dmPhys m e.1 = e.1 then some e.1 else none)
      else (match spare e.1 with | some a => if dmPhys m a = e.1 then some a else none | none => none))
    let next (p : Nat) : Option Nat := (logical.filter (fun a => decide (p ≤ a))).foldl (fun r a => some (match r with | some b => min a b | none => a)) none
    let endPass (q : DeepMem) : DeepMem := { q with ctl := { q.ctl with scrubPos := 0, pass := q.ctl.pass + 1 }, cePrev := q.ceRows, ceRows := [] }
    match next m.ctl.scrubPos with
    | none => s.dmAtMod c endPass
    | some a =>
      let oc := (wordRead a (sget {} m.words (dmPhys m a))).2
      let row : BitVec 9 := BitVec.ofNat 9 (a / 64)
      let last := (next (a + 1)).isNone
      let s := s.dmAtMod c (fun q => { q with
        ctl := (let k := ctlErr oc 2 a q.ctl; let k := if oc = 1 then k.await (some true) a else k; { k with scrubPos := a + 1 })
        ceRows := if oc = 1 && !q.ceRows.contains row then q.ceRows ++ [row] else q.ceRows })
      let s := s.when (oc == 2) (raiseFrom (c.die.val + 1) 0x3514)
      let s := s.when (oc == 1 && m.remapAuto && m.cePrev.contains row) (remapStart c row 1)
      s.when last (fun t => t.dmAtMod c endPass)

/-- An idle cycle of a memory's ports (R122, R124): corrected words that wait are written back, and the scrubber, when it runs, reads its next word. -/
def memIdle (c : SecId) (m : MemSel) (s : State) : State :=
  if !s.memRuns c.key || (s.ctlOf c m).initBusy then s
  else match m with
    | .block i => scrubBm (memBm c i) (s.bmAtMod (memBm c i) (bmAdvance (bit (s.bmCfg (memBm c i)) 0) 0))
    | .deep => scrubDm c (s.dmAtMod c (dmAdvance 0))

/-- Value of an error log register (`BM_ERRLOG`, `DM_ERRLOG`). -/
def errlogWord (deep : Bool) (l : Option MemErr) : Word :=
  match l with
  | none => 0
  | some e => if deep then wd (2 ^ 31 + b2n e.ue * 2 ^ 18 + e.src.toNat * 2 ^ 16 + e.word) else wd (2 ^ 31 + b2n e.ue * 4096 + e.src.toNat * 1024 + e.word)

/-- A read of an error log: an ordinary read clears the capture, an inspection read does not (R14, R129); in a gated, held or unavailable sector it
reads zero (R33). -/
def memErrlogRead (c : SecId) (m : MemSel) (insp : Bool) (s : State) : Word × State :=
  if !s.areaOpen c.key then (0, s)
  else (errlogWord (m == .deep) (s.ctlOf c m).log, if insp then s else ctlMod c m (fun k => { k with log := none }) s)

/-- `BM_ERRLOG_READ` (R129). -/
def execBmErrlogRead (b : BmId) (insp : Bool) (s : State) : Host.Outcome State Fault Refusal :=
  .next (State.readTo (memErrlogRead { die := b.die, sec := b.sec } (.block b.mem) insp s))
/-- `DM_ERRLOG_READ` (R129). -/
def execDmErrlogRead (c : SecId) (insp : Bool) (s : State) : Host.Outcome State Fault Refusal := .next (State.readTo (memErrlogRead c .deep insp s))

/-- A read of `BM_CE_COUNT` or `DM_CE_COUNT` (R11, R33): an ordinary read clears it. -/
def memCeRead (c : SecId) (m : MemSel) (insp : Bool) (s : State) : Word × State :=
  if !s.areaOpen c.key then (0, s)
  else (wd (s.ctlOf c m).ce.toNat, if insp then s else ctlMod c m (fun k => { k with ce := 0 }) s)
/-- A read of `BM_UE_COUNT` or `DM_UE_COUNT` (R11, R33). -/
def memUeRead (c : SecId) (m : MemSel) (insp : Bool) (s : State) : Word × State :=
  if !s.areaOpen c.key then (0, s)
  else (wd (s.ctlOf c m).ue.toNat, if insp then s else ctlMod c m (fun k => { k with ue := 0 }) s)

/-- `BM_CE_COUNT` (R11). -/
def execBmCeCount (c : SecId) (m : MemSel) (insp : Bool) (s : State) : Host.Outcome State Fault Refusal := .next (State.readTo (memCeRead c m insp s))
/-- `BM_UE_COUNT` (R11). -/
def execBmUeCount (c : SecId) (m : MemSel) (insp : Bool) (s : State) : Host.Outcome State Fault Refusal := .next (State.readTo (memUeRead c m insp s))

end Sys2Proof.Machine
end

