-- ==== Sys2Proof/Machine/Config.lean ====
section
/-! DEFINITION. The commands and events of the configuration engine. Files 08 and 09. -/

namespace Sys2Proof.Machine

/-- Status of the first of checks 1 to 4 of R189 that fails, none when they pass: `r` is the region the header names. -/
def headerCheck (c : Cmd) (s : State) (r : Option (Fin 16)) : Option Nat :=
  let h := c.params
  if fld (wordAt h 0) 31 16 ≠ 0x9A40 ∨ wordAt h 1 ≠ 0x1940A5B7 then some rcWrongDevice
  else if !headerOk h then some rcBadParam
  else if hPartial h != (s.checkMode c == 5) then some rcWrongMode
  else if hPartial h ∧ (hDies h ≠ 0 ∨ !r.any s.regionFree) then some rcBadParam
  else if !hPartial h ∧ (hDies h = 0 ∨ hRegion h ≠ 0) then some rcBadParam
  else none

/-- Status of the first of checks 5 to 7 of R189 that fails, none when they pass (R199). -/
def policyCheck (h : List Word) (s : State) : Option Nat :=
  let arvFuse := ones (s.fuse 3 0) + ones (s.fuse 3 1)
  let ks := s.fuse 0 0
  let policy := if !hEnc h then !bit ks 0
    else if hKeySel h then !bit ks 2 && s.fuses.bbram.isSome else !bit ks 1 && (s.deviceKey false).isSome
  if hArv h < arvFuse then some rcRollback
  else if !hSigned h ∧ bit (s.fuse 1 0) 0 then some rcAuthFail
  else if !policy then some rcDenied
  else none

/-- Check 8 of R189: the first segment key (R196, R197). -/
def unwrapKey (h : List Word) (s : State) : Option (BitVec 256) :=
  if !hEnc h then some 0
  else
    let k := (s.deviceKey (hKeySel h)).getD 0
    (gcmItem k (sessIv h 0) (wordBytes (h.take 8)) (wordBytes ((h.drop 8).take 8)) (tagOf ((h.drop 16).take 4))).map (fun p => keyOf (bytesWords p))

/-- A CFG_BEGIN that may not run in the mode ends WRONG_MODE (R47, R187): its session ends with it, and on transport 3 the status is shown. -/
def beginWrongMode (c : Cmd) (s : State) : State :=
  if c.id.t == .stream then
    if s.cfg.flashLoad.isSome then flashLoadFail rcWrongMode s else streamResult rcWrongMode (finish c rcWrongMode [] s)
  else finish c rcWrongMode [] s

/-- `CFG_BEGIN` (R188, R189, R210): its header is checked, and a full or partial load begins. A partial load that passes check 4 has its region,
which a failure of a later check closes blank (R206, R219). -/
def cfgBeginF (id : CmdId) (s : State) : State :=
  startCmdOr beginWrongMode id 0x10 (fun c s =>
    let h := c.params
    let r := s.namedRegion c.id.t h
    let img := if c.id.t = .stream then s.cfg.flashLoad else none
    let form := headerCheck c s r
    let bad := if form.isSome then form else policyCheck h s
    let key := unwrapKey h s
    let named := if form.isNone then r else none
    let s := s.onCfg (fun g => { g with session := some { owner := c.id, hdr := h, region := named, image := img, key := key.getD 0 } })
    match bad with
    | some st => loadFail st s
    | none =>
      if key.isNone then loadFail rcDecryptFail s
      else if (List.range 4).any (fun d => (hDies h).testBit d && (s.dieAt (d + 1)).dstate != 2) then loadFail rcHwFault s
      else
        let s := sessMod (fun x => { x with passed := true, phase := .frames }) s
        match named with
        | some n => s.regionAtMod n.val (fun g => { g with session := true })
        | none => fullBegin (hDies h) s) s
def execCfgBegin (c : CmdId) (s : State) : Host.Outcome State Fault Refusal := .next (cfgBeginF c s)

/-- A die and sector that a frame of the session may name (R191, R498). -/
def Session.names (x : Session) (s : State) (die sec : Nat) : Bool :=
  if hPartial x.hdr then (match x.region with | some r => (s.regionAt r.val).has ((die - 1) * 192 + sec) | none => false)
  else (hDies x.hdr).testBit (die - 1)

/-- `CFG_FRAMES` (R191 to R195, R197, R198, R202). -/
def cfgFramesF (id : CmdId) (s : State) : State :=
  startSess id 0x11 (fun x c s =>
    let p0 := c.p 0; let n := fld p0 9 6; let die := fld p0 30 28; let sec := fld p0 27 20; let f := fld p0 19 10
    let enc := hEnc x.hdr; let cmp := bit p0 31
    let body := c.params.drop 1
    let payload := if enc then body.take (body.length - 4) else body
    sessCheck ((!enc || 4 ≤ body.length) && (cmp || payload.length == 256 * n)) rcBadLength c (fun s =>
    sessCheck (1 ≤ die && die ≤ 4 && sec < 192 && f + n ≤ 607 && 1 ≤ n && fld p0 5 0 == 0 && x.names s die sec) rcBadParam c (fun s =>
      let ct := wordBytes payload
      if enc ∧ 4194304 < x.segBytes + ct.length then sessFail rcDecryptFail c (raise 0x3806 s)
      else
        match (if enc then gcmItem x.key (sessIv x.hdr x.ctr.toNat) (wordBytes [c.hdr, p0]) ct (tagOf (body.drop (body.length - 4))) else some ct) with
        | none => sessFail rcDecryptFail c s
        | some pt =>
          match (if cmp then decompress n pt else some pt) with
          | none => sessFail rcCheckFail c s
          | some out =>
            let ws := bytesWords out
            let s := sessMod (fun x => { x with
              ctr := if enc then x.ctr + 1 else x.ctr, segBytes := if enc then x.segBytes + ct.length else x.segBytes }) s
            let s := s.each (List.range n) (fun i => takeFrame die sec (f + i) ((ws.drop (256 * i)).take 256))
            finish c rcOk [] s) s) s) s
def execCfgFrames (c : CmdId) (s : State) : Host.Outcome State Fault Refusal := .next (cfgFramesF c s)

/-- `CFG_KEY_ROLL` (R197, R198). -/
def cfgKeyRollF (id : CmdId) (s : State) : State :=
  startSess id 0x12 (fun x c s =>
    sessCheck (hEnc x.hdr) rcBadParam c (fun s =>
      if 4194304 < x.segBytes + 32 then sessFail rcDecryptFail c (raise 0x3806 s)
      else
        match gcmItem x.key (sessIv x.hdr x.ctr.toNat) (wordBytes [c.hdr]) (wordBytes (c.params.take 8)) (tagOf (c.params.drop 8)) with
        | none => sessFail rcDecryptFail c s
        | some pt => finish c rcOk [] (sessMod (fun x => { x with key := keyOf (bytesWords pt), ctr := x.ctr + 1, segBytes := 0 }) s)) s) s
def execCfgKeyRoll (c : CmdId) (s : State) : Host.Outcome State Fault Refusal := .next (cfgKeyRollF c s)

/-- `CFG_SIGNATURE` (R204). -/
def cfgSignatureF (id : CmdId) (s : State) : State :=
  startSess id 0x18 (fun x c s =>
    sessCheck (hSigned x.hdr && x.sig.isNone) rcBadParam c (fun s => finish c rcOk [] (sessMod (fun x => { x with sig := some c.params }) s)) s) s
def execCfgSignature (c : CmdId) (s : State) : Host.Outcome State Fault Refusal := .next (cfgSignatureF c s)

/-- A 192-bit sector mask from its six words (R216). -/
def maskOf (ws : List Word) : BitVec 192 := BitVec.ofNat 192 (wordsNat (ws.take 6))

/-- INIT of the block memories of a sector by CFG_MEMINIT: bytes written earlier in the session are discarded (R193, R498). -/
def cfgInitBlock (sec : Nat) (s : State) : State :=
  let s := s.onCfg (fun c => { c with bytes := sdrop c.bytes (fun k => k / 512 / 21 == sec) })
  { s with bm := smap {} s.bm (fun k m => if k / 21 = sec then bmInit m else m) }

/-- INIT of the deep memory of a sector. -/
def cfgInitDeep (sec : Nat) (s : State) : State := { s with dm := smap {} s.dm (fun k m => if k = sec then dmInit m else m) }

/-- `CFG_MEMINIT` (R120, R193, R202, R498). -/
def cfgMeminitF (id : CmdId) (s : State) : State :=
  startSess id 0x17 (fun x c s =>
    let p0 := c.p 0; let die := fld p0 2 0; let kind := fld p0 9 8
    let secs := maskSecs (maskOf (c.params.drop 1))
    sessCheck (onlyBits p0 0x307 && 1 ≤ die && die ≤ 4 && kind != 0 && !secs.isEmpty && secs.all (fun i => x.names s die i)) rcBadParam c (fun s =>
      let s := sessMod (fun x => { x with dig := c.params.reverse ++ c.hdr :: x.dig }) s
      let s := s.each (secs.map (fun i => (die - 1) * 192 + i)) (fun n t =>
        if (t.secAt n).state == .unavailable then t
        else
          let t := if kind % 2 = 1 then cfgInitBlock n t else t
          if 2 ≤ kind then cfgInitDeep n t else t)
      finish c rcOk [] s) s) s
def execCfgMeminit (c : CmdId) (s : State) : Host.Outcome State Fault Refusal := .next (cfgMeminitF c s)

/-- The signature of a signed stream verifies (R205). -/
def signatureOk (x : Session) (s : State) : Bool :=
  !hSigned x.hdr || (match x.sig with
    | none => false
    | some w => Config.sha384 (wordBytes (w.take 24)) == BitVec.ofNat 384 (wordsNat ((List.range 12).map (fun i => s.fuse 2 i)))
                && Config.ecdsa (w.take 24) (Config.sha384 (wordBytes x.hdr ++ sessDigest x)) (w.drop 24))

/-- CFG_END is verified (R205): the commit point of a full load, whose start-up begins (R210, R213), or of a region whose commit has fallen
due (R222). -/
def sessVerified (s : State) : State :=
  match s.cfg.session with
  | none => s
  | some x =>
    let s := sessMod (fun x => { x with verified := true, phase := .awaiting }) s
    if hPartial x.hdr then
      (match x.region with
      | some r => releaseDeferred (markUnusable ((s.regionAt r.val).secs) s)
      | none => s)
    else
      let s := markUnusable (s.loadSecs (hDies x.hdr)) (cmdMod x.owner (fun c => { c with committed := true }) s)
      if bit (s.setting 16) 0 then
        sessMod (fun x => { x with doneWait := true, phase := .startup }) (s.onCfg (fun g => { g with doneDrive := false }))
      else startupPins s

/-- `CFG_END` (R197, R203, R205, R213, R222). -/
def cfgEndF (id : CmdId) (s : State) : State :=
  startSess id 0x13 (fun x c s =>
    let enc := hEnc x.hdr
    sessCheck (c.params.length == (if enc then 16 else 12)) rcBadLength c (fun s =>
      let dig := c.params.take 12
      if enc ∧ (gcmItem x.key (sessIv x.hdr x.ctr.toNat) (wordBytes (c.hdr :: dig)) [] (tagOf (c.params.drop 12))).isNone then sessFail rcDecryptFail c s
      else if wordBytes dig ≠ sessDigest x then sessFail rcCheckFail c s
      else if !signatureOk x s then sessFail rcAuthFail c s
      else sessVerified (finish c rcOk [] s)) s) s
def execCfgEnd (c : CmdId) (s : State) : Host.Outcome State Fault Refusal := .next (cfgEndF c s)

/-- `CFG_COMMIT` (R221): at once, or at a timebase position; a position armed and not yet due is replaced. -/
def cfgCommitF (id : CmdId) (s : State) : State :=
  startCmd id 0x14 (fun c s =>
    let r := (c.p 0).toNat; let timed := c.params.length == 3
    require (decide (r < 16) && s.regionOpen r && (!timed || onlyBits (c.p 2) 0xFFFF)) rcBadParam c (fun s =>
      let t : BitVec 48 := BitVec.ofNat 48 ((c.p 1).toNat + (c.p 2).toNat * 2 ^ 32)
      let g := s.regionAt r
      let s := finish c rcOk [] s
      if !timed then commitFalls s.clk.pos r s
      else if g.phase != .opened || g.deferred then s
      else if (s.clk.pos - t).toNat < 2 ^ 47 then commitFalls t r s
      else s.regionAtMod r (fun g => { g with commit := .armed t })) s) s
def execCfgCommit (c : CmdId) (s : State) : Host.Outcome State Fault Refusal := .next (cfgCommitF c s)

/-- `COMMIT_DUE` (R221, R222): an armed position has been reached. -/
def commitDueF (r : Fin 16) (s : State) : State :=
  match (s.regionAt r.val).commit with
  | .armed t => if (s.clk.pos - t).toNat < 2 ^ 47 then commitFalls t r.val s else s
  | _ => s
def execCommitDue (r : Fin 16) (s : State) : Host.Outcome State Fault Refusal := .next (commitDueF r s)

/-- A mask names one owner sector of a quad or a bank and not the other (R167, R287). -/
def splitsBank (m : BitVec 192) : Bool :=
  (List.range 8).any (fun b => m.getLsbD (176 + 2 * b) != m.getLsbD (177 + 2 * b))

/-- `CFG_REGION_OPEN` (R216, R217, R287, R386): the region takes the lowest free ID, and its drain begins; its quads go idle and the contexts
bound to its sectors are declared dead. -/
def cfgRegionOpenF (id : CmdId) (s : State) : State :=
  startCmd id 0x15 (fun c s =>
    let die := (c.p 0).toNat; let m := maskOf (c.params.drop 1)
    let keys := (maskSecs m).map (fun i => (die - 1) * 192 + i)
    let slot := (List.range 16).find? (fun r => !s.regionOpen r)
    require (1 ≤ die && die ≤ 4 && m != 0 && slot.isSome && !splitsBank m
      && keys.all (fun n => (s.secAt n).state != .unavailable && !s.underTest n && !(List.range 16).any (fun r => (s.regionAt r).has n))) rcBadParam c (fun s =>
    require ((s.dieAt die).dstate == 2) rcHwFault c (fun s =>
      let s := bgStop keys s
      let s := s.onDbg (fun d => { d with frozen := smod 0 d.frozen (die - 1) (· &&& ~~~m) })
      let s := dbgVotes s
      let r := slot.getD 0
      let s := s.regionAtMod r (fun g => { phase := .draining, die := BitVec.ofNat 3 die, mask := m, late := g.late, cmd := some c.id })
      let s := s.each (s.regionAt r).ports (fun p t => t.tportAtMod p (fun q => { q with drain := q.inq.length }))
      let s := s.each keys (fun n t => t.secAtMod n (fun x => { x with state := .inRegion, region := BitVec.ofNat 4 r, portsOpen := false, written := false }))
      let s := s.onCfg (fun g => { g with lastOpen := sput none g.lastOpen c.id.t.id (some (Fin.ofNat 16 r)) })
      wdsRegionOpen die m (s.each (quadsOf m) (quadIdle die))) s) s) s
def execCfgRegionOpen (c : CmdId) (s : State) : Host.Outcome State Fault Refusal := .next (cfgRegionOpenF c s)

/-- `CFG_REGION_CLEAR` (R220). -/
def cfgRegionClearF (id : CmdId) (s : State) : State :=
  startCmd id 0x16 (fun c s =>
    let r := (c.p 0).toNat
    require (decide (r < 16) && (s.regionAt r).phase == .opened && !(s.regionAt r).session) rcBadParam c (fun s =>
      cmdMod c.id (fun c => { c with committed := true })
        (s.regionAtMod r (fun g => { g with phase := .blanking, clearing := true, cmd := some c.id, commit := .none, deferred := false }))) s) s
def execCfgRegionClear (c : CmdId) (s : State) : Host.Outcome State Fault Refusal := .next (cfgRegionClearF c s)

/-- `REGION_DRAIN_COMPLETE` (R217, R218). -/
def regionDrainCompleteF (r : Fin 16) (s : State) : State :=
  let g := s.regionAt r.val
  if g.phase == .draining && s.drained g then regionHold r.val s else s
def execRegionDrainComplete (r : Fin 16) (s : State) : Host.Outcome State Fault Refusal := .next (regionDrainCompleteF r s)

/-- Requests that a target port had accepted before its region opened are answered with poisoned responses, in order (R217). -/
def poisonAll (p : Nat) (s : State) : State :=
  let t := s.tportAt p
  let s := s.each (t.pres.map (·.2) ++ t.inq.take t.drain) (fun q u => sendRsp p (poisonRsp q) u)
  s.tportAtMod p (fun q => { q with inq := q.inq.drop t.drain, drain := 0, pres := [] })

/-- Requests that an initiator port has issued are abandoned (R217): a response that still arrives is discarded. -/
def abandonAll (p : Nat) (s : State) : State :=
  s.iportAtMod p (fun q => { q with
    ended := q.ended ++ (q.out.filter (fun o => o.sent && o.rsp.isNone)).map (fun o => (o.req.txid, o.req.dst, dataFlits o.req.addr.toNat o.req.len.toNat))
    out := [], fence := none })

/-- `REGION_DRAIN_TIMEOUT` (R217): 1 ms has passed. -/
def regionDrainTimeoutF (r : Fin 16) (s : State) : State :=
  let g := s.regionAt r.val
  if g.phase == .draining then
    let s := s.each g.ports (fun p t => abandonAll p (poisonAll p t))
    regionHold r.val (raiseFrom g.die.toNat 0x3908 s)
  else s
def execRegionDrainTimeout (r : Fin 16) (s : State) : Host.Outcome State Fault Refusal := .next (regionDrainTimeoutF r s)

/-- Final reply of the command a region's phase waits for. -/
def regionReply (r : Nat) (data : List Word) (s : State) : State :=
  match (s.regionAt r).cmd.bind s.findCmd with
  | some c => finish c rcOk data (s.regionAtMod r (fun g => { g with cmd := none }))
  | none => s

/-- `REGION_BLANK_COMPLETE` (R217 steps 5 and 6, R220). -/
def regionBlankCompleteF (r : Fin 16) (s : State) : State :=
  let g := s.regionAt r.val
  if g.phase != .blanking then s
  else
    let s := blankSectors (fun n => g.has n) s
    if g.clearing then closeBlank r.val (regionReply r.val [] s)
    else
      let s := s.regionAtMod r.val (fun g => { g with phase := .opened })
      setMode .refiring (regionReply r.val [wd r.val] s)
def execRegionBlankComplete (r : Fin 16) (s : State) : Host.Outcome State Fault Refusal := .next (regionBlankCompleteF r s)

/-- `REGION_RELEASE_COMPLETE` (R223): steps 2 to 5. `us` is the time from the commit falling due to the release, shown when it was deferred. -/
def regionReleaseCompleteF (r : Fin 16) (us : Nat) (s : State) : State :=
  let g := s.regionAt r.val
  if g.phase != .releasing then s
  else
    let secs := g.secs.filter (fun n => (s.secAt n).state != .unavailable)
    let kept := secs.filter (fun n => !(s.secAt n).written)
    let s := s.each secs releaseSec
    let s := s.each kept (fun n t => t.secAtMod n (fun x => { x with state := .blank }))
    let x := s.sessionOf r.val
    let s := s.regionAtMod r.val (fun _ => { late := if g.deferred then BitVec.ofNat 16 (min us 65535) else 0 })
    closeMode (regionForget r.val (endSession rcOk (warmStore false ((x.map Session.wrote).getD []) ((x.map Session.frames).getD []) s)))
def execRegionReleaseComplete (r : Fin 16) (us : Nat) (s : State) : Host.Outcome State Fault Refusal := .next (regionReleaseCompleteF r us s)

/-- `DONE_LINE_HIGH` (R213): the DONE line has read high for 1 µs. -/
def doneLineHighF (s : State) : State :=
  if s.cfg.doneDrive then s
  else
    let s := s.onCfg (fun c => { c with doneLine := true })
    match s.cfg.session with | some x => if x.doneWait then startupPins s else s | none => s
def execDoneLineHigh (s : State) : Host.Outcome State Fault Refusal := .next (doneLineHighF s)

/-- `DONE_WAIT_TIMEOUT` (R213): `done_wait_ms` has passed. -/
def doneWaitTimeoutF (s : State) : State :=
  match s.cfg.session with
  | some x => if x.doneWait ∧ fld (s.setting 16) 31 16 ≠ 0 then startupPins (raise 0x2905 s) else s
  | none => s
def execDoneWaitTimeout (s : State) : Host.Outcome State Fault Refusal := .next (doneWaitTimeoutF s)

/-- `STARTUP_COMPLETE` (R213 steps 4 to 6). -/
def startupCompleteF (s : State) : State :=
  match s.cfg.session with
  | some x => if x.started ∧ !hPartial x.hdr then startupDone s else s
  | none => s
def execStartupComplete (s : State) : Host.Outcome State Fault Refusal := .next (startupCompleteF s)

/-- `STREAM_INACTIVITY_TIMEOUT` (R186): the timer runs while the engine holds no packet of the session and CFG_END is not accepted. -/
def streamInactivityTimeoutF (s : State) : State :=
  match s.cfg.session with
  | some x =>
    let holds := s.mgr.cmds.any (fun c => c.id.t == x.owner.t && [0x11, 0x12, 0x13, 0x17, 0x18].contains c.op)
    if x.verified || x.paused || holds then s else loadFail rcTruncated s
  | none => s
def execStreamInactivityTimeout (s : State) : Host.Outcome State Fault Refusal := .next (streamInactivityTimeoutF s)

/-- `LOAD_FALLBACK_DECISION` (R207, R225): a paused load continues on the fallback clock with `clk_fb`, else it fails. -/
def loadFallbackDecisionF (s : State) : State :=
  match s.cfg.session with
  | some x =>
    if !s.cfg.decision ∨ !x.paused then s
    else if hClkFb x.hdr then
      raise 0x2907 (sessMod (fun x => { x with paused := false, onFallback := true }) (s.onCfg (fun c => { c with decision := false })))
    else loadFail rcTruncated s
  | none => s
def execLoadFallbackDecision (s : State) : Host.Outcome State Fault Refusal := .next (loadFallbackDecisionF s)

/-- `CFG_STREAM_DATA` (R184, `CFG_STREAM_CTRL`, `CFG_STREAM_STATUS`): a word for the FIFO; with no room it is dropped and the open session of
transport 3 fails. -/
def cfgStreamDataF (w : Word) (s : State) : State :=
  let p := s.cfg.port
  if !p.isOpen then s
  else if p.fifo.length < 1024 then s.onCfg (fun c => { c with port := { c.port with fifo := c.port.fifo ++ [w] } })
  else
    let s := s.onCfg (fun c => { c with port := { c.port with overrun := true } })
    match s.openSess with | some x => if x.owner.t = .stream ∧ !x.verified then loadFail rcCheckFail s else s | none => s
def execCfgStreamData (w : Word) (s : State) : Host.Outcome State Fault Refusal := .next (cfgStreamDataF w s)

/-- `CFG_STREAM_ABORT` (`CFG_STREAM_CTRL.abort`, R54, R55). -/
def cfgStreamAbortF (s : State) : State :=
  let s := (s.onCfg (fun c => { c with port := { c.port with fifo := [] } })).onMgr (fun m => { m with stream := { m.stream with rx := [] } })
  match s.openSess with
  | some x => if x.owner.t = .stream ∧ x.early s then sessionRollback s else s
  | none => s
def execCfgStreamAbort (s : State) : Host.Outcome State Fault Refusal := .next (cfgStreamAbortF s)

/-- The snapshot of R229: the Q of every flip-flop of the named sectors, all at one instant. -/
def snapshot (secs : List Nat) (trig : Nat) (s : State) : State :=
  let m := secs.foldl (fun m n => (List.range 32768).foldl (fun m f =>
    let x := n % 192 % 16 * 32 + f / 16 % 32; let y := n % 192 / 16 * 64 + f / 512
    sput false m (n * 32768 + f) (s.val (.q (n / 192) x y (f % 16 / 2) (f % 2)))) m) s.cfg.capCells
  let s := s.onCfg (fun c => { c with capCells := m })
  s.each secs (fun n t => t.secAtMod n (fun x => { x with capValid := true, capTrig := BitVec.ofNat 2 trig, capPos := wd t.clk.pos.toNat }))

/-- A waiting CAPTURE takes its snapshot and replies (R228, R229). -/
def captureTake (k : Capture) (s : State) : State :=
  let s := s.onCfg (fun c => { c with captures := c.captures.filter (fun x => x.cmd != k.cmd) })
  let s := snapshot ((maskSecs k.mask).map (fun i => k.die.val * 192 + i)) (fld k.p7 31 30) s
  match s.findCmd k.cmd with | some c => finish c rcOk [] s | none => s

/-- A sector is named by an open region (R48, R224). -/
def State.inRegion (s : State) (n : Nat) : Bool := (List.range 16).any (fun r => (s.regionAt r).has n)

/-- `CAPTURE` (R42, R224, R228, R229): at execution, or held for its trigger. -/
def captureF (id : CmdId) (s : State) : State :=
  startCmd id 0x30 (fun c s =>
    let die := (c.p 0).toNat; let m := maskOf (c.params.drop 1); let p7 := c.p 7; let trig := fld p7 31 30
    let keys := (maskSecs m).map (fun i => (die - 1) * 192 + i)
    require (1 ≤ s.levelOf c.id.t) rcDenied c (fun s =>
    require (1 ≤ die && die ≤ 4 && m != 0 && trig != 3
      && onlyBits p7 (if trig = 0 then 0 else if trig = 1 then 0x401FFFFF else 0x800000FF)
      && (trig == 0 || s.mode != .held)
      && keys.all (fun n => (s.secAt n).state != .unavailable && !s.underTest n && !s.inRegion n)) rcBadParam c (fun s =>
    require ((s.dieAt die).dstate == 2) rcHwFault c (fun s =>
      let k : Capture := { cmd := c.id, die := Fin.ofNat 4 (die - 1), mask := m, p7 := p7 }
      if trig = 0 then captureTake k s else s.onCfg (fun g => { g with captures := g.captures ++ [k] })) s) s) s) s
def execCapture (c : CmdId) (s : State) : Host.Outcome State Fault Refusal := .next (captureF c s)

/-- `CAPTURE_SNAPSHOT` (R228, R229): the clock edge that a CAPTURE waits for. -/
def captureSnapshotF (s : State) : State :=
  match s.cfg.captures.find? (fun k => fld k.p7 31 30 == 1) with
  | some k => captureTake k s
  | none => s
def execCaptureSnapshot (s : State) : Host.Outcome State Fault Refusal := .next (captureSnapshotF s)

/-- A fabric memory word that a readback reads: its memory, word, data and outcome (R233). -/
def rbWord (c : SecId) (m : MemSel) (w : Nat) (s : State) : BitVec 72 × Nat :=
  match m with
  | .block i => memRead (bit (s.bmCfg (memBm c i)) 0) w (sget {} (s.bmAt (memBm c i)).words w)
  | .deep => let q := s.dmAt c; wordRead w (sget {} q.words (dmPhys q w))

/-- The effect of such a read: a corrected word is written back, and errors are counted, logged and noticed (R122, R123, R233). -/
def rbTouch (c : SecId) (m : MemSel) (w : Nat) (s : State) : State :=
  let (v, oc) := rbWord c m w s
  if oc = 0 then s
  else
    let s := ctlMod c m (ctlErr oc 2 w) s
    let fix : MemWord → MemWord := wordFix w (v, oc)
    let s := match m with
      | .block i => s.bmAtMod (memBm c i) (fun q => { q with words := smod {} q.words w fix })
      | .deep => s.dmAtMod c (fun q => { q with words := smod {} q.words (dmPhys q w) fix })
    s.when (oc == 2) (raiseFrom (c.die.val + 1) (match m with | .block _ => 0x3513 | .deep => 0x3514))

/-- Memory words that a readback unit reads, in order (R230, R232). -/
def unitReads (kind unit : Nat) : List (MemSel × Nat) :=
  if kind = 0 then
    if unit < 512 then []
    else
      let a := (unit - 512) * 1024
      let first := a / 9; let last := (min (a + 1023) 96767) / 9
      (List.range (last + 1 - first)).map (fun i => (MemSel.block (Fin.ofNat 21 ((first + i) / 512)), (first + i) % 512))
  else if kind = 1 then
    if unit < 21 then (List.range 512).map (fun w => (MemSel.block (Fin.ofNat 21 unit), w))
    else (List.range 512).map (fun w => (MemSel.deep, (unit - 21) * 512 + w))
  else []

/-- Byte `pos` of the block memory contents of a sector, in the layout of R190. -/
def bmByte (c : SecId) (pos : Nat) (s : State) : Byte :=
  if 96768 ≤ pos then 0
  else
    let v := (rbWord c (.block (Fin.ofNat 21 (pos / 4608))) (pos % 4608 / 9) s).1
    BitVec.ofNat 8 (fld v (8 * (pos % 9) + 7) (8 * (pos % 9)))

/-- Data words of a readback unit (R190, R230 to R232). -/
def unitData (c : SecId) (kind unit : Nat) (s : State) : List Word :=
  let n := c.key
  if kind = 0 then
    if unit < 440 then (List.range 256).map (fun k => s.frameWord n unit k)
    else if unit < 512 then
      let u := s.sduAt { die := c.die, sec := c.sec, unit := Fin.ofNat 24 ((unit - 440) / 3) }
      bytesWords ((List.range 1024).map (fun j =>
        let p := (unit - 440) % 3 * 1024 + j
        BitVec.ofNat 8 (fld (sget (0 : BitVec 48) u.istore (p / 6)) (8 * (p % 6) + 7) (8 * (p % 6)))))
    else bytesWords ((List.range 1024).map (fun j => bmByte c ((unit - 512) * 1024 + j) s))
  else if kind = 1 then
    if unit < 21 then bytesWords ((List.range 4608).map (fun j => bmByte c (4608 * unit + j) s))
    else (List.range 512).flatMap (fun w => natWords (rbWord c .deep ((unit - 21) * 512 + w) s).1.toNat 2)
  else (List.range 256).map (fun k => bvOf 32 (fun b => sget false s.cfg.capCells (n * 32768 + (unit * 256 + k) * 32 + b)))

/-- Number of units of a readback kind (R230). -/
def unitCount (kind : Nat) : Nat := [607, 85, 4].getD kind 0

/-- Read units in order until one holds an uncorrectable word (R233): data so far, and that word. -/
def readUnits (c : SecId) (kind : Nat) : List Nat → List (List Word) → State → List (List Word) × Option Word × State
  | [], acc, s => (acc, none, s)
  | u :: us, acc, s =>
    let rs := unitReads kind u
    let bad := rs.find? (fun r => (rbWord c r.1 r.2 s).2 == 2)
    let data := unitData c kind u s
    let s := s.each rs (fun r t => rbTouch c r.1 r.2 t)
    match bad with
    | some r =>
      let idx := if kind = 0 then (match r.1 with | .block i => 512 * i.val + r.2 | .deep => r.2) else if u < 21 then r.2 else r.2 % 512
      (acc, some (wd (u * 65536 + idx)), s)
    | none => readUnits c kind us (acc ++ [data]) s

/-- The checks of READBACK, and what follows when they pass (R22, R42, R224, R230, R231). -/
def readbackStart (id : CmdId) (k : Cmd → SecId → Nat → State → State) (s : State) : State :=
  startCmd id 0x31 (fun c s =>
    let die := fld (c.p 0) 2 0; let kind := fld (c.p 0) 9 8; let sec := (c.p 1).toNat; let n := (die - 1) * 192 + sec
    require (1 ≤ s.levelOf c.id.t) rcDenied c (fun s =>
    require (onlyBits (c.p 0) 0x307 && 1 ≤ die && die ≤ 4 && kind != 3 && sec < 192 && (c.p 3) != 0
      && (c.p 2).toNat + (c.p 3).toNat ≤ unitCount kind && !s.underTest n && !s.inRegion n
      && (kind != 2 || (s.secAt n).capValid)) rcBadParam c (fun s =>
    require ((s.dieAt die).dstate == 2 && (s.secAt n).state != .unavailable) rcHwFault c (k c { die := Fin.ofNat 4 (die - 1), sec := Fin.ofNat 192 sec } kind) s) s) s) s

/-- `READBACK` (R230 to R233). -/
def readbackF (id : CmdId) (s : State) : State :=
  readbackStart id (fun c sec kind s =>
    let first := (c.p 2).toNat
    let (data, bad, s) := readUnits sec kind ((List.range (c.p 3).toNat).map (first + ·)) [] s
    match bad with
    | some w => finishAfter c data rcCheckFail [w] s
    | none => finishUnits c data s) s
def execReadback (c : CmdId) (s : State) : Host.Outcome State Fault Refusal := .next (readbackF c s)

/-- `READBACK_TIMEOUT` (R233): the readback that is next to execute reads `units` of its units, and does not complete the next one within 100 ms. The
units read are sent, with their words corrected, counted and noticed; the final reply is TIMEOUT. A readback of no more than `units` units
completes. -/
def readbackTimeoutF (id : CmdId) (units : Nat) (s : State) : State :=
  readbackStart id (fun c sec kind s =>
    let first := (c.p 2).toNat; let n := (c.p 3).toNat
    let (data, bad, s) := readUnits sec kind ((List.range (min units n)).map (first + ·)) [] s
    match bad with
    | some w => finishAfter c data rcCheckFail [w] s
    | none => if units < n then finishAfter c data rcTimeout [] s else finishUnits c data s) s
def execReadbackTimeout (c : LateReadback) (s : State) : Host.Outcome State Fault Refusal := .next (readbackTimeoutF c.cmd c.units s)

end Sys2Proof.Machine
end

