-- ==== Sys2Proof/Machine/Mgr.lean ====
section
/-! DEFINITION. The transports of command packets and the plain commands of class SYS. File 02. -/

namespace Sys2Proof.Machine

/-- Opcodes of the session packets (R48). -/
def sessOps : List Nat := [0x11, 0x12, 0x13, 0x17, 0x18]

/-- How the refusal of a packet acts on an open session of its transport (R497). -/
def refusalActs (id : CmdId) (h : Word) (status : Nat) (s : State) : State :=
  match s.openSess with
  | none => s
  | some x =>
    let kept := status = rcCheckFail ∨ status = rcBusy ∨ status = rcTimeout ∨ (status = rcBadParam ∧ fld h 15 14 = 0)
    if x.owner.t = id.t ∧ sessOps.contains (hdrOp h) ∧ !x.verified ∧ !kept then loadFail status s else s

/-- A complete packet of JTAG, the mailbox, SMBus or the span link meets the acceptance checks (R38, R495, R497). -/
def packetIn (id : CmdId) (count : Nat) (ws : List Word) (s : State) : State :=
  if !s.takesPackets id.t then s
  else
    let s := wakeHub id.t s
    match s.acceptCheck id count ws with
    | none => accept id ws s
    | some st => refusalActs id (wordAt ws 0) st (refuse id (wordAt ws 0) st s)

/-- The name of a packet: its transport, sender and tag. -/
def idOf (t : Transport) (dev : BitVec 12) (h : Word) : CmdId := { t := t, dev := if t = .span then dev else 0, tag := BitVec.ofNat 8 (hdrTag h) }

/-- Words of a packet by its header (R38). -/
def packetLen (h : Word) : Nat := 1 + hdrLen h + b2n (bit h 12)

/-- Take the complete packets at the front of a transport's arriving words. -/
def drainRx (t : Transport) (get : State → List Word) (set : List Word → State → State) : Nat → State → State
  | 0, s => s
  | n + 1, s =>
    match get s with
    | [] => s
    | h :: ws =>
      if (h :: ws).length < packetLen h then s
      else drainRx t get set n (packetIn (idOf t 0 h) (packetLen h) ((h :: ws).take (packetLen h)) (set ((h :: ws).drop (packetLen h)) s))

/-- Next packet of a flash load (R184): erased words and the end of the area truncate it, NOP packets before CFG_BEGIN are skipped, and a first
packet other than CFG_BEGIN fails with BAD_PARAM. MGR reads no further than CFG_END. -/
def flashPacket (img : Image) (s : State) : State :=
  let (port, off, size) := s.flash.areas.getD (if img = .golden then 3 else 2) (0, 0, 0)
  let pos := s.cfg.flashPos
  let w (k : Nat) : Word := flashWord (s.flashOf port) ((off + pos) / 4 + k)
  let h := w 0; let n := packetLen h
  let begun := s.openSess.any (fun x => x.image.isSome)
  let ended := s.openSess.any Session.verified || s.mgr.cmds.any (fun c => c.id.t == .stream && c.op == 0x13)
  if ended then s
  else if size < pos + 4 ∨ h = 0xFFFFFFFF ∨ size < pos + 4 * n then flashLoadFail rcTruncated s
  else if !begun ∧ hdrOp h = 1 then s.onCfg (fun c => { c with flashPos := pos + 4 * n })
  else if !begun ∧ hdrOp h ≠ 0x10 then flashLoadFail rcBadParam s
  else if 16 ≤ s.queued .stream then s
  else
    let ws := (List.range n).map w; let id := idOf .stream 0 h
    match s.acceptCheck id n ws with
    | none => (accept id ws s).onCfg (fun c => { c with flashPos := pos + 4 * n })
    | some st => flashLoadFail st s

/-- Next packet of the stream port (R184, R185, R497): MGR takes the words of the FIFO and parses one packet. A refusal fails the session that
transport 3 has open, but for one of CFG_COMMIT, CFG_REGION_OPEN or CFG_REGION_CLEAR. -/
def portPacket (s : State) : State :=
  let s := (s.onMgr (fun m => { m with stream := { m.stream with rx := m.stream.rx ++ s.cfg.port.fifo } })).onCfg
    (fun c => { c with port := { c.port with fifo := [] } })
  match s.mgr.stream.rx with
  | [] => s
  | h :: ws =>
    let n := packetLen h; let all := h :: ws
    if all.length < n then s
    else
      let s := s.onMgr (fun m => { m with stream := { m.stream with rx := all.drop n } })
      let id := idOf .stream 0 h
      match s.acceptCheck id n (all.take n) with
      | none => accept id (all.take n) s
      | some st => match s.openSess with
        | some x => if x.owner.t = .stream ∧ !x.verified ∧ !([0x14, 0x15, 0x16].contains (hdrOp h)) then loadFail st s else s
        | none => s

/-- `PACKET_ARRIVAL` (R38, R45, R184, R495, R497): a complete packet on a transport. On transport 3 the words are those of the flash image or
of the stream port's FIFO. -/
def packetArrivalF (t : Transport) (dev : BitVec 12) (words : List Word) (s : State) : State :=
  if t = .stream then
    if !s.mgrServes ∨ !s.takesPackets .stream then s
    else match s.cfg.flashLoad with
      | some .warm => s
      | some img => flashPacket img s
      | none => portPacket s
  else packetIn (idOf t dev (wordAt words 0)) words.length words s
def execPacketArrival (t : Transport) (dev : BitVec 12) (words : List Word) (s : State) : Host.Outcome State Fault Refusal :=
  .next (packetArrivalF t dev words s)

/-- `PACKET_TIMEOUT` (R40): the words of a packet on JTAG or SMBus stopped arriving for 100 ms. -/
def packetTimeoutF (t : Transport) (s : State) : State :=
  let rx := match t with | .jtag => s.mgr.jtag.rx | .smbus => s.mgr.smbus.rx | .mailbox | .stream | .span => []
  match rx with
  | [] => s
  | h :: _ =>
    let s := s.onMgr (fun m => if t = .jtag then { m with jtag := { m.jtag with rx := [] } } else { m with smbus := { m.smbus with rx := [] } })
    refuse (idOf t 0 h) h rcTimeout s
def execPacketTimeout (t : Transport) (s : State) : Host.Outcome State Fault Refusal := .next (packetTimeoutF t s)

/-- `MGRCMD_UPDATE_DR` (R40, R47, R495): Update-DR writes the next command word when [32] is set. -/
def mgrcmdUpdateDrF (dr : BitVec 34) (s : State) : State :=
  if !bit dr 32 ∨ !s.takesPackets .jtag then s
  else drainRx .jtag (fun s => s.mgr.jtag.rx) (fun ws s => s.onMgr (fun m => { m with jtag := { m.jtag with rx := ws } })) 1
    ((s.onMgr (fun m => { m with jtag := { m.jtag with rx := m.jtag.rx ++ [wd dr.toNat] } })).onDbg (fun d => { d with ir := 0x32 }))
def execMgrcmdUpdateDr (dr : BitVec 34) (s : State) : Host.Outcome State Fault Refusal := .next (mgrcmdUpdateDrF dr s)

/-- `MGRCMD_CAPTURE_DR` (R39, R40, R47): the next reply word, [32] when it is valid, [33] when the queue has room. -/
def mgrcmdCaptureDrF (s : State) : State :=
  if !s.takesPackets .jtag then s.onMgr (fun m => { m with jtagDr := 0 })
  else
    let room := b2n (decide (s.queued .jtag < 16)) * 2 ^ 33
    match s.mgr.jtag.out with
    | (w :: ws) :: rest => s.onMgr (fun m => { m with
        jtagDr := BitVec.ofNat 34 (room + 2 ^ 32 + w.toNat), jtag := { m.jtag with out := if ws.isEmpty then rest else ws :: rest } })
    | _ => s.onMgr (fun m => { m with jtagDr := BitVec.ofNat 34 room })
def execMgrcmdCaptureDr (s : State) : Host.Outcome State Fault Refusal := .next (mgrcmdCaptureDrF s)

/-- `SMBUS_BLOCK_WRITE` (R47, R494, R495): a byte count of 0, not a multiple of 4 or above 32 is not acknowledged, nor is a wrong PEC, and no byte
of such a block joins a packet. A target that takes no packet acknowledges nothing. -/
def smbusBlockWriteF (count : Nat) (words : List Word) (pecOk : Bool) (s : State) : State :=
  let ack := s.takesPackets .smbus && count != 0 && count % 4 == 0 && decide (count ≤ 32) && pecOk
  let s := s.onMgr (fun m => { m with smbAck := ack })
  if !ack then s
  else drainRx .smbus (fun s => s.mgr.smbus.rx) (fun ws s => s.onMgr (fun m => { m with smbus := { m.smbus with rx := ws } })) 8
    (s.onMgr (fun m => { m with smbus := { m.smbus with rx := m.smbus.rx ++ words.take (count / 4) } }))
def execSmbusBlockWrite (count : Nat) (words : List Word) (pecOk : Bool) (s : State) : Host.Outcome State Fault Refusal :=
  .next (smbusBlockWriteF count words pecOk s)

/-- `SMBUS_BLOCK_READ` (R39, R40): up to 8 words of a reply. -/
def smbusBlockReadF (s : State) : State :=
  if !s.takesPackets .smbus then s
  else match s.mgr.smbus.out with
    | [] => s.onMgr (fun m => { m with smbRead := [] })
    | r :: rest => s.onMgr (fun m => { m with
        smbRead := r.take 8, smbus := { m.smbus with out := if (r.drop 8).isEmpty then rest else r.drop 8 :: rest } })
def execSmbusBlockRead (s : State) : Host.Outcome State Fault Refusal := .next (smbusBlockReadF s)

/-- `SMBUS_READ_BYTE` (R40): bit 0 a reply waits, bit 1 the queue has room. -/
def smbusReadByteF (s : State) : State :=
  if !s.takesPackets .smbus then s
  else s.onMgr (fun m => { m with smbByte := BitVec.ofNat 8 (b2n (!m.smbus.out.isEmpty) + 2 * b2n (decide (s.queued .smbus < 16))) })
def execSmbusReadByte (s : State) : Host.Outcome State Fault Refusal := .next (smbusReadByteF s)

/-- The packet in the command buffer is forwarded over the span link (R43): it counts against the mailbox's queue until its final reply. It meets
the checks of R495 on its words, its tag and the queue; those on its opcode belong to the destination (R319; log 132). One that the route
table cannot send is lost, and keeps its place in the queue (log 130). -/
def mbxForward (dest : BitVec 12) (count : Nat) (ws : List Word) (s : State) : State :=
  let h := wordAt ws 0; let id := idOf .mailbox 0 h
  let bad := match formCheck count ws with
    | some st => some st
    | none => if s.tagTaken id then some rcBadParam else if 16 ≤ s.queued .mailbox then some rcBusy else none
  match bad with
  | some st => refuse id h st s
  | none =>
    let s := s.onMgr (fun m => { m with mbx := { m.mbx with fwd := m.mbx.fwd ++ [(dest, id.tag)] } })
    spanTo dest.toNat (fun ttl => cmdFrames dest.toNat s.devId ttl id.tag.toNat false ws) s

/-- `MBX_SUBMIT` (R38, R43, R47, R495): the packet is copied into MGR's queue; `cmd_free` is clear until the copy is done. -/
def mbxSubmitF (v : Word) (s : State) : State :=
  if !s.mgr.mbx.cmdFree then s.onMgr (fun m => { m with mbx := { m.mbx with overrun := true } })
  else if !s.takesPackets .mailbox then s
  else
    let s := wakeHub .mailbox s
    let n := fld v 12 0
    let ws := (List.range (min n 4097)).map (fun i => sget 0 s.mgr.mbx.cmdBuf i)
    let h := sget 0 s.mgr.mbx.cmdBuf 0
    let s := if ws.isEmpty then refusalActs (idOf .mailbox 0 h) h rcBadLength (refuse (idOf .mailbox 0 h) h rcBadLength s)
      else if bit v 31 then mbxForward (BitVec.ofNat 12 (fld v 27 16)) n ws s
      else packetIn (idOf .mailbox 0 h) n ws s
    s.onMgr (fun m => setCmdFree { m with mbx := { m.mbx with cmdFree := false } })
def execMbxSubmit (v : Word) (s : State) : Host.Outcome State Fault Refusal := .next (mbxSubmitF v s)

/-- `MBX_FLUSH` (`MBX_CTRL.flush`): unsubmitted buffer content and replies not yet read are discarded. -/
def mbxFlushF (s : State) : State :=
  s.onMgr (fun m => { m with mbxOut := [], mbx := { m.mbx with cmdBuf := [], rspBuf := [], rspValid := false } })
def execMbxFlush (s : State) : Host.Outcome State Fault Refusal := .next (mbxFlushF s)

/-- `MBX_RSP_DONE` (R43): the reply buffer is free, and the next reply enters it. -/
def mbxRspDoneF (s : State) : State :=
  mbxPost (s.onMgr (fun m => { m with mbx := { m.mbx with rspBuf := [], rspValid := false } }))
def execMbxRspDone (s : State) : Host.Outcome State Fault Refusal := .next (mbxRspDoneF s)

/-- `NOP` (R50): completes; its parameters are ignored. -/
def nopF (id : CmdId) (s : State) : State := startCmd id 0x01 (fun c => finish c rcOk []) s
def execNop (c : CmdId) (s : State) : Host.Outcome State Fault Refusal := .next (nopF c s)

/-- Words of a GET_STATUS reply (R50). -/
def statusWords (s : State) : List Word :=
  [s.mgrStatus, wd s.noticeCount, (match s.sessOwner with | some x => wd (x.tag.toNat * 256 + x.t.id) | none => 0xFFFFFFFF),
   wd s.ao.fatalCause.toNat]

/-- `GET_STATUS` (R50). -/
def getStatusF (id : CmdId) (s : State) : State := startCmd id 0x02 (fun c s => finish c rcOk (statusWords s) s) s
def execGetStatus (c : CmdId) (s : State) : Host.Outcome State Fault Refusal := .next (getStatusF c s)

/-- Population code of a guest site (R51). -/
def guestCode (x : DieLink) : Nat := if x.terminator then 0 else if x.joinedOnce || x.dstate == 2 then 1 else 0xF

/-- Words of a GET_ID reply (R51). -/
def idWords (s : State) : List Word :=
  [0x1940A5B7, wd (0x9A40A100 + (Config.speedGrade.val + 1) * 16 + b2n Config.tempRange), wd s.devId, wd (guestCode (s.dieAt 5) + 16 * guestCode (s.dieAt 6)), s.fuse 7 0, s.fuse 7 1]

/-- `GET_ID` (R51). -/
def getIdF (id : CmdId) (s : State) : State := startCmd id 0x03 (fun c s => finish c rcOk (idWords s) s) s
def execGetId (c : CmdId) (s : State) : Host.Outcome State Fault Refusal := .next (getIdF c s)

/-- `GET_NOTICES` (R52): the oldest n notices, and the lost-notice entry when it has room after every queued entry. -/
def getNoticesF (id : CmdId) (s : State) : State :=
  startCmd id 0x07 (fun c s =>
    let n := (c.p 0).toNat
    require (1 ≤ n && n ≤ 255) rcBadParam c (fun s =>
      let ns := s.mgr.notices.take n
      let data := ns.flatMap (fun x => [wd (x.rep.toNat * 65536 + x.code.toNat), x.pos])
      let lost := s.mgr.lost != 0 && decide (s.mgr.notices.length < n)
      let tail := if lost then [wd (s.mgr.lost.toNat * 65536 + 0x0FFF), s.mgr.lostPos] else []
      let s := s.onMgr (fun m => { m with notices := m.notices.drop n, lost := if lost then 0 else m.lost, lostPos := if lost then 0 else m.lostPos })
      finish c rcOk (data ++ tail) s) s) s
def execGetNotices (c : CmdId) (s : State) : Host.Outcome State Fault Refusal := .next (getNoticesF c s)

end Sys2Proof.Machine
end

