-- ==== Sys2Proof/Machine/Sdu.lean ====
section
/-! DEFINITION. Sequenced DSP units: datapath, pipeline, loops, streams, switching, debug, fabric-driven mode. File 06. -/

namespace Sys2Proof.Machine

/-- Width of a register by code (R136). -/
def regWidth (code : Nat) : Nat := if code < 8 then 16 else if code < 12 then 11 else if code < 16 then 12 else if code < 20 then 11 else 16

/-- A register of 16 bits or fewer by code (R136). -/
def SduSet.get (q : SduSet) (code : Nat) : BitVec 16 :=
  if code < 0x16 then sget 0 q.r code else if code = 0x16 then q.st else 0

/-- The fields of `st` that software and programs write (R136). -/
def stMask : BitVec 16 := 0x031F

/-- Write a register by code: bits above its width are ignored, and the RO fields of `st` keep their values. -/
def SduSet.put (code : Nat) (v : BitVec 16) (q : SduSet) : SduSet :=
  if code < 0x16 then { q with r := sput 0 q.r code (BitVec.ofNat 16 (v.toNat % 2 ^ regWidth code)) }
  else if code = 0x16 then { q with st := (q.st &&& ~~~stMask) ||| (v &&& stMask) }
  else q

/-- Accumulator of a set. -/
def SduSet.acc (q : SduSet) (d : Bool) : BitVec 40 := if d then q.a1 else q.a0
def SduSet.setAcc (d : Bool) (v : BitVec 40) (q : SduSet) : SduSet := if d then { q with a1 := v } else { q with a0 := v }

/-- Register set n of a unit, and the active one. -/
def Sdu.rset (u : Sdu) (n : Bool) : SduSet := if n then u.set1 else u.set0
def Sdu.onSet (n : Bool) (f : SduSet → SduSet) (u : Sdu) : Sdu := if n then { u with set1 := f u.set1 } else { u with set0 := f u.set0 }
def Sdu.cur (u : Sdu) : SduSet := u.rset u.act

/-- A result narrowed to w bits: clamped when `sat` is set, else wrapped; with its overflow (R134). -/
def narrow (w : Nat) (sat : Bool) (v : Int) : Int × Bool :=
  let hi : Int := 2 ^ (w - 1) - 1; let lo : Int := - 2 ^ (w - 1)
  if lo ≤ v ∧ v ≤ hi then (v, false) else if sat then (if hi < v then hi else lo, true) else (v, true)

/-- A 40-bit accumulator result (R134). -/
def acc40 (sat : Bool) (v : Int) : BitVec 40 × Bool := let r := narrow 40 sat v; (BitVec.ofInt 40 r.1, r.2)

/-- An operand under `sgn` (R132): `first` is the xs operand. -/
def operand {w : Nat} (sgn : Nat) (first : Bool) (v : BitVec w) : Int :=
  let signed := sgn = 0 ∨ (sgn = 2 ∧ first) ∨ (sgn = 3 ∧ !first)
  if signed then v.toInt else v.toNat

/-- The product of a single form as 40 bits, shifted left by one with `shx` (R132). -/
def product (sgn : Nat) (shx : Bool) (x y : BitVec 16) : BitVec 40 :=
  let p := operand sgn true x * operand sgn false y
  BitVec.ofInt 40 (if shx then p * 2 else p)

/-- Lane n of an accumulator (R133). -/
def lane20 (n : Nat) (v : BitVec 40) : BitVec 20 := BitVec.ofNat 20 (v.toNat >>> (20 * n))

/-- The two products of a dual form, one a lane; cross with `shx` (R133). -/
def product2 (sgn : Nat) (cross : Bool) (x y : BitVec 16) : BitVec 40 :=
  let b (v : BitVec 16) (n : Nat) : BitVec 8 := BitVec.ofNat 8 (v.toNat >>> (8 * n))
  let p0 := operand sgn true (b x 0) * operand sgn false (b y (if cross then 1 else 0))
  let p1 := operand sgn true (b x 1) * operand sgn false (b y (if cross then 0 else 1))
  BitVec.ofInt 20 p1 ++ BitVec.ofInt 20 p0

/-- Value of a multiply-class write from the accumulator it lands on (R132 to R134, R144): `mop` 1 MPY, 2 MAC, 3 MSU, 4 MPYD, 5 MACD, 6 MSUD. -/
def mulValue (mop : Nat) (sat : Bool) (acc prod : BitVec 40) : BitVec 40 × Bool :=
  if mop < 4 then acc40 sat (if mop = 1 then prod.toInt else if mop = 2 then acc.toInt + prod.toInt else acc.toInt - prod.toInt)
  else
    let f (n : Nat) : Int × Bool :=
      let a := (lane20 n acc).toInt; let p := (lane20 n prod).toInt
      narrow 20 sat (if mop = 4 then p else if mop = 5 then a + p else a - p)
    (BitVec.ofInt 20 (f 1).1 ++ BitVec.ofInt 20 (f 0).1, (f 0).2 || (f 1).2)

/-- EXT (R135): `v` / 2^sh, rounded, then clamped with `esat` or cut to 16 bits. -/
def extValue (st : BitVec 16) (v : BitVec 40) (sh : Nat) : BitVec 16 :=
  let d : Int := 2 ^ sh; let x := v.toInt
  let fl := x / d; let r := x % d
  let n : Int := if sh = 0 then x else match fld st 1 0 with
    | 0 => fl
    | 1 => (x + 2 ^ (sh - 1)) / d
    | 2 => if 2 * r < d then fl else if d < 2 * r then fl + 1 else if fl % 2 = 0 then fl else fl + 1
    | _ => if x < 0 ∧ r ≠ 0 then fl + 1 else fl
  if bit st 2 then BitVec.ofInt 16 (if 32767 < n then 32767 else if n < -32768 then -32768 else n) else BitVec.ofInt 16 n

/-- Post-modification of a pointer (R141). -/
def postMod (p m l : Nat) : Nat :=
  let mj : Int := (BitVec.ofNat 12 m).toInt
  if l = 0 then (((p : Int) + mj) % 2048).toNat
  else
    let k := ((List.range 12).find? (fun k => l ≤ 2 ^ k)).getD 11
    let b : Int := (p / 2 ^ k * 2 ^ k : Nat); let n : Int := p + mj; let len : Int := (l : Int)
    ((if b + len ≤ n then n - len else if n < b then n + len else n) % 2048).toNat

/-- Slot fields (R147). -/
structure SlotF where
  sop : Nat
  ptr : Nat
  mod : Nat
  pm : Bool
  xreg : Nat
  acc : Bool
  res : Nat
  deriving DecidableEq, Repr, Inhabited

def slotOf (v : Nat) : SlotF :=
  { sop := v / 8192 % 8, ptr := v / 2048 % 4, mod := v / 512 % 4, pm := v / 256 % 2 == 1, xreg := v / 32 % 8, acc := v / 16 % 2 == 1, res := v % 16 }

/-- A slot that reads or writes X or Y. -/
def SlotF.mem (f : SlotF) : Bool := 1 ≤ f.sop && f.sop ≤ 4
def SlotF.isY (f : SlotF) : Bool := f.sop == 2 || f.sop == 4
def SlotF.load (f : SlotF) : Bool := f.sop == 1 || f.sop == 2

/-- x registers that a slot writes. -/
def SlotF.writes (f : SlotF) : List Nat := if f.load then [f.xreg] else if f.sop = 5 then [f.xreg, f.xreg + 1] else []

/-- The unused fields of a slot are zero and its operation is not reserved (R149). -/
def SlotF.ok (f : SlotF) : Bool :=
  f.sop != 7 && f.res == 0 && (f.mem || (f.ptr == 0 && !f.pm)) && (f.mod == 0 || (f.mem && f.pm))
  && (f.mem || f.sop == 5 || f.xreg == 0) && (f.sop == 6 || !f.acc) && (f.sop != 5 || f.xreg % 2 == 0)

/-- The slots of an instruction, in order (R147). -/
def insSlots (i : BitVec 48) : List SlotF :=
  match fld i 47 45 with
  | 0 => [slotOf (fld i 31 16), slotOf (fld i 15 0)]
  | 1 => [slotOf (fld i 15 0)]
  | _ => []

/-- The two slots of a MAC-class instruction go together (R149). -/
def slotsAgree (a b : SlotF) : Bool :=
  !(a.mem && b.mem && a.isY == b.isY) && !(a.sop == 5 && b.sop == 5) && !(a.sop == 6 && b.sop == 6)
  && !(a.mem && a.pm && b.mem && b.pm && a.ptr == b.ptr) && !a.writes.any (fun x => b.writes.contains x)

/-- Bits [39:26] that an ALU operation uses (R148). -/
def aluUsed (aop : Nat) : Nat :=
  let ad := 2 ^ 13; let as := 2 ^ 12; let xr := 7 * 2 ^ 9; let xs := 7 * 2 ^ 6; let imm := 63
  match aop with
  | 0 => 0 | 1 => ad | 2 | 3 | 4 | 5 | 0xA | 0xB => ad + as | 6 => ad + as + imm | 7 | 8 => ad + xr + imm | 9 => as + xr + imm
  | 0xC | 0xD => ad | 0xE => as | 0xF => xr + xs | _ => 31 * 2 ^ 7 + 31

/-- Codes that LDI and MOVR may write, and that MOVR may read (R136). -/
def dstCode (c : Nat) : Bool := c < 0x14 || c == 0x16
def srcCode (c : Nat) : Bool := c ≤ 0x16

/-- Start and end of a loop level, and whether it is active (R150). -/
def SduSet.lact (q : SduSet) (lvl : Nat) : Bool := bit q.st (12 + lvl)
def SduSet.loopOf (q : SduSet) (lvl : Nat) : Nat × Nat := let l := if lvl = 1 then q.loop1 else q.loop0; (l.1.toNat, l.2.toNat)
def SduSet.endsAt (q : SduSet) (a : Nat) : Bool := (q.lact 0 && (q.loopOf 0).2 == a) || (q.lact 1 && (q.loopOf 1).2 == a)

/-- A control-class instruction at address `a` is legal (R149 to R152). -/
def controlOk (u : Sdu) (i : BitVec 48) (a : Nat) : Bool :=
  let q := u.cur; let cop := fld i 44 41; let addr := fld i 36 28; let lvl := fld i 27 27
  u.branch.isNone && !q.endsAt a && fld i 22 16 == 0 &&
  (match cop with
  | 0 => fld i 40 37 < 12 && fld i 27 23 == 0 && fld i 15 0 == 0 && !q.endsAt (a + 1)
  | 1 => fld i 40 37 == 0 && (bit i 26 || fld i 25 23 == 0) && (!bit i 26 || fld i 15 0 == 0) && a + 1 ≤ addr && !q.lact lvl
         && (lvl == 0 || (q.lact 0 && (q.loopOf 0).1 ≤ a && a ≤ (q.loopOf 0).2 && addr < (q.loopOf 0).2))
  | 2 | 3 => fld i 40 16 == 0 && fld i 15 0 == 0
  | _ => false)

/-- The instruction at address `a` is legal (R149). -/
def insLegal (u : Sdu) (i : BitVec 48) (a : Nat) : Bool :=
  let slots := insSlots i
  slots.all SlotF.ok &&
  (match fld i 47 45 with
  | 0 => fld i 44 42 != 7 && (fld i 44 42 != 0 || fld i 41 32 == 0) && slotsAgree (slotOf (fld i 31 16)) (slotOf (fld i 15 0))
  | 1 =>
    let aop := fld i 44 40; let f := fld i 39 26
    aop ≤ 0x10 && (f &&& aluUsed aop) == f && fld i 25 16 == 0
    && (!(aop == 7 || aop == 8 || aop == 9) || fld i 31 26 ≤ 24) && (aop != 0x10 || (dstCode (fld i 37 33) && srcCode (fld i 30 26)))
  | 2 => fld i 39 16 == 0 && dstCode (fld i 44 40)
  | 3 => controlOk u i a
  | _ => false)

/-- The outcome of reading the stored word `w` of X or Y at address `req` (R114, R139): 0 good, 1 corrected, 2 uncorrectable. -/
def xyOutcome (req : BitVec 11) (w : XyWord) : Nat :=
  let k := ones (req ^^^ w.addr)
  if k = 0 then (match ones w.flip with | 0 => 0 | 1 => 1 | 2 => 2 | _ => Config.eccOutcome (w.flip.setWidth 8) % 3)
  else if k % 2 = 1 ∨ k = 2 then 2 else Config.eccAddr ((req ^^^ w.addr).setWidth 15) (w.flip.setWidth 8) % 3

/-- A word of X or Y as read: value and outcome (R119, R122, R139). One bit in error gives the data; what else is reported corrected gives what the
decoder makes of it. -/
def xyRead (k : Nat) (w : XyWord) : BitVec 16 × Nat :=
  let req := BitVec.ofNat 11 k; let oc := xyOutcome req w
  if !w.valid then (0, 0)
  else if oc = 1 then (if req = w.addr ∧ ones w.flip = 1 then w.data else (Config.eccData (w.flip.setWidth 8) (w.data.setWidth 72)).setWidth 16, 1)
  else (w.data ^^^ w.flip.setWidth 16, oc)

/-- Memory Y or X of a unit. -/
def Sdu.xy (u : Sdu) (y : Bool) : Store XyWord := if y then u.y else u.x
def Sdu.setXy (y : Bool) (k : Nat) (w : XyWord) (u : Sdu) : Sdu :=
  let w := { w with addr := BitVec.ofNat 11 k }
  if y then { u with y := sput {} u.y k w } else { u with x := sput {} u.x k w }

/-- A read of X or Y by the unit, a CSR access or the scrubber: a correctable word is corrected and counted (R122, R165). -/
def Sdu.touch (y : Bool) (k : Nat) (u : Sdu) : (BitVec 16 × Nat) × Sdu :=
  let w := sget {} (u.xy y) k; let r := xyRead k w
  (r, if r.2 = 1 then { u.setXy y k { w with data := r.1, flip := 0 } with ceCount := satInc u.ceCount }
      else if r.2 = 2 then { u with ueCount := satInc u.ueCount } else u)

/-- Comparator n matches an access or an instruction (R164): kind 0 instruction, 1 X, 2 Y; `rw` 1 read, 2 write. -/
def Sdu.cmpHit (u : Sdu) (n : Bool) (kind rw addr : Nat) : Bool :=
  let c := if n then u.cmp1 else u.cmp0; let ss := fld c 26 25
  bit c 31 && fld c 30 29 == kind && (kind == 0 || (fld c 28 27 &&& rw) != 0)
  && (ss == 0 || (ss == 1 && !u.act) || (ss == 2 && u.act)) && (if kind = 0 then fld c 8 0 else fld c 10 0) == addr

/-- Record the hits of both comparators: the flags, whether an event is raised, and whether one of them halts. -/
def Sdu.compare (kind rw addr : Nat) (u : Sdu) : Sdu × Bool × Bool :=
  let h0 := u.cmpHit false kind rw addr; let h1 := u.cmpHit true kind rw addr
  ({ u with hit0 := u.hit0 || h0, hit1 := u.hit1 || h1 }, h0 || h1, (h0 && !bit u.cmp0 24) || (h1 && !bit u.cmp1 24))

/-- What one slot did beside the unit's own state: a comparator event, and an uncorrectable load (Y, word). -/
structure SlotOut where
  event : Bool := false
  ue : Option (Bool × Nat) := none
  deriving DecidableEq, Repr, Inhabited

/-- Add a write in flight that the active set issues now (R142, R160). -/
def Sdu.fly (left : Nat) (w : Landing) (u : Sdu) : Sdu := { u with flight := u.flight ++ [{ set := u.act, left := left, w := w }] }

/-- One slot operation (R141, R145, R148): registers are those of the set at issue. When both slots of an instruction load uncorrectable words, the
rule does not say which one `SDU_FAULT` names: DESIGN CHOICE, that of slot 2 (log 145). -/
def slotExec (q : SduSet) (f : SlotF) (r : Sdu × SlotOut) : Sdu × SlotOut :=
  let (u, o) := r
  let a := (q.get (8 + f.ptr)).toNat % 2048
  let (u, ev, halts) := if f.mem then u.compare (if f.isY then 2 else 1) (if f.load then 1 else 2) a else (u, false, false)
  let u := { u with haltNext := u.haltNext || halts }
  let o := { o with event := o.event || ev }
  let u := if f.mem ∧ f.pm then
    u.fly 1 (.reg (BitVec.ofNat 5 (8 + f.ptr)) (BitVec.ofNat 16 (postMod a (q.get (12 + f.mod)).toNat (q.get (16 + f.ptr)).toNat))) else u
  match f.sop with
  | 1 | 2 =>
    let (rd, u) := u.touch f.isY a
    if rd.2 = 2 then (u, { o with ue := some (f.isY, a) }) else (u.fly 2 (.reg (BitVec.ofNat 5 f.xreg) rd.1), o)
  | 3 | 4 => (u.setXy f.isY a { data := q.get f.xreg, valid := true, flip := 0 }, o)
  | 5 =>
    let w := u.inF.headD 0
    (({ u with inF := u.inF.tail }.fly 2 (.reg (BitVec.ofNat 5 f.xreg) (BitVec.ofNat 16 w.toNat))).fly 2
      (.reg (BitVec.ofNat 5 (f.xreg + 1)) (BitVec.ofNat 16 (w.toNat / 65536))), o)
  | 6 => ({ u with outF := u.outF ++ [(q.acc f.acc, u.act)] }, o)
  | _ => (u, o)

/-- CASCO writes the cascade register, which lands at the end of the unit's present cycle (R156). -/
def Sdu.cascPut (v : BitVec 40) (u : Sdu) : Sdu :=
  { u with
    casc := v, cascHist := ((u.cyc, v) :: u.cascHist).take 2
    cascOut := match u.cascHist with | [_, e] => e.2 | _ => u.cascOut }

/-- The ALU operation of an instruction (R134, R135, R148). -/
def aluExec (q : SduSet) (cascin : BitVec 40) (i : BitVec 48) (u : Sdu) : Sdu :=
  let d := bit i 39; let src := q.acc (bit i 38); let xr := fld i 37 35; let imm := fld i 31 26
  let sat := bit q.st 3
  let put (v : Int) : Sdu := let r := acc40 sat v; u.fly 1 (.acc d r.1 r.2)
  let x : Int := (q.get xr).toInt
  match fld i 44 40 with
  | 1 => put 0
  | 2 => put src.toInt
  | 3 => put ((q.acc d).toInt + src.toInt)
  | 4 => put ((q.acc d).toInt - src.toInt)
  | 5 => put (- src.toInt)
  | 6 => let sh := (BitVec.ofNat 6 imm).toInt
         put (if 0 ≤ sh then src.toInt * 2 ^ sh.toNat else src.toInt / 2 ^ (-sh).toNat)
  | 7 => put (x * 2 ^ imm)
  | 8 => put ((q.acc d).toInt + x * 2 ^ imm)
  | 9 => u.fly 2 (.reg (BitVec.ofNat 5 xr) (extValue q.st src imm))
  | 0xA => put ((lane20 0 src).toInt + (lane20 1 src).toInt)
  | 0xB => put ((lane20 0 src).toInt - (lane20 1 src).toInt)
  | 0xC => put cascin.toInt
  | 0xD => put ((q.acc d).toInt + cascin.toInt)
  | 0xE => u.cascPut src
  | 0xF => u.fly 1 (.reg (BitVec.ofNat 5 xr) (q.get (fld i 34 32)))
  | 0x10 => u.fly 1 (.reg (BitVec.ofNat 5 (fld i 37 33)) (q.get (fld i 30 26)))
  | _ => u

/-- A write lands in the set that issued it (R134, R160). -/
def land (f : Flight) (u : Sdu) : Sdu :=
  match f.w with
  | .reg c v => u.onSet f.set (SduSet.put c.toNat v)
  | .acc d v ov => u.onSet f.set (fun q => let q := q.setAcc d v; if ov then { q with st := setBit q.st (if d then 9 else 8) true } else q)
  | .mul _ _ _ => u

/-- The end of a slot (R142, R144): writes whose time has come land in issue order; then multiplies that land at the end of the next slot take
their value from the accumulator as it stands now. -/
def endSlot (u : Sdu) : Sdu :=
  let fs := u.flight.map (fun f => { f with left := f.left - 1 })
  let u := (fs.filter (fun f => f.left == 0)).foldl (fun u f => land f u) u
  { u with flight := (fs.filter (fun f => f.left != 0)).map (fun f =>
    match f.w with
    | .mul m d p =>
      if f.left = 1 then
        let r := mulValue m.toNat (bit (u.rset f.set).st 3) ((u.rset f.set).acc d) p
        { f with w := .acc d r.1 r.2 }
      else f
    | _ => f) }

/-- `st` with a loop flag set or cleared, and the loop registers of a level. -/
def SduSet.setLact (lvl : Nat) (b : Bool) (q : SduSet) : SduSet := { q with st := setBit q.st (12 + lvl) b }
def SduSet.setLc (lvl : Nat) (v : Nat) (q : SduSet) : SduSet := { q with r := sput 0 q.r (0x14 + lvl) (BitVec.ofNat 16 v) }
def SduSet.setLoop (lvl st en : Nat) (q : SduSet) : SduSet :=
  let l : BitVec 9 × BitVec 9 := (BitVec.ofNat 9 st, BitVec.ofNat 9 en)
  if lvl = 1 then { q with loop1 := l } else { q with loop0 := l }

/-- The pc after an instruction that is not a control-class one (R150, R152): the branch target after a delay slot, the start of the innermost
loop that ends here while its count is above 1, else the next address. -/
def advancePc (a : Nat) (u : Sdu) : Sdu :=
  let next (n : Nat) (q : SduSet) : SduSet := { q with pc := BitVec.ofNat 9 n }
  match u.branch with
  | some t => { u.onSet u.act (next t.toNat) with branch := none }
  | none =>
    let q := u.cur
    let lvl := if q.lact 1 ∧ (q.loopOf 1).2 = a then 1 else if q.lact 0 ∧ (q.loopOf 0).2 = a then 0 else 2
    if lvl = 2 then u.onSet u.act (next (a + 1))
    else
      let n := (q.get (0x14 + lvl)).toNat
      if 1 < n then u.onSet u.act (fun q => next (q.loopOf lvl).1 (q.setLc lvl (n - 1)))
      else u.onSet u.act (fun q => next (a + 1) (q.setLact lvl false))

/-- Condition of BR (R148). -/
def brCond (u : Sdu) (cond : Nat) : Bool :=
  let q := u.cur; let a0 := q.a0.toInt; let a1 := q.a1.toInt
  match cond with
  | 0 => true | 1 => a0 == 0 | 2 => decide (a0 < 0) | 3 => decide (0 < a0) | 4 => a1 == 0 | 5 => decide (a1 < 0) | 6 => decide (0 < a1)
  | 7 => q.get 0 == 0 | 8 => q.get 0 != 0 | 9 => !u.inF.isEmpty | 10 => decide (u.outF.length < 4) | _ => bit q.st 8 || bit q.st 9

/-- A control-class instruction at address `a` (R150 to R153). -/
def controlExec (i : BitVec 48) (a : Nat) (u : Sdu) : Sdu :=
  let addr := fld i 36 28
  let at_ (n : Nat) (u : Sdu) : Sdu := u.onSet u.act (fun q => { q with pc := BitVec.ofNat 9 n })
  match fld i 44 41 with
  | 0 =>
    if brCond u (fld i 40 37) then
      let out (q : SduSet) (lvl : Nat) : Bool := addr < (q.loopOf lvl).1 || (q.loopOf lvl).2 < addr
      let close (q : SduSet) : SduSet :=
        if q.lact 0 ∧ out q 0 then (q.setLact 0 false).setLact 1 false else if q.lact 1 ∧ out q 1 then q.setLact 1 false else q
      { at_ (a + 1) (u.onSet u.act close) with branch := some (BitVec.ofNat 9 addr) }
    else { at_ (a + 1) u with branch := some (BitVec.ofNat 9 (a + 2)) }
  | 1 =>
    let lvl := fld i 27 27
    let n := if bit i 26 then (u.cur.get (fld i 25 23)).toNat else fld i 15 0
    let u := u.onSet u.act (fun q => (q.setLc lvl n).setLoop lvl (a + 1) addr)
    if n = 0 then { at_ (addr + 1) u with bubble := true } else at_ (a + 1) (u.onSet u.act (SduSet.setLact lvl true))
  | 2 => { at_ (a + 1) u with state := .sleeping }
  | _ => { at_ (a + 1) u with state := .halted, before := .running }

/-- The instruction stalls: IN with an empty FIFO or OUT with a full one (R155). -/
def insStalls (u : Sdu) (i : BitVec 48) : Bool :=
  (insSlots i).any (fun f => (f.sop == 5 && u.inF.isEmpty) || (f.sop == 6 && decide (4 ≤ u.outF.length)))

/-- The writes one instruction puts in flight after the first `n`: where its class field and a slot write one register at one time, the
value that stands afterwards is open (R142, R144, log 116). -/
def Sdu.sameWrites (n : Nat) (i : BitVec 48) (u : Sdu) : Sdu :=
  let new := u.flight.drop n
  { u with flight := u.flight.take n ++ new.map (fun f =>
      match f.w, (new.headD f).w with
      | .reg c v, .reg c' v' =>
        if c = c' ∧ f.left = (new.headD f).left ∧ v ≠ v' then { f with w := .reg c (Config.sameLanding i v' v) } else f
      | _, _ => f) }

/-- One issue slot of a legal instruction at address `a` (R142 to R153). -/
def issueSlot (cascin : BitVec 40) (i : BitVec 48) (a : Nat) (u : Sdu) : Sdu × SlotOut :=
  let q := u.cur
  let n := u.flight.length
  let u := match fld i 47 45 with
    | 0 =>
      let mop := fld i 44 42; let x := q.get (fld i 40 38); let y := q.get (fld i 37 35); let sgn := fld i 34 33
      if mop = 0 then u
      else u.fly 3 (.mul (BitVec.ofNat 3 mop) (bit i 41) (if mop < 4 then product sgn (bit i 32) x y else product2 sgn (bit i 32) x y))
    | 1 => aluExec q cascin i u
    | 2 => u.fly 1 (.reg (BitVec.ofNat 5 (fld i 44 40)) (BitVec.ofNat 16 (fld i 15 0)))
    | _ => u
  let (u, o) := (insSlots i).foldl (fun r f => slotExec q f r) (u, {})
  let u := u.sameWrites n i
  let u := if fld i 47 45 = 3 then controlExec i a u else advancePc a u
  let u := endSlot { u with swWait := u.swWait - 1, skipCmp := false }
  match o.ue with
  | none => (u, o)
  | some (y, w) =>
    ({ u.onSet u.act (fun q => { q with pc := BitVec.ofNat 9 a }) with
        state := .faulted, swPending := false, swWait := 0, branch := none, bubble := false, haltNext := false
        fault := wd ((if y then 3 else 2) * 2 ^ 28 + b2n u.act * 2 ^ 27 + w * 2 ^ 16 + a) }, o)

/-- The sector's DSP clock reaches the unit: the sector runs, is not frozen, its registers are usable, and the die's network clock,
which yields it, has not stopped (R105, R163, R421, R428). -/
def State.sduLive (s : State) (u : SduId) : Bool :=
  let n := u.die.val * 192 + u.sec.val
  (s.secAt n).state == .running && s.clocked n && (s.domAt (4 + u.die.val)).state != .stopped && (s.mode == .glazed || s.mode == .refiring)

/-- The DSP cycle of a unit's next slot (R142, R156): that of the units of its column which have taken theirs, and a new one when it has too
(log 32). -/
def State.nextCyc (s : State) (u : SduId) : Nat :=
  let base := u.key - u.unit.val % 12
  let c := (List.range 12).foldl (fun m i => max m (sget {} s.sdu (base + i)).cyc) 0
  if (s.sduAt u).cyc = c then c + 1 else c

/-- What CASCOUT of a unit shows in DSP cycle c (R156): a CASCO that landed at the end of cycle c - 2 or earlier. -/
def Sdu.cascAt (c : Nat) (q : Sdu) : BitVec 40 :=
  match q.cascHist.find? (fun e => decide (e.1 + 2 ≤ c)) with | some e => e.2 | none => q.cascOut

/-- What CASCIN of a unit carries in DSP cycle c (R156): zero at the sector's south end, FP of a fabric-driven unit below, else its CASCOUT. -/
def State.cascin (s : State) (u : SduId) (c : Nat) : BitVec 40 :=
  if u.unit.val % 12 = 0 then 0
  else
    let b := sget {} s.sdu (u.key - 1)
    if !b.seq then b.fp else b.cascAt c

/-- A comparator event of a unit (R164, R419). -/
def cmpEvent (die : Nat) (s : State) : State :=
  let lines := s.linesWith 4 (fun _ w => bit w (20 + die))
  if lines = 0 then s else fireLines lines true s

/-- Instruction word at an address. -/
def Sdu.ins (u : Sdu) (a : Nat) : BitVec 48 := sget 0 u.istore a

/-- Let a unit that may issue do so once: halts and comparators first, then a bubble slot, an illegal instruction, a stall or an issue slot. A data
comparator that matched in the instruction before halts the unit here, and an instruction comparator may match at the same boundary; a unit that is
stepping records its hits and goes on (R163, R164). -/
def sduSlot (u : SduId) (stepping : Bool) (s : State) : State :=
  let q := s.sduAt u; let a := q.cur.pc.toNat
  let (q1, ev, halts) := if q.skipCmp || q.bubble then (q, false, false) else q.compare 0 0 a
  let s := s.when ev (cmpEvent u.die.val)
  if (halts || q.haltNext) && !stepping then
    s.sduAtMod u (fun _ => { q1 with state := .halted, before := .running, haltNext := false, skipCmp := !q.bubble })
  else
    let c := s.nextCyc u
    let q1 := { q1 with haltNext := false }
    if q1.bubble then s.sduAtMod u (fun _ => endSlot { q1 with bubble := false, cyc := c })
    else if !insLegal q1 (q1.ins a) a then
      raiseFrom (u.die.val + 1) 0x3601 (s.sduAtMod u (fun _ => { q1 with
        state := .faulted, swPending := false, swWait := 0, branch := none, fault := wd (2 ^ 28 + b2n q1.act * 2 ^ 27 + a) }))
    else if insStalls q1 (q1.ins a) then s.sduAtMod u (fun _ => { q1 with state := .stalled, skipCmp := true })
    else
      let (q2, o) := issueSlot (s.cascin u c) (q1.ins a) a { q1 with cyc := c }
      let s := s.sduAtMod u (fun _ => q2)
      let s := s.when o.event (cmpEvent u.die.val)
      s.when o.ue.isSome (raiseFrom (u.die.val + 1) 0x3602)

/-- A pending request may be taken at this boundary (R159). -/
def switchOpen (q : Sdu) : Bool := q.swPending && !bit q.cur.st 4 && q.branch.isNone && !q.bubble

/-- The switch slot (R159): writes in flight advance, and the other set becomes active. -/
def switchSlot (c : Nat) (q : Sdu) : Sdu :=
  { endSlot { q with cyc := c } with act := !q.act, state := .running, swPending := false, swWait := 0, skipCmp := false }

/-- The switch slot of a unit that may take one; a halt that a comparator set for this boundary is applied first, and the request stays pending
(R159, R164). -/
def takeSwitch (u : SduId) (s : State) : State :=
  let q := s.sduAt u
  if q.haltNext && q.state == .running then s.sduAtMod u (fun q => { q with state := .halted, before := .running, haltNext := false })
  else s.sduAtMod u (switchSlot (s.nextCyc u))

/-- Slots that are due before the next instruction: a request that counts as pending is taken at the first boundary that allows it, and a bubble
slot belongs to its LOOP (R150, R158, R159). -/
def dueSlots (u : SduId) (s : State) : State :=
  let s := if (s.sduAt u).state == .running && (s.sduAt u).bubble then sduSlot u false s else s
  let q := s.sduAt u
  if (q.state == .running || q.state == .stalled) && switchOpen q && q.swWait == 0 then takeSwitch u s else s

/-- A command that names an operation: the unit takes its next slot when it runs and the instruction about to issue holds that operation
(log 31). A switch or bubble slot that is due comes first. -/
def issueIf (u : SduId) (p : BitVec 48 → Bool) (s : State) : State :=
  let q := s.sduAt u
  if !s.sduLive u || !q.seq || q.state != .running then s
  else
    let s := dueSlots u (asyncHold s)
    let q := s.sduAt u; let i := q.ins q.cur.pc.toNat
    if q.state == .running && insLegal q i q.cur.pc.toNat && p i then sduSlot u false s else s

/-- Operations an instruction holds (R147). -/
def isMop (n : Nat) (i : BitVec 48) : Bool := fld i 47 45 == 0 && fld i 44 42 == n
def isSop (n : Nat) (i : BitVec 48) : Bool := (insSlots i).any (fun f => f.sop == n)
def isAop (n : Nat) (i : BitVec 48) : Bool := fld i 47 45 == 1 && fld i 44 40 == n
def isCop (n : Nat) (i : BitVec 48) : Bool := fld i 47 45 == 3 && fld i 44 41 == n
def isNop (i : BitVec 48) : Bool := isAop 0 i || (isMop 0 i && (insSlots i).all (fun f => f.sop == 0))

/-- `MPY` (R132, R144). -/
def execMpy (u : SduId) (s : State) : Host.Outcome State Fault Refusal := .next (issueIf u (isMop 1) s)
/-- `MAC` (R132, R144). -/
def execMac (u : SduId) (s : State) : Host.Outcome State Fault Refusal := .next (issueIf u (isMop 2) s)
/-- `MSU` (R132, R144). -/
def execMsu (u : SduId) (s : State) : Host.Outcome State Fault Refusal := .next (issueIf u (isMop 3) s)
/-- `MPYD` (R133). -/
def execMpyd (u : SduId) (s : State) : Host.Outcome State Fault Refusal := .next (issueIf u (isMop 4) s)
/-- `MACD` (R133, R144). -/
def execMacd (u : SduId) (s : State) : Host.Outcome State Fault Refusal := .next (issueIf u (isMop 5) s)
/-- `MSUD` (R133). -/
def execMsud (u : SduId) (s : State) : Host.Outcome State Fault Refusal := .next (issueIf u (isMop 6) s)
/-- `LDX` (R138, R141, R145). -/
def execLdx (u : SduId) (s : State) : Host.Outcome State Fault Refusal := .next (issueIf u (isSop 1) s)
/-- `LDY` (R138, R141, R145). -/
def execLdy (u : SduId) (s : State) : Host.Outcome State Fault Refusal := .next (issueIf u (isSop 2) s)
/-- `STX` (R138, R141, R145). -/
def execStx (u : SduId) (s : State) : Host.Outcome State Fault Refusal := .next (issueIf u (isSop 3) s)
/-- `STY` (R138, R141, R145). -/
def execSty (u : SduId) (s : State) : Host.Outcome State Fault Refusal := .next (issueIf u (isSop 4) s)
/-- `IN` (R148, R155). -/
def execInSlot (u : SduId) (s : State) : Host.Outcome State Fault Refusal := .next (issueIf u (isSop 5) s)
/-- `OUT` (R148, R155). -/
def execOutSlot (u : SduId) (s : State) : Host.Outcome State Fault Refusal := .next (issueIf u (isSop 6) s)
/-- `ALU_NOP` (R148). -/
def execAluNop (u : SduId) (s : State) : Host.Outcome State Fault Refusal := .next (issueIf u isNop s)
/-- `CLR` (R148). -/
def execClr (u : SduId) (s : State) : Host.Outcome State Fault Refusal := .next (issueIf u (isAop 1) s)
/-- `MOVA` (R148). -/
def execMova (u : SduId) (s : State) : Host.Outcome State Fault Refusal := .next (issueIf u (isAop 2) s)
/-- `ADDA` (R134, R148). -/
def execAdda (u : SduId) (s : State) : Host.Outcome State Fault Refusal := .next (issueIf u (isAop 3) s)
/-- `SUBA` (R134, R148). -/
def execSuba (u : SduId) (s : State) : Host.Outcome State Fault Refusal := .next (issueIf u (isAop 4) s)
/-- `NEGA` (R134, R148). -/
def execNega (u : SduId) (s : State) : Host.Outcome State Fault Refusal := .next (issueIf u (isAop 5) s)
/-- `ASH` (R134, R148). -/
def execAsh (u : SduId) (s : State) : Host.Outcome State Fault Refusal := .next (issueIf u (isAop 6) s)
/-- `LDA` (R148). -/
def execLda (u : SduId) (s : State) : Host.Outcome State Fault Refusal := .next (issueIf u (isAop 7) s)
/-- `ADDX` (R134, R148). -/
def execAddx (u : SduId) (s : State) : Host.Outcome State Fault Refusal := .next (issueIf u (isAop 8) s)
/-- `EXT` (R135). -/
def execExt (u : SduId) (s : State) : Host.Outcome State Fault Refusal := .next (issueIf u (isAop 9) s)
/-- `LCOMB` (R148). -/
def execLcomb (u : SduId) (s : State) : Host.Outcome State Fault Refusal := .next (issueIf u (isAop 0xA) s)
/-- `LCOMBS` (R148). -/
def execLcombs (u : SduId) (s : State) : Host.Outcome State Fault Refusal := .next (issueIf u (isAop 0xB) s)
/-- `CASCI` (R148, R156). -/
def execCasci (u : SduId) (s : State) : Host.Outcome State Fault Refusal := .next (issueIf u (isAop 0xC) s)
/-- `CASCA` (R148, R156). -/
def execCasca (u : SduId) (s : State) : Host.Outcome State Fault Refusal := .next (issueIf u (isAop 0xD) s)
/-- `CASCO` (R148, R156). -/
def execCasco (u : SduId) (s : State) : Host.Outcome State Fault Refusal := .next (issueIf u (isAop 0xE) s)
/-- `MOVX` (R148). -/
def execMovx (u : SduId) (s : State) : Host.Outcome State Fault Refusal := .next (issueIf u (isAop 0xF) s)
/-- `MOVR` (R136, R148). -/
def execMovr (u : SduId) (s : State) : Host.Outcome State Fault Refusal := .next (issueIf u (isAop 0x10) s)
/-- `LDI` (R136, R148). -/
def execLdi (u : SduId) (s : State) : Host.Outcome State Fault Refusal := .next (issueIf u (fun i => fld i 47 45 == 2) s)
/-- `BR` (R148, R152). -/
def execBr (u : SduId) (s : State) : Host.Outcome State Fault Refusal := .next (issueIf u (isCop 0) s)
/-- `LOOP` (R150, R151). -/
def execLoopOp (u : SduId) (s : State) : Host.Outcome State Fault Refusal := .next (issueIf u (isCop 1) s)
/-- `SLEEP` (R153). -/
def execSleep (u : SduId) (s : State) : Host.Outcome State Fault Refusal := .next (issueIf u (isCop 2) s)
/-- `HALT` (R153). -/
def execHalt (u : SduId) (s : State) : Host.Outcome State Fault Refusal := .next (issueIf u (isCop 3) s)

/-- `ILLEGAL_INSTRUCTION` (R149, R165): the instruction about to issue is illegal; the unit faults. -/
def illegalInstructionF (u : SduId) (s : State) : State :=
  let q := s.sduAt u
  if !s.sduLive u || !q.seq || q.state != .running then s
  else
    let s := dueSlots u (asyncHold s)
    let q := s.sduAt u
    if q.state == .running && !insLegal q (q.ins q.cur.pc.toNat) q.cur.pc.toNat then sduSlot u false s else s
def execIllegalInstruction (u : SduId) (s : State) : Host.Outcome State Fault Refusal := .next (illegalInstructionF u s)

/-- `SWITCH_SLOT` (R158 to R160). -/
def switchSlotF (u : SduId) (s : State) : State :=
  let q := s.sduAt u
  if s.sduLive u && q.seq && switchOpen q && (q.state == .running || q.state == .stalled || q.state == .sleeping) then takeSwitch u s else s
def execSwitchSlot (u : SduId) (s : State) : Host.Outcome State Fault Refusal := .next (switchSlotF u s)

/-- Post a switch request from source n: 0 SWREQ, 1 calendar, 2 debug (R158): it counts as pending after at most three slots, and one that
comes while one is pending merges into it (log 127). -/
def postSwitch (n : Nat) (q : Sdu) : Sdu :=
  if q.seq && q.swEn.getLsbD n && !q.swPending then { q with swPending := true, swWait := 3 } else q

/-- `SWREQ` (R154, R158): a rising edge of the pin, captured by SCLK. -/
def swreqF (u : SduId) (s : State) : State := if s.sduLive u then s.sduAtMod u (postSwitch 0) else s
def execSwreq (u : SduId) (s : State) : Host.Outcome State Fault Refusal := .next (swreqF u s)

/-- `SDU_STREAM_READY` (R155, R161): an SCLK edge moves a word that is valid on SIN when the input FIFO has room, and one word out of the
output FIFO when SOUT_R is high; a stalled instruction whose stream is ready issues. -/
def sduStreamReadyF (u : SduId) (sin : Option Word) (soutR : Bool) (s : State) : State :=
  if !s.sduLive u || !(s.sduAt u).seq then s
  else
    let s := s.sduAtMod u (fun q => { q with
      inF := (match sin with | some w => if q.inF.length < 4 then q.inF ++ [w] else q.inF | none => q.inF)
      outF := if soutR then q.outF.tail else q.outF })
    let s := if (s.sduAt u).state == .stalled then dueSlots u s else s
    let q := s.sduAt u
    if q.state == .stalled && !insStalls q (q.ins q.cur.pc.toNat) then sduSlot u false (s.sduAtMod u (fun q => { q with state := .running })) else s
def execSduStreamReady (u : SduId) (sin : Option Word) (soutR : Bool) (s : State) : Host.Outcome State Fault Refusal :=
  .next (sduStreamReadyF u sin soutR s)

/-- The highest level that any transport holds (`DBG_AUTH.level`, R413). -/
def State.authLevel (s : State) : Nat := ((List.range 5).map (fun t => (sget 0 s.dbg.level t).toNat)).foldl max 0

/-- A write of `SDU_CTRL` that acts (R33, R157, R161, R415): in fabric-driven mode it is ignored and `wr_ign` sets; a debug field without the
level likewise. -/
def sduCtrl (u : SduId) (debug : Bool) (f : Sdu → Sdu) (s : State) : State :=
  if !s.areaOpen u.sk then s
  else if !(s.sduAt u).seq ∨ (debug ∧ s.authLevel = 0) then s.sduAtMod u (fun q => { q with wrIgn := true })
  else s.sduAtMod u f

/-- `run` (R161). -/
def sduRun (q : Sdu) : Sdu := if q.state = .stopped then { q with state := .running } else q
/-- `stop` (R161, R162): writes in flight are discarded and `SDU_FAULT` cleared; the FIFOs stand. -/
def sduStop (q : Sdu) : Sdu :=
  if q.state = .stopped then q
  else { q with state := .stopped, flight := [], branch := none, bubble := false, haltNext := false, skipCmp := false, fault := 0 }
/-- `resume` (R161): the stall is tested again. -/
def sduResume (q : Sdu) : Sdu :=
  if q.state ≠ .halted then q
  else if q.before = .stalled ∧ !insStalls q (q.ins q.cur.pc.toNat) then { q with state := .running } else { q with state := q.before }

/-- `SDU_RUN` (R161). -/
def sduRunF (u : SduId) (s : State) : State := sduCtrl u false sduRun s
def execSduRun (u : SduId) (s : State) : Host.Outcome State Fault Refusal := .next (sduRunF u s)
/-- `SDU_STOP` (R161, R162). -/
def sduStopF (u : SduId) (s : State) : State := sduCtrl u false sduStop s
def execSduStop (u : SduId) (s : State) : Host.Outcome State Fault Refusal := .next (sduStopF u s)
/-- `SDU_HALT` (R161, R163). -/
def sduHaltF (u : SduId) (s : State) : State := sduCtrl u true sduHaltUnit s
def execSduHalt (u : SduId) (s : State) : Host.Outcome State Fault Refusal := .next (sduHaltF u s)
/-- `SDU_RESUME` (R161). -/
def sduResumeF (u : SduId) (s : State) : State := sduCtrl u true sduResume s
def execSduResume (u : SduId) (s : State) : Host.Outcome State Fault Refusal := .next (sduResumeF u s)

/-- One slot of a halted unit, which stays Halted unless it faults (R161, R163); a data comparator that matches in it has no instruction left to halt
before (R164). -/
def stepUnit (u : SduId) (s : State) : State :=
  let q := s.sduAt u
  if q.state ≠ .halted ∨ !s.sduLive u then s
  else if switchOpen q then s.sduAtMod u (fun q => { switchSlot (s.nextCyc u) q with state := .halted, before := .running })
  else if q.before = .sleeping then s
  else
    let s := (sduSlot u true (s.sduAtMod u (fun q => { q with state := .running }))).sduAtMod u (fun q => { q with haltNext := false })
    s.sduAtMod u (fun q => match q.state with
      | .running => { q with state := .halted, before := .running }
      | .stalled => { q with state := .halted, before := .stalled }
      | .sleeping => { q with state := .halted, before := .sleeping }
      | .stopped | .halted | .faulted => q)

/-- `SDU_STEP` (R161, R163, R415). -/
def sduStepF (u : SduId) (s : State) : State :=
  let s := sduCtrl u true id s
  if s.areaOpen u.sk && (s.sduAt u).seq && s.authLevel != 0 then stepUnit u s else s
def execSduStep (u : SduId) (s : State) : Host.Outcome State Fault Refusal := .next (sduStepF u s)

/-- `SDU_SWREQ` (R158, R415). -/
def sduSwreqF (u : SduId) (s : State) : State := sduCtrl u true (postSwitch 2) s
def execSduSwreq (u : SduId) (s : State) : Host.Outcome State Fault Refusal := .next (sduSwreqF u s)

/-- A CSR write to a register of a set (R136). -/
def setWrite (code : Nat) (w : Word) (q : SduSet) : SduSet :=
  match code with
  | 0x17 => { q with pc := BitVec.ofNat 9 w.toNat }
  | 0x18 => { q with loop0 := (BitVec.ofNat 9 (fld w 8 0), BitVec.ofNat 9 (fld w 24 16)) }
  | 0x19 => { q with loop1 := (BitVec.ofNat 9 (fld w 8 0), BitVec.ofNat 9 (fld w 24 16)) }
  | 0x1A => { q with a0 := setFld q.a0 31 0 w.toNat }
  | 0x1B => { q with a0 := setFld q.a0 39 32 w.toNat }
  | 0x1C => { q with a1 := setFld q.a1 31 0 w.toNat }
  | 0x1D => { q with a1 := setFld q.a1 39 32 w.toNat }
  | _ => q.put code (BitVec.ofNat 16 w.toNat)

/-- A register of a set as a CSR read gives it (R136). -/
def setRead (code : Nat) (q : SduSet) : Word :=
  match code with
  | 0x17 => wd q.pc.toNat
  | 0x18 => wd (q.loop0.1.toNat + q.loop0.2.toNat * 65536)
  | 0x19 => wd (q.loop1.1.toNat + q.loop1.2.toNat * 65536)
  | 0x1A => wd q.a0.toNat | 0x1B => wd (q.a0.toNat / 2 ^ 32) | 0x1C => wd q.a1.toNat | 0x1D => wd (q.a1.toNat / 2 ^ 32)
  | _ => wd (q.get code).toNat

/-- `SDU_REG_WRITE` (R33, R136, R137, R415): the active set takes a write only while a sequenced unit is Stopped, Halted or Faulted (the state of a
fabric-driven one is 0x6, R157), and at debug level 1 or above. -/
def sduRegWriteF (u : SduId) (set : Bool) (code : BitVec 5) (w : Word) (s : State) : State :=
  let q := s.sduAt u
  if !s.areaOpen u.sk then s
  else if set = q.act ∧ (!(q.seq && (q.state == .stopped || q.state == .halted || q.state == .faulted)) ∨ s.authLevel = 0) then
    s.sduAtMod u (fun q => { q with wrIgn := true })
  else s.sduAtMod u (fun q => q.onSet set (setWrite code.toNat w))
def execSduRegWrite (u : SduId) (set : Bool) (code : BitVec 5) (w : Word) (s : State) : Host.Outcome State Fault Refusal :=
  .next (sduRegWriteF u set code w s)

/-- `SDU_ISTORE_WRITE` (R162, file 06 Registers): taken while the unit is Stopped or Halted. -/
def sduIstoreWriteF (u : SduId) (n : BitVec 9) (hi : Bool) (w : Word) (s : State) : State :=
  let q := s.sduAt u
  let f (i : BitVec 48) : BitVec 48 := if hi then setFld i 47 32 w.toNat else setFld i 31 0 w.toNat
  if !s.areaOpen u.sk then s
  else if q.seq ∧ (q.state = .stopped ∨ q.state = .halted) then s.sduAtMod u (fun q => { q with istore := smod 0 q.istore n.toNat f })
  else s.sduAtMod u (fun q => { q with wrIgn := true })
def execSduIstoreWrite (u : SduId) (n : BitVec 9) (hi : Bool) (w : Word) (s : State) : Host.Outcome State Fault Refusal :=
  .next (sduIstoreWriteF u n hi w s)

/-- A CSR write of one 16-bit word of X or Y under its two byte enables: a narrower write merges (R139). An uncorrectable word refuses a
narrow write, as R118 has it (log 33). -/
def xyWrite (y : Bool) (k : Nat) (be : Nat) (v : BitVec 16) (u : Sdu) : Sdu × Bool :=
  if be = 0 then (u, false)
  else if be = 3 then (u.setXy y k { data := v, valid := true, flip := 0 }, false)
  else
    let (r, u) := u.touch y k
    if r.2 = 2 then (u, true)
    else
      let d := if be = 1 then setFld r.1 7 0 v.toNat else setFld r.1 15 8 (v.toNat / 256)
      (u.setXy y k { data := d, valid := true, flip := 0 }, false)

/-- A CSR access to words 2k and 2k + 1 of X or Y: the word read, whether it is poisoned, and the state (R138 to R140, R165). -/
def xyAccess (u : SduId) (y : Bool) (pair : Nat) (write : Option Word) (be : BitVec 4) (s : State) : (Word × Bool) × State :=
  if !s.areaOpen u.sk then ((0, false), s)
  else
    let q := s.sduAt u
    match write with
    | some w =>
      let (q, b0) := xyWrite y (2 * pair) (fld be 1 0) (BitVec.ofNat 16 w.toNat) q
      let (q, b1) := xyWrite y (2 * pair + 1) (fld be 3 2) (BitVec.ofNat 16 (w.toNat / 65536)) q
      ((0, false), (s.sduAtMod u (fun _ => q)).when (b0 || b1) (raiseFrom (u.die.val + 1) 0x3602))
    | none =>
      let (r0, q) := q.touch y (2 * pair)
      let (r1, q) := q.touch y (2 * pair + 1)
      let bad := r0.2 == 2 || r1.2 == 2
      ((wd (r0.1.toNat + r1.1.toNat * 65536), bad), (s.sduAtMod u (fun _ => q)).when bad (raiseFrom (u.die.val + 1) 0x3602))

/-- `SDU_XY_CSR_ACCESS` (R140): served in a free cycle, or in the one-cycle stall after 16 cycles; the stall makes no slot, so the effect is
the same. A poisoned read returns no word. -/
def sduXyCsrAccessF (u : SduId) (y : Bool) (pair : BitVec 10) (write : Option Word) (be : BitVec 4) (s : State) : State :=
  let (r, s) := xyAccess u y pair.toNat write be s
  if write.isNone ∧ !r.2 then { s with readOut := r.1 } else s
def execSduXyCsrAccess (u : SduId) (y : Bool) (pair : BitVec 10) (write : Option Word) (be : BitVec 4) (free : Bool) (s : State) :
    Host.Outcome State Fault Refusal := .next (if free then sduXyCsrAccessF u y pair write be s else sduXyCsrAccessF u y pair write be s)

/-- Scrub step of X or Y of a unit, in a DSP cycle in which nothing else uses the memory (R122, R139): the next valid word is read, corrected when it can
be, and counted; an uncorrectable one raises 0x3602 (log 144). -/
def scrubXy (u : SduId) (y : Bool) (s : State) : State :=
  if !s.sduLive u then s
  else
    let q := s.sduAt u
    let next (p : Nat) := (q.xy y).find? (fun e => e.2.valid && decide (p ≤ e.1))
    let pos := if y then q.scrubY else q.scrubX
    let set (n : Nat) (q : Sdu) : Sdu := if y then { q with scrubY := n } else { q with scrubX := n }
    match (match next pos with | some e => some e | none => next 0) with
    | none => s
    | some (k, _) =>
      let (r, q) := q.touch y k
      (s.sduAtMod u (fun _ => set (k + 1) q)).when (r.2 == 2) (raiseFrom (u.die.val + 1) 0x3602)

/-- `MEM_SCRUB_STEP` (R122, R124, R139): an idle cycle of a memory. -/
def memScrubStepF (c : SecId) (m : ScrubSel) (s : State) : State :=
  match m with
  | .mem m => memIdle c m s
  | .xy u y => scrubXy { die := c.die, sec := c.sec, unit := u } y s
def execMemScrubStep (c : SecId) (m : ScrubSel) (s : State) : Host.Outcome State Fault Refusal := .next (memScrubStepF c m s)

/-- A read of `SDU_ECC` (R11): both counts; an ordinary read clears them. -/
def sduEccRead (u : SduId) (insp : Bool) (s : State) : Word × State :=
  let q := s.sduAt u
  (wd (q.ueCount.toNat * 65536 + q.ceCount.toNat), if insp then s else s.sduAtMod u (fun q => { q with ceCount := 0, ueCount := 0 }))
/-- `SDU_ECC` (R11, R33). -/
def execSduEcc (u : SduId) (insp : Bool) (s : State) : Host.Outcome State Fault Refusal :=
  .next (if s.areaOpen u.sk then State.readTo (sduEccRead u insp s) else { s with readOut := 0 })

/-- A fabric-driven operation presented with FCE high at an FCLK edge (R157): the accumulator is written, and FP shows each result three edges
later. -/
def fdOp (u : SduId) (fop : Nat) (fa fb : BitVec 16) (acc : Bool) (sgn : BitVec 2) (s : State) : State :=
  let q := s.sduAt u
  if !s.sduLive u || q.seq then s
  else
    let a := if acc then q.fd1 else q.fd0
    let p := product sgn.toNat false fa fb
    let v : BitVec 40 := match fop with
      | 0 => a
      | 1 | 2 | 3 => (mulValue fop q.fdAsat a p).1
      | 4 | 5 => (mulValue fop q.fdAsat a (product2 sgn.toNat false fa fb)).1
      | 6 => (acc40 q.fdAsat ((s.cascin u (s.nextCyc u)).toInt + p.toInt)).1
      | _ => 0
    s.sduAtMod u (fun q => { q with
      fd0 := if acc then q.fd0 else v, fd1 := if acc then v else q.fd1, fp := (q.fdPipe.getD 2 none).getD q.fp, fdPipe := (some v :: q.fdPipe).take 3, fdNew := true })

/-- `FD_HOLD` (R157). -/
def execFdHold (u : SduId) (fa fb : BitVec 16) (acc : Bool) (sgn : BitVec 2) (s : State) : Host.Outcome State Fault Refusal := .next (fdOp u 0 fa fb acc sgn s)
/-- `FD_MPY` (R157). -/
def execFdMpy (u : SduId) (fa fb : BitVec 16) (acc : Bool) (sgn : BitVec 2) (s : State) : Host.Outcome State Fault Refusal := .next (fdOp u 1 fa fb acc sgn s)
/-- `FD_MAC` (R157). -/
def execFdMac (u : SduId) (fa fb : BitVec 16) (acc : Bool) (sgn : BitVec 2) (s : State) : Host.Outcome State Fault Refusal := .next (fdOp u 2 fa fb acc sgn s)
/-- `FD_MSU` (R157). -/
def execFdMsu (u : SduId) (fa fb : BitVec 16) (acc : Bool) (sgn : BitVec 2) (s : State) : Host.Outcome State Fault Refusal := .next (fdOp u 3 fa fb acc sgn s)
/-- `FD_MPYD` (R157). -/
def execFdMpyd (u : SduId) (fa fb : BitVec 16) (acc : Bool) (sgn : BitVec 2) (s : State) : Host.Outcome State Fault Refusal := .next (fdOp u 4 fa fb acc sgn s)
/-- `FD_MACD` (R157). -/
def execFdMacd (u : SduId) (fa fb : BitVec 16) (acc : Bool) (sgn : BitVec 2) (s : State) : Host.Outcome State Fault Refusal := .next (fdOp u 5 fa fb acc sgn s)
/-- `FD_CASCADE_MAC` (R157). -/
def execFdCascadeMac (u : SduId) (fa fb : BitVec 16) (acc : Bool) (sgn : BitVec 2) (s : State) : Host.Outcome State Fault Refusal := .next (fdOp u 6 fa fb acc sgn s)
/-- `FD_CLEAR` (R157). -/
def execFdClear (u : SduId) (fa fb : BitVec 16) (acc : Bool) (sgn : BitVec 2) (s : State) : Host.Outcome State Fault Refusal := .next (fdOp u 7 fa fb acc sgn s)

end Sys2Proof.Machine
end

