-- ==== Sys2Proof/Machine/Io.lean ====
section
/-! DEFINITION. User I/O banks and pins: supply loss and return, calibrated delay, slips, and what a pad shows in each mode. File 07. -/

namespace Sys2Proof.Machine

/-- The bank takes a tap size, and the targets of its pins follow (R175). -/
def takeTap (die b : Nat) (q : BitVec 16) (s : State) : State :=
  if (s.bankAt (die * 6 + b)).calEn then
    (s.bankAtMod (die * 6 + b) (fun x => { x with tapQ := q })).each (List.range 48) (clampCheck die b)
  else s

/-- `IO_TAP_MEASURE` (R175): the measurement period expires. -/
def ioTapMeasureF (die : Fin 4) (b : Fin 6) (tapQ : BitVec 16) (s : State) : State := takeTap die.val b.val tapQ s
def execIoTapMeasure (die : Fin 4) (bank : Fin 6) (tapQ : BitVec 16) (s : State) : Host.Outcome State Fault Refusal :=
  .next (ioTapMeasureF die bank tapQ s)

/-- `IO_TAP_MOVE` (R176): the applied tap count moves one tap toward its target. -/
def ioTapMoveF (q : PinId) (s : State) : State :=
  let t := ((s.pinAt q).target (s.bankAt (q.die.val * 6 + q.bank.val)).tapQ).1
  s.pinAtMod q (fun p => { p with taps := if p.taps.toNat < t then p.taps + 1 else if t < p.taps.toNat then p.taps - 1 else p.taps })
def execIoTapMove (p : PinId) (s : State) : Host.Outcome State Fault Refusal := .next (ioTapMoveF p s)

/-- `IO_PIN_DLY_WRITE` (R175, R180): a new delay; ignored while the bank is frozen. -/
def ioPinDlyWriteF (q : PinId) (w : Word) (s : State) : State :=
  if (s.bankAt (q.die.val * 6 + q.bank.val)).frozen then s
  else clampCheck q.die.val q.bank.val q.pin.val (s.pinAtMod q (fun p => { p with cal := bit w 31, dly := BitVec.ofNat 11 (fld w 10 0) }))
def execIoPinDlyWrite (p : PinId) (w : Word) (s : State) : Host.Outcome State Fault Refusal := .next (ioPinDlyWriteF p w s)

/-- `VCCIO_LOST` (R182): the supply of a bank leaves its range; a configured bank sets `lost` and raises 0x3701. -/
def vccioLostF (die : Fin 4) (b : Fin 6) (s : State) : State :=
  let n := die.val * 6 + b.val
  let q := s.bankAt n
  if q.meas = 7 then s
  else
    let on := q.enabled && s.bankConfigured die.val b.val
    let s := s.bankAtMod n (fun q => { q with meas := 7, vok := false, lost := q.lost || on })
    s.when on (raiseFrom (die.val + 1) 0x3701)
def execVccioLost (die : Fin 4) (bank : Fin 6) (s : State) : Host.Outcome State Fault Refusal := .next (vccioLostF die bank s)

/-- VOK of a bank rises (R182): its outputs drive from the next edge of their cell clock. -/
def vokRise (n : Nat) (s : State) : State :=
  (s.bankAtMod n (fun q => { q with vok := true })).each (List.range 48) (fun i t =>
    { t with pin := smod {} t.pin (n * 48 + i) (fun p => { p with vokWait := true }) })

/-- `VCCIO_RESTORED` (R169, R182): the supply is measured at code `meas`. A bank in use that matches completes one calibration and VOK
rises; a configured one that does not match stays in the safe state with `mismatch` and raises 0x3702. -/
def vccioRestoredF (die : Fin 4) (b : Fin 6) (meas : BitVec 3) (tapQ : BitVec 16) (s : State) : State :=
  let n := die.val * 6 + b.val
  let s := s.bankAtMod n (fun q => { q with meas := meas })
  if !(s.bankAt n).enabled then s
  else if meas.toNat = (s.bankAt n).vccioCode.toNat then (if (s.bankAt n).vok then s else vokRise n (takeTap die.val b.val tapQ s))
  else
    let bad := s.bankConfigured die.val b.val
    (s.bankAtMod n (fun q => { q with vok := false, mismatch := q.mismatch || bad })).when bad (raiseFrom (die.val + 1) 0x3702)
def execVccioRestored (die : Fin 4) (bank : Fin 6) (meas : BitVec 3) (tapQ : BitVec 16) (s : State) : Host.Outcome State Fault Refusal :=
  .next (vccioRestoredF die bank meas tapQ s)

/-- `ISLIP` (R173): ISLIP is high at the next edge of the cell clock of a gearbox input. -/
def islipF (q : PinId) (s : State) : State :=
  let p := s.pinAt q
  if (p.imode = 3 ∨ p.imode = 4) ∧ !p.isN q.pin.val then s.pinAtMod q (fun p => { p with islip := true }) else s
def execIslip (p : PinId) (s : State) : Host.Outcome State Fault Refusal := .next (islipF p s)

/-- What a pad shows: the levels it is driven to in the present cycle of its cell clock, earliest first, none where it is high-impedance (R171, R173);
the pull in effect; and the level that a keeper holds, the last one seen on the pad (R177). -/
structure PadState where
  wave : List (Option Bool)
  pull : Nat
  keep : Bool := false
  deriving DecidableEq, Repr, Inhabited

/-- The level a pad is driven to at the end of the cycle, none when it is high-impedance. -/
def PadState.drive (p : PadState) : Option Bool := p.wave.getLastD none

/-- The settings pull of a bank (R72, R177). -/
def State.ioPull (s : State) (n : Nat) : Nat :=
  let i := n / 6 * 6 + n % 6
  if i < 16 then fld (s.setting 5) (2 * i + 1) (2 * i) else fld (s.setting 6) (2 * (i - 16) + 1) (2 * (i - 16))

/-- The level and drive state that a pin keeps. -/
def Pin.kept (p : Pin) : Option Bool := if p.lastOe then some p.lastLevel else none

/-- The freeze value of a pin (R177); an unused pin is high-impedance whatever `frz` says (R168). -/
def Pin.freezeOut (p : Pin) : Option Bool :=
  if p.std = 0 then none
  else match fld p.cfg 19 18 with
    | 0 => p.kept
    | 1 => some false
    | 2 => some true
    | _ => none

/-- The pin whose cell drives a pad, and whether the pad shows its complement: the N pin of a differential pair shows that of its P pin (R170). -/
def State.drivenBy (s : State) (d b n : Nat) : Nat × Bool :=
  if (sget {} s.pin ((d * 6 + b) * 48 + n)).isN n then (n - 1, true) else (n, false)

/-- EXTEST drives the boundary-scan pins (R412): only in Bisque, with transport 0 granted level 1 or higher; otherwise the instruction acts as
BYPASS. -/
def State.extesting (s : State) : Bool := s.dbg.ir == 0 && s.mode == .bisque && decide (1 ≤ s.levelOf .jtag)

/-- What a pin's pad shows (R170, R177 to R180, R182, R412). -/
def State.padState (s : State) (q : PinId) : PadState :=
  let d := q.die.val; let b := q.bank.val
  let k := s.bankAt (d * 6 + b)
  let (n, inv) := s.drivenBy d b q.pin.val
  let p := sget {} s.pin ((d * 6 + b) * 48 + n)
  let own := s.pinAt q
  let show_ (w : List (Option Bool)) : PadState := ⟨w.map (·.map (· != inv)), fld own.cfg 21 20, own.pad⟩
  let safe : PadState := ⟨[none], s.ioPull (d * 6 + b), own.pad⟩
  let off : PadState := ⟨[none], 0, own.pad⟩
  let rung := (s.pdomAt (d + 1)).rung.toNat
  match s.mode with
  | .greenware => off
  | .bisque =>
    if s.extesting then ⟨[Config.boundary d b q.pin.val], if s.boot.settingsDone then s.ioPull (d * 6 + b) else 0, own.pad⟩
    else if s.boot.settingsDone then safe else off
  | .firing | .cooling => if s.mode = .firing ∧ k.enabled ∧ k.vok then show_ (s.pathWave d b n) else safe
  | _ =>
    if 6 ≤ rung then off
    else if !k.enabled || !k.vok then safe
    else if k.frozen || 3 ≤ rung then show_ [p.freezeOut]
    else if s.mode = .held || 1 ≤ rung then show_ [p.kept]
    else show_ (s.pathWave d b n)

end Sys2Proof.Machine
end

