-- ==== Sys2Proof/Machine/CalCore.lean ====
section
/-! DEFINITION. The calendar's actions and the entries that fall due, and the timebase's steps. Files 18 and 19. -/

namespace Sys2Proof.Machine

/-- Lines with source `b` among those `p` allows fire, as a local source (R419). -/
def fireSource (b : Nat) (p : Nat → Word → Bool) (s : State) : State :=
  let lines := s.linesWith b p
  if lines = 0 then s else fireLines lines true s

/-- A code and argument that the calendar takes (R442, R445, R458, R480). -/
def calActionOk (code arg : Nat) : Bool :=
  match code with
  | 1 => decide (arg < 16)
  | 2 | 3 | 8 => arg == 0
  | 4 => arg == 0 || arg == 1 || arg == 2 || arg == 0xFF
  | 5 => decide (arg < 4096) && (decide (arg % 256 < 10) || arg % 256 == 0xFF) && (decide (arg / 256 < 8) || arg / 256 == 15)
  | 6 => decide (arg < 256)
  | 7 => decide (arg < 65536) && decide (1 ≤ arg % 8) && decide (arg % 8 ≤ 4) && decide (arg / 8 % 256 < 192) &&
      (decide (arg / 2048 < 24) || arg / 2048 == 31)
  | _ => false

/-- An action is skipped (R447). -/
def calSkip (s : State) : State := raise 0x3245 s

/-- FAB_EVENT (R445): CEV[l] pulses on the named dies, and line l fires from its `cal` source. -/
def fabEvent (arg : Nat) (s : State) : State :=
  let dies := (List.range 4).filter (fun n => arg.testBit (4 + n))
  let s := s.onFab (fun f => { f with cev := dies.foldl (fun m n => smod 0 m (n * 16 + arg % 16) (· + 1)) f.cev })
  fireSource 6 (fun l _ => l == arg % 16) s

/-- Units that an SDU_SWITCH argument names (R445). -/
def switchUnits (arg : Nat) : List Nat := if arg / 2048 % 32 = 31 then List.range 24 else [arg / 2048 % 32]

/-- SDU_SWITCH (R158, R445, R447): a switch request from the calendar source to the named units that are in sequenced mode. -/
def sduSwitch (arg : Nat) (s : State) : State :=
  let sec := (arg % 8 - 1) * 192 + arg / 8 % 256
  let us := (switchUnits arg).filter (fun u => (sget {} s.sdu (sec * 24 + u)).seq)
  if (s.secAt sec).state == .unavailable || us.isEmpty then calSkip s
  else s.each us (fun u t => { t with sdu := smod {} t.sdu (sec * 24 + u) (postSwitch 1) })

/-- One action of the calendar (R445 to R447); `t` is the position it fell due at. TEL_SAMPLE and PWR_VOTE are passed to MGR (R444). -/
def calAct (t : BitVec 48) (code : Byte) (arg : BitVec 24) (s : State) : State :=
  match code.toNat with
  | 1 => if s.regionOpen (arg.toNat % 16) then commitFalls t (arg.toNat % 16) s else calSkip s
  | 2 => rltResume (s.onClk (fun c => { c with quiet := true }))
  | 3 => s.onClk (fun c => { c with quiet := false })
  | 4 | 5 => s.onClk (fun c => { c with toMgr := c.toMgr ++ [(code, arg)] })
  | 6 => fabEvent arg.toNat s
  | 7 => sduSwitch arg.toNat s
  | 8 => (sendAlign 0 s.devId s.phase s).nextFree
  | _ => s

/-- An action of the calendar runs, or waits for the end of Held (R423). -/
def calRun (t : BitVec 48) (code : Byte) (arg : BitVec 24) (s : State) : State :=
  if s.mode == .held && s.dbg.calDefer && (code == 1 || code == 5 || code == 6 || code == 7) then
    s.onClk (fun c => { c with deferred := c.deferred ++ [(t, code, arg)] })
  else calAct t code arg s

/-- The actions that waited for the end of Held run, in due order (R423). -/
def calDeferred (s : State) : State :=
  let l := s.clk.deferred
  (s.onClk (fun c => { c with deferred := [] })).each l (fun e => calAct e.1 e.2.1 e.2.2)

/-- The timebase runs (R441): from Bisque onwards, down to rung L4. -/
def State.tbRuns (s : State) : Bool := s.mode != .greenware && decide ((s.pdomAt 0).rung.toNat ≤ 4)

/-- An armed entry is due at this position (R443). -/
def State.calDue (s : State) (e : Nat) : Bool := (s.calAt e).armed && decide ((s.clk.pos - (s.calAt e).t).toNat < 2 ^ 47)

/-- How a due entry advances at position `pos` (R443): it disarms, or its T moves ahead of the position; and the runs skipped. -/
def CalEnt.advance (x : CalEnt) (pos : BitVec 48) : CalEnt × Nat :=
  let iv := x.interval.toNat
  if iv = 0 then ({ x with armed := false }, 0)
  else
    let k := (pos - x.t).toNat / iv + 1
    ({ x with t := x.t + BitVec.ofNat 48 (iv * k), missed := satAdd x.missed (k - 1) }, k - 1)

/-- A CAPTURE that waits for a calendar entry takes its snapshot when the entry runs (R228). -/
def captureEntry (e : Nat) (s : State) : State :=
  s.each (s.cfg.captures.filter (fun k => fld k.p7 31 30 == 2 && fld k.p7 7 0 == e)) captureTake

/-- One entry that is due runs (R228, R443). -/
def calFire (e : Nat) (s : State) : State :=
  if s.calDue e then
    let x := s.calAt e
    let a := x.advance s.clk.pos
    let s := s.calAtMod e (fun _ => a.1)
    calRun x.t x.action x.arg (captureEntry e (s.when (decide (0 < a.2)) (raise 0x0247)))
  else s

/-- Every entry that is due runs, in ascending index order (R443, R444). -/
def calFireAll (s : State) : State := s.each (s.clk.cal.map (·.1)) calFire

/-- Insert an entry by age, oldest first, after those of the same age. -/
def ageInsert (age : Nat → Nat) (x : Nat) : List Nat → List Nat
  | [] => [x]
  | y :: ys => if age y < age x then x :: y :: ys else y :: ageInsert age x ys

/-- Every entry that a forward step of n positions passes runs, in tick order and in index order within a tick (R324). -/
def calFireStep (n : Nat) (s : State) : State :=
  let age (e : Nat) : Nat := min n (s.clk.pos - (s.calAt e).t).toNat
  s.each (((s.clk.cal.map (·.1)).filter s.calDue).foldl (fun l e => ageInsert age e l) []) calFire

end Sys2Proof.Machine
end

