-- ==== Sys2Proof/Machine/Cache.lean ====
section
/-! DEFINITION. The caches of the application cluster, and the accesses of its cores. File 18. -/

namespace Sys2Proof.Machine

/-- New value of an atomic (R243) of w bits; none for a reserved operation. -/
def atomNew (aop w old x cmp : Nat) : Option Nat :=
  match aop with
  | 0 => some x
  | 1 => some ((old + x) % 2 ^ w)
  | 2 => some (old &&& x)
  | 3 => some (old ||| x)
  | 4 => some (if old = cmp then x else old)
  | _ => none

/-- The global address of a core's physical address (R407). -/
def State.coreAddr (s : State) (pa : BitVec 64) : BitVec 64 :=
  let n := fld pa 55 52
  let dev := if n = 0 then s.devId else fld (sget 0 s.dbg.devmap n) 11 0
  BitVec.ofNat 64 (dev * 2 ^ 52 + fld pa 51 0)

/-- The line of DRAM that a core's address names, none where the access is uncached: DRAM of another device and every other range (R408, log 153). -/
def State.cachedLine (s : State) (pa : BitVec 64) : Option Nat :=
  let g := (s.coreAddr pa).toNat
  if g / 2 ^ 52 = s.devId ∧ (s.dramMap (g % 2 ^ 52)).isSome then some (g % 2 ^ 52 / 64) else none

/-- A line in the caches. -/
def State.cacheAt (s : State) (l : Nat) : Option CacheLine := sget none s.dbg.cache l
/-- Put it there, or take it out. -/
def cachePut (l : Nat) (c : Option CacheLine) (s : State) : State := s.onDbg (fun d => { d with cache := sput none d.cache l c })

/-- A core takes an access fault (R409). -/
def coreFault (h : Fin 8) (cause : Nat) (pa : BitVec 64) (s : State) : State :=
  s.hartAtMod h.val (fun x => { x with fault := some (BitVec.ofNat 6 cause, pa) })

/-- Initiator port of a core (R406). -/
def corePort (h : Fin 8) : Nat := if h.val < 4 then portApc0 else portApc1

/-- A core's address as the transaction at the port keeps it: that of the core, with the access a line fill is for (R406, R409). -/
def tagLast (p : Nat) (pa : BitVec 64) (a : Option NocReq) (s : State) : State :=
  s.iportAtMod p (fun q => { q with out := q.out.dropLast ++ (q.out.getLast?.map (fun o => { o with issued := pa, core := a })).toList })

/-- The order tag of a core's uncached accesses, and that of its line fills and write-backs (R406). -/
def tagUncached (h : Fin 8) : BitVec 4 := BitVec.ofNat 4 (h.val % 4)
def tagLine (h : Fin 8) : BitVec 4 := BitVec.ofNat 4 (4 + h.val % 4)

/-- A fill of line `l` is issued for access `a` (R406, R408). -/
def lineFill (l : Nat) (a : NocReq) (s : State) : State :=
  let p := corePort a.hart
  tagLast p a.addr (some a) (issue p
    { typ := 0, otag := tagLine a.hart, addr := BitVec.ofNat 64 (s.devId * 2 ^ 52 + l * 64), len := 63, hart := a.hart, acc := a.acc } s)

/-- A dirty line is written back through the port of the core that last wrote it (R406, R408, R409). -/
def lineBack (l : Nat) (c : CacheLine) (s : State) : State :=
  issue (corePort c.hart)
    { typ := 1, otag := tagLine c.hart, addr := BitVec.ofNat 64 (s.devId * 2 ^ 52 + l * 64), len := 63,
      data := [c.data.extractLsb' 0 256, c.data.extractLsb' 256 256], bad := [c.poison, c.poison], hart := c.hart, acc := .writeback } s

/-- A fill or write-back of the line has no response yet. -/
def State.lineMoves (s : State) (l : Nat) : Bool :=
  [portApc0, portApc1].any (fun p => (s.iportAt p).out.any (fun o => o.rsp.isNone &&
    (o.core.isSome || o.acc == .writeback) && o.req.addr.toNat % 2 ^ 52 / 64 == l))

/-- What a load, an AMO or an LR of a held line returns to its core. -/
def cacheAnswer (a : NocReq) (c : CacheLine) (s : State) : State :=
  let n := a.len.toNat + 1; let lo := 8 * (a.addr.toNat % 64)
  s.iportAtMod (corePort a.hart) (fun q => { q with ret := q.ret ++
    [{ typ := a.typ + 8, otag := a.otag, len := a.len, data := placeBytes a.addr.toNat (natBytes (fld c.data (lo + 8 * n - 1) lo) n) }] })

/-- A store of a core into a held line (R409): one of the whole line ends its poison. -/
def cacheStore (a : NocReq) (c : CacheLine) : CacheLine :=
  let n := a.len.toNat + 1; let lo := 8 * (a.addr.toNat % 64)
  { data := setFld c.data (lo + 8 * n - 1) lo (bytesNat (takeBytes a.addr.toNat n a.data))
    poison := (c.poison && decide (n < 64)) || a.bad.any id, dirty := true, hart := a.hart }

/-- An AMO in a held line (R243), whose operands stand in the access as in an ATOM. -/
def cacheAmo (a : NocReq) (c : CacheLine) : CacheLine :=
  let n := a.len.toNat + 1; let lo := 8 * (a.addr.toNat % 64); let d := a.data.headD 0
  let fl := 8 * (a.addr.toNat % 32); let cl := 8 * ((a.addr.toNat % 32 + 16) % 32)
  match atomNew a.aop.toNat (8 * n) (fld c.data (lo + 8 * n - 1) lo) (fld d (fl + 8 * n - 1) fl) (fld d (cl + 8 * n - 1) cl) with
  | some x => { c with data := setFld c.data (lo + 8 * n - 1) lo x, dirty := true, hart := a.hart }
  | none => c

/-- An access of a core to a line that the caches hold (R408, R409): a load or fetch of a poisoned one faults, and an AMO likewise (log 153); an SC stores while
its core's reservation stands, and ends it. -/
def cacheServe (l : Nat) (a : NocReq) (c : CacheLine) (s : State) : State :=
  if a.typ = 1 then
    if a.acc = .sc then
      (s.when (s.hartAt a.hart.val).reservation (cachePut l (some (cacheStore a c)))).hartAtMod a.hart.val (fun h => { h with reservation := false })
    else cachePut l (some (cacheStore a c)) s
  else if c.poison then
    raise 0x3020 (coreFault a.hart (if a.typ = 2 then 7 else if a.acc = .fetch then 1 else 5) a.addr s)
  else if a.typ = 2 then cachePut l (some (cacheAmo a c)) (cacheAnswer a c s)
  else (cacheAnswer a c s).when (a.acc == .lr) (fun s => s.hartAtMod a.hart.val (fun h => { h with reservation := true }))

/-- A line fill ends (R408, R409): good or poisoned data enter the caches, unless the line came in meanwhile, and the access is served; any other response faults it. -/
def fillTakes (a : NocReq) (r : NRsp) (line : Option Nat) (s : State) : State :=
  match line with
  | none => s
  | some l =>
    if r.status = stOk ∨ r.status = stPoison then
      let c := (s.cacheAt l).getD { data := (r.data.getD 1 0) ++ (r.data.getD 0 0), poison := r.poisoned, hart := a.hart }
      cacheServe l a c (cachePut l (some c) s)
    else coreFault a.hart (if a.typ = 0 then (if a.acc = .fetch then 1 else 5) else 7) a.addr s

/-- What a core does with a response at its port (R408, R409): an access fault for one that is not good, and interrupt 17 with notice 0x3021 for a write-back,
whose line is lost. -/
def coreTakes (o : Outst) (r : NRsp) (s : State) : State :=
  match o.core with
  | some a => fillTakes a r (s.cachedLine a.addr) s
  | none =>
    if r.status = stOk ∧ !r.poisoned then
      s.when (o.acc == .lr) (fun s => s.hartAtMod o.hart.val (fun h => { h with reservation := true }))
    else match o.acc with
      | .load | .lr => s.when r.poisoned (raise 0x3020) |> coreFault o.hart 5 o.issued
      | .fetch => s.when r.poisoned (raise 0x3020) |> coreFault o.hart 1 o.issued
      | .store | .sc => coreFault o.hart 7 o.issued s
      | .writeback | .clean | .flush | .inval =>
        let l := o.req.addr.toNat % 2 ^ 52 / 64
        let s := s.when ((s.cacheAt l).any (fun c => !c.dirty)) (cachePut l none)
        raise 0x3021 (s.hartAtMod o.hart.val (fun h => { h with irq17 := true }))

/-- A line leaves the caches or is cleaned (R408): a dirty one is written back, but for an invalidation. -/
def lineOp (acc : CoreAcc) (l : Nat) (s : State) : State :=
  match s.cacheAt l with
  | none => s
  | some c =>
    let s := s.when (c.dirty && acc != .inval) (lineBack l c)
    cachePut l (if acc = .clean then some { c with dirty := false } else none) s

/-- The access works on a block of the caches: the three Zicbom operations and a write-back (R406, R408). -/
def onBlock (a : CoreAcc) : Bool := a == .writeback || a == .clean || a == .flush || a == .inval

/-- A core accesses a line of DRAM (R406, R408): what the caches hold is served from them, and a miss fills the line first. The access waits, to be made again, while the
line moves and while the port takes no request that it needs. -/
def cachedAccess (l : Nat) (a : NocReq) (s : State) : State :=
  if s.lineMoves l then s
  else if onBlock a.acc then
    let p := ((s.cacheAt l).map (fun c => corePort c.hart)).getD (corePort a.hart)
    s.when (s.portTakes p || !(s.cacheAt l).any (fun c => c.dirty && a.acc != .inval)) (lineOp a.acc l)
  else match s.cacheAt l with
    | some c => cacheServe l a c s
    | none => s.when (s.portTakes (corePort a.hart)) (lineFill l a)

/-- A core's uncached access (R243, R406, R408): one after another, so that each store waits for its response; an SC whose reservation is gone stores nothing. A block operation
on a range that is not cached has nothing to do. -/
def uncachedAccess (a : NocReq) (s : State) : State :=
  let p := corePort a.hart
  let waits := a.typ != 3 && (s.iportAt p).out.any (fun o => o.hart == a.hart && o.rsp.isNone && o.core.isNone && o.acc != .writeback)
  if waits ∨ onBlock a.acc ∨ !s.portTakes p then s
  else
    let go := a.acc != .sc || (s.hartAt a.hart.val).reservation
    let s := s.when (a.acc == .sc) (fun s => s.hartAtMod a.hart.val (fun h => { h with reservation := false }))
    s.when go (fun s => tagLast p a.addr none (issue p { a with otag := tagUncached a.hart, addr := s.coreAddr a.addr } s))

/-- An access of a core that is not halted (R406 to R408): a FENCE and one that names no cached line go out at the port; one that crosses a 64-byte block is two accesses of
its core (log 153). -/
def coreAccess (a : NocReq) (s : State) : State :=
  if a.typ = 3 then uncachedAccess a s
  else match s.cachedLine a.addr with
    | some l => s.when (decide (a.addr.toNat % 64 + a.len.toNat < 64)) (cachedAccess l a)
    | none => uncachedAccess a s

/-- Every line of the caches that `p` names leaves them, as `f` writes it back when it is dirty: what the cluster does before its power goes (R462) and for a region that is
re-encrypted (R370). -/
def cacheEmpty (p : Nat → Bool) (f : Nat → CacheLine → State → State) (s : State) : State :=
  let ls := s.dbg.cache.filter (fun e => p e.1)
  s.each ls (fun e s =>
    cachePut e.1 none (match e.2 with | some c => s.when c.dirty (f e.1 c) | none => s))

end Sys2Proof.Machine
end

