-- ==== Sys2Proof/Machine/Noc.lean ====
section
/-! DEFINITION. The network at work: responses returned to issuers, requests issued, flits routed, timeouts and holds, commits and path
switches. Files 10 and 17. -/

namespace Sys2Proof.Machine

/-- RSP and DATA frames of a response to a request of another device (R314, R315). -/
def rspFrames (ddev sdev ttl stid : Nat) (r : NRsp) : List (List Word) :=
  let w2 := wd (r.typ.toNat * 2 ^ 28 + r.otag.toNat * 2 ^ 24 + b2n r.hpoison * 2 ^ 21 + r.status.toNat * 65536)
  mkFrame 2 ddev sdev ttl ([w2, wd (stid * 65536 + b2n (r.bad.headD false)), 0, 0] ++ natWords (r.data.headD 0).toNat 8)
  :: (List.range (r.data.length - 1)).map (fun i =>
    mkFrame 3 ddev sdev ttl (natWords (r.data.getD (i + 1) 0).toNat 8 ++ [wd (b2n (r.bad.getD (i + 1) false))]))

/-- A PCIe controller by number. -/
def State.pcieAt (s : State) (c : Nat) : Pcie := if c = 0 then s.xcvr.pcie0 else s.xcvr.pcie1
/-- Change it. -/
def State.pcieMod (c : Nat) (f : Pcie → Pcie) (s : State) : State :=
  s.onXcvr (fun x => if c = 0 then { x with pcie0 := f x.pcie0 } else { x with pcie1 := f x.pcie1 })
/-- Initiator port of a controller. -/
def pciePort (c : Nat) : Nat := if c = 0 then portPcie0 else portPcie1

/-- Completion of a host read (R301). -/
def completionOf (r : NRsp) : Completion :=
  if r.status = stOk then .data r.data r.poisoned
  else if r.status = stPoison then .data r.data true
  else if r.status = stUnmapped ∨ r.status = stUnreach then .unsupported
  else .abort

/-- The access of `DBG_ACC_CTRL` ends (R242, R418): one whose data was poisoned on the way ends with POISON. -/
def accDone (o : Outst) (r : NRsp) (s : State) : State :=
  let n := o.req.len.toNat + 1
  s.onDbg (fun d => { d with
    accStatus := if r.poisoned then stPoison else r.status, accBusy := false
    accData := if o.req.typ = 0 ∧ r.status = stOk ∧ !r.poisoned then wd (bytesNat (takeBytes o.req.addr.toNat n r.data)) else d.accData })

/-- The issuer of a transaction at a port takes its response (R242, R248): the SPN block answers the device that asked, a PCIe controller completes a read,
the debug access ends, a core takes its fault. -/
def issuerTakes (p : Nat) (o : Outst) (r : NRsp) (s : State) : State :=
  if p = portSpn then
    match s.span.rem.find? (fun x => x.txid == o.req.txid) with
    | none => s
    | some x =>
      spanTo x.sdev.toNat (fun ttl => rspFrames x.sdev.toNat s.devId ttl x.stid.toNat r)
        (s.onSpan (fun p => { p with rem := p.rem.filter (fun y => y.txid != o.req.txid) }))
  else if p = portPcie0 ∨ p = portPcie1 then
    if o.req.typ = 0 ∧ !o.drop then s.pcieMod (b2n (p == portPcie1)) (fun c => { c with compl := c.compl ++ [completionOf r] }) else s
  else if p = portWdsI then wdsRsp o.req.txid r s
  else if p = portDbg then (if o.req.otag = 0 then accDone o r s else s)
  else if p = portApc0 ∨ p = portApc1 then coreTakes o r s
  else s

/-- The port's sector lies in a region that drains, whose ports discard the responses they receive (R217). -/
def State.portDrains (s : State) (p : Nat) : Bool :=
  isFabricPort p && (List.range 16).any (fun r => (s.regionAt r).phase == .draining && (s.regionAt r).ports.contains p)

/-- A response leaves the port (R217, R242, R248): every issuer can see it in `ret`, but that of a draining region. -/
def deliver (p : Nat) (o : Outst) (r : NRsp) (s : State) : State :=
  if s.portDrains p then s
  else issuerTakes p o r (s.iportAtMod p (fun q => { q with poisonSeen := q.poisonSeen || r.poisoned, ret := q.ret ++ [r] }))

/-- The next transaction whose response may be returned: no earlier one of its tag waits (R248). -/
def retirable : List Outst → List Outst → Option (Outst × NRsp)
  | _, [] => none
  | before, o :: os =>
    match o.rsp with
    | some r => if before.all (fun x => x.req.otag != o.req.otag) then some (o, r) else retirable (before ++ [o]) os
    | none => retirable (before ++ [o]) os

/-- Return to the issuer every response whose order slot has come (R245 to R248). -/
def retireN (p : Nat) : Nat → State → State
  | 0, s => s
  | n + 1, s =>
    match retirable [] (s.iportAt p).out with
    | none => s
    | some (o, r) =>
      retireN p n (deliver p o r (s.iportAtMod p (fun q => { q with
        out := q.out.filter (fun x => x.req.txid != o.req.txid), fence := if o.req.typ = 3 then none else q.fence })))

/-- A host request goes out at a PCIe controller when PCIe order allows it and the device is not in Held (R301, R307): a read after every earlier write has its response; a write
to another target port than the write before it, likewise. -/
def pcieReady (p : Nat) (x : PcieIn) (s : State) : Bool :=
  let writes := (s.iportAt p).out.filter (fun o => o.req.typ == 1)
  s.portTakes p && s.mode != .held && (writes.isEmpty || (x.write && match s.resolve x.addr.toNat with
    | .ok t => writes.all (fun o => o.req.dst.toNat == t)
    | .error _ => false))

/-- Issue the host requests that wait, in order (R301). -/
def pcieNext (c : Nat) : Nat → State → State
  | 0, s => s
  | n + 1, s =>
    let p := pciePort c
    match (s.pcieAt c).waiting with
    | [] => s
    | x :: rest =>
      if pcieReady p x s then
        let s := s.pcieMod c (fun q => { q with waiting := rest })
        pcieNext c n (retireN p 64 (issue p
          { typ := if x.write then 1 else 0, addr := x.addr, len := x.len, data := x.data, bad := x.data.map (fun _ => x.ep) } s))
      else s

/-- Data flits of a REQ or RSP packet, its own first and then those of its DATA frames, with their poison (R311, R314). -/
def frameFlits (fs : List (List Word)) (n : Nat) : List (BitVec 256) × List Bool :=
  let one (i : Nat) (f : List Word) : BitVec 256 × Bool :=
    if i = 0 then (BitVec.ofNat 256 (wordsNat ((f.drop 6).take 8)), bit (wordAt f 3) 0)
    else (BitVec.ofNat 256 (wordsNat ((f.drop 2).take 8)), bit (wordAt f 10) 0)
  let l := (List.range n).map (fun i => one i (fs.getD i []))
  (l.map (·.1), l.map (·.2))

/-- Global address of a REQ frame (R314). -/
def reqAddr (f : List Word) : Nat := (wordAt f 4).toNat + (wordAt f 5).toNat * 2 ^ 32

/-- Data flits of the request a REQ frame begins (R240, R243). -/
def reqFlits (f : List Word) : Nat :=
  let t := fld (wordAt f 2) 31 28
  if t = 1 then dataFlits (reqAddr f) (fld (wordAt f 2) 15 8) else if t = 2 then 1 else 0

/-- The request of a REQ packet (R314, R315). -/
def reqOfFrames (fs : List (List Word)) : NocReq :=
  let f := fs.headD []; let w := wordAt f 2; let d := frameFlits fs (reqFlits f)
  { typ := BitVec.ofNat 4 (fld w 31 28), otag := BitVec.ofNat 4 (fld w 27 24), aop := BitVec.ofNat 4 (fld w 19 16), len := BitVec.ofNat 8 (fld w 15 8),
    addr := BitVec.ofNat 64 (reqAddr f), data := d.1, bad := d.2 }

/-- The SPN initiator issues the REQ packets that wait, in arrival order (R315). A FENCE is no request to a target: it is answered UNSUPPORTED. -/
def spanNext : Nat → State → State
  | 0, s => s
  | n + 1, s =>
    match s.span.reqIn with
    | [] => s
    | (k, fs) :: rest =>
      if s.portTakes portSpn then
        let f := fs.headD []; let w := wordAt f 2; let r := reqOfFrames fs
        let s := s.onSpan (fun p => { p with reqIn := rest })
        if r.typ = 3 then
          spanNext n (spanTo (frSdev f) (fun ttl => rspFrames (frSdev f) s.devId ttl (fld (wordAt f 3) 31 16)
            { typ := r.typ + 8, otag := r.otag, status := stUnsupported }) s)
        else
          let x : RemTx := { sdev := BitVec.ofNat 12 (frSdev f), stid := BitVec.ofNat 10 (fld (wordAt f 3) 31 16), otag := r.otag, typ := r.typ, txid := (s.iportAt portSpn).nextId }
          let s := s.onSpan (fun p => { p with rem := p.rem ++ [x] })
          spanNext n (retireN portSpn 64 (issueAs portSpn r (BitVec.ofNat 2 (fld w 23 22)) (BitVec.ofNat 5 (fld (s.reg 0 (blkSpn + 0x100 + 0x40 * k)) 20 16))
            (BitVec.ofNat 12 (frSdev f)) (bit w 21) s))
      else s

/-- The debug access that waits goes out when its port takes it (R245, R418). -/
def dbgNext (s : State) : State :=
  match s.dbg.accWait with
  | some r => if s.portTakes portDbg then retireN portDbg 64 (issue portDbg r (s.onDbg (fun d => { d with accWait := none }))) else s
  | none => s

/-- Return what is due at a port, and let the requests that wait behind a PCIe port, the span port or the debug port follow. -/
def retire (p : Nat) (s : State) : State :=
  let s := retireN p 64 s
  if p = portSpn then spanNext s.span.reqIn.length s
  else if p = portPcie0 then pcieNext 0 s.xcvr.pcie0.waiting.length s
  else if p = portPcie1 then pcieNext 1 s.xcvr.pcie1.waiting.length s
  else if p = portDbg then dbgNext s
  else s

/-- Ports may take requests again: those that wait follow. -/
def retryPorts (s : State) : State := s.each [portSpn, portPcie0, portPcie1, portDbg] (fun p t => retire p t)

/-- A fabric port moves beats: its port sector runs user logic and is neither frozen nor in Held (R211, R217, R252, R253, R421, R422). -/
def State.fabricOpen (s : State) (p : Nat) : Bool :=
  let x := fabricPortSector p
  !isFabricPort p || ((s.secAt (x.1 * 192 + x.2)).portsOpen && s.clocked (x.1 * 192 + x.2))

/-- The data flits of a request as its port takes them (R243, R254): parity is generated at a fabric port unless `par_in` is set. -/
def State.ingress (s : State) (p : Nat) (r : NocReq) : NocReq :=
  if isFabricPort p && !bit (s.reg (portDie p) (blkNoc + 0x4000 + 0x20 * (p % 128))) 7 then { r with bad := r.data.map (fun _ => false) } else r

/-- The request carries the data flits its type asks for (R240, R243). -/
def reqDataOk (r : NocReq) : Bool :=
  let n := if r.typ = 1 then dataFlits r.addr.toNat r.len.toNat else if r.typ = 2 then 1 else 0
  r.data.length == n && (r.bad.isEmpty || r.bad.length == n)

/-- `INITIATOR_REQUEST_ISSUE` (R23 to R31, R34, R239, R240, R246, R252 to R255, R406 to R408): an issuer that is not halted presents a request to its initiator port; a core of the
application cluster makes an access, which its caches serve where they can. -/
def initiatorRequestIssueF (p : Nat) (r : NocReq) (s : State) : State :=
  if s.mode = .greenware then s
  else if p = portApc0 ∨ p = portApc1 then
    if p = corePort r.hart ∧ s.portAwake p ∧ !(s.hartAt r.hart.val).halted then retire p (coreAccess r s) else s
  else if s.portTakes p && s.fabricOpen p && !(p == portMgr && (s.hartAt 8).halted) then retire p (issue p (s.ingress p r) s)
  else s
def execInitiatorRequestIssue (p : BitVec 10) (r : NocReq) (s : State) : Host.Outcome State Fault Refusal :=
  .next (s.when (isIport p.toNat && reqDataOk r) (initiatorRequestIssueF p.toNat r))

/-- `FENCE` (R245): once every earlier request of the port has its response, FENR is returned. -/
def fenceF (p : Nat) (s : State) : State :=
  let s := retire p s
  match (s.iportAt p).out with
  | [o] => if o.req.typ = 3 then
      retire p (s.iportAtMod p (fun q => { q with out := [{ o with rsp := some (rspFor o.req stOk [] []) }] })) else s
  | _ => s
def execFence (p : BitVec 10) (s : State) : Host.Outcome State Fault Refusal :=
  .next (s.when (isIport p.toNat) (fenceF p.toNat))

/-- Split a run of flits into whole packets; a packet that is still arriving stays behind. -/
def splitPackets (s : State) : Nat → List (BitVec 288) → List (List (BitVec 288)) × List (BitVec 288)
  | 0, fs => ([], fs)
  | _ + 1, [] => ([], [])
  | n + 1, f :: fs =>
    let k := s.hdrFlits f
    if fs.length < k then ([], f :: fs)
    else let r := splitPackets s n (fs.drop k); ((f :: fs.take k) :: r.1, r.2)

/-- Requests that a hold kept back leave for their target, in issue order (R397). -/
def releaseHold1 (p : Nat) (t : BitVec 10) (s : State) : State :=
  let os := (s.iportAt p).out.filter (fun o => !o.sent && o.req.dst == t)
  let s := s.iportAtMod p (fun q => { q with
    holds := q.holds.filter (· != t), out := q.out.map (fun o => if o.req.dst == t then { o with sent := true } else o) })
  s.each os (fun o t => injectFlits (portRouter p) o.req.qos.toNat (reqPacket o.req) t)

/-- A response reaches its initiator port (R248, R262, R397): it takes its order slot; one that comes after its transaction was ended is
discarded and ends the hold on its target. -/
def takeRsp (p : Nat) (r : NRsp) (s : State) : State :=
  let q := s.iportAt p
  if q.out.any (fun o => o.req.txid == r.txid && o.rsp.isNone) then
    retire p (s.iportAtMod p (fun q => { q with out := q.out.map (fun o => if o.req.txid == r.txid && o.rsp.isNone then { o with rsp := some r } else o) }))
  else match q.ended.find? (fun e => e.1 == r.txid) with
    | some e =>
      let s := s.iportAtMod p (fun q => { q with ended := q.ended.filter (fun e => e.1 != r.txid) })
      if q.holds.contains e.2.1 then releaseHold1 p e.2.1 s else s
    | none => s

/-- `NOC_RESPONSE_ARRIVAL` (R242, R247, R248, R301, R397, R409): a response whose flits stand at port `p` is taken by it. -/
def nocResponseArrivalF (p : Nat) (txid : BitVec 16) (s : State) : State :=
  let key := p * 5 + 4
  let (ps, rest) := splitPackets s 1000 (sget [] s.noc.asm key)
  match ps.find? (fun k => (rspOfPacket k).txid == txid) with
  | none => s
  | some k =>
    let s := s.onNoc (fun n => { n with asm := sput [] n.asm key ((ps.erase k).flatten ++ rest) })
    takeRsp p (rspOfPacket k) s
def execNocResponseArrival (p : BitVec 10) (txid : BitVec 16) (s : State) : Host.Outcome State Fault Refusal :=
  .next (s.when (isIport p.toNat) (nocResponseArrivalF p.toNat txid))

/-- A port ends a transaction itself with a status, in its order slot; a late response will be discarded (R262, R282, R395). -/
def endTxn (p : Nat) (txid : BitVec 16) (r : NReq → NRsp) (s : State) : State :=
  s.iportAtMod p (fun q => { q with
    ended := q.ended ++ (q.out.filter (fun o => o.req.txid == txid && o.rsp.isNone && o.sent)).map
      (fun o => (txid, o.req.dst, if o.req.typ = 0 then dataFlits o.req.addr.toNat o.req.len.toNat else 0))
    out := q.out.map (fun o => if o.req.txid == txid && o.rsp.isNone then { o with rsp := some (r o.req), sent := true } else o) })

/-- A transaction ends with TIMEOUT (R262, R397): a write or atomic puts its target under hold. -/
def timeoutTxn (p : Nat) (o : Outst) (s : State) : State :=
  let s := endTxn p o.req.txid (fun r => rspFor r stTimeout [] []) s
  let s := raiseFrom (portDie p) 0x3A05 (s.iportAtMod p (fun q => { q with timeoutSeen := true }))
  if o.req.typ = 1 ∨ o.req.typ = 2 then
    raiseFrom (portDie p) 0x3A08 (s.iportAtMod p (fun q => { q with
      holds := q.holds.filter (· != o.req.dst) ++ [o.req.dst], lastHold := o.req.dst }))
  else s

/-- `RSP_TIMEOUT` (R262, R395, R397): `rsp_timeout` has passed without a response; the timer is frozen in Held, and a request behind a hold
has none. -/
def rspTimeoutF (p : Nat) (txid : BitVec 16) (s : State) : State :=
  let never := fld (s.reg (portDie p) (blkNoc + 0x4000 + 0x20 * (p % 128))) 31 16 == 0
  match (s.iportAt p).out.find? (fun o => o.req.txid == txid && o.rsp.isNone && o.sent && o.req.typ != 3) with
  | none => s
  | some o => if never || s.mode == .held then s else retire p (timeoutTxn p o s)
def execRspTimeout (p : BitVec 10) (txid : BitVec 16) (s : State) : Host.Outcome State Fault Refusal :=
  .next (s.when (isIport p.toNat) (rspTimeoutF p.toNat txid))

/-- `QOS_CHANGE_APPLY` (R251): nothing is outstanding, and the written class takes effect. -/
def qosChangeApplyF (p : Nat) (s : State) : State :=
  let q := s.iportAt p
  match q.qosPend with
  | some v =>
    if q.out.isEmpty then
      let off := blkNoc + 0x4000 + 0x20 * (p % 128)
      retire p ((s.setReg (portDie p) off (setFld (s.reg (portDie p) off) 1 0 v.toNat)).iportAtMod p (fun q => { q with qosPend := none }))
    else s
  | none => s
def execQosChangeApply (p : BitVec 10) (s : State) : Host.Outcome State Fault Refusal :=
  .next (s.when (isIport p.toNat) (qosChangeApplyF p.toNat))

/-- A write of a port's class (R251): at once when nothing is outstanding. -/
def qosWrite (p : Nat) (v : BitVec 2) (s : State) : State :=
  qosChangeApplyF p (s.iportAtMod p (fun q => { q with qosPend := some v }))

/-- `NOC_IPORT_HOLD_CLR` (R397): every hold of the port ends. -/
def nocIportHoldClrF (p : Nat) (s : State) : State :=
  s.each (s.iportAt p).holds (releaseHold1 p)
def execNocIportHoldClr (p : BitVec 10) (s : State) : Host.Outcome State Fault Refusal :=
  .next (s.when (isIport p.toNat) (nocIportHoldClrF p.toNat))

/-- Capture in a die's `NOC_ERRLOG` while it is empty. -/
def nocLog (die kind router inport src : Nat) (s : State) : State :=
  s.nocDieAtMod die (fun d => { d with log := match d.log with
    | some x => some x
    | none => some (BitVec.ofNat 3 kind, BitVec.ofNat 5 router, BitVec.ofNat 4 inport, BitVec.ofNat 10 src) })

/-- Byte b of a flit, and that byte replaced. -/
def flitByte (f : BitVec 288) (b : Nat) : Nat := f.toNat >>> (8 * b) % 256
def setFlitByte (d : BitVec 256) (b v : Nat) : BitVec 256 := setFld d (8 * b + 7) (8 * b) v

/-- Repair of a header (R241): number of bytes restored, whether one has no good copy, and the header. A byte without a good copy keeps its bad parity in
both copies, and its header goes to the error sink with `hpoison` set (log 35). -/
def repairHeader (f : BitVec 288) : Nat × Bool × BitVec 288 :=
  let gone (b : Nat) : Bool := !byteOk f b && !byteOk f (24 + b)
  let lost := headerLost f
  let d := (List.range 8).foldl (fun d b => if !byteOk f b && byteOk f (24 + b) then setFlitByte d b (flitByte f (24 + b)) else d) (flitData f)
  let fixed := ((List.range 8).filter (fun b => byteOk f b != byteOk f (24 + b))).length
  let rest := (List.range 16).any (fun i => !byteOk f (8 + i))
  let d := if lost then setFld d 9 0 portSink else d
  let d := if lost || rest then setFld d 21 21 1 else d
  let d := setFld d 255 192 (fld d 63 0)
  (fixed, lost, flitWith d (fun b => (decide (b < 8) && gone b) || (decide (24 ≤ b) && gone (b - 24))))

/-- H rewrites what a guest claims in a request (R281). -/
def guestRewrite (s : State) (site : Nat) (f : BitVec 288) : BitVec 288 :=
  if hdrIsRsp f || headerLost f then f
  else
    let d := flitData f
    let fwg := fld (s.reg 0 (blkAdl + 0x40 + 4 * site)) 4 0
    let d := setFld (setFld (setFld d 144 140 fwg) 139 128 s.devId) 20 20 0
    mkFlit (setFld d 255 192 (fld d 63 0)) false

/-- Flit of router `r`, input `inp`, as it is after the check on intake (R241, R281), with the counts and logs of the check. -/
def checkFlit (r inp : Nat) (hdr : Bool) (f : BitVec 288) (s : State) : BitVec 288 × State :=
  let die := r / 32
  if hdr then
    let (n, lost, g) := repairHeader f
    let s := s.when (decide (0 < n)) (fun s => raiseFrom die 0x1A02
      (nocLog die 1 (r % 32) inp (fld g 19 10) (s.nocDieAtMod die (fun d => { d with hdrFix := satAdd d.hdrFix n }))))
    let s := s.when lost (fun s => if die = 0 then s else nocLog die 2 (r % 32) inp (fld g 19 10) s)
    let site := match nbr r inp with | some q => q / 32 | none => 0
    (if inp ≠ 0 ∧ 5 ≤ site then guestRewrite s (site - 5) g else g, s)
  else
    let k := badBytes f
    if 0 < k ∧ k < 32 then
      (mkFlit (flitData f) true, raiseFrom die 0x3A01
        (nocLog die 0 (r % 32) inp 0 (s.nocDieAtMod die (fun d => { d with perr := satInc d.perr }))))
    else (f, s)

/-- The buffer of an input is freed by one flit; one that a bundle feeds owes its sender a credit, and with four of a class freed a link flit returns
them (R250, R270). -/
def freeSlot (r inp vc : Nat) (s : State) : State :=
  match (if inp = 0 then none else linkBundle r inp) with
  | some b =>
    let s := s.bundleAtMod (bundleRev b) (fun x => { x with freed := smod 0 x.freed vc (· + 1) })
    s.when (decide (4 ≤ sget 0 (s.bundleAt (bundleRev b)).freed vc) && (s.bundleAt (bundleRev b)).works) (sendAck (bundleRev b))
  | none => s

/-- Room for a flit at output `out` of router `r` on a channel (R250, R268, R270). -/
def outRoom (s : State) (r out vc : Nat) : Bool :=
  match linkBundle r out with
  | some b =>
    let x := s.bundleAt b
    x.dead || ((x.state == .full || x.state == .half) && decide (sget 0 x.used vc < 8) && decide (x.unacked.length < 128))
  | none => match nbr r out with
    | some q => decide ((s.chanAt (chanKey q (inportOf r q) vc)).buf.length < 8)
    | none => false

/-- A flit leaves a router by an output other than the local one (R236, R267 to R269). Whether slot 1 of the newest pair is still to go is a matter of
time: a free value (log 147). -/
def outFlit (r out vc : Nat) (f : BitVec 288) (s : State) : State :=
  match linkBundle r out with
  | some b =>
    let (join, s) := s.take 1
    s.bundleAtMod b (fun x => if x.dead then x else Bundle.sendNoc (join == 1) (txFlit f) { x with used := smod 0 x.used vc (· + 1) })
  | none => match nbr r out with
    | some q => s.chanAtMod (chanKey q (inportOf r q) vc) (fun c => { c with buf := c.buf ++ [f] })
    | none => s

/-- An output is taken by a packet of another input in the same channel, and on a bundle by a packet of any channel (R239, R269). -/
def outTaken (s : State) (r inp out vc : Nat) : Bool :=
  let across := (linkBundle r out).isSome
  (List.range 6).any (fun i => (List.range 5).any (fun v => (i != inp || v != vc) && (across || v == vc) &&
    match (s.chanAt (chanKey r i v)).cur with
    | some c => c.1.toNat == out
    | none => false))

/-- A request stands complete at a local port (R248, R254): a closed fabric port answers UNMAPPED (R211, R217), a target port takes it, and what names
no port is discarded. -/
def localRequest (p : Nat) (q : NReq) (s : State) : State :=
  if !isTport p then s
  else if isFabricPort p && !(s.secAt ((fabricPortSector p).1 * 192 + (fabricPortSector p).2)).portsOpen then sendRsp p (rspFor q stUnmapped [] []) s
  else s.tportAtMod p (fun t => { t with inq := t.inq ++ [q] })

/-- A packet reaches the error sink (R241): it is logged with the input it came by, and discarded. -/
def sinkTakes (inp : Nat) (f : BitVec 288) (s : State) : State := raise 0x3A03 (nocLog 0 2 3 inp (fld f 19 10) s)

/-- A flit arrives at a local port by input `inp` of its router: responses wait for their port to take them, requests are taken when whole. At
0x00D a packet with a lost header byte is the error sink's, and a response has no port there and is discarded (R241). -/
def localFlit (inp p vc : Nat) (f : BitVec 288) (s : State) : State :=
  let key := p * 5 + vc
  let fs := sget [] s.noc.asm key ++ [f]
  if (vc = 4 ∧ p ≠ portSink) ∨ fs.length < 1 + s.hdrFlits (fs.headD 0) then s.onNoc (fun n => { n with asm := sput [] n.asm key fs })
  else
    let s := s.onNoc (fun n => { n with asm := sput [] n.asm key [] })
    if p = portSink ∧ headerLost (fs.headD 0) then sinkTakes inp (fs.headD 0) s
    else s.when (vc != 4) (localRequest p (reqOfPacket fs))

/-- Where the packet whose header is `f` goes at router `r`: an output code, 0 the local port, or 0xF (R257). -/
def State.outCode (s : State) (r : Nat) (f : BitVec 288) : Nat :=
  let t := fld f 9 0 / 4
  let e := s.route r t
  if e = 0 then (if t = r then 0 else 0xF) else if e ≤ 5 ∧ (nbr r e).isSome then e else 0xF

/-- A packet with no route (R243, R257): a request is answered UNREACH by the router at which it entered; anything else is discarded. -/
def unreachable (r inp : Nat) (f : BitVec 288) (s : State) : State :=
  let q := reqOfPacket [f]
  let s := nocLog (r / 32) 3 (r % 32) inp q.src.toNat s
  if inp = 0 ∧ !hdrIsRsp f then injectFlits r 4 (rspPacket (rspFor q stUnreach [] [])) s else s

/-- The next flit of an input channel as the router sees it (R239, R257): the flit after its check, whether it is a header, its output code and local
port, and the data flits of its packet after it. -/
def State.nextFlit (s : State) (r inp vc : Nat) (f : BitVec 288) : BitVec 288 × Bool × Nat × Nat × Nat :=
  let g := (checkFlit r inp (s.chanAt (chanKey r inp vc)).cur.isNone f s).1
  match (s.chanAt (chanKey r inp vc)).cur with
  | some x => (g, false, x.1.toNat, x.2.1.toNat, x.2.2 - 1)
  | none => (g, true, s.outCode r g, fld g 1 0, s.hdrFlits g)

/-- A flit cannot move: its output has no room, or holds another packet (R239, R250, R269). -/
def State.flitBlocked (s : State) (r inp vc : Nat) (hdr : Bool) (out lport : Nat) : Bool :=
  if 1 ≤ out ∧ out ≤ 5 then !outRoom s r out vc || (hdr && outTaken s r inp out vc)
  else out == 0 && hdr && (List.range 6).any (fun i => i != inp && match (s.chanAt (chanKey r i vc)).cur with
    | some x => x.1 == 0 && x.2.1.toNat == lport | none => false)

/-- A flit of class `vc` could move now to an output of a router. -/
def State.classWaits (s : State) (r out lport vc : Nat) : Bool :=
  (List.range 6).any (fun i => match (s.chanAt (chanKey r i vc)).buf with
    | [] => false
    | f :: _ => let x := s.nextFlit r i vc f
      x.2.2.1 == out && (out != 0 || x.2.2.2.1 == lport) && !s.flitBlocked r i vc x.2.1 out x.2.2.2.1)

/-- Key of an output of a router. -/
def outKey (r out lport : Nat) : Nat := r * 9 + (if out = 0 then 5 + lport % 4 else (out - 1) % 5)

/-- Weight of a class at the routers of a die (R251; `NOC_QOS`): 0 acts as 1. Class 3 beyond its share has no weight there (log 83). -/
def State.classWeight (s : State) (die c : Nat) : Nat :=
  max 1 (if c = 3 then Config.weight3.toNat else fld (s.reg die (blkNoc + 0xC)) (8 * c + 7) (8 * c))

/-- Class 3 has strict priority at an output now (R251): it waits there, and has not used its share of this run of 256 cycles. -/
def State.class3First (s : State) (r out lport : Nat) : Bool :=
  decide ((sget {} s.noc.arb (outKey r out lport)).prior < fld (s.reg (r / 32) (blkNoc + 0xC)) 31 24) && s.classWaits r out lport 3

/-- Some class that waits has weight left in this round. -/
def State.roundOpen (s : State) (r out lport : Nat) : Bool :=
  (List.range 4).any (fun c => decide (0 < (sget {} s.noc.arb (outKey r out lport)).left.getD c 0) && s.classWaits r out lport c)

/-- It is the turn of channel `vc` at an output (R251). Responses have a channel of their own, beside the classes. -/
def State.flitTurn (s : State) (r out lport vc : Nat) : Bool :=
  decide (4 ≤ vc) || decide (5 < out) ||
    (if s.class3First r out lport then vc == 3
     else decide (0 < (sget {} s.noc.arb (outKey r out lport)).left.getD vc 0) || !s.roundOpen r out lport)

/-- An output moves a flit of channel `vc` (R251): one cycle of its 256 goes by, taken from class 3's share or from the class's weight. -/
def arbStep (r out lport vc : Nat) (s : State) : State :=
  if 5 < out then s
  else
    let key := outKey r out lport
    let first := vc == 3 && s.class3First r out lport
    let fresh := !s.roundOpen r out lport
    let left (a : Arb) : List Nat := if fresh then (List.range 4).map (s.classWeight (r / 32)) else a.left
    s.onNoc (fun n => { n with arb := smod {} n.arb key (fun a =>
      { cycles := if a.cycles = 255 then 0 else a.cycles + 1
        prior := if a.cycles = 255 then 0 else a.prior + b2n first
        left := if 4 ≤ vc ∨ first then a.left else (left a).set vc ((left a).getD vc 0 - 1) }) })

/-- `FLIT_ROUTE` (R238 to R241, R250, R251, R257, R269, R281): the oldest flit of one input channel of a router moves on, when its output is free
and has room and it is its class's turn. The order of inputs within a class is that of the commands (log 83). -/
def flitRouteF (r inp vc : Nat) (s : State) : State :=
  match (s.chanAt (chanKey r inp vc)).buf with
  | [] => s
  | f :: rest =>
    let (g, hdr, out, lport, left) := s.nextFlit r inp vc f
    if s.flitBlocked r inp vc hdr out lport || !s.flitTurn r out lport vc || (s.domAt (netDomain (r / 32))).state == .stopped then s
    else
      let s1 := (checkFlit r inp hdr f (arbStep r out lport vc s)).2
      let s1 := s1.chanAtMod (chanKey r inp vc) (fun c => { c with
        buf := rest, cur := if left = 0 then none else some (BitVec.ofNat 4 out, BitVec.ofNat 2 lport, left) })
      let s1 := freeSlot r inp vc s1
      if out = 0 then localFlit inp (r * 4 + lport) vc g s1
      else if out ≤ 5 then outFlit r out vc g s1
      else if hdr then unreachable r inp g s1
      else s1
def execFlitRoute (router : BitVec 8) (inport : Fin 6) (vc : Fin 5) (s : State) : Host.Outcome State Fault Refusal :=
  .next (s.when (routerExists router.toNat && decide (router.toNat / 32 < 5) && (inport == 0 || (nbr router.toNat inport.val).isSome))
    (flitRouteF router.toNat inport.val vc.val))

/-- `FABRIC_TARGET_RESPONSE` (R249, R252): user logic answers a presented request by its handle, with its beats and the TRS_POISON of each. A beat it
does not give is a free value (log 146). -/
def fabricTargetResponseF (p : Nat) (id : BitVec 6) (status : BitVec 4) (data : List (BitVec 256)) (poison : List Bool) (s : State) : State :=
  match (s.tportAt p).pres.find? (fun e => e.1 == id) with
  | none => s
  | some e =>
    let q := e.2
    let ds := if q.typ = 1 then [] else beatsFor q data
    let s := s.tportAtMod p (fun t => { t with pres := t.pres.filter (fun e => e.1 != id) })
    sendRsp p (rspFor q status ds ((List.range ds.length).map (fun j => poison.getD j false))) s
def execFabricTargetResponse (p : BitVec 10) (id : BitVec 6) (status : BitVec 4) (data : List (BitVec 256)) (poison : List Bool) (s : State) :
    Host.Outcome State Fault Refusal :=
  .next (s.when (isFabricPort p.toNat && ([0, 4, 5, 8].contains status.toNat)) (fabricTargetResponseF p.toNat id status data poison))

/-- Entry of the shadow set (R259). -/
def State.rtShadowAt (s : State) (r t : Nat) : Nat := fld (sget 0xFFFFFFFF s.noc.rtShadow (r * 32 + t / 8)) (4 * (t % 8) + 3) (4 * (t % 8))

/-- Routers of the part, and the router IDs that exist with the guest sites (R235, R237). -/
def partRouters : List Nat := (List.range 160).filter routerExists
def allRouters : List Nat := (List.range 224).filter routerExists

/-- A shadow entry is bad (item 3 of R259): reserved, absent port, or not 0xF for a router ID that does not exist. -/
def entryBad (r t e : Nat) : Bool :=
  if !routerExists t then e != 0xF else e != 0 && e != 0xF && (decide (5 < e) || (nbr r e).isNone)

/-- The route from `r` reaches `t` within `n` hops (item 2 of R259); a guest die takes what arrives at its router. -/
def routeReaches (f : Nat → Nat → Nat) (t : Nat) : Nat → Bool → Nat → Bool
  | n, first, r =>
    if 160 ≤ r then r == t
    else match n with
      | 0 => false
      | n + 1 =>
        let e := f r t
        if e = 0 then r == t
        else if e = 0xF then first
        else match nbr r e with | some q => routeReaches f t n false q | none => false

/-- Dependencies between the links of the routes: link (router × 8 + port) and the link after it. -/
def routeDeps (f : Nat → Nat → Nat) : List (Nat × Nat) :=
  (partRouters.flatMap (fun r => allRouters.flatMap (fun t =>
    let e := f r t
    if e = 0 ∨ e = 0xF then []
    else match nbr r e with
      | none => []
      | some q => if 160 ≤ q then [] else
        let e' := f q t
        if e' = 0 ∨ e' = 0xF then [] else [(r * 8 + e, q * 8 + e')]))).eraseDups

/-- Dependencies left after removing, again and again, those whose second link leads nowhere; a cycle is what remains. -/
def cycleLeft : Nat → List (Nat × Nat) → List (Nat × Nat)
  | 0, ds => ds
  | n + 1, ds => cycleLeft n (ds.filter (fun d => ds.any (fun e => e.1 == d.2)))

/-- A fabric window entry is misaligned or outside its die's window (item 4 of R259). -/
def windowBad (m : Store Word) (e : Nat) : Bool :=
  let w0 := sget 0 m (2 * e); let w1 := sget 0 m (2 * e + 1)
  let l := fld w1 25 20; let a := w0.toNat * 1048576; let lo := 0x40000000000 + e / 64 * 0x10000000000
  bit w1 31 && (decide (l < 20) || decide (40 < l) || a % 2 ^ l != 0 || decide (a < lo) || decide (lo + 0x10000000000 < a + 2 ^ l))

/-- `COMMIT_CHECK` (R259): the result code of the shadow set, 0 when it passes. -/
def State.commitResult (s : State) : Nat :=
  let f := s.rtShadowAt
  let hops := partRouters.length * 5
  if !(cycleLeft hops (routeDeps f)).isEmpty then 1
  else if partRouters.any (fun r => allRouters.any (fun t => !entryBad r t (f r t) && !routeReaches f t 32 true r)) then 2
  else if partRouters.any (fun r => (List.range 256).any (fun t => entryBad r t (f r t))) then 3
  else if (List.range 256).any (windowBad s.noc.fwShadow) then 4
  else if !s.noc.switches.isEmpty then 5
  else 0

/-- `NOC_COMMIT` (R259): MGR checks the shadow set; it fails with a result, or it is taken up. -/
def nocCommitF (s : State) : State :=
  if s.noc.commitBusy then s
  else
    let k := s.commitResult
    s.onNoc (fun n => { n with result := BitVec.ofNat 4 k, commitErr := n.commitErr || k != 0, commitBusy := k == 0 })
def execNocCommit (s : State) : Host.Outcome State Fault Refusal := .next (nocCommitF s)

/-- A write to a shadow register: it waits while a commit is busy (R259). `win` names the window table. -/
def shadowWrite (win : Bool) (key : Nat) (v : Word) (s : State) : State :=
  if s.noc.commitBusy then s.onNoc (fun n => { n with shadowWait := n.shadowWait ++ [(win, key, v)] })
  else if win then s.onNoc (fun n => { n with fwShadow := sput 0 n.fwShadow key v })
  else s.onNoc (fun n => { n with rtShadow := sput 0xFFFFFFFF n.rtShadow key v })

/-- `NOC_COMMIT_APPLY` (R259): the set that passed is copied into every router and initiator port, and the writes that waited follow. -/
def nocCommitApplyF (s : State) : State :=
  if s.noc.commitBusy then
    let ws := s.noc.shadowWait
    let s := s.onNoc (fun n => { n with
      rtDefault := false, rtActive := n.rtShadow, fwActive := n.fwShadow, alts := [], altInUse := false, commitBusy := false, shadowWait := [] })
    s.each ws (fun w t => shadowWrite w.1 w.2.1 w.2.2 t)
  else s
def execNocCommitApply (s : State) : Host.Outcome State Fault Refusal := .next (nocCommitApplyF s)

/-- `DEFAULT_ROUTES` (R260): MGR commits the default set, with every window entry disabled. -/
def defaultRoutes (s : State) : State :=
  s.onNoc (fun n => { n with rtDefault := true, rtActive := [], fwActive := [], alts := [], altInUse := false })

/-- Initiator ports of the part. -/
def partIports : List Nat := (List.range 640).filter isIport

/-- Router at which the responses of a destination enter the part: itself, or for a guest's router the one of H it is joined to. -/
def entryRouter (t : Nat) : Nat := if t / 32 = 5 then t % 32 * 8 else if t / 32 = 6 then t % 32 * 8 + 7 else t

/-- Requests or responses of a port can cross a bundle under the active set (step 2 of R261). -/
def State.portCrosses (s : State) (b p : Nat) : Bool :=
  allRouters.any (fun t => routeCrosses s.route b t 32 (portRouter p) || routeCrosses s.route b (portRouter p) 32 (entryRouter t)
    || decide (160 ≤ t) && (bundleFrom b).1 == t && (nbr t (bundleFrom b).2).isSome)

/-- Step 2 of a path switch (R261): the ports that can cross the bundle are paused. -/
def pauseFor (b : Nat) (s : State) : State :=
  s.each (partIports.filter (s.portCrosses b)) (fun p t => t.iportAtMod p (fun q => { q with paused := true }))

/-- `PATH_SWITCH_START` (steps 1 and 2 of R261): the switch of a bundle begins. Where several run, they end one after another. -/
def pathSwitchStart (b : Fin 76) (s : State) : State :=
  if s.noc.switches.contains b then s
  else pauseFor b.val (s.onNoc (fun n => { n with switches := n.switches ++ [b] }))

/-- Destinations that have no route from some router. -/
def lostDests (f : Nat → Nat → Nat) : List Nat := allRouters.filter (fun t => partRouters.any (fun r => f r t == 0xF))

/-- Steps 5 and 6 of a path switch (R261); ports that another switch under way pauses stay paused. -/
def pathSwitchEnd (b : Fin 76) (s : State) : State :=
  let before := lostDests s.route
  let s := s.bundleAtMod b.val (fun x => { x with state := .disabled, txLink := [], unacked := [] })
  let s := s.onNoc (fun n => { n with alts := b :: n.alts, altInUse := true, switches := n.switches.tail })
  let s := s.each partIports (fun p t => t.iportAtMod p (fun q => { q with paused := false }))
  let s := raise 0x2A06 s
  let s := s.each ((lostDests s.route).filter (fun t => !before.contains t)) (fun _ t => raise 0x3A07 t)
  s.each s.noc.switches (fun c t => pauseFor c.val t)

/-- `PATH_SWITCH_DRAIN_END` (steps 4 to 6 of R261; R397): every transaction of the paused ports has completed, or 1 ms has passed and those
left end with TIMEOUT. -/
def pathSwitchDrainEndF (timedOut : Bool) (s : State) : State :=
  match s.noc.switches with
  | [] => s
  | b :: _ =>
    let ports := partIports.filter (fun p => (s.iportAt p).paused && s.portCrosses b.val p)
    if timedOut then
      let s := s.each ports (fun p t =>
        retire p (t.each ((t.iportAt p).out.filter (fun o => o.rsp.isNone && o.sent && o.req.typ != 3)) (timeoutTxn p)))
      retryPorts (pathSwitchEnd b s)
    else if ports.all (fun p => (s.iportAt p).out.isEmpty) then retryPorts (pathSwitchEnd b s)
    else s
def execPathSwitchDrainEnd (timedOut : Bool) (s : State) : Host.Outcome State Fault Refusal := .next (pathSwitchDrainEndF timedOut s)

/-- `NOC_ERRLOG` of a die as read (RS). -/
def nocErrlogRead (die : Nat) (insp : Bool) (s : State) : Word × State :=
  let w := match (s.nocDieAt die).log with
    | some (k, r, i, p) => wd (2 ^ 31 + k.toNat * 2 ^ 28 + r.toNat * 2 ^ 23 + i.toNat * 2 ^ 19 + p.toNat)
    | none => 0
  (w, if insp then s else s.nocDieAtMod die (fun d => { d with log := none }))
/-- `NOC_ERRLOG_READ`. -/
def execNocErrlogRead (die : Fin 5) (insp : Bool) (s : State) : Host.Outcome State Fault Refusal := .next (State.readTo (nocErrlogRead die.val insp s))

/-- `NOC_FW_LOG` of a target port as read (RS). -/
def nocFwLogRead (p : Nat) (insp : Bool) (s : State) : Word × State :=
  let w := match (s.tportAt p).fwLog with
    | some (wr, g, src) => wd (2 ^ 31 + b2n wr * 2 ^ 30 + g.toNat * 65536 + src.toNat)
    | none => 0
  (w, if insp then s else s.tportAtMod p (fun t => { t with fwLog := none }))
/-- `NOC_FW_LOG_READ` (R256). -/
def execNocFwLogRead (p : BitVec 10) (insp : Bool) (s : State) : Host.Outcome State Fault Refusal :=
  .next (State.readTo (if isTport p.toNat then nocFwLogRead p.toNat insp s else (0, s)))

/-- `NOC_PERR_COUNT` as read (RC): one read clears both fields. -/
def nocPerrRead (die : Nat) (insp : Bool) (s : State) : Word × State :=
  let d := s.nocDieAt die
  (wd (d.hdrFix.toNat * 65536 + d.perr.toNat), if insp then s else s.nocDieAtMod die (fun d => { d with hdrFix := 0, perr := 0 }))
/-- `NOC_PERR_COUNT`. -/
def execNocPerrCount (die : Fin 5) (insp : Bool) (s : State) : Host.Outcome State Fault Refusal := .next (State.readTo (nocPerrRead die.val insp s))

end Sys2Proof.Machine
end

