-- ==== Sys2Proof/Machine/Adl.lean ====
section
/-! DEFINITION. The Asueser die link: pairs, acknowledgement and replay, recovery, spare lanes, disable, the sideband, join, fence and rejoin.
File 11. -/

namespace Sys2Proof.Machine

/-- The check of a received frame holds. -/
def sbOk (f : BitVec 64) : Bool := crcBits 8 7 0 ((List.range 56).map (fun i => f.getLsbD (63 - i))) == fld f 7 0

/-- Number of a bundle within its boundary. -/
def bundleInBnd (b : Nat) : Nat := b - (bndBundles (bundleBnd b)).headD 0

/-- A frame is received at an end (R277): one whose check fails, or that is not of the row's message, or that the other end cannot send, is
ignored; every message but ACK and KEEPALIVE is acknowledged. -/
def sbTake (msg : Nat) (fromLeader fromFollower : Bool) (k : Nat) (toLeader : Bool) (f : BitVec 64) (body : State → State) (s : State) : State :=
  if !sbOk f || fld f 63 56 != msg || !((s.bndAt k).sb toLeader).up || !(if toLeader then fromFollower else fromLeader) then s
  else
    let s := if 2 ≤ msg then sbEndMod k toLeader (fun e => { e with tx := e.tx ++ [sbFrame 1 0xF (fld f 51 48) 0 0] }) s else s
    body s

def sbData (f : BitVec 64) : Nat := fld f 47 16
def sbArg (f : BitVec 64) : Nat := fld f 15 8
/-- Bundle a frame names, none when its number is outside the boundary. -/
def sbBundle (k : Nat) (f : BitVec 64) : Option Nat :=
  let l := bndBundles k
  l[fld f 55 52]?

/-- Lanes that start excluded: those of the fuses and of the repair record (R208, R273, R471). -/
def State.knownLanes (s : State) (b : Nat) : BitVec 78 :=
  let fuse := s.fuse 0xB b
  let rec_ := s.tst.record.entries.filter (fun e => fld e.1 31 28 == 3 && onlyBits e.1 0xF7FFE000 && e.2.1 == 0 && e.2.2.1 == 0 && e.2.2.2 == 0
    && fld e.1 26 20 == b)
  bvOf 78 (fun i => (List.range 4).any (fun j => bit fuse (8 * j + 7) && fld fuse (8 * j + 6) (8 * j) == i)
    || rec_.any (fun e => fld e.1 19 13 == i))

/-- End the outstanding transactions to a fenced die with POISON, read data as poisoned flits of zeros, and drop the holds on it (R282, R397). -/
def poisonPort (d p : Nat) (s : State) : State :=
  let mine := (s.iportAt p).out.filter (fun o => o.req.dst.toNat / 128 == d && o.rsp.isNone && o.req.typ != 3)
  let answer (r : NReq) : NRsp :=
    let n := if r.typ = 0 then dataFlits r.addr.toNat r.len.toNat else 0
    rspFor r stPoison (List.replicate n 0) (List.replicate n true)
  let s := s.each mine (fun o t => if o.sent then endTxn p o.req.txid answer t
    else t.iportAtMod p (fun q => { q with out := q.out.map (fun x => if x.req.txid = o.req.txid then { x with rsp := some (answer x.req) } else x) }))
  retire p (s.iportAtMod p (fun q => { q with holds := q.holds.filter (fun t => t.toNat / 128 != d) }))

/-- Boundaries a die has an end on. -/
def dieBnds (d : Nat) : List Nat := (List.range 9).filter (fun k => bndLeader k == d || bndFollower k == d)

/-- Open regions of a fenced die fail (R224): the session of a region ends with HW_FAULT, and its sectors are left as R219 states. -/
def fenceRegions (d : Nat) (s : State) : State :=
  s.each (List.range 16) (fun r t =>
    let g := t.regionAt r
    if g.phase == .closed || g.die.toNat != d then t
    else if (t.sessionOf r).isSome then loadFail rcHwFault t
    else raiseFrom 0 0x3804 (closeBlank r t))

/-- Key ranges of a compute die in the network's stores go empty: channels, partial packets, ports, shadow tables, arbitration, counters (R12). -/
def nocReset (d : Nat) (n : Noc) : Noc :=
  let of (per : Nat) (k : Nat) : Bool := k / per == d
  { n with
    chan := sdrop n.chan (of 960), asm := sdrop n.asm (of 640), arb := sdrop n.arb (of 288), die := sdrop n.die (of 1)
    iport := smap {} n.iport (fun p q => if p / 128 = d then { nextId := q.nextId } else q)
    tport := sdrop n.tport (of 128), rtShadow := sdrop n.rtShadow (of 1024) }

/-- A sector of a die in reset: what the last full load marked unavailable stays so, and the sectors of a failed region stay held (R219, R224). -/
def Sector.dieReset (x : Sector) : Sector :=
  match x.state with
  | .unavailable | .held => { ({} : Sector) with state := x.state }
  | _ => {}

/-- The reset that a break holds a compute die in (R12, R276, R282 step 6): its fabric is blank, and its registers, ports and memories are at their reset
values; its remap tables are those of the last full load (R126). The mask of retained sectors clears only at L6 and L7 (`PWR_RETAIN`). -/
def dieReset (d : Nat) (s : State) : State :=
  if d = 0 ∨ 4 < d then s.onNoc (fun n => { n with asm := sdrop n.asm (fun k => k / 640 == d) })
  else
    let mine (n : Nat) : Bool := n / 192 == d - 1
    let s := dropCapture mine (blankSectors mine s)
    let s := s.each ((List.range 192).map (fun i => (d - 1) * 192 + i)) (fun n => State.secAtMod n Sector.dieReset)
    let s := s.each (List.range 8) (fun i => State.laneAtMod (laneOf d i) (fun _ => {}))
    let s := s.each (List.range 6) (fun b => State.bankAtMod ((d - 1) * 6 + b) (fun q => { ({} : Bank) with meas := q.meas }))
    let s := (s.onNoc (nocReset d)).onDbg (fun x => { x with sfrz := sdrop x.sfrz (fun k => k / 6 == d - 1), frozen := sdrop x.frozen (· == d - 1) })
    let s := s.each ((3 + d) :: (20 + d) :: (List.range 8).map (fun m => 26 + 8 * (d - 1) + m)) (fun i => State.domAtMod i (fun x => { x with
      fail := false, fails := 0, monTol := 20, tol := 80 }))
    { s with
      regs := sdrop s.regs (fun k => k / 2 ^ 28 == d)
      bm := sdrop s.bm (fun k => mine (k / 21)), sdu := sdrop s.sdu (fun k => mine (k / 24)), pin := sdrop s.pin (fun k => mine (k / 288 * 192))
      dm := smap {} s.dm (fun k m => if mine k then { remap := m.remap, fullNoticed := m.fullNoticed } else m) }

/-- `DIE_FENCE` (R282): steps 1 to 6. A fault that would fence H is fatal. -/
def fenceCut (notice : Bool) (d cause : Nat) (s : State) : State :=
  if d = 0 then fatal 0x4B30 s
  else if (s.dieAt d).dstate != 2 then s
  else
    let n := s.noc
    let s := s.when (decide (d ≤ 4) && s.pres d) (holdBridge d)
    let s := s.dieAtMod d (fun x => { x with
      dstate := 3, count := satInc x.count, cause := BitVec.ofNat 4 cause, saved := some (n.rtDefault, n.rtActive, n.fwActive, n.alts) })
    let ks := dieBnds d
    let s := s.each ks (fun k t => sbSend k (bndFollower k == d) 0x30 0xF 0 cause t)
    let s := s.each (ks.flatMap bndBundles) (stopBundle .down)
    let s := s.when notice (raise (0x3B10 + d))
    let s := s.each partIports (poisonPort d)
    let s := s.when (decide (d ≤ 4)) (fun t => t.each ((List.finRange 76).filter (fun b => ks.contains (bundleBnd b.val))) pathSwitchStart)
    let s := fenceRegions d s
    dieReset d (s.each ks stopBnd)
/-- A fence, with its notice. -/
def fenceDie (d cause : Nat) (s : State) : State := fenceCut true d cause s
/-- The same by its row. -/
def execDieFence (d : Fin 7) (cause : BitVec 4) (s : State) : Host.Outcome State Fault Refusal := .next (fenceDie d.val cause.toNat s)

/-- A boundary without a working bundle in one direction disables every bundle it has (R270); one of H fences the die at its end (R282). -/
def boundaryLost (k : Nat) (s : State) : Bool :=
  [0, 1].any (fun dir => (bndBundles k).all (fun b => b % 2 != dir || (s.bundleAt b).dead))

/-- One bundle is disabled (R275), without the check of its boundary. -/
def disableOne (b : Nat) (s : State) : State :=
  if (s.bundleAt b).state == .disabled then s
  else
    let k := bundleBnd b
    let s := stopBundle .disabled b s
    let s := s.each [true, false] (fun l t => sbSend k l 0x33 (bundleInBnd b) 0 0 t)
    pathSwitchStart (Fin.ofNat 76 b) (raise 0x2B04 s)

/-- `BUNDLE_DISABLE` (R270, R275, R282). -/
def disableBundle (b : Nat) (s : State) : State :=
  let k := bundleBnd b
  let s := disableOne b s
  if boundaryLost k s then
    let s := s.each (bndBundles k) disableOne
    if 3 ≤ k then fenceDie (bndFollower k) 5 s else s
  else s

/-- A bundle enters recovery (R272): both ends stop taking flits and exchange RECOVER. -/
def startRecovery (b : Nat) (s : State) : State :=
  if (s.bundleAt b).works then
    let s := s.bundleAtMod b (fun x => { x.settle with
      state := .recovery, wasHalf := x.state == .half, was := x.failed, recoveries := satInc x.recoveries, nak := false, refused := 0, expiries := 0 })
    s.each [true, false] (fun l t => sbSend (bundleBnd b) l 0x32 (bundleInBnd b) 0 0 t)
  else s

/-- `ADL_RECOVERY` (R272). -/
def execAdlRecovery (b : Fin 76) (s : State) : Host.Outcome State Fault Refusal := .next (startRecovery b.val s)
/-- `ADL_BND_RECOVER` (R272): a write of `recover`. -/
def execAdlBndRecover (b : Fin 76) (s : State) : Host.Outcome State Fault Refusal := .next (startRecovery b.val s)
/-- `ADL_BND_DISABLE` (R275): a write of `disable`. -/
def execAdlBndDisable (b : Fin 76) (s : State) : Host.Outcome State Fault Refusal :=
  .next (if (s.bundleAt b.val).dead then s else disableBundle b.val s)

/-- Width under R264 for a number of excluded lanes: full, half when both ends offer it (R279), or none. -/
def State.widthFor (s : State) (b : Nat) (x : BitVec 78) : BndState :=
  if ones x ≤ 4 then .full else if ones x ≤ 41 ∧ s.feature (bundleBnd b) 0 then .half else .disabled

/-- LANE_MAP frames of a bundle, at most four lanes each (R277). -/
def laneMaps (st : BndState) (x : BitVec 78) : List Nat :=
  let l := (List.range 78).filter x.getLsbD
  (List.range (max 1 (ceilDiv l.length 4))).map (fun i =>
    (List.range 4).foldl (fun n j => n + l.getD (4 * i + j) 0x7F * 128 ^ j) 0 + b2n (st == .half) * 2 ^ 28 + b2n (st == .disabled) * 2 ^ 29)
def sendMaps (b : Nat) (st : BndState) (s : State) : State :=
  s.each [true, false] (fun l t => t.each (laneMaps st (t.bundleAt b).failed) (fun d t => sbSend (bundleBnd b) l 0x13 (bundleInBnd b) d 0 t))

/-- `ADL_RECOVERY_COMPLETE` (R264, R272, R273, R275): lanes with errors, or that the other end's LANE_MAP named, are marked failed, and the bundle
resumes or is disabled; one at half width stays so. The third recovery within 10 ms disables it. -/
def adlRecoveryCompleteF (b : Nat) (bad : BitVec 78) (third : Bool) (s : State) : State :=
  let x := s.bundleAt b
  if x.state != .recovery then s
  else
    let new := (List.range 78).filter (fun i => (x.failed ||| bad).getLsbD i && !x.was.getLsbD i)
    let s := s.bundleAtMod b (fun x => { x with failed := x.failed ||| bad })
    let s := s.each new (recordLane b)
    let w := s.widthFor b (x.failed ||| bad)
    let st : BndState := if third then .disabled else if w = .full ∧ x.wasHalf then .half else w
    let s := sendMaps b st s
    if st = .disabled then disableBundle b s
    else
      let s := s.bundleAtMod b (fun x => linkPump x.txLink.length { x with state := st })
      let s := raise 0x1B02 s
      let s := s.when (!new.isEmpty && st == .full) (raise 0x1B01)
      rltBegin b (s.when (st == .half && !x.wasHalf) (raise 0x2B03))
def execAdlRecoveryComplete (b : Fin 76) (bad : BitVec 78) (third : Bool) (s : State) : Host.Outcome State Fault Refusal :=
  .next (adlRecoveryCompleteF b.val bad third s)

/-- The acknowledgement, credits and NAK that a link flit brings for bundle `b` (R270, R271). -/
def takeAck (b : Nat) (nak : Bool) (aseq : Byte) (cr : Nat) (x : Bundle) : Bundle :=
  let keep (p : Byte × BitVec 288 × BitVec 288) : Bool := if nak then tagPast aseq p.1 else !tagPast p.1 aseq
  let left := x.unacked.filter keep
  let x := { x with
    used := (List.range 5).foldl (fun m v => sput 0 m v (sget 0 x.used v - cr / 16 ^ v % 16)) x.used
    unacked := left, open1 := false
    expiries := if left.length < x.unacked.length then 0 else x.expiries
    replays := if nak then satAdd x.replays left.length else x.replays
    stag := match x.stag with
      | some t => if !nak && tagPast t aseq then none else some t
      | none => none }
  if b < 76 then linkPump x.txLink.length x else x

/-- `REQ_OUT` (R274): the transmitter is asked for a lane, and answers with STEER_OUT. -/
def reqOutF (b : Nat) (lane : Nat) (test : Bool) (s : State) : State :=
  let x := s.bundleAt b
  if lane < 78 ∧ s.rltMay b ∧ x.txOut = none ∧ x.txNext = none ∧ !x.failed.getLsbD lane then
    steerSend b (s.bundleAtMod b (fun x => { x with ask := some (true, test, BitVec.ofNat 7 lane) }))
  else s
def execReqOut (b : Fin 76) (lane : BitVec 7) (test : Bool) (s : State) : Host.Outcome State Fault Refusal := .next (reqOutF b.val lane.toNat test s)

/-- `STEER_OUT` (R273, R274): the receiver excludes the lane from the given tag; for the rolling test its dwell begins there, and otherwise the lane is
marked failed. -/
def steerOutF (b lane : Nat) (test : Bool) (stag : Byte) (s : State) : State :=
  if lane < 78 then rxChange b stag (.out (BitVec.ofNat 7 lane) test) s else s
def execSteerOut (b : Fin 76) (lane : BitVec 7) (test : Bool) (stag : Byte) (s : State) : Host.Outcome State Fault Refusal :=
  .next (steerOutF b.val lane.toNat test stag s)

/-- `RLT_DWELL_EXPIRY` (R273, R274): a lane without an error is asked back; one with an error is marked failed and stays excluded. -/
def rltDwellExpiryF (b : Nat) (err : Bool) (s : State) : State :=
  let x := s.bundleAt b
  if x.rlt != .testing then s
  else if err then
    rltBegin b ((failLane b x.testLane.toNat s).bundleAtMod b (fun x => { x with rlt := .idle, txOut := none, rxOut := none }))
  else rltBegin b (s.bundleAtMod b (fun x => { x with rlt := .due }))
def execRltDwellExpiry (b : Fin 76) (err : Bool) (s : State) : Host.Outcome State Fault Refusal := .next (rltDwellExpiryF b.val err s)

/-- `REQ_IN` (R274): the transmitter is asked to return the lane it has out, and answers with STEER_IN. -/
def reqInF (b lane : Nat) (s : State) : State :=
  if (s.bundleAt b).txOut = some (BitVec.ofNat 7 lane) ∧ lane < 78 then
    steerSend b (s.bundleAtMod b (fun x => { x with ask := some (false, true, BitVec.ofNat 7 lane) }))
  else s
def execReqIn (b : Fin 76) (lane : BitVec 7) (s : State) : Host.Outcome State Fault Refusal := .next (reqInF b.val lane.toNat s)

/-- `STEER_IN` (R274): the lane returns to service from the given tag. -/
def steerInF (b lane : Nat) (stag : Byte) (s : State) : State :=
  if (s.bundleAt b).rxOut = some (BitVec.ofNat 7 lane) ∧ lane < 78 then rxChange b stag (.back (BitVec.ofNat 7 lane)) s else s
def execSteerIn (b : Fin 76) (lane : BitVec 7) (stag : Byte) (s : State) : Host.Outcome State Fault Refusal := .next (steerInF b.val lane.toNat stag s)

/-- `HALF` (R264): the half-width map applies from the given tag. No rule has an end of the part send it. -/
def halfF (b : Nat) (stag : Byte) (s : State) : State :=
  if (s.bundleAt b).state == .full && s.feature (bundleBnd b) 0 then rxChange b stag .half s else s
def execHalf (b : Fin 76) (stag : Byte) (s : State) : Host.Outcome State Fault Refusal := .next (halfF b.val stag s)

/-- `ADL_LINK_FLIT` (R269 to R271, R274): a link flit received on bundle `b` brings what its fields name. A REQ_OUT or REQ_IN concerns the
reverse bundle, whose receiver sends it. -/
def adlLinkFlitF (b : Nat) (f : BitVec 288) (s : State) : State :=
  if !isLinkFlit f || fld f 31 28 != 0xF then s
  else
    let a := fld f 23 17; let lane := fld f 80 74; let test := bit f 81; let stag : Byte := BitVec.ofNat 8 (fld f 95 88)
    let s := if a < 76 then steerSend a (s.bundleAtMod a (takeAck a (bit f 16) (BitVec.ofNat 8 (fld f 15 8)) (fld f 51 32))) else s
    match fld f 27 24 with
    | 1 => steerOutF b lane test stag s
    | 2 => steerInF b lane stag s
    | 3 => halfF b stag s
    | 4 => reqOutF (bundleRev b) lane test s
    | 5 => reqInF (bundleRev b) lane s
    | _ => s
def execAdlLinkFlit (b : Fin 76) (f : BitVec 288) (s : State) : Host.Outcome State Fault Refusal := .next (adlLinkFlitF b.val f s)

/-- A NoC flit that a receiver accepted goes on to its router (R268, R275). -/
def bundleFlit (b : Nat) (f : BitVec 288) (s : State) : State :=
  let x := s.bundleAt b
  let q := bundleTo b
  let (vc, left) : Fin 5 × Nat := match x.rxPkt with | some (v, n) => (v, n - 1) | none => (Fin.ofNat 5 (hdrVc f), s.hdrFlits f)
  let s := s.bundleAtMod b (fun x => { x with rxPkt := if left = 0 then none else some (vc, left) })
  if q / 32 < 5 then s.chanAtMod (chanKey q (inportOf (bundleFrom b).1 q) vc.val) (fun c => { c with buf := c.buf ++ [f] }) else s

/-- `ADL_PAIR_RECEIVE` (R267 to R272): a pair is accepted when its control bits match under the expected tag. A pair intact under another tag
is discarded; any other is refused with a NAK, and the fourth refusal in succession starts a recovery. -/
def adlPairReceiveF (b : Nat) (s0 s1 : BitVec 288) (r : BitVec 16) (s : State) : State :=
  let x := s.bundleAt b
  if !x.works then s
  else if pairCrc x.rxTag s0 s1 = r.toNat then
    let s := s.bundleAtMod b (fun x => { x with rxTag := x.rxTag + 1, nak := false, refused := 0, accepted := x.accepted + 1 })
    let s := rxTurn b (s.each [s0, s1] (fun f t => if isLinkFlit f then adlLinkFlitF b f t else bundleFlit b f t))
    s.when (s.bundleAt b).ackDue (sendAck b)
  else
    let s := s.bundleAtMod b (fun x => { x with crcErr := satInc x.crcErr })
    if x.nak && (List.range 256).any (fun t => pairCrc (BitVec.ofNat 8 t) s0 s1 == r.toNat) then s
    else
      let s := s.bundleAtMod b (fun x => { x with nak := true, refused := x.refused + 1 })
      if 4 ≤ x.refused + 1 then startRecovery b s else sendAck b s
def execAdlPairReceive (b : Fin 76) (slot0 slot1 : BitVec 288) (r : BitVec 16) (s : State) : Host.Outcome State Fault Refusal :=
  .next (adlPairReceiveF b.val slot0 slot1 r s)

/-- `ADL_ACK_TIMER` (R270): 64 link cycles have passed with something pending. -/
def execAdlAckTimer (b : Fin 76) (s : State) : Host.Outcome State Fault Refusal :=
  .next (s.when ((s.bundleAt b.val).works && (s.bundleAt b.val).ackPending) (sendAck b.val))

/-- `ADL_REPLAY_TIMER` (R271, R272): 2 µs without an acknowledgement; the fourth expiry without progress starts a recovery. -/
def adlReplayTimerF (b : Nat) (s : State) : State :=
  let x := s.bundleAt b
  if !x.works || x.unacked.isEmpty then s
  else
    let s := s.bundleAtMod b (fun x => { x with replays := satAdd x.replays x.unacked.length, expiries := x.expiries + 1, open1 := false })
    s.when (decide (4 ≤ x.expiries + 1)) (startRecovery b)
def execAdlReplayTimer (b : Fin 76) (s : State) : Host.Outcome State Fault Refusal := .next (adlReplayTimerF b.val s)

/-- `ADL_BND_ERR` of one end as read (RC): the transmitter counts the pairs it resends, the receiver those it refuses. -/
def adlBndErrRead (b : Nat) (receiver insp : Bool) (s : State) : Word × State :=
  let x := s.bundleAt b
  if receiver then (wd x.crcErr.toNat, if insp then s else s.bundleAtMod b (fun x => { x with crcErr := 0 }))
  else (wd (x.replays.toNat * 65536), if insp then s else s.bundleAtMod b (fun x => { x with replays := 0 }))
def execAdlBndErr (b : Fin 76) (receiver insp : Bool) (s : State) : Host.Outcome State Fault Refusal :=
  .next (State.readTo (adlBndErrRead b.val receiver insp s))

/-- `ADL_SB_STATUS` of a die's end as read (RC `resend`). -/
def adlSbStatusRead (die k : Nat) (insp : Bool) (s : State) : Word × State :=
  let l := bndLeader k == die
  let e := (s.bndAt k).sb l
  (wd (e.resend.toNat * 65536 + b2n e.fail * 4 + b2n l * 2 + b2n e.up), if insp then s else sbEndMod k l (fun e => { e with resend := 0 }) s)
def execAdlSbStatus (die : Fin 5) (k : Fin 9) (insp : Bool) (s : State) : Host.Outcome State Fault Refusal :=
  .next (State.readTo (if bndLeader k.val = die.val ∨ bndFollower k.val = die.val then adlSbStatusRead die.val k.val insp s else (0, s)))

/-- `KEEPALIVE` (R277). -/
def execKeepalive (k : Fin 9) (toLeader : Bool) (f : BitVec 64) (s : State) : Host.Outcome State Fault Refusal :=
  .next (sbTake 0 true true k.val toLeader f id s)

/-- `ACK` (R277): the frame with that counter value is acknowledged. -/
def execAck (k : Fin 9) (toLeader : Bool) (f : BitVec 64) (s : State) : Host.Outcome State Fault Refusal :=
  .next (sbTake 1 true true k.val toLeader f (sbEndMod k.val toLeader (fun e => { e with wait := e.wait.filter (fun w => fld w.1 51 48 != fld f 51 48) })) s)

/-- Start training at a rate (steps 3 and 4 of R278): BOOT_GO, or REJOIN after a fence (R283). -/
def sendBootGo (k rate : Nat) (s : State) : State :=
  let b := s.bndAt k
  sbSend k true (if b.rejoin then 0x31 else 0x11) 0xF rate 0 (s.bndAtMod k (fun b => { b with step := 3, syncL := false, syncF := false, rate := BitVec.ofNat 2 rate }))

/-- `HELLO` (R26, R278, R279): the link runs at the larger rate code, and at 12 Gb/s only with that feature; the follower names its kind, version, rate and features; a terminator at a guest site is recorded. -/
def helloF (k : Nat) (toLeader : Bool) (f : BitVec 64) (s : State) : State :=
  sbTake 0x10 false true k toLeader f (fun s =>
    let d := sbData f; let rate := max (d % 256) (if (sbArg f).testBit 3 then 0 else 1)
    if (s.bndAt k).step = 0 ∨ 2 < (s.bndAt k).step ∨ 2 < rate then s
    else
      let s := s.bndAtMod k (fun b => { b with
        step := 2, kind := BitVec.ofNat 16 (d / 65536), version := BitVec.ofNat 8 (d / 256), topRate := BitVec.ofNat 8 d, features := BitVec.ofNat 8 (sbArg f) })
      if d / 65536 = 3 ∧ 7 ≤ k then s.dieAtMod (bndFollower k) (fun x => { x with terminator := true, settled := true, dstate := 0 })
      else sendBootGo k rate s) s
def execHello (k : Fin 9) (toLeader : Bool) (f : BitVec 64) (s : State) : Host.Outcome State Fault Refusal := .next (helloF k.val toLeader f s)

/-- Training begins at both ends (step 4 of R278): lanes of the fuses and the repair record, and those marked failed since the start, are excluded (R273). -/
def trainStart (k : Nat) (f : BitVec 64) (s : State) : State :=
  if (s.bndAt k).step != 3 || decide (2 < sbData f % 256) then s
  else
    let s := s.bndAtMod k (fun b => { b with step := 4, rate := BitVec.ofNat 2 (sbData f) })
    stepReport k (s.each (bndBundles k) (fun b t => t.bundleAtMod b (fun x => { x.fresh with
      state := .training, wasHalf := false, rate := BitVec.ofNat 2 (sbData f), failed := x.failed ||| t.knownLanes b })))
/-- `BOOT_GO` (R278, R279). -/
def execBootGo (k : Fin 9) (toLeader : Bool) (f : BitVec 64) (s : State) : Host.Outcome State Fault Refusal :=
  .next (sbTake 0x11 true false k.val toLeader f (trainStart k.val f) s)
/-- `REJOIN` (R283). -/
def execRejoin (k : Fin 9) (toLeader : Bool) (f : BitVec 64) (s : State) : Host.Outcome State Fault Refusal :=
  .next (sbTake 0x31 true false k.val toLeader f (trainStart k.val f) s)

/-- A bundle that trains takes its width under R264, or is disabled, in step 8 (R278, R279); the state is entered when the link layer starts. -/
def spareWidth (b : Nat) (s : State) : State :=
  let st := s.widthFor b (s.bundleAt b).failed
  if (s.bundleAt b).state == .training then
    s.bundleAtMod b (fun x => { x with state := if st = .disabled then .disabled else .training, wasHalf := x.wasHalf || st == .half })
  else s

/-- Width a bundle leaves training with. -/
def Bundle.width (x : Bundle) : BndState := if x.state == .disabled then .disabled else if x.wasHalf then .half else .full

/-- Step 8 begins (R278): each bundle takes its width, and both ends send their LANE_MAP. -/
def spareChoose (k : Nat) (s : State) : State :=
  s.each (bndBundles k) (fun b t => let t := spareWidth b t; sendMaps b (t.bundleAt b).width t)

/-- `SPARE_SELECTION` (the end of step 8 of R278, R264, R273): each bundle has its width or is disabled, with its notices. -/
def spareSelect (k : Nat) (s : State) : State :=
  s.each (bndBundles k) (fun b t =>
    let x := t.bundleAt b
    match x.width with
    | .disabled => raise 0x2B04 t
    | .half => raise 0x2B03 t
    | _ => t.when (x.failed != 0) (raise 0x1B01))

/-- The link layer of a bundle that trained starts at tag 0 (step 10 of R278), and its rolling test with it. -/
def linkStart (k : Nat) (s : State) : State :=
  let s := s.each (bndBundles k) (fun i t => t.bundleAtMod i (fun x => if x.state == .training then { x.fresh with state := x.width } else x))
  s.each (bndBundles k) rltBegin

/-- The join step after step n of a boundary: a wake that kept its lanes passes over steps 7 and 9 (R284). -/
def stepAfter (retrain : Bool) (n : Nat) : Nat := if retrain then (if n = 6 then 8 else if n = 8 then 11 else n + 1) else n + 1

/-- A join step is passed at both ends and the next one begins (R278, R284). -/
def stepPassed (k : Nat) (s : State) : State :=
  let b := s.bndAt k
  if b.syncL && b.syncF && (b.step != 9 || (b.capL == 0xF && b.capF == 0xF)) then
    let s := s.bndAtMod k (fun b => { b with step := stepAfter b.retrain b.step, retrain := b.retrain && b.step != 8, syncL := false, syncF := false })
    let s := s.when (b.step == 8) (spareSelect k)
    let n := (s.bndAt k).step
    if n = 10 then sbSend k true 0x15 0xF (bndFollower k + s.devId * 8) 0 s
    else if n = 11 then linkStart k s
    else stepReport k (s.when (n == 8) (spareChoose k))
  else s

/-- `TRAIN_SYNC` (R278): an end reports whether it passed the step. -/
def trainSyncF (k : Nat) (toLeader : Bool) (f : BitVec 64) (s : State) : State :=
  sbTake 0x12 true true k toLeader f (fun s =>
    let b := s.bndAt k
    if b.step = sbArg f ∧ 4 ≤ b.step ∧ b.step ≤ 9 ∧ sbData f % 2 = 1 then
      stepPassed k (s.bndAtMod k (fun b => if toLeader then { b with syncF := true } else { b with syncL := true }))
    else s) s
def execTrainSync (k : Fin 9) (toLeader : Bool) (f : BitVec 64) (s : State) : Host.Outcome State Fault Refusal := .next (trainSyncF k.val toLeader f s)

/-- `LANE_MAP` (R264, R272, R273, R277, R278): the failed sets of the two ends are joined while the bundle trains or recovers, and in step 8 it takes no more
width than the other end names. -/
def laneMapF (k : Nat) (toLeader : Bool) (f : BitVec 64) (s : State) : State :=
  sbTake 0x13 true true k toLeader f (fun s =>
    match sbBundle k f with
    | none => s
    | some b =>
      let m : BitVec 78 := bvOf 78 (fun i => (List.range 4).any (fun j => sbData f / 128 ^ j % 128 == i))
      if (s.bundleAt b).state == .recovery then s.bundleAtMod b (fun x => { x with failed := x.failed ||| m })
      else if (s.bundleAt b).state == .training then
        let s := s.bundleAtMod b (fun x => { x with
          failed := x.failed ||| m, wasHalf := x.wasHalf || (sbData f).testBit 28, state := if (sbData f).testBit 29 then .disabled else x.state })
        s.when ((s.bndAt k).step == 8) (spareWidth b)
      else s) s
def execLaneMap (k : Fin 9) (toLeader : Bool) (f : BitVec 64) (s : State) : Host.Outcome State Fault Refusal := .next (laneMapF k.val toLeader f s)

/-- `CAP` (R277 to R279): a page of capabilities. -/
def capF (k : Nat) (toLeader : Bool) (f : BitVec 64) (s : State) : State :=
  sbTake 0x14 true true k toLeader f (fun s =>
    if 4 ≤ sbArg f ∨ (s.bndAt k).step != 9 then s
    else stepPassed k (s.bndAtMod k (fun b => if toLeader then { b with capF := setBit b.capF (sbArg f) true, caps := sput 0 b.caps (sbArg f) (wd (sbData f)) }
      else { b with capL := setBit b.capL (sbArg f) true }))) s
def execCap (k : Fin 9) (toLeader : Bool) (f : BitVec 64) (s : State) : Host.Outcome State Fault Refusal := .next (capF k.val toLeader f s)

/-- Bundles disabled at training have their alternate entries committed with the default set (R280). -/
def joinRoutes (s : State) : State :=
  let dead := (List.finRange 76).filter (fun b => (s.bundleAt b.val).state == .disabled)
  (defaultRoutes s).onNoc (fun n => { n with alts := dead, altInUse := !dead.isEmpty })

/-- Bundles that training left disabled at a compute boundary have their alternate entries committed (R280). -/
def bndRoutes (k : Nat) (s : State) : State :=
  let dead := (List.finRange 76).filter (fun b => bundleBnd b.val == k && (s.bundleAt b.val).state == .disabled && !s.noc.alts.contains b)
  s.onNoc (fun n => { n with alts := dead ++ n.alts, altInUse := n.altInUse || !dead.isEmpty })

/-- Boundaries between a compute die that has joined and a joined neighbour, which train next (R278). -/
def neighbourBnds (s : State) (d : Nat) : List Nat :=
  if 4 < d then [] else (if 2 ≤ d ∧ s.present (d - 1) then [d - 2] else []) ++ (if d ≤ 3 ∧ s.present (d + 1) then [d - 1] else [])

/-- `JOINED` (step 10 of R278, R71, R97, R270, R273, R279, R280): the link layer starts at tag 0. A boundary without a working bundle in one direction has
every bundle disabled; a compute boundary runs its bridge test; and at a boundary of H the die has joined, unless it has passed its limit. The default set
is committed unless the die rejoins. -/
def joinedF (k : Nat) (toLeader : Bool) (f : BitVec 64) (bridgeFails : List (Bool × Fin 288 × Fin 33)) (s : State) : State :=
  sbTake 0x15 true false k toLeader f (fun s =>
    if (s.bndAt k).step != 10 then s
    else
      let b := s.bndAt k
      let s := linkStart k (s.bndAtMod k (fun b => { b with step := 11 }))
      let slow := (b.rate != 0 || decide (b.version.toNat < 2)) && !b.slowNoticed
      let s := s.when slow (fun t => raise 0x2B05 (t.bndAtMod k (fun b => { b with slowNoticed := true })))
      let s := s.when (boundaryLost k s) (fun s => s.each (bndBundles k) disableOne)
      if k < 3 then bridgeTest k (bridgeFails.map (fun x => (x.1, x.2.1.val, x.2.2.val))) (bndRoutes k s)
      else if boundaryLost k s || b.rejoin || (s.dieAt (bndFollower k)).dstate == 0 then s
      else
        let d := bndFollower k
        let s := s.dieAtMod d (fun x => { x with dstate := 2, settled := true, joinedOnce := true })
        let s := joinRoutes s
        s.each ((neighbourBnds s d).filter (fun j => (s.bndAt j).step == 0)) (fun j t => endBreak j false t)) s
def execJoined (k : Fin 9) (toLeader : Bool) (f : BitVec 64) (bridgeFails : List (Bool × Fin 288 × Fin 33)) (s : State) :
    Host.Outcome State Fault Refusal := .next (joinedF k.val toLeader f bridgeFails s)

/-- `PWR_REQ` (R284): the follower prepares for the rung; a compute die answers PWR_ACK. -/
def execPwrReq (k : Fin 9) (toLeader : Bool) (f : BitVec 64) (s : State) : Host.Outcome State Fault Refusal :=
  .next (sbTake 0x20 true false k.val toLeader f (fun s => s.when (decide (k.val < 7)) (sbSend k.val false 0x21 0xF 0 (sbArg f))) s)
/-- `PWR_ACK` (R284): the follower has reached the rung. -/
def execPwrAck (k : Fin 9) (toLeader : Bool) (f : BitVec 64) (s : State) : Host.Outcome State Fault Refusal :=
  .next (sbTake 0x21 false true k.val toLeader f (State.bndAtMod k.val (fun b => { b with pwrReq := none, pwrVote := none })) s)
/-- `PWR_DENY` (R284): the shallowest rung the follower allows becomes a vote of the MGR client. -/
def execPwrDeny (k : Fin 9) (toLeader : Bool) (f : BitVec 64) (s : State) : Host.Outcome State Fault Refusal :=
  .next (sbTake 0x22 false true k.val toLeader f (State.bndAtMod k.val (fun b =>
    if b.pwrReq.isSome then { b with pwrReq := none, pwrVote := some (BitVec.ofNat 4 (sbArg f)) } else b)) s)
/-- `PWR_REQ_TIMEOUT` (R284): no answer within 100 µs counts as a vote at L0. -/
def execPwrReqTimeout (k : Fin 9) (s : State) : Host.Outcome State Fault Refusal :=
  .next (s.bndAtMod k.val (fun b => if b.pwrReq.isSome then { b with pwrReq := none, pwrVote := some 0 } else b))

/-- `SIDEBAND_FENCE` (R282): a die asks for its own fence at its boundary with H. -/
def execSidebandFence (k : Fin 9) (toLeader : Bool) (f : BitVec 64) (s : State) : Host.Outcome State Fault Refusal :=
  .next (sbTake 0x30 true true k.val toLeader f (fun s => s.when (toLeader && decide (3 ≤ k.val)) (fenceDie (bndFollower k.val) 3)) s)
/-- `RECOVER` (R272): the bundle named is in recovery. -/
def execRecover (k : Fin 9) (toLeader : Bool) (f : BitVec 64) (s : State) : Host.Outcome State Fault Refusal :=
  .next (sbTake 0x32 true true k.val toLeader f (fun s => match sbBundle k.val f with | some b => startRecovery b s | none => s) s)
/-- `DISABLE` (R275): the bundle named is disabled. -/
def execDisable (k : Fin 9) (toLeader : Bool) (f : BitVec 64) (s : State) : Host.Outcome State Fault Refusal :=
  .next (sbTake 0x33 true true k.val toLeader f (fun s => match sbBundle k.val f with
    | some b => if (s.bundleAt b).dead then s else disableBundle b s
    | none => s) s)
/-- `NOTICE` (R392): a guest's notice is recorded with the origin of its site, its code as it stands, whatever its class field (R8; log 134). -/
def execNotice (k : Fin 9) (toLeader : Bool) (f : BitVec 64) (s : State) : Host.Outcome State Fault Refusal :=
  .next (sbTake 0x40 false true k.val toLeader f (fun s => s.when (decide (7 ≤ k.val)) (raiseFrom (k.val - 2) (sbData f % 65536))) s)

/-- `SIDEBAND_FAILED` (R277): `fail` sets; on a boundary of H the die is fenced (R282), on another every bundle is disabled (R275). -/
def sbFail (k : Nat) (s : State) : State :=
  if !(s.bndAt k).leader.up then s
  else
    let s := s.bndAtMod k (fun b => { b with
      leader := { b.leader.stop with fail := true }, follower := { b.follower.stop with fail := true } })
    if 3 ≤ k then fenceDie (bndFollower k) 2 s else s.each ((bndBundles k).filter (fun b => !(s.bundleAt b).dead)) disableOne
/-- `SB_FAIL` (R277). -/
def execSbFail (k : Fin 9) (s : State) : Host.Outcome State Fault Refusal := .next (sbFail k.val s)

/-- `SB_RESEND_TIMER` (R277): the oldest frame without an acknowledgement is resent, up to 8 times. -/
def sbResendTimerF (k : Nat) (fromLeader : Bool) (s : State) : State :=
  match ((s.bndAt k).sb fromLeader).wait with
  | [] => s
  | (f, n) :: rest =>
    if 8 ≤ n then sbFail k s
    else sbEndMod k fromLeader (fun e => { e with wait := (f, n + 1) :: rest, resend := satInc e.resend, tx := e.tx ++ [f] }) s
def execSbResendTimer (k : Fin 9) (fromLeader : Bool) (s : State) : Host.Outcome State Fault Refusal := .next (sbResendTimerF k.val fromLeader s)

/-- `SB_KEEPALIVE_TIMER` (R277): a sender that sent nothing for 10 µs sends KEEPALIVE. -/
def execSbKeepaliveTimer (k : Fin 9) (fromLeader : Bool) (s : State) : Host.Outcome State Fault Refusal :=
  .next (sbSend k.val fromLeader 0 0xF 0 0 s)

/-- `SB_BREAK` (R276): SBL_D is low for 2,000 cycles or longer; the boundary's bundles are idle, and at a boundary of H the follower is held in reset
(log 148). -/
def sbBreakF (k cycles : Nat) (s : State) : State :=
  if cycles < 2000 then s
  else
    let s := stopBnd k s
    if 3 ≤ k then dieReset (bndFollower k) (s.dieAtMod (bndFollower k) (fun x => { x with dstate := if x.dstate = 3 then 3 else 0 })) else s
def execSbBreak (k : Fin 9) (cycles : Nat) (s : State) : Host.Outcome State Fault Refusal := .next (sbBreakF k.val cycles s)

/-- `JOIN_STEP_TIMEOUT` (R278): the sequence restarts from step 3 at the next lower rate. -/
def joinStepTimeoutF (k : Nat) (s : State) : State :=
  let b := s.bndAt k
  if 3 ≤ b.step ∧ b.step ≤ 10 then
    sendBootGo k (min 2 (b.rate.toNat + 1)) (s.bndAtMod k (fun b => { b with capL := 0, capF := 0, retrain := false }))
  else s
def execJoinStepTimeout (k : Fin 9) (s : State) : Host.Outcome State Fault Refusal := .next (joinStepTimeoutF k.val s)

/-- Step 1 of a rejoin (R283): MGR ends the break of a fenced die. -/
def rejoinStart (d : Nat) (s : State) : State :=
  if (s.dieAt d).dstate = 3 ∧ !(s.dieAt d).gaveUp then endBreak (hubBnd d) true (s.dieAtMod d (fun x => { x with dstate := 1 })) else s

/-- Steps 3 and 4 of a rejoin (R212, R213, R283): the sectors of the die take the frames last loaded, where they are held, and start. The sectors of a failed
region stay as R219 leaves them (R224). -/
def reloadDie (d : Nat) (s : State) : State :=
  let secs := ((List.range 192).map (fun i => (d - 1) * 192 + i)).filter (fun n => (s.secAt n).state == .blank)
  let s := s.when s.pwr.warmHeld (fun s =>
    let s := s.each secs (fun n t => warmWrite n (t.secAtMod n (fun x => { x with state := .loading })))
    let s := markUnusable (secs.filter (fun n => (s.secAt n).written)) s
    (s.each (List.range 6) (bankApply (d - 1))).each [0, 1] (quadApply (d - 1)))
  let s := s.each (secs.filter (fun n => (s.secAt n).state != .unavailable && !(s.secAt n).written)) (fun n t =>
    t.secAtMod n (fun x => { x with state := .blank, inReset := false }))
  s.each (secs.filter (fun n => (s.secAt n).state == .loading && (s.secAt n).written)) releaseSec

/-- The state of compute die d, 1 to 4, that a die test saves (step 3 of R476). -/
def State.dieSave (s : State) (d : Nat) : DieSave :=
  let other (n : Nat) : Bool := n / 192 != d - 1
  { sectors := sdrop s.cfg.sectors other, frames := sdrop s.fab.frames (fun k => other (k / (607 * 256))), ffs := sdrop s.fab.ffs (fun k => other (k / 32768))
    bm := sdrop s.bm (fun k => other (k / 21)), dm := sdrop s.dm other, sdu := sdrop s.sdu (fun k => other (k / 24)) }

/-- Each flip-flop of a sector has the `init` of its saved value (step 6 of R476). -/
def initSaved (v : DieSave) (n : Nat) (s : State) : State :=
  s.each (List.range 2048) (fun t s => s.each (List.range 16) (fun i =>
    setPlaneBit n fFf (t * 16 + i) 2 (sget false v.ffs (n * 32768 + t * 16 + i))))

/-- The sectors that `p` names take their saved frames, flip-flops, memories and SDUs again (step 6 of R476). -/
def saveWrite (v : DieSave) (p : Nat → Bool) (s : State) : State :=
  let s := s.onFab (fun f => { f with
    frames := v.frames.foldl (fun m e => if p (e.1 / (607 * 256)) then sput 0 m e.1 e.2 else m) f.frames
    ffs := v.ffs.foldl (fun m e => if p (e.1 / 32768) then sput false m e.1 e.2 else m) f.ffs })
  { s with
    bm := v.bm.foldl (fun m e => if p (e.1 / 21) then smod {} m e.1 (fun q => { q with words := e.2.words }) else m) s.bm
    dm := v.dm.foldl (fun m e => if p e.1 then smod {} m e.1 (fun q => { q with words := e.2.words }) else m) s.dm
    sdu := v.sdu.foldl (fun m e => if p (e.1 / 24) then smod {} m e.1 (fun q => { q with istore := e.2.istore, x := e.2.x, y := e.2.y }) else m) s.sdu }

/-- MGR writes back the register sets of the SDUs of a sector that runs again (step 6 of R476). -/
def sduWrite (v : DieSave) (n : Nat) (s : State) : State :=
  { s with sdu := v.sdu.foldl (fun m e =>
      if e.1 / 24 = n then smod {} m e.1 (fun q => { q with set0 := e.2.set0, set1 := e.2.set1, act := e.2.act }) else m) s.sdu }

/-- Steps 6 and 7 of a die test (R223, R475, R476): the sectors of the die take their saved state and start, those whose rows failed stay held blank, and BIST_RUN
replies. -/
def testDieBack (b : BistRun) (bad : List Nat) (s : State) : State :=
  let v := b.save; let d := b.die.val
  let s := saveWrite v (fun n => !bad.contains n) s
  let s := (s.each (List.range 6) (bankApply d)).each [0, 1] (quadApply d)
  let s := s.each v.sectors (fun e t =>
    if bad.contains e.1 then t.secAtMod e.1 (fun _ => { state := .held, hold := true })
    else if e.2.state = .running then sduWrite v e.1 (releaseSec e.1 (initSaved v e.1 t))
    else t.secAtMod e.1 (fun _ => e.2))
  let s := s.onTst (fun t => { t with bist := t.bist.filter (· != b) })
  let s := match b.cmd.bind s.findCmd with
    | some c => finish c rcOk [(sget (0x80000000, 0) s.tst.result (1024 + d)).1] s
    | none => s
  raiseFrom (d + 1) 0x02C3 (s.when (!bad.isEmpty) (raiseFrom (d + 1) 0x32C1))

/-- Steps 2 to 5 of a rejoin, once the link layer runs (R280, R283); that of a die test restores the die instead (R476). -/
def rejoinEnd (d : Nat) (s : State) : State :=
  let test := s.tst.bist.find? (fun b => b.whole && b.die.val + 1 == d && b.tested.isSome)
  let blank := decide (d ≤ 4) && !s.pwr.warmHeld && test.isNone
  let s := match (s.dieAt d).saved with
    | some (df, rt, fw, al) => s.onNoc (fun n => { n with rtDefault := df, rtActive := rt, fwActive := fw, alts := al, altInUse := !al.isEmpty })
    | none => s
  let s := match test with
    | some b => testDieBack b (b.tested.getD []) s
    | none => s.when (decide (d ≤ 4)) (reloadDie d)
  let s := s.dieAtMod d (fun x => { x with dstate := 2, blank := blank, saved := none })
  let s := s.bndAtMod (hubBnd d) (fun b => { b with rejoin := false })
  let s := s.each (neighbourBnds s d) (fun j t => endBreak j true t)
  let s := s.when blank (raise 0x3B08)
  raise (0x0B20 + d) s

/-- Clock domains of a compute die (R427). -/
def dieDomains (d : Nat) : List Nat := if 1 ≤ d ∧ d ≤ 4 then (3 + d) :: (List.range 8).map (fun m => 26 + 8 * (d - 1) + m) else []

/-- A domain has left its primary source for its fallback, or stopped (R432, R434). -/
def ClkDom.displaced (x : ClkDom) : Bool := x.state == .fallback || x.state == .stopped || (x.state == .ramping && x.src == 2)

/-- The domains of a die can return to their primary sources: none has left its own, or REFCLK_H has passed again (R435). -/
def State.clocksBack (s : State) (d : Nat) : Bool := (dieDomains d).all (fun i => !(s.domAt i).displaced) || (s.domAt 25).qualified

/-- MGR returns the domains of a die to their primary sources before its rejoin (R435). -/
def clocksReturn (d : Nat) (s : State) : State :=
  s.each (dieDomains d) (fun i t => t.domAtMod i (fun x => if x.displaced then { x with state := .running, src := 0, ramp := none } else x))

/-- `DIE_REJOIN` (R280, R283, R435): MGR takes a fenced die through its rejoin: it ends the break, unless this was the third fence within 1 s; and
once the die's link runs again it reloads the die. -/
def dieRejoinF (d : Nat) (thrice : Bool) (s : State) : State :=
  let x := s.dieAt d
  if x.dstate = 3 then
    if thrice then s.dieAtMod d (fun x => { x with gaveUp := true })
    else if s.clocksBack d && (decide (4 < d) || s.pwr.good.getLsbD 3) then rejoinStart d (clocksReturn d s) else s
  else if x.dstate = 1 ∧ (s.bndAt (hubBnd d)).rejoin ∧ (s.bndAt (hubBnd d)).step = 11 ∧ !boundaryLost (hubBnd d) s then rejoinEnd d s
  else s
def execDieRejoin (d : Fin 7) (thrice : Bool) (s : State) : Host.Outcome State Fault Refusal :=
  .next (s.when (d.val != 0) (dieRejoinF d.val thrice))

/-- `ADL_FENCE_DIE` (R282): a write of `fence`; dies other than 1 to 6 are ignored. -/
def adlFenceDieF (d : Nat) (s : State) : State := if 1 ≤ d ∧ d ≤ 6 then fenceDie d 4 s else s
def execAdlFenceDie (d : BitVec 3) (s : State) : Host.Outcome State Fault Refusal := .next (adlFenceDieF d.toNat s)
/-- `ADL_FENCE_REJOIN` (R283, R435): a write of `rejoin` clears `gave_up` and rejoins a fenced die, once its clocks can return. -/
def adlFenceRejoinF (d : Nat) (s : State) : State :=
  if 1 ≤ d ∧ d ≤ 6 ∧ (s.dieAt d).dstate = 3 then dieRejoinF d false (s.dieAtMod d (fun x => { x with gaveUp := false })) else s
def execAdlFenceRejoin (d : BitVec 3) (s : State) : Host.Outcome State Fault Refusal := .next (adlFenceRejoinF d.toNat s)

end Sys2Proof.Machine
end

