-- ==== Sys2Proof/Machine/Pcs.lean ====
section
/-! DEFINITION. What crosses a lane's pins and how it is coded: 8b/10b, 64b/66b, training sets, idle fill, alignment, test patterns, and the raw PMA's
words. The commands bring the events that these give (a training set, a lock, a loss), not the bits (log 149). File 12. -/

namespace Sys2Proof.Machine

/-- The 6-bit half of a code group at negative running disparity, `abcdei` with a in bit 5, for the low five bits of a data byte (R293; IEEE 802.3
Clause 36, log 149). -/
def code6 (x : Nat) : Nat :=
  [0b100111, 0b011101, 0b101101, 0b110001, 0b110101, 0b101001, 0b011001, 0b111000, 0b111001, 0b100101, 0b010101, 0b110100, 0b001101, 0b101100, 0b011100,
   0b010111, 0b011011, 0b100011, 0b010011, 0b110010, 0b001011, 0b101010, 0b011010, 0b111010, 0b110011, 0b100110, 0b010110, 0b110110, 0b001110, 0b101110,
   0b011110, 0b101011].getD x 0
/-- The 4-bit half at negative running disparity, `fghj` with f in bit 3, for the high three bits of a data byte. -/
def code4 (y : Nat) : Nat := [0b1011, 0b1001, 0b0101, 0b1100, 0b1101, 0b1010, 0b0110, 0b1110].getD y 0
/-- The same for a K-code. -/
def code4k (y : Nat) : Nat := [0b1011, 0b0110, 0b1010, 0b1100, 0b1101, 0b0101, 0b1001, 0b0111].getD y 0

/-- The K-codes: K28.0 to K28.7, K23.7, K27.7, K29.7, K30.7. -/
def kCodes : List Nat := [0x1C, 0x3C, 0x5C, 0x7C, 0x9C, 0xBC, 0xDC, 0xFC, 0xF7, 0xFB, 0xFD, 0xFE]

/-- Ones in the low n bits. -/
def onesIn (n v : Nat) : Nat := ((List.range n).filter v.testBit).length

/-- Running disparity after `n` bits: positive after more ones than zeros, as before when they balance. -/
def disparityAfter (n : Nat) (rd : Bool) (v : Nat) : Bool := if n < 2 * onesIn n v then true else if 2 * onesIn n v < n then false else rd

/-- Code group of a byte, `abcdeifghj` with a in bit 9, under a running disparity (false negative), and the disparity after it (R293). -/
def encode8b10b (rd k : Bool) (v : Byte) : BitVec 10 × Bool :=
  let x := v.toNat % 32; let y := v.toNat / 32
  let c6 := if k && x == 28 then 0b001111 else code6 x
  let c6 := if rd && (onesIn 6 c6 != 3 || c6 == 0b111000) then 63 - c6 else c6
  let rd' := disparityAfter 6 rd c6
  let alt := y == 7 && !k && ((!rd' && (x == 17 || x == 18 || x == 20)) || (rd' && (x == 11 || x == 13 || x == 14)))
  let c4 := if k then code4k y else if alt then 0b0111 else code4 y
  let c4 := if rd' && (k || onesIn 4 c4 != 2 || c4 == 0b1100) then 15 - c4 else c4
  (BitVec.ofNat 10 (c6 * 16 + c4), disparityAfter 4 rd' c4)

/-- The symbol that a code group stands for under a running disparity: whether it is a K-code, and its byte; none for an invalid group or one of the other
disparity (R293). -/
def decode8b10b (rd : Bool) (g : BitVec 10) : Option (Bool × Byte) :=
  match kCodes.find? (fun v => (encode8b10b rd true (BitVec.ofNat 8 v)).1 == g) with
  | some v => some (true, BitVec.ofNat 8 v)
  | none => ((List.range 256).find? (fun v => (encode8b10b rd false (BitVec.ofNat 8 v)).1 == g)).map (fun v => (false, BitVec.ofNat 8 v))

/-- Code groups of a run of symbols, from a running disparity on. -/
def encodeRun : Bool → List (Bool × Byte) → List (BitVec 10)
  | _, [] => []
  | rd, (k, v) :: r => (encode8b10b rd k v).1 :: encodeRun (encode8b10b rd k v).2 r

/-- The idle fill K28.5 D16.2 (R293). -/
def idleFill : List (Bool × Byte) := [(true, 0xBC), (false, 0x50)]

/-- Requested rate in units of 125 Mb/s, rounded to the nearest (R290). -/
def Lane.rateCode (x : Lane) : Nat := (x.kbps + 62500) / 125000

/-- A training set that a lane sends, TS2 with `two` (R290): its 16 symbols, symbol 0 a K-code. -/
def trainingSet (l : LaneId) (x : Lane) (two : Bool) : List (Bool × Byte) :=
  let body : List Byte := [if two then 0x45 else 0x4A, BitVec.ofNat 8 x.rateCode, BitVec.ofNat 8 (laneInPort l), BitVec.ofNat 8 (portLanes l), 1,
    BitVec.ofNat 8 (x.rateCode / 256)] ++ List.replicate 8 0xB5
  (true, 0xBC) :: (body ++ [body.foldl (· ^^^ ·) 0]).map (fun v => (false, v))

/-- Bits of the fabric interface of a raw PMA lane, and the rate of its clock in kHz (R297). -/
def Lane.fabWidth (x : Lane) : Nat := if fld x.cfg 19 18 = 1 then 256 else 128
def Lane.fabKhz (x : Lane) : Nat := x.kbps / x.fabWidth

/-- What a lane's transmitter sends (R291 to R293, R303, R306, R307): nothing in electrical idle, training sets, what the user or the idle fill gives, the
raw PMA's fill word in Held, the test pattern, or what the lane receives. -/
inductive LaneSends where
  | idle
  | symbols (s : List (Bool × Byte))
  | idleBlocks
  | word (w : Word)
  | user
  | prbs (sel : BitVec 3)
  | received
  deriving DecidableEq, Repr

/-- Idle fill by PCS, and the `fill` word on a raw PMA lane (R307). -/
def Lane.quietSends (x : Lane) : LaneSends := if x.pcs = 0 then .word x.fill else if x.pcs = 1 then .symbols idleFill else .idleBlocks

/-- What lane `l` sends now. -/
def State.laneSends (s : State) (l : LaneId) : LaneSends :=
  let x := s.laneAt l
  let quiet := s.mode == .held || (s.mode == .resting && l.die != 0)
  match x.state with
  | .off | .detect => .idle
  | st =>
    if x.prbsTx then .prbs x.prbsSel
    else if x.lpbk = 2 then .received
    else match st with
      | .train => if x.pcs = 1 then .symbols (trainingSet l x false) else .user
      | .exchange => .symbols (trainingSet l x true)
      | .blind => if x.pcs = 1 then .symbols idleFill else if x.pcs = 2 then .idleBlocks else .user
      | _ => if quiet && l.die != 0 then x.quietSends else .user

/-- Alignment of an 8b/10b receiver (R294): the bit position it holds or watches, commas seen there, the loss counter and valid groups in succession. -/
structure Align where
  sync : Bool := false
  pos : Nat := 0
  commas : Nat := 0
  loss : Nat := 0
  good : Nat := 0
  deriving DecidableEq, Repr

/-- The comma of K28.5 in the first seven bits of a window of ten. -/
def isComma (w : BitVec 10) : Bool := w.toNat / 8 == 0b0011111 || w.toNat / 8 == 0b1100000

/-- One error or one valid group moves the loss counter; at 4 sync is lost and the search restarts (R294). -/
def Align.count (bad : Bool) (a : Align) : Align :=
  if bad then (if 4 ≤ a.loss + 1 then {} else { a with loss := a.loss + 1, good := 0 })
  else if 3 ≤ a.good then { a with loss := a.loss - 1, good := 0 } else { a with good := a.good + 1 }

/-- A window of ten bits ends at bit position `p`, 0 to 9, and is a valid group under the running disparity or not (R294). -/
def alignStep (p : Nat) (w : BitVec 10) (valid : Bool) (a : Align) : Align :=
  if a.sync then
    if p = a.pos then a.count (!valid) else if isComma w then a.count true else a
  else if isComma w then
    let n := if p = a.pos then a.commas + 1 else 1
    if 3 ≤ n then { sync := true, pos := p } else { a with pos := p, commas := n }
  else if p = a.pos ∧ !valid then { a with commas := 0 } else a

/-- Block lock of a 64b/66b receiver (R295): valid headers in succession, and headers and invalid ones of the present 64. -/
structure BlockLock where
  lock : Bool := false
  run : Nat := 0
  seen : Nat := 0
  bad : Nat := 0
  deriving DecidableEq, Repr

/-- A sync header is valid when its two bits differ (R295; IEEE 802.3 Clause 49). -/
def headerValid (h : BitVec 2) : Bool := h == 1 || h == 2

/-- One sync header (R295). -/
def blockStep (h : BitVec 2) (b : BlockLock) : BlockLock :=
  if b.lock then
    let bad := b.bad + b2n (!headerValid h)
    if 16 ≤ bad then {} else if b.seen = 63 then { b with seen := 0, bad := 0 } else { b with seen := b.seen + 1, bad := bad }
  else if !headerValid h then { b with run := 0 }
  else if b.run = 63 then { lock := true } else { b with run := b.run + 1 }

/-- The self-synchronous scrambler x⁵⁸ + x³⁹ + 1 of one bit, and its descrambler (R295): the bit out and the last 58 line bits, newest in bit 0. -/
def scramble (st : BitVec 58) (b : Bool) : Bool × BitVec 58 :=
  let o := b ^^ st.getLsbD 38 ^^ st.getLsbD 57
  (o, BitVec.ofNat 58 (st.toNat * 2 + b2n o))
def descramble (st : BitVec 58) (b : Bool) : Bool × BitVec 58 := (b ^^ st.getLsbD 38 ^^ st.getLsbD 57, BitVec.ofNat 58 (st.toNat * 2 + b2n b))

/-- Length and second tap of a test pattern by `prbs_sel` (R303). -/
def prbsTaps (sel : Nat) : Nat × Nat := [(7, 6), (9, 5), (15, 14), (23, 18), (31, 28)].getD sel (7, 6)

/-- The next bit of a test pattern after its last bits, newest in bit 0 (R303). -/
def prbsNext (sel last : Nat) : Bool := last.testBit ((prbsTaps sel).1 - 1) ^^ last.testBit ((prbsTaps sel).2 - 1)

/-- The checker (R303): locked or not, error-free bits in succession, bits and errors of the present 64, and the two counters. -/
structure PrbsCheck where
  lock : Bool := false
  run : Nat := 0
  seen : Nat := 0
  errs : Nat := 0
  bits : BitVec 48 := 0
  bad : BitVec 48 := 0
  deriving DecidableEq, Repr

/-- One bit compared (R303): lock after 64 error-free bits, lost after 16 errors in 64; only a locked checker counts. -/
def prbsStep (err : Bool) (c : PrbsCheck) : PrbsCheck :=
  if c.lock then
    let errs := c.errs + b2n err
    let c := { c with bits := satInc c.bits, bad := if err then satInc c.bad else c.bad }
    if 16 ≤ errs then { c with lock := false, run := 0, seen := 0, errs := 0 }
    else if c.seen = 63 then { c with seen := 0, errs := 0 } else { c with seen := c.seen + 1, errs := errs }
  else if err then { c with run := 0 }
  else if c.run = 63 then { c with lock := true, run := 0, seen := 0, errs := 0 } else { c with run := c.run + 1 }

/-- Bits of raw PMA symbols in the order of the word they fill, bit 0 earliest (R297): a PAM4 symbol, 0 to 3 from the lowest level, gives its two Gray-coded
bits, most significant first (R286). -/
def pmaBits (pam4 : Bool) (syms : List (BitVec 2)) : List Bool :=
  syms.flatMap (fun (y : BitVec 2) => if pam4 then let g : BitVec 2 := y ^^^ (y >>> 1); [g.getLsbD 1, g.getLsbD 0] else [y.getLsbD 0])

/-- A lane's receiver adapts (R298): it is in a state that receives, and is not held. -/
def Lane.adapts (x : Lane) : Bool :=
  !x.adaptHold && (x.state == .train || x.state == .exchange || x.state == .active || x.state == .realign || x.state == .blind)

/-- What the line has done to a lane's counters and its adapted values when they are looked at (R298, R303, R307): the commands do not bring the bits, so
while the checker runs, the receiver adapts or Held drops words, those values are free (log 149). -/
def lineSeen (l : LaneId) (s : State) : State :=
  let x := s.laneAt l
  let s := s.when x.adapts (fun s => let (v, s) := s.take 32; s.laneAtMod l (fun x => { x with eqRx := v &&& (if l.die = 0 then 0xFF00003F else 0xFFFF003F) }))
  let s := s.when x.prbsRx (fun s =>
    let (k, s) := s.take 1; let (n, s) := s.take 48; let (e, s) := s.take 48
    s.laneAtMod l (fun x => { x with prbsLock := k == 1, prbsBits := satAdd x.prbsBits n.toNat, prbsErr := satAdd x.prbsErr (min e.toNat n.toNat) }))
  s.when (s.mode == .held && l.die != 0 && x.state == .active) (fun s =>
    let (n, s) := s.take 32; s.laneAtMod l (fun x => { x with heldDrop := satAdd x.heldDrop n.toNat }))

end Sys2Proof.Machine
end

