-- ==== Sys2Proof/Machine/Span.lean ====
section
/-! DEFINITION. The span link at work: acknowledgement and retry, delivery and forwarding of frames, transactions, routing drains, alignment,
delay measurement, and encryption. File 13. -/

namespace Sys2Proof.Machine

/-- Types of sequenced and unsequenced frames; the others are reserved (R311). -/
def frSequenced (t : Nat) : Bool := [1, 2, 3, 4, 5, 6, 0xB].contains t
def frKnown (t : Nat) : Bool := frSequenced t || [8, 9, 0xA, 0xF].contains t

/-- The check word holds and the type is not reserved (R311). -/
def frGood (f : List Word) : Bool := crc32 (wordBytes (f.take 15)) == wordAt f 15 && frKnown (frType f)

/-- Send a LINK frame (R312). -/
def sendLink (k : Nat) (s : State) : State := spanSendU k (mkFrame 0xF 0 s.devId (s.ttlInit k) []) s

/-- The transmitter resends its unacknowledged frames in order (R312); a frame resent 8 times takes the port down (R321). -/
def resend (k : Nat) (s : State) : State :=
  let n := (s.portAt k).unacked.length
  let s := s.portAtMod k (fun p => { p with unacked := p.unacked.map (fun u => (u.1 + 1, u.2)), replays := satAdd p.replays n })
  if (s.portAt k).unacked.any (fun u => 8 ≤ u.1) then spanDown k s else s

/-- Acknowledgement, NAK and credits that ride in a frame (R311, R312, R313). -/
def frameAck (k : Nat) (f : List Word) (s : State) : State :=
  let w := wordAt f 0
  let s := s.portAtMod k (fun p =>
    let p := if bit w 11 && p.unacked.any (fun u => frSeq u.2 == fld w 19 12)
      then { p with unacked := (p.unacked.dropWhile (fun u => frSeq u.2 != fld w 19 12)).drop 1 } else p
    { p with used := smod 0 p.used (fld w 9 8) (· - fld w 7 2) })
  let s := if bit w 10 then resend k s else s
  spanPump k (s.portAt k).txQ.length s

/-- A receiver buffer of channel v is free again (R313). -/
def freeBuf (k v : Nat) (s : State) : State := s.portAtMod k (fun p => { p with freed := smod 0 p.freed v (· + 1) })

/-- A frame as it leaves for the next hop: one hop fewer, and no link-layer fields (R317). -/
def hopFrame (f : List Word) : List Word :=
  wd (frType f * 2 ^ 28) :: wd ((wordAt f 1).toNat - 1) :: (f.drop 2).take 13

/-- Status with which a frame cannot go on: no hop left, no route, or the port of the route is not up (R317). -/
def State.transitPort (s : State) (f : List Word) : Option Nat :=
  if frTtl f = 0 then none else
  match s.spanRoute (frDdev f) with
  | none => none
  | some k => if (s.portAt k).state == .up then some k else none

/-- Frames of channel `v` in transit, a REQ with its DATA frames (R316, R317): they are forwarded; a REQ that cannot be is answered UNREACH with notice
0x3D07; any other is discarded. -/
def transit (v : Nat) (fs : List (List Word)) (s : State) : State :=
  let f := fs.headD []
  match s.transitPort f with
  | some k => spanQueue k (fs.map (fun g => (v, hopFrame g))) s
  | none =>
    if frType f = 1 then
      let r : NRsp := { typ := BitVec.ofNat 4 (fld (wordAt f 2) 31 28) + 8, otag := BitVec.ofNat 4 (fld (wordAt f 2) 27 24), status := stUnreach }
      raise 0x3D07 (spanTo (frSdev f) (fun ttl => rspFrames (frSdev f) s.devId ttl (fld (wordAt f 3) 31 16) r) s)
    else s

/-- Frames for another device (R316, R318): while the entry of their destination drains, they wait. -/
def forward (v : Nat) (fs : List (List Word)) (s : State) : State :=
  if s.span.drains.any (fun d => d.dev.toNat == frDdev (fs.headD [])) then s.onSpan (fun p => { p with stalled := p.stalled ++ [(v, fs)] }) else transit v fs s

/-- A whole REQ packet for this device (R315). -/
def takeReq (k : Nat) (fs : List (List Word)) (s : State) : State :=
  retire portSpn (s.onSpan (fun p => { p with reqIn := p.reqIn ++ [(k, fs)] }))

/-- Data flits of the response an RSP frame begins: the frame has no length, so the request it answers gives it (R240, R314). -/
def State.rspFlits (s : State) (f : List Word) : Nat :=
  let st := fld (wordAt f 2) 19 16
  match sget none s.span.stx (fld (wordAt f 3) 31 16) with
  | none => 0
  | some x => if x.req.typ = 0 then (if st = 0 ∨ st = 4 then dataFlits x.req.addr.toNat x.req.len.toNat else 0)
              else if x.req.typ = 2 ∧ st = 0 then 1 else 0

/-- A whole RSP packet (R315): the response returns to the local initiator port; one whose `stid` is not outstanding is discarded. -/
def takeRspFrames (fs : List (List Word)) (s : State) : State :=
  let f := fs.headD []; let w := wordAt f 2; let id := fld (wordAt f 3) 31 16
  match sget none s.span.stx id with
  | none => s
  | some x =>
    let d := frameFlits fs (s.rspFlits f)
    let r := { rspFor x.req (BitVec.ofNat 4 (fld w 19 16)) d.1 d.2 with hpoison := bit w 21, data := d.1, bad := d.2 }
    sendRsp portSpn r (s.onSpan (fun p => { p with stx := sput none p.stx id none }))

/-- A frame goes to another device. -/
def State.passing (s : State) (f : List Word) : Bool := frDdev f != s.devId

/-- Data flits of the packet that a REQ or RSP frame begins; none where an RSP is in transit, since only its requester knows. -/
def State.packetFlits (s : State) (f : List Word) : Option Nat :=
  if frType f = 1 then some (reqFlits f) else if s.passing f then none else some (s.rspFlits f)

/-- A packet is whole: it goes to its end. -/
def takePacket (k : Nat) (fs : List (List Word)) (s : State) : State :=
  let f := fs.headD []
  if s.passing f then forward (frVc 0 f) fs s else if frType f = 1 then takeReq k fs s else takeRspFrames fs s

/-- The packet open in channel v of port k is one that DATA frame `f` can belong to: of the same origin and destination. -/
def State.openFor (s : State) (k v : Nat) (f : List Word) : Bool :=
  match sget [] (s.portAt k).asm v with
  | [] => false
  | h :: _ => frSdev h == frSdev f && frDdev h == frDdev f

/-- Channel whose buffer a frame fills (R311): a DATA frame has that of its packet, a request that is not whole before a response (log 150). -/
def State.rxVc (s : State) (k : Nat) (f : List Word) : Nat := if frType f = 3 then (if s.openFor k 0 f then 0 else 1) else frVc 0 f

/-- A REQ or RSP frame begins a packet; a DATA frame joins the packet that is open (R311, R313). A REQ goes on only when its DATA frames are here; the
frames of an RSP in transit go on one by one (log 150). -/
def takeTransaction (k : Nat) (f : List Word) (s : State) : State :=
  let v := s.rxVc k f
  let put (fs : List (List Word)) (s : State) : State := s.portAtMod k (fun p => { p with asm := sput [] p.asm v fs })
  if frType f = 3 ∧ !s.openFor k v f then s
  else
    let fs := if frType f = 3 then sget [] (s.portAt k).asm v ++ [f] else [f]
    match s.packetFlits (fs.headD []) with
    | some n => if n ≤ fs.length then takePacket k fs (put [] s) else put fs s
    | none => forward v [f] (if frType f = 3 then s else put [f] s)

/-- A reply segment of a packet that was forwarded from the mailbox (R43, R319): the whole reply enters the mailbox, and its final word ends
the forwarding. -/
def takeReply (dev : BitVec 12) (tag : Byte) (ws : List Word) (s : State) : State :=
  let final := bit (wordAt ws 0) 12
  if s.mgr.mbx.fwd.contains (dev, tag) then
    mbxPost (s.onMgr (fun m => { m with
      mbxOut := m.mbxOut ++ [ws], mbx := { m.mbx with fwd := if final then m.mbx.fwd.erase (dev, tag) else m.mbx.fwd } }))
  else s

/-- A CMD segment (R319): segments of one packet or reply follow one another; the last one completes it. Packets and replies that arrive are
kept apart by the `rsp` bit, as bit 12 of the device number of the table of arriving packets. -/
def takeCmd (f : List Word) (s : State) : State :=
  let w := wordAt f 2; let rsp := bit w 29
  let dev : BitVec 12 := BitVec.ofNat 12 (frSdev f); let tag : Byte := BitVec.ofNat 8 (fld w 15 8); let seg := fld w 28 16
  let ws := (f.drop 3).take (min 11 (fld w 3 0))
  let key := fun (e : BitVec 12 × BitVec 8 × Nat × List Word) => e.1 == dev && e.2.1 == tag && (decide (65536 ≤ e.2.2.1) == rsp)
  let mark := if rsp then 65536 else 0
  let cur := if bit w 31 then some [] else (s.mgr.spanIn.find? (fun e => key e && e.2.2.1 == mark + seg)).map (·.2.2.2)
  let s := s.onMgr (fun m => { m with spanIn := m.spanIn.filter (fun e => !key e) })
  match cur with
  | none => s
  | some before =>
    let all := before ++ ws
    if bit w 30 then (if rsp then takeReply dev tag all s else packetIn { t := .span, dev := dev, tag := tag } all.length all s)
    else s.onMgr (fun m => { m with spanIn := m.spanIn ++ [(dev, tag, mark + seg + 1, all)] })

/-- A TRIG frame (R320, R420): it is forwarded on `trig_mask` except where it came from, and fires the lines with `span_in` set. -/
def takeTrig (k : Nat) (f : List Word) (s : State) : State :=
  let s := if frTtl f = 0 then s else
    s.each ((s.upPorts (fld (s.reg 0 (blkSpn + 8)) 11 0)).filter (· != k)) (fun j => spanSend j [hopFrame f])
  let lines := s.linesWith 7 (fun l _ => bit (wordAt f 2) l)
  if lines = 0 then s else fireLines lines false s

/-- An ITEM frame (R388): DELIVER enqueues a proxied item or is refused; RELEASE frees the item, or a refused one waits for another context. -/
def takeItem (f : List Word) (s : State) : State :=
  let w := wordAt f 2; let octx := fld w 27 20; let ticket := fld (wordAt f 3) 15 0
  if fld w 31 28 = 1 then
    let q := fld w 19 10
    let it := itemOf (BitVec.ofNat 256 (wordsNat ((f.drop 6).take 8))) (some (BitVec.ofNat 12 (frSdev f), BitVec.ofNat 8 octx, BitVec.ofNat 16 ticket))
    if s.enqueueOk q it then wdsServe (enqueueItem q it s)
    else sendItem (frSdev f) 2 octx 0 true ticket 0 s
  else if fld w 31 28 = 2 then
    if bit w 9 then wdsServe (redispatch octx (fun i => i.ticket.toNat == ticket) (some (Fin.ofNat 256 octx)) s)
    else wdsRelease octx (BitVec.ofNat 16 ticket) s
  else s

/-- A sequenced frame is delivered in `fseq` order (R316): here, or to the next hop. -/
def deliverFrame (k : Nat) (f : List Word) (s : State) : State :=
  match frType f with
  | 6 => takeTrig k f s
  | 4 => if s.passing f then forward 0 [f] s else takeItem f s
  | 5 => if s.passing f then forward (frVc 0 f) [f] s else takeCmd f s
  | _ => takeTransaction k f s

/-- An encrypted group verifies under its TAG frame (R326). -/
def groupOk (k : Nat) (f : List Word) (s : State) : Bool :=
  let p := s.portAt k; let g := p.rxGroup; let h := g.headD []
  let iv := spanIv (frSdev f) (Config.peerPort k) (wordsNat ((f.drop 2).take 2))
  !g.isEmpty && fld (wordAt f 8) 7 0 == frSeq h && fld (wordAt f 8) 15 8 == g.length
  && Config.gcmTag (s.spanKey k) iv (groupAad g) (groupPlain g) == BitVec.ofNat 128 (wordsNat ((f.drop 4).take 4))

/-- Frames of a group with their plaintext in words 2 to 13 (R326). -/
def openGroup (k : Nat) (f : List Word) (s : State) : List (List Word) :=
  let g := (s.portAt k).rxGroup
  let iv := spanIv (frSdev f) (Config.peerPort k) (wordsNat ((f.drop 2).take 2))
  let pt := Config.gcmOpen (s.spanKey k) iv (groupAad g) (groupPlain g)
  (List.range g.length).map (fun i => let h := g.getD i []
    h.take 2 ++ (List.range 12).map (fun j => wd (bytesNat ((pt.drop (48 * i + 4 * j)).take 4))) ++ [wordAt h 14, wordAt h 15])

/-- A tag failure (R327): fatal, or the port goes down, as the SPAN_TAG_POLICY fuse says. -/
def tagFailure (k : Nat) (s : State) : State :=
  if bit (s.fuse 6 0) 0 then raise 0x3D04 (spanDown k (s.portAtMod k (fun p => { p with tagFail := true, rxGroup := [] })))
  else fatal 0x4D05 s

/-- A TAG frame (R326): its group is delivered if it verifies. -/
def takeTag (k : Nat) (f : List Word) (s : State) : State :=
  if (s.portAt k).encOn then
    if groupOk k f s then
      let fs := openGroup k f s
      let s := s.portAtMod k (fun p => { p with rxGroup := [] })
      s.each fs (fun g t => deliverFrame k g (freeBuf k (t.rxVc k g) t))
    else tagFailure k s
  else s

/-- A sequenced frame is refused (R312): the receiver sends a NAK once and then discards frames until the expected one arrives. -/
def refuseFrame (k : Nat) (s : State) : State :=
  let p := s.portAt k
  if p.nak then s
  else sendLink k (s.portAtMod k (fun p => { p with nak := true, crcErr := satInc p.crcErr }))

/-- A sequenced frame of type `ty` arrives at an up port (R311, R312, R313, R326). -/
def seqFrame (k ty : Nat) (f : List Word) (s : State) : State :=
  if (s.portAt k).state != .up then s
  else if !frGood f || !(s.portAt k).deskewed then refuseFrame k s
  else if frType f ≠ ty then s
  else
    let s := frameAck k f s
    if (s.portAt k).state != .up then s
    else if frSeq f ≠ (s.portAt k).rxSeq.toNat then refuseFrame k s
    else
      let s := s.portAtMod k (fun p => { p with rxSeq := p.rxSeq + 1, nak := false, accepted := p.accepted + 1 })
      let s := if ty = 0xB then takeTag k f s
        else if (s.portAt k).encOn then s.portAtMod k (fun p => { p with rxGroup := p.rxGroup ++ [f] })
        else deliverFrame k f (freeBuf k (s.rxVc k f) s)
      if 16 ≤ (s.portAt k).accepted then sendLink k s else s

/-- An ALIGN, PROBE or ECHO frame under encryption: the counter it carries and its tag (R326). -/
def markOk (k : Nat) (f : List Word) (s : State) : Bool :=
  !(s.portAt k).encOn ||
    Config.gcmTag (s.spanKey k) (spanIv (frSdev f) (Config.peerPort k) (wordsNat ((f.drop 8).take 2))) (wordBytes (f.take 10)) []
      == BitVec.ofNat 128 (wordsNat ((f.drop 10).take 4))

/-- An unsequenced frame of type `ty` arrives at an up port (R311, R312): one with a bad check word is dropped. -/
def unseqFrame (k ty : Nat) (f : List Word) (body : State → State) (s : State) : State :=
  if (s.portAt k).state != .up then s
  else if !frGood f || !(s.portAt k).deskewed then s.portAtMod k (fun p => { p with crcErr := satInc p.crcErr })
  else if frType f ≠ ty then s
  else
    let s := frameAck k f s
    if (s.portAt k).state != .up ∨ ty = 0xF then s
    else if markOk k f s then
      body s
    else tagFailure k s

/-- `REQ` (R314, R315, R317). -/
def reqF (k : Nat) (f : List Word) (s : State) : State := seqFrame k 1 f s
def execReq (k : Fin 12) (f : List Word) (s : State) : Host.Outcome State Fault Refusal :=
  .next (s.when (f.length == 16) (reqF k.val f))
/-- `RSP` (R315). -/
def rspF (k : Nat) (f : List Word) (s : State) : State := seqFrame k 2 f s
def execRsp (k : Fin 12) (f : List Word) (s : State) : Host.Outcome State Fault Refusal :=
  .next (s.when (f.length == 16) (rspF k.val f))
/-- `DATA` (R311, R314). -/
def dataF (k : Nat) (f : List Word) (s : State) : State := seqFrame k 3 f s
def execData (k : Fin 12) (f : List Word) (s : State) : Host.Outcome State Fault Refusal :=
  .next (s.when (f.length == 16) (dataF k.val f))
/-- `CMD` (R319). -/
def cmdF (k : Nat) (f : List Word) (s : State) : State := seqFrame k 5 f s
def execCmd (k : Fin 12) (f : List Word) (s : State) : Host.Outcome State Fault Refusal :=
  .next (s.when (f.length == 16) (cmdF k.val f))
/-- `TRIG` (R320). -/
def trigF (k : Nat) (f : List Word) (s : State) : State := seqFrame k 6 f s
def execTrig (k : Fin 12) (f : List Word) (s : State) : Host.Outcome State Fault Refusal :=
  .next (s.when (f.length == 16) (trigF k.val f))
/-- `TAG` (R326, R327). -/
def tagF (k : Nat) (f : List Word) (s : State) : State := seqFrame k 0xB f s
def execTag (k : Fin 12) (f : List Word) (s : State) : Host.Outcome State Fault Refusal :=
  .next (s.when (f.length == 16) (tagF k.val f))
/-- `DELIVER` (R388): an ITEM frame with `iop` 0x1. -/
def deliverItemF (k : Nat) (f : List Word) (s : State) : State := seqFrame k 4 f s
def execDeliver (k : Fin 12) (f : List Word) (s : State) : Host.Outcome State Fault Refusal :=
  .next (s.when (f.length == 16) (deliverItemF k.val f))
/-- `RELEASE` (R388): an ITEM frame with `iop` 0x2. -/
def releaseItemF (k : Nat) (f : List Word) (s : State) : State := seqFrame k 4 f s
def execRelease (k : Fin 12) (f : List Word) (s : State) : Host.Outcome State Fault Refusal :=
  .next (s.when (f.length == 16) (releaseItemF k.val f))
/-- `LINK` (R312): acknowledgements, NAKs and credits only. -/
def linkF (k : Nat) (f : List Word) (s : State) : State := unseqFrame k 0xF f id s
def execLink (k : Fin 12) (f : List Word) (s : State) : Host.Outcome State Fault Refusal :=
  .next (s.when (f.length == 16) (linkF k.val f))

/-- `SPN_PLAT.owd`: the mean of the last 16 measurements, of those taken while there are fewer (R323, log 41). -/
def State.owd (s : State) (k : Nat) : Nat :=
  let d := (s.portAt k).delays
  d.foldl (fun n x => n + x.toNat) 0 / d.length

/-- Error of a follower's timebase at a mark, in 1/65,536 of a position unit, signed (R324): the mark plus `owd`, which `upd` turns into
position units (R438), less the own position and phase. -/
def alignError (s : State) (k : Nat) (f : List Word) : Int :=
  let mark := (wordAt f 2).toNat * 65536 + fld (wordAt f 3) 15 0 * 2 ^ 48 + fld (wordAt f 3) 31 16
  let delay := s.owd k * 1024 * 65536 / s.clk.upd.toNat
  (BitVec.ofNat 64 (mark + delay) - BitVec.ofNat 64 (s.clk.pos.toNat * 65536 + s.phase)).toInt

/-- A follower takes a mark (R322, R324): it slews, or steps; the first mark after the start or after `tb_lost` steps without a notice; a forward step runs the calendar entries it passes. It
then sends the mark on at once. -/
def takeMark (k : Nat) (f : List Word) (s : State) : State :=
  let c := s.reg 0 (blkSpn + 8)
  if fld c 31 30 ≠ 2 ∨ fld c 29 26 ≠ k then s
  else
    let e := alignError s k f
    let own := BitVec.ofNat 64 (s.clk.pos.toNat * 65536 + s.phase)
    let target := (own + BitVec.ofInt 64 e).toNat
    let small := decide (e.natAbs * s.clk.upd.toNat ≤ fld (s.reg 0 (blkSpn + 0xC)) 31 16 * 2 ^ 32)
    let first := s.span.firstMark
    let s := s.nextFree
    let s := if small && !first then s.onSpan (fun p => { p with slew := e })
      else
        let s := (s.onSpan (fun p => { p with slew := 0 })).onClk (fun c => { c with pos := BitVec.ofNat 48 (target / 65536), stale := false })
        let s := s.when (!first) (raise 0x2D02)
        s.when (decide (0 < e)) (calFireStep (target / 65536 - own.toNat / 65536))
    let s := s.onSpan (fun p => { p with tbLost := false, firstMark := false })
    (sendAlign (fld (wordAt f 4) 7 0 + 1) (fld (wordAt f 5) 11 0) s.phase s).nextFree

/-- `ALIGN` (R322, R324). -/
def alignF (k : Nat) (f : List Word) (s : State) : State := unseqFrame k 8 f (takeMark k f) s
def execAlign (k : Fin 12) (f : List Word) (s : State) : Host.Outcome State Fault Refusal :=
  .next (s.when (f.length == 16) (alignF k.val f))

/-- `PROBE` (R323): answered with an ECHO that returns t1 and carries the turnaround. -/
def probeF (k : Nat) (f : List Word) (turnaround : BitVec 48) (s : State) : State :=
  unseqFrame k 9 f (fun s => spanSendU k (mkFrame 0xA (frSdev f) s.devId (s.ttlInit k)
    ([wordAt f 2, wordAt f 3] ++ natWords turnaround.toNat 2)) s) s
def execProbe (k : Fin 12) (f : List Word) (turnaround : BitVec 48) (s : State) : Host.Outcome State Fault Refusal :=
  .next (s.when (f.length == 16) (probeF k.val f turnaround))

/-- `ECHO` (R323): one measurement, ((t4 - t1) - (t3 - t2)) / 2. -/
def echoF (k : Nat) (f : List Word) (t4 : BitVec 48) (s : State) : State :=
  unseqFrame k 0xA f (fun s =>
    let t1 : BitVec 48 := BitVec.ofNat 48 (wordsNat ((f.drop 2).take 2)); let ta : BitVec 48 := BitVec.ofNat 48 (wordsNat ((f.drop 4).take 2))
    s.portAtMod k (fun p => { p with delays := ((t4 - t1 - ta) >>> 1 :: p.delays).take 16 })) s
def execEcho (k : Fin 12) (f : List Word) (t4 : BitVec 48) (s : State) : Host.Outcome State Fault Refusal :=
  .next (s.when (f.length == 16) (echoF k.val f t4))

/-- `SPAN_PORT_UP` (R308, R321, R326, R373): the four lanes are Active and deskewed, and a LINK frame has arrived; the link layer starts anew,
and encryption takes effect. Binding to a key slot restarts the group counters. -/
def spanPortUpF (k : Nat) (s : State) : State :=
  let p := s.portAt k
  let c := s.reg 0 (blkSpn + 0x100 + 0x40 * k)
  let lanes := (List.range 4).all (fun i => (s.laneAt (laneOf 0 (4 * k + i))).state == .active)
  if s.span.portEn.getLsbD k && s.xcvr.spanPorts.getLsbD k && (p.state == .bringUp || p.state == .deskew || p.state == .down) && p.deskewed && lanes then
    if bit c 31 && (s.slotAt (fld c 29 24)).state != 2 then s.portAtMod k (fun p => { p with state := .down }) else
    let bound := bit c 31 && p.boundSlot != some (BitVec.ofNat 6 (fld c 29 24))
    let s := s.portAtMod k (fun p => { p with
      state := .up, txSeq := 0, rxSeq := 0, unacked := [], txQ := [], txU := [], used := [], freed := [], accepted := 0, nak := false, asm := []
      txGroup := [], rxGroup := [], encOn := bit c 31, wasDown := false
      boundSlot := if bit c 31 then some (BitVec.ofNat 6 (fld c 29 24)) else none
      txCtr := if bound then 0 else p.txCtr })
    s.when p.wasDown (raise (0x0D20 + k))
  else s
def execSpanPortUp (k : Fin 12) (s : State) : Host.Outcome State Fault Refusal := .next (spanPortUpF k.val s)

/-- `AOS` (R310): aligned on all four lanes, it deskews them; one that is not starts a new deskew, and frames until the next fail. -/
def aosF (k : Nat) (aligned : Bool) (s : State) : State :=
  let lanes := (List.range 4).all (fun i => (s.laneAt (laneOf 0 (4 * k + i))).state == .active)
  if lanes then
    s.portAtMod k (fun p => { p with
      deskewed := aligned, state := if p.state == .bringUp || p.state == .down then .deskew else p.state })
  else s
def execAos (k : Fin 12) (aligned : Bool) (s : State) : Host.Outcome State Fault Refusal := .next (aosF k.val aligned s)

/-- `SPAN_PROGRESS_TIMEOUT` (R321): 1 ms without acknowledged progress while frames are pending. -/
def spanProgressTimeoutF (k : Nat) (s : State) : State :=
  if (s.portAt k).state == .up && (!(s.portAt k).unacked.isEmpty || !(s.portAt k).txQ.isEmpty) then spanDown k s else s
def execSpanProgressTimeout (k : Fin 12) (s : State) : Host.Outcome State Fault Refusal := .next (spanProgressTimeoutF k.val s)

/-- `SPAN_RETRY_TIMER` (R312): 4 µs without an acknowledgement. -/
def spanRetryTimerF (k : Nat) (s : State) : State :=
  if (s.portAt k).state == .up && !(s.portAt k).unacked.isEmpty then resend k s else s
def execSpanRetryTimer (k : Fin 12) (s : State) : Host.Outcome State Fault Refusal := .next (spanRetryTimerF k.val s)

/-- `SPAN_ACK_TIMER` (R312): 1 µs with an acknowledgement or a credit pending. -/
def spanAckTimerF (k : Nat) (s : State) : State :=
  let p := s.portAt k
  if p.state == .up && (decide (0 < p.accepted) || [0, 1, 2].any (fun v => decide (0 < sget 0 p.freed v))) then sendLink k s else s
def execSpanAckTimer (k : Fin 12) (s : State) : Host.Outcome State Fault Refusal := .next (spanAckTimerF k.val s)

/-- `SPAN_TXN_TIMEOUT` (R316): the transaction ends TIMEOUT in its order slot. -/
def spanTxnTimeoutF (stid : Nat) (s : State) : State :=
  match sget none s.span.stx stid with
  | none => s
  | some x =>
    if fld (s.reg 0 (blkSpn + 0x10)) 31 16 = 0 then s
    else sendRsp portSpn (rspFor x.req stTimeout [] []) (s.onSpan (fun p => { p with stx := sput none p.stx stid none }))
def execSpanTxnTimeout (stid : BitVec 10) (s : State) : Host.Outcome State Fault Refusal := .next (spanTxnTimeoutF stid.toNat s)

/-- A write to a word of `SPN_RT` (R318): every changed entry drains; the entry of the own device is ignored in routing but held. -/
def spnRtWriteF (w : Nat) (v : Word) (s : State) : State :=
  s.each (List.range 8) (fun i t =>
    let dev : BitVec 12 := BitVec.ofNat 12 (8 * w + i); let e : BitVec 4 := BitVec.ofNat 4 (fld v (4 * i + 3) (4 * i))
    let old := fld (sget 0xFFFFFFFF t.span.rt w) (4 * i + 3) (4 * i)
    let ds := t.span.drains.filter (fun d => d.dev != dev)
    if old = e.toNat then t.onSpan (fun p => { p with drains := ds })
    else t.onSpan (fun p => { p with drains := ds ++ [{ dev := dev, entry := e }] }))
def execSpnRtWrite (w : BitVec 9) (v : Word) (s : State) : Host.Outcome State Fault Refusal := .next (spnRtWriteF w.toNat v s)

/-- `SPAN_ROUTE_DRAIN_END` (R318): every transaction that SPN originated to the device has completed and `drain_us` has passed; the entry is
applied, and what waited goes on. -/
def spanRouteDrainEndF (d : Nat) (s : State) : State :=
  match s.span.drains.find? (fun x => x.dev.toNat == d) with
  | none => s
  | some x =>
    if s.span.stx.any (fun e => match e.2 with | some y => y.ddev.toNat == d | none => false) then s
    else
      let fs := s.span.stalled.filter (fun f => frDdev (f.2.headD []) == d)
      let s := s.onSpan (fun p => { p with
        drains := p.drains.filter (fun y => y.dev.toNat != d)
        stalled := p.stalled.filter (fun f => frDdev (f.2.headD []) != d)
        rt := smod 0xFFFFFFFF p.rt (d / 8) (fun w => setFld w (4 * (d % 8) + 3) (4 * (d % 8)) x.entry.toNat) })
      s.each fs (fun f => transit f.1 f.2)
def execSpanRouteDrainEnd (d : BitVec 12) (s : State) : Host.Outcome State Fault Refusal := .next (spanRouteDrainEndF d.toNat s)

/-- A write to `SPN_CFG` (R308, R309, R321): `dev_id` changes only with every port disabled before and after. -/
def spnCfgWriteF (v : Word) (s : State) : State :=
  let dev : BitVec 12 := BitVec.ofNat 12 (fld v 11 0); let en : BitVec 12 := BitVec.ofNat 12 (fld v 23 12)
  let old := s.span.portEn
  let s := if dev = s.span.devId then s
    else if old = 0 ∧ en = 0 then s.onSpan (fun p => { p with devId := dev }) else s.onSpan (fun p => { p with wrIgn := true })
  let s := s.onSpan (fun p => { p with portEn := en })
  s.each (List.range 12) (fun k t =>
    if old.getLsbD k && !en.getLsbD k then spanDisable k t else if !old.getLsbD k && en.getLsbD k then spanEnable k t else t)
def execSpnCfgWrite (v : Word) (s : State) : Host.Outcome State Fault Refusal := .next (spnCfgWriteF v s)

/-- `SPAN_PROBE_TIMER` (R323): the port sends a PROBE with its send stamp. -/
def spanProbeTimerF (k : Nat) (t1 : BitVec 48) (s : State) : State :=
  if (s.portAt k).state == .up then spanSendU k (mkFrame 9 0 s.devId (s.ttlInit k) (natWords t1.toNat 2)) s else s
def execSpanProbeTimer (k : Fin 12) (t1 : BitVec 48) (s : State) : Host.Outcome State Fault Refusal := .next (spanProbeTimerF k.val t1 s)

/-- `SPAN_GROUP_TIMER` (R326): 100 ns with nothing to send closes the open group. -/
def spanGroupTimerF (k : Nat) (s : State) : State := if (s.portAt k).state == .up && (s.portAt k).encOn then closeGroup k s else s
def execSpanGroupTimer (k : Fin 12) (s : State) : Host.Outcome State Fault Refusal := .next (spanGroupTimerF k.val s)

/-- `TB_MARK_LOSS` (R324): a follower has had no mark for four periods of the root's mark entry. -/
def tbMarkLossF (s : State) : State := if fld (s.reg 0 (blkSpn + 8)) 31 30 = 2 then marksLost s else s
def execTbMarkLoss (s : State) : Host.Outcome State Fault Refusal := .next (tbMarkLossF s)

/-- `SPN_PERR` as read (RC): one read clears both fields. -/
def spnPerrRead (k : Nat) (insp : Bool) (s : State) : Word × State :=
  let p := s.portAt k
  (wd (p.replays.toNat * 65536 + p.crcErr.toNat), if insp then s else s.portAtMod k (fun p => { p with replays := 0, crcErr := 0 }))
/-- `SPN_PERR` (R11, R312). -/
def execSpnPerr (k : Fin 12) (insp : Bool) (s : State) : Host.Outcome State Fault Refusal := .next (State.readTo (spnPerrRead k.val insp s))

end Sys2Proof.Machine
end

