-- ==== Sys2Proof/Machine/Lane.lean ====
section
/-! DEFINITION. Lanes at work: bring-up, loss and return of lock, FEC, test features; the PCIe controllers: link, inbound and outbound requests.
File 12. -/

namespace Sys2Proof.Machine

/-- A lane command: of a lane the part does not have it does nothing (log 11). -/
def laneCmd (l : LaneId) (f : State → State) (s : State) : Host.Outcome State Fault Refusal := .next (s.when (laneExists l) f)

/-- A read of a lane's register; that of a lane the part does not have reads zero. -/
def laneReadCmd (l : LaneId) (f : State → Word × State) (s : State) : Host.Outcome State Fault Refusal :=
  .next (State.readTo (if laneExists l then f s else (0, s)))

/-- The lane becomes Active (R291). -/
def Lane.activate (x : Lane) : Lane :=
  { x with state := .active, tries := 0, triesNoticed := false, symLock := true, cdrLock := true, sigDet := true, tsRun := 0, ts2Run := 0 }

/-- A bring-up attempt fails (R291): the lane returns to Detect and `tries` advances; at 8, notice 0x3C06 is raised once. -/
def bringFail (l : LaneId) (s : State) : State :=
  let s := s.laneAtMod l (fun x => { x.toDetect with tries := satInc x.tries })
  let x := s.laneAt l
  if x.tries = 8 ∧ !x.triesNoticed then raiseFrom l.die.val 0x3C06 (s.laneAtMod l (fun x => { x with triesNoticed := true })) else s

/-- `LANE_PORT_ENABLE` (R291, R292). -/
def lanePortEnableF (l : LaneId) (s : State) : State :=
  let x := s.laneAt l
  if x.state == .off && (x.owner == 0 || x.owner == 3) then s.laneAtMod l Lane.enable else s
def execLanePortEnable (l : LaneId) (s : State) : Host.Outcome State Fault Refusal := laneCmd l (lanePortEnableF l) s

/-- `LANE_PORT_DISABLE` (R291): the owner disables the port, and the lane goes to Off. -/
def lanePortDisableF (l : LaneId) (s : State) : State :=
  let s' := match s.laneSpan l with | some k => spanDown k s | none => s
  s'.laneAtMod l Lane.idle
def execLanePortDisable (l : LaneId) (s : State) : Host.Outcome State Fault Refusal := laneCmd l (lanePortDisableF l) s

/-- `LANE_DETECT_TIMER` (R291): a common-mode step, every 1 ms in Detect. -/
def laneDetectTimerF (l : LaneId) (s : State) : State :=
  if (s.laneAt l).state == .detect then s.laneAtMod l (fun x => { x with stepped := true }) else s
def execLaneDetectTimer (l : LaneId) (s : State) : Host.Outcome State Fault Refusal := laneCmd l (laneDetectTimerF l) s

/-- `LANE_FAR_END_DETECT` (R291): Detect to Train. -/
def laneFarEndDetectF (l : LaneId) (s : State) : State :=
  if (s.laneAt l).state == .detect then s.laneAtMod l (fun x => { x with state := .train, tsRun := 0, ts2Run := 0, stepped := false }) else s
def execLaneFarEndDetect (l : LaneId) (s : State) : Host.Outcome State Fault Refusal := laneCmd l (laneFarEndDetectF l) s

/-- The check symbol of a training set holds, and symbols 0 and 1 name its kind (R290). -/
def tsGood (kind : Byte) (t : List Byte) : Bool :=
  t.getD 0 0 == 0xBC && t.getD 1 0 == kind && (List.range 14).foldl (fun a i => a ^^^ t.getD (i + 1) 0) 0 == t.getD 15 0

/-- A TS2 matches in rate code and lane count (R291). -/
def tsMatches (l : LaneId) (x : Lane) (t : List Byte) : Bool :=
  (t.getD 2 0).toNat + 256 * (t.getD 6 0).toNat == x.rateCode && (t.getD 4 0).toNat == portLanes l

/-- What the lane receives reaches its PCS: the checker disconnects it (R303). -/
def Lane.pcsFed (x : Lane) : Bool := !x.prbsRx

/-- A training set arrives (R290, R291). -/
def trainSet (l : LaneId) (two : Bool) (t : List Byte) (s : State) : State :=
  let x := s.laneAt l
  if !x.pcsFed || !tsGood (if two then 0x45 else 0x4A) t then s
  else match x.state with
    | .train => s.laneAtMod l (fun x =>
        if 7 ≤ x.tsRun then { x with state := .exchange, tsRun := 0, ts2Run := 0, cdrLock := true, symLock := true, sigDet := true }
        else { x with tsRun := x.tsRun + 1, cdrLock := true, symLock := true, sigDet := true })
    | .exchange =>
      if !two then s.laneAtMod l (fun x => { x with ts2Run := 0 })
      else if !tsMatches l x t then bringFail l s
      else s.laneAtMod l (fun x => if 7 ≤ x.ts2Run then x.activate else { x with ts2Run := x.ts2Run + 1 })
    | .off | .detect | .active | .realign | .blind => s

/-- `TS1` (R290, R291). -/
def ts1F (l : LaneId) (t : List Byte) (s : State) : State := trainSet l false t s
def execTs1 (l : LaneId) (t : List Byte) (s : State) : Host.Outcome State Fault Refusal :=
  laneCmd l (fun s => s.when (t.length == 16) (ts1F l t)) s
/-- `TS2` (R290, R291): that 16 TS2 have been sent is a matter of time, and is taken as done (log 43). -/
def ts2F (l : LaneId) (t : List Byte) (s : State) : State := trainSet l true t s
def execTs2 (l : LaneId) (t : List Byte) (s : State) : Host.Outcome State Fault Refusal :=
  laneCmd l (fun s => s.when (t.length == 16) (ts2F l t)) s

/-- `LANE_TRAIN_TIMEOUT` (R291): 10 ms in Train. -/
def laneTrainTimeoutF (l : LaneId) (s : State) : State := if (s.laneAt l).state == .train then bringFail l s else s
def execLaneTrainTimeout (l : LaneId) (s : State) : Host.Outcome State Fault Refusal := laneCmd l (laneTrainTimeoutF l) s

/-- `LANE_EXCHANGE_TIMEOUT` (R291): 2 ms in Exchange. -/
def laneExchangeTimeoutF (l : LaneId) (s : State) : State := if (s.laneAt l).state == .exchange then bringFail l s else s
def execLaneExchangeTimeout (l : LaneId) (s : State) : Host.Outcome State Fault Refusal := laneCmd l (laneExchangeTimeoutF l) s

/-- `LANE_SYNC_LOSS` (R291, R294, R295): the lane leaves Active for Realign; `errs` errors were counted. -/
def laneSyncLossF (l : LaneId) (errs : Nat) (s : State) : State :=
  if (s.laneAt l).state == .active then
    s.laneAtMod l (fun x => { x with
      state := .realign, lost := true, symLock := false, realigns := satInc x.realigns, codeErr := satAdd x.codeErr errs })
  else s
def execLaneSyncLoss (l : LaneId) (errs : Nat) (s : State) : Host.Outcome State Fault Refusal := laneCmd l (laneSyncLossF l errs) s

/-- Link training by the standard of the PCS has set the lane's FIR, and its result overwrites `LN_EQ_TX` (R289, R298): the far end chooses it, a free
value (log 149). -/
def firTrained (l : LaneId) (s : State) : State :=
  let (v, s) := s.take 32
  s.laneAtMod l (fun x => { x with eqTx := v &&& 0x003FFF3F })

/-- `LANE_SYMBOL_LOCK` (R291, R292, R298): symbol, block or CDR lock makes a Blind or Realign lane, and an Ethernet lane whose PMD training is done,
Active. -/
def laneSymbolLockF (l : LaneId) (s : State) : State :=
  let x := s.laneAt l
  if (x.pcsFed || x.pcs == 0) && (x.state == .blind || x.state == .realign || (x.state == .train && x.pcs == 4)) then
    (s.laneAtMod l Lane.activate).when (x.state == .train) (firTrained l)
  else s
def execLaneSymbolLock (l : LaneId) (s : State) : Host.Outcome State Fault Refusal := laneCmd l (laneSymbolLockF l) s

/-- The lane is brought up by training (R289). -/
def Lane.trained (x : Lane) : Bool := !x.blind && (x.pcs == 1 || x.pcs == 4)

/-- `LANE_REALIGN_TIMEOUT` (R291, R298): 100 µs in Realign; a blind lane has no timeout (R292). -/
def laneRealignTimeoutF (l : LaneId) (s : State) : State :=
  let x := s.laneAt l
  if x.state == .realign && x.trained then lanePortDown l (s.laneAtMod l Lane.toDetect) else s
def execLaneRealignTimeout (l : LaneId) (s : State) : Host.Outcome State Fault Refusal := laneCmd l (laneRealignTimeoutF l) s

/-- `ETH_FEC_CODEWORD` (R296): RS(544,514) corrects up to 15 symbols; beyond that the codeword is uncorrectable. -/
def ethFecCodewordF (l : LaneId) (n : Nat) (s : State) : State :=
  let x := s.laneAt l
  if x.pcs ≠ 4 ∨ x.state != .active ∨ n = 0 then s
  else if n ≤ 15 then s.laneAtMod l (fun x => { x with fecCorr := satInc x.fecCorr })
  else raiseFrom l.die.val 0x3C04 (s.laneAtMod l (fun x => { x with fecUncorr := satInc x.fecUncorr }))
def execEthFecCodeword (l : LaneId) (n : Nat) (s : State) : Host.Outcome State Fault Refusal := laneCmd l (ethFecCodewordF l n) s

/-- `LN_PRBS_CLR` (R303). -/
def lnPrbsClrF (l : LaneId) (s : State) : State := s.laneAtMod l (fun x => { x with prbsErr := 0, prbsBits := 0 })
def execLnPrbsClr (l : LaneId) (s : State) : Host.Outcome State Fault Refusal := laneCmd l (lnPrbsClrF l) s

/-- The lane belongs to a controller whose link is up (R306). -/
def State.laneLinked (s : State) (l : LaneId) : Bool :=
  l.die == 0 && (((s.laneAt l).owner == 1 && s.xcvr.pcie0.up) || ((s.laneAt l).owner == 2 && s.xcvr.pcie1.up))

/-- A test feature takes the port down (R303, R306): a lane that is up leaves Active and is brought up again. -/
def testDown (l : LaneId) (s : State) : State :=
  let x := s.laneAt l
  if x.state == .active || x.state == .realign then
    lanePortDown l (s.laneAtMod l (fun x => if x.trained then { x.toDetect with lost := true } else { x.readapt with state := .blind, symLock := false, lost := true }))
  else s

/-- `LN_PRBS_TX_EN` (R303, R306). -/
def lnPrbsTxEnF (l : LaneId) (on : Bool) (s : State) : State :=
  if s.laneLinked l then s.laneAtMod l (fun x => { x with wrIgn := true })
  else (s.laneAtMod l (fun x => { x with prbsTx := on })).when (on && !(s.laneAt l).prbsTx) (testDown l)
def execLnPrbsTxEn (l : LaneId) (on : Bool) (s : State) : Host.Outcome State Fault Refusal := laneCmd l (lnPrbsTxEnF l on) s

/-- `LN_PRBS_RX_EN` (R303, R306). -/
def lnPrbsRxEnF (l : LaneId) (on : Bool) (s : State) : State :=
  if s.laneLinked l then s.laneAtMod l (fun x => { x with wrIgn := true })
  else (s.laneAtMod l (fun x => { x with prbsRx := on, prbsLock := x.prbsLock && on })).when (on && !(s.laneAt l).prbsRx) (testDown l)
def execLnPrbsRxEn (l : LaneId) (on : Bool) (s : State) : Host.Outcome State Fault Refusal := laneCmd l (lnPrbsRxEnF l on) s

/-- `LN_LPBK` (R306). -/
def lnLpbkF (l : LaneId) (v : BitVec 2) (s : State) : State :=
  if s.laneLinked l then s.laneAtMod l (fun x => { x with wrIgn := true })
  else (s.laneAtMod l (fun x => { x with lpbk := v })).when ((v == 1 || v == 2) && (s.laneAt l).lpbk != v) (testDown l)
def execLnLpbk (l : LaneId) (v : BitVec 2) (s : State) : Host.Outcome State Fault Refusal := laneCmd l (lnLpbkF l v) s

/-- `LN_ADAPT_HOLD` (R298). -/
def lnAdaptHoldF (l : LaneId) (on : Bool) (s : State) : State := s.laneAtMod l (fun x => { x with adaptHold := on })
def execLnAdaptHold (l : LaneId) (on : Bool) (s : State) : Host.Outcome State Fault Refusal := laneCmd l (lnAdaptHoldF l on) s

/-- `LN_PRBS_ERR_LO` as read (RS, R304): it latches the other three words. -/
def lnPrbsErrLoRead (l : LaneId) (insp : Bool) (s : State) : Word × State :=
  let s := lineSeen l s
  let x := s.laneAt l
  (wd x.prbsErr.toNat, if insp then s else s.laneAtMod l (fun x => { x with latErrHi := BitVec.ofNat 16 (x.prbsErr.toNat / 2 ^ 32), latBits := x.prbsBits }))
def execLnPrbsErrLo (l : LaneId) (insp : Bool) (s : State) : Host.Outcome State Fault Refusal :=
  laneReadCmd l (lnPrbsErrLoRead l insp) s

/-- `LN_CODE_ERR` as read (RC). -/
def lnCodeErrRead (l : LaneId) (insp : Bool) (s : State) : Word × State :=
  let x := s.laneAt l
  (wd (x.realigns.toNat * 65536 + x.codeErr.toNat), if insp then s else s.laneAtMod l (fun x => { x with realigns := 0, codeErr := 0 }))
def execLnCodeErr (l : LaneId) (insp : Bool) (s : State) : Host.Outcome State Fault Refusal :=
  laneReadCmd l (lnCodeErrRead l insp) s

/-- `LN_FEC` as read (RC). -/
def lnFecRead (l : LaneId) (insp : Bool) (s : State) : Word × State :=
  let x := s.laneAt l
  (wd (x.fecUncorr.toNat * 65536 + x.fecCorr.toNat), if insp then s else s.laneAtMod l (fun x => { x with fecUncorr := 0, fecCorr := 0 }))
def execLnFec (l : LaneId) (insp : Bool) (s : State) : Host.Outcome State Fault Refusal :=
  laneReadCmd l (lnFecRead l insp) s

/-- `LN_HELD` as read (RC). -/
def lnHeldRead (l : LaneId) (insp : Bool) (s : State) : Word × State :=
  let s := lineSeen l s
  ((s.laneAt l).heldDrop, if insp then s else s.laneAtMod l (fun x => { x with heldDrop := 0 }))
def execLnHeld (l : LaneId) (insp : Bool) (s : State) : Host.Outcome State Fault Refusal :=
  laneReadCmd l (lnHeldRead l insp) s

/-- `EYE_SCAN_GO` (R305): a write of `LN_EYE_CTRL`; a `go` while a scan runs is ignored and sets `wr_ign`. -/
def eyeScanGoF (l : LaneId) (w : Word) (s : State) : State :=
  let x := s.laneAt l
  s.laneAtMod l (fun y => { y with
    eyeCtrl := w &&& 0x00FFF03F, wrIgn := y.wrIgn || (bit w 31 && x.eyeBusy), eyeBusy := x.eyeBusy || bit w 31
    eyeDone := y.eyeDone && !(bit w 31 && !x.eyeBusy) })
def execEyeScanGo (l : LaneId) (w : Word) (s : State) : Host.Outcome State Fault Refusal := laneCmd l (eyeScanGoF l w) s

/-- `EYE_SCAN_DONE` (R305). -/
def eyeScanDoneF (l : LaneId) (count : BitVec 31) (s : State) : State :=
  if (s.laneAt l).eyeBusy then s.laneAtMod l (fun x => { x with eyeBusy := false, eyeDone := true, eyeCount := count }) else s
def execEyeScanDone (l : LaneId) (count : BitVec 31) (s : State) : Host.Outcome State Fault Refusal := laneCmd l (eyeScanDoneF l count) s

/-- Mode of a controller in the settings: 1 endpoint, 2 root port. -/
def State.pcieMode (s : State) (c : Nat) : Nat := fld (s.setting 4) (1 + 16 * c) (16 * c)

/-- Lanes of controller c that a link of `w` lanes uses. -/
def linkLanes (c w : Nat) : List LaneId := (List.range (min w 16)).map (fun i => laneOf 0 (16 * c + i))

/-- `PCIE_LINK_UP` (R289, R298, R299): the link has trained; 0x2C02 when it is below the settings width or generation. -/
def pcieLinkUpF (c : Nat) (width : BitVec 5) (gen : BitVec 3) (s : State) : State :=
  if (s.pcieAt c).enabled && s.mode != .greenware then
    let s := s.pcieMod c (fun x => { x with up := true, width := width, gen := gen, ltssm := Config.ltssm 1, inL1 := false })
    let s := s.each (linkLanes c width.toNat) (fun l t => firTrained l (t.laneAtMod l (fun x => { x.activate with enabled := true, rate := wd (pcieRate gen.toNat) })))
    s.when (decide (width.toNat < pcieLanes (s.setting 4) (s.setting 20) c) || decide (gen.toNat < fld (s.setting 4) (4 + 16 * c) (2 + 16 * c))) (raise 0x2C02)
  else s
def execPcieLinkUp (c : Fin 2) (width : BitVec 5) (gen : BitVec 3) (s : State) : Host.Outcome State Fault Refusal :=
  .next (pcieLinkUpF c.val width gen s)

/-- `PCIE_LINK_DOWN` (R496): no completion is returned for any outstanding request. -/
def pcieLinkDownF (c : Nat) (s : State) : State :=
  if (s.pcieAt c).up then
    (pcieDown c s).each (linkLanes c 16) (fun l t => if (t.laneAt l).owner = 1 + c then t.laneAtMod l (fun x => { x.idle with lost := x.lost || x.state == .active }) else t)
  else s
def execPcieLinkDown (c : Fin 2) (s : State) : Host.Outcome State Fault Refusal := .next (pcieLinkDownF c.val s)

/-- `PCIE_L1_EXIT` (R467, R496): a host access brings the link out of L1; in Resting it is wake source 0x4. -/
def pcieL1ExitF (c : Nat) (s : State) : State :=
  if (s.pcieAt c).up && (s.pcieAt c).inL1 then
    (s.pcieMod c (fun x => { x with inL1 := false, ltssm := Config.ltssm 1 })).when (s.mode == .resting) (wake 4)
  else s
def execPcieL1Exit (c : Fin 2) (s : State) : Host.Outcome State Fault Refusal := .next (pcieL1ExitF c.val s)

/-- Bytes (BAR0 offset, value) of a write as they stand in its data flits. -/
def writeBytes (off n : Nat) (data : List (BitVec 256)) : List (Nat × Byte) := (List.range n).map (fun i => (off + i, (takeBytes off n data).getD i 0))

/-- A word of BAR0 as read (R43). -/
def mbxWord (off : Nat) (s : State) : Word :=
  let m := s.mgr.mbx
  if 0x2000 ≤ off ∧ off < 0x8000 then sget 0 m.cmdBuf ((off - 0x2000) / 4)
  else if 0x8000 ≤ off ∧ off < 0xE000 then wordAt m.rspBuf ((off - 0x8000) / 4)
  else match off with
    | 0 => wd (b2n m.irqEn)
    | 4 => wd (s.queued .mailbox * 8 + b2n m.overrun * 4 + b2n m.rspValid * 2 + b2n m.cmdFree)
    | 0xC => wd (if m.rspValid then m.rspBuf.length else 0)
    | 0x14 => wd (b2n m.cmdFreeEv * 2 + b2n m.rspEv)
    | _ => 0

/-- A whole-word write to a mailbox register. -/
def mbxRegWrite (off : Nat) (w : Word) (s : State) : State :=
  let m (f : Mailbox → Mailbox) (s : State) : State := s.onMgr (fun g => { g with mbx := f g.mbx })
  match off with
  | 0 => (m (fun x => { x with irqEn := bit w 0 }) s).when (bit w 1) mbxFlushF
  | 4 => m (fun x => { x with overrun := x.overrun && !bit w 2 }) s
  | 8 => mbxSubmitF w s
  | 0x10 => s.when (bit w 0) mbxRspDoneF
  | 0x14 => m (fun x => { x with cmdFreeEv := x.cmdFreeEv && !bit w 1, rspEv := x.rspEv && !bit w 0 }) s
  | _ => s

/-- A write to BAR0 (R43): command buffer bytes, and whole words of the registers in ascending order. -/
def mbxWrite (off n : Nat) (data : List (BitVec 256)) (s : State) : State :=
  let bs := writeBytes off n data
  let s := s.onMgr (fun g => { g with mbx := { g.mbx with
    cmdBuf := (bs.filter (fun b => 0x2000 ≤ b.1 && b.1 < 0x8000)).foldl (fun m b =>
      smod 0 m ((b.1 - 0x2000) / 4) (fun w => setFld w (8 * (b.1 % 4) + 7) (8 * (b.1 % 4)) b.2.toNat)) g.mbx.cmdBuf } })
  s.each ((List.range 6).filter (fun i => off ≤ 4 * i && 4 * i + 4 ≤ off + n)) (fun i t =>
    mbxRegWrite (4 * i) (wd (bytesNat ((takeBytes off n data).drop (4 * i - off) |>.take 4))) t)

/-- A read of BAR0 returns its bytes in the completion. -/
def mbxRead (off n : Nat) (s : State) : List (BitVec 256) :=
  placeBytes off ((List.range n).map (fun i => BitVec.ofNat 8 ((mbxWord ((off + i) / 4 * 4) s).toNat >>> (8 * ((off + i) % 4)))))

/-- A completion returned to the host. -/
def pcieComplete (c : Nat) (k : Completion) (s : State) : State := s.pcieMod c (fun x => { x with compl := x.compl ++ [k] })

/-- Base of the BAR2 window (R300, `PCIE_WIN`). -/
def Pcie.winBase (x : Pcie) : Nat := fld x.winLo 31 20 * 2 ^ 20 + x.winHi.toNat * 2 ^ 32

/-- `PCIE_INBOUND_REQUEST` (R43, R300, R301, R496): BAR0 is the mailbox of controller 0, BAR2 the window into the global address space; what no
BAR claims is an unsupported request, and in Cooling BAR2 is answered with Completer Abort. An access in L1 first brings the link out of it. -/
def pcieInboundRequestF (c : Nat) (bar off len : Nat) (write : Bool) (data : List (BitVec 256)) (ep : Bool) (s : State) : State :=
  if !(s.pcieAt c).up then s
  else
    let s := pcieL1ExitF c s; let x := s.pcieAt c
    let refuse (k : Completion) (s : State) : State := if write then s else pcieComplete c k s
    if s.pcieMode c ≠ 1 then refuse .unsupported s
    else if bar = 0 ∧ c = 0 ∧ off + len + 1 ≤ 0x10000 then
      if write then (if ep then s else mbxWrite off (len + 1) data s) else pcieComplete c (.data (mbxRead off (len + 1) s) false) s
    else if bar = 2 ∧ off + len + 1 ≤ 2 ^ x.lsizeEff.toNat then
      if s.mode == .cooling then refuse .abort s
      else retire (pciePort c) (s.pcieMod c (fun x => { x with waiting := x.waiting ++
        [{ write := write, addr := BitVec.ofNat 64 (x.winBase + off), len := BitVec.ofNat 8 len, data := if write then data else [], ep := ep }] }))
    else refuse .unsupported s
def execPcieInboundRequest (c : Fin 2) (bar : BitVec 3) (off : BitVec 40) (len : Byte) (write : Bool) (data : List (BitVec 256)) (ep : Bool) (s : State) :
    Host.Outcome State Fault Refusal :=
  .next (s.when (!write || data.length == dataFlits off.toNat len.toNat) (pcieInboundRequestF c.val bar.toNat off.toNat len.toNat write data ep))

/-- A configuration access by `PCIE_CFGDATA` (R302): a write performs the request; a read performs it unless it is an inspect read. A failed
read gives ones, and `down_seen` sets if the link is down. -/
def pcieCfgAccess (c : Nat) (write : Option Word) (completion : Option Word) (insp : Bool) (s : State) : Word × State :=
  let x := s.pcieAt c
  let ok := x.up && s.pcieMode c == 2
  let acts := write.isSome || !insp
  let s := if !acts then s
    else if ok then s.pcieMod c (fun x => { x with cfgOut := x.cfgOut ++ [(x.cfgReq, write)] })
    else s.pcieMod c (fun x => { x with downSeen := x.downSeen || !x.up })
  (if ok then completion.getD 0xFFFFFFFF else 0xFFFFFFFF, s)
/-- `PCIE_CFGDATA`. -/
def pcieCfgdataF (c : Nat) (write : Option Word) (completion : Option Word) (insp : Bool) (s : State) : State :=
  let r := pcieCfgAccess c write completion insp s
  if write.isSome then r.2 else State.readTo r
def execPcieCfgdata (c : Fin 2) (write : Option Word) (completion : Option Word) (insp : Bool) (s : State) : Host.Outcome State Fault Refusal :=
  .next (pcieCfgdataF c.val write completion insp s)

/-- An access to a root port's outbound aperture (R302): it goes out as a memory request to bus address `ob_base` plus the offset. The spec does
not say what a read returns when no completion with data comes: a free value. -/
def pcieOutbound (c off : Nat) (write : Option Word) (completion : Option Word) (s : State) : Word × State :=
  let x := s.pcieAt c
  let ok := x.up && s.pcieMode c == 2
  let s := if ok then s.pcieMod c (fun x => { x with
    outb := x.outb ++ [(BitVec.ofNat 64 (fld x.obLo 31 12 * 4096 + x.obHi.toNat * 2 ^ 32 + off), write)] }) else s
  match write, completion with
  | none, none => s.take 32
  | none, some v => if ok then (v, s) else s.take 32
  | some _, _ => (0, s)
/-- `PCIE_OUTBOUND_ACCESS`. -/
def pcieOutboundAccessF (c off : Nat) (write : Option Word) (completion : Option Word) (s : State) : State :=
  let r := pcieOutbound c off write completion s
  if write.isSome then r.2 else State.readTo r
def execPcieOutboundAccess (c : Fin 2) (off : BitVec 18) (write : Option Word) (completion : Option Word) (s : State) : Host.Outcome State Fault Refusal :=
  .next (pcieOutboundAccessF c.val off.toNat write completion s)

end Sys2Proof.Machine
end

