-- ==== Sys2Proof/Machine/DdrCore.lean ====
section
/-! DEFINITION. The DDR5 controller under the encryption engine: the address map, lines in DRAM and in the write buffer, the line code, device
marks and line remap, the error log. File 14. -/

namespace Sys2Proof.Machine

/-- Row width (R330). -/
def Chan.rowBits (x : Chan) : Nat := if x.dens then 17 else 16

/-- Default map masks of R334, for log2 of the ranks. -/
def defaultMasks (r : Nat) : List Word :=
  ([0, 1, 2, 3, 11, 12] : List Nat).zipIdx.map (fun h => wd (2 ^ h.1 + 2 ^ (13 + r + h.2) + 2 ^ (19 + r + h.2)))

/-- Where a line lies (R333): rank, subchannel, bank group, bank, row. -/
structure LinePos where
  rank : Nat
  sc : Nat
  bg : Nat
  ba : Nat
  row : Nat
  deriving DecidableEq, Repr

/-- One hashed field bit. -/
def hashBit (mask : Word) (la : Nat) : Nat := ones (BitVec.ofNat 32 la &&& mask) % 2

/-- Position of a line address (R333). -/
def Chan.pos (x : Chan) (la : Nat) : LinePos :=
  let h (i : Nat) : Nat := hashBit (wordAt x.masks i) la; let r := x.ranks.toNat
  { rank := la / 2 ^ 13 % 2 ^ r, sc := h 0, bg := h 1 + 2 * h 2 + 4 * h 3, ba := h 4 + 2 * h 5, row := la / 2 ^ (13 + r) % 2 ^ x.rowBits }

/-- Key of a bank. -/
def LinePos.bank (p : LinePos) : Nat := ((p.rank * 2 + p.sc) * 8 + p.bg) * 4 + p.ba

/-- Line of spare i (R347). -/
def Chan.spare (x : Chan) (i : Nat) : Nat := ((x.sizeMib - 1) * 1048576 + i * 65536) / 64

/-- Line that an access to line `la` reaches, through the remap entries (R347). -/
def Chan.phys (x : Chan) (la : Nat) : Nat :=
  match (List.range 16).find? (fun i => let e := sget {} x.remap i; e.active && e.ca.toNat == la * 64) with
  | some i => x.spare i
  | none => la

/-- The DRAM cells of a line. -/
def State.dramLine (s : State) (c line : Nat) : BitVec 512 :=
  BitVec.ofNat 512 (bytesNat ((List.range 64).map (fun i => sget 0 s.ddr.mem (c * 2 ^ 38 + line * 64 + i))))

/-- Store a line in DRAM, in poisoned form or good (R341, R344). -/
def dramStore (c line : Nat) (v : BitVec 512) (poison : Bool) (s : State) : State :=
  s.onDdr (fun d => { d with
    mem := (List.range 64).foldl (fun m i => sput 0 m (c * 2 ^ 38 + line * 64 + i) (BitVec.ofNat 8 (v.toNat >>> (8 * i)))) d.mem
    poison := sput false d.poison (c * 2 ^ 32 + line) poison })

/-- Record an access to a bank in its predictor and leave the row open (R339). -/
def touchBank (c line : Nat) (s : State) : State :=
  s.ddrAtMod c (fun x =>
    let p := x.pos line
    { x with bank := smod {} x.bank p.bank (fun b => { b with
        ctr := if b.last = some p.row then satInc b.ctr else if b.ctr = 0 then 0 else b.ctr - 1
        last := some p.row, row := some p.row }) })

/-- Capture in `DDR_ERRLOG` by the rule of R129: kind 0 gives way to another kind. -/
def ddrLog (c kind : Nat) (scrub : Bool) (device line : Nat) (s : State) : State :=
  s.ddrAtMod c (fun x =>
    let p := x.pos line
    let e : DErr := { kind := BitVec.ofNat 2 kind, scrub := scrub, device := BitVec.ofNat 4 device, rank := BitVec.ofNat 2 p.rank, sc := p.sc == 1
                      ca := BitVec.ofNat 38 (line * 64) }
    { x with log := match x.log with
      | none => some e
      | some o => if o.kind = 0 ∧ kind ≠ 0 then some e else some o })

/-- A change for the next repair record (R349, R473). -/
def recordAdd (e : RecEntry) (s : State) : State :=
  if s.tst.add.contains e then s else s.onTst (fun t => { t with add := t.add ++ [e] })

/-- Serial number of the DIMM that holds a rank (R349). -/
def Chan.serialOf (x : Chan) (rank : Nat) : Word :=
  if x.serial1 = 0 ∨ x.slot1Unused ∨ 2 * rank < 2 ^ x.ranks.toNat then x.serial0 else x.serial1

/-- A corrected error is charged to a device (R342, R343): at `mark_thresh` the device is marked, if its rank and subchannel has no mark; a
second device is logged. -/
def chargeDevice (c line dev : Nat) (scrub : Bool) (s : State) : State :=
  let x := s.ddrAt c; let p := x.pos line; let key := 2 * p.rank + p.sc
  let th := max 1 (fld (s.reg 0 (blkDdr + c * 0x10000 + 4)) 23 16)
  let n := sget 0 (sget {} x.mark key).charged dev + 1
  let s := s.ddrAtMod c (fun x => { x with mark := smod {} x.mark key (fun m => { m with charged := sput 0 m.charged dev n }) })
  if n < th then s
  else if (sget {} x.mark key).marked then (if n = th then ddrLog c 0 scrub dev line s else s)
  else
    let s := s.ddrAtMod c (fun x => { x with mark := smod {} x.mark key (fun m => { m with marked := true, device := BitVec.ofNat 4 dev, rewrite := true }) })
    raise 0x2E02 (recordAdd (wd (4 * 2 ^ 28 + c * 2 ^ 24 + p.rank * 2 ^ 22 + p.sc * 2 ^ 21 + dev * 2 ^ 17), x.serialOf p.rank, 0, 0) s)

/-- The four bits that device v of a subchannel drives in a beat of the burst (R341): symbol 8v + k gives its low nibble in beat 2k and its high one in beat
2k + 1. -/
def burstNibble (sym : Nat → Byte) (v beat : Nat) : BitVec 4 := BitVec.ofNat 4 ((sym (8 * v + beat / 2)).toNat / 16 ^ (beat % 2))

/-- How the decoder ends (R342): no error, corrected with the devices charged, or uncorrectable. -/
inductive Decoded where
  | good
  | corrected (devs : List Nat)
  | lost
  deriving DecidableEq, Repr

/-- The decoder on the symbols in error, with the device mark (R342). -/
def decodeLine (m : DMark) (errs : List Nat) : Decoded :=
  if errs.isEmpty then .good
  else if m.marked then
    let out := errs.filter (fun e => e / 8 != m.device.toNat)
    if out.length ≤ 4 then .corrected (out.map (· / 8)).eraseDups else .lost
  else match (errs.map (· / 8)).eraseDups with
    | [d] => .corrected [d]
    | _ => .lost

/-- Read a line from the DIMM (R342, R344): its data, and 0 good, 1 in poisoned form, 2 uncorrectable. What the lost data read as is a free
value. -/
def dimmLine (c line : Nat) (m : DimmRead) (scrub : Bool) (s : State) : BitVec 512 × Nat × State :=
  let x := s.ddrAt c; let p := x.pos line
  let errs := (m.errs.map Fin.val).eraseDups
  let s := touchBank c line s
  let v := m.raw.getD (s.dramLine c line)
  let code := if sget false s.ddr.poison (c * 2 ^ 32 + line) then 1 else 0
  match decodeLine (sget {} x.mark (2 * p.rank + p.sc)) errs with
  | .good => (v, code, s)
  | .corrected devs =>
    let s := s.ddrAtMod c (fun x => { x with ceCount := satInc x.ceCount })
    let s := ddrLog c 0 scrub (devs.headD 15) line s
    (v, code, s.each devs (fun d => chargeDevice c line d scrub))
  | .lost =>
    let s := s.ddrAtMod c (fun x => { x with ueCount := satInc x.ueCount })
    let s := raise 0x3E04 (ddrLog c 1 scrub 15 line s)
    let (f, s) := s.take 512
    (f, 2, s)

/-- A word of a read or write buffer under its SEC-DED code (R345): 0 good, 1 corrected, 2 uncorrectable. -/
def bufWord (c line : Nat) (k : Fin 3) (s : State) : State :=
  if k = 1 then s.ddrAtMod c (fun x => { x with bufCe := satInc x.bufCe })
  else if k = 2 then raise 0x3E06 (ddrLog c 2 false 15 line (s.ddrAtMod c (fun x => { x with bufUe := satInc x.bufUe })))
  else s

/-- Read a line at the controller (R338, R342, R347): from the write buffer, or from the DIMM. -/
def ctlRead (c la : Nat) (m : DimmRead) (s : State) : BitVec 512 × Nat × State :=
  match (s.ddrAt c).wb.find? (fun w => w.la == la) with
  | some w => (w.data, b2n w.poison, s)
  | none => dimmLine c ((s.ddrAt c).phys la) m false s

/-- A whole line enters the write buffer, or merges into its entry (R338). -/
def ctlWrite (c la : Nat) (v : BitVec 512) (poison : Bool) (s : State) : State :=
  s.ddrAtMod c (fun x =>
    if x.wb.any (fun w => w.la == la) then { x with wb := x.wb.map (fun w => if w.la = la then { la := la, data := v, poison := poison } else w) }
    else { x with wb := x.wb ++ [{ la := la, data := v, poison := poison }] })

/-- Rewrite a line where it stands: in the write buffer or in DRAM. -/
def ctlRewrite (c la : Nat) (v : BitVec 512) (poison : Bool) (s : State) : State :=
  if (s.ddrAt c).wb.any (fun w => w.la == la) then ctlWrite c la v poison s else dramStore c ((s.ddrAt c).phys la) v poison s

/-- A write to a row is pending in a bank. -/
def Chan.pendingRow (x : Chan) (p : LinePos) : Bool := x.wb.any (fun w => let q := x.pos (x.phys w.la); q.bank == p.bank && q.row == p.row)

/-- The oldest line of the write buffer goes to DRAM (R338, R345): with an uncorrectable buffer word, in poisoned form. The bank returns to
normal service once no write to its row is pending (R340). -/
def drainOne (c : Nat) (k : Fin 3) (s : State) : State :=
  match (s.ddrAt c).wb with
  | [] => s
  | w :: rest =>
    let line := (s.ddrAt c).phys w.la
    let s := bufWord c line k s
    let s := touchBank c line (dramStore c line w.data (w.poison || k == 2) s)
    s.ddrAtMod c (fun x =>
      let x := { x with wb := rest }; let p := x.pos line
      { x with bank := smod {} x.bank p.bank (fun b => { b with inOrder := b.inOrder && x.pendingRow p }) })

/-- Drain the write buffer until `keep` lines are left. -/
def drainTo (c keep : Nat) : Nat → Fin 3 → State → State
  | 0, _, s => s
  | n + 1, k, s => if (s.ddrAt c).wb.length ≤ keep then s else drainTo c keep n 0 (drainOne c k s)

/-- Lines that a request touches. -/
def reqLines (ca len : Nat) : List Nat := (List.range ((ca + len) / 64 - ca / 64 + 1)).map (fun i => ca / 64 + i)

/-- Channel address of a request at a DDR port. -/
def State.reqCa (s : State) (r : NReq) : Nat := ((s.dramMap (r.addr.toNat % 2 ^ 52)).map (·.2)).getD 0

/-- A read arrives whose row has a write pending: its bank goes to in-order service (R340). -/
def readArrives (c ca : Nat) (s : State) : State :=
  s.ddrAtMod c (fun x =>
    let p := x.pos (x.phys (ca / 64))
    if x.pendingRow p then { x with bank := smod {} x.bank p.bank (fun b => { b with inOrder := true }) } else x)

/-- A channel leaves the interleave set's service: down (R337). -/
def channelDown (c : Nat) (s : State) : State :=
  let qs := (s.ddrAt c).q
  let s := s.ddrAtMod c (fun x => { x with state := .down, q := [], wb := [] })
  raise (0x3E20 + c) (s.each qs (fun r => sendRsp (ddrPort c) (rspFor r stTargetErr [] [])))

/-- Make a remap entry (R347): the line is copied to the spare after correction, or in poisoned form if it is uncorrectable. -/
def remapLine (c la origin : Nat) (m : DimmRead) (s : State) : Option (Nat × State) :=
  match (List.range 16).find? (fun i => !(sget {} (s.ddrAt c).remap i).active) with
  | none => none
  | some i =>
    let (v, code, s) := dimmLine c la m false s
    let s := dramStore c ((s.ddrAt c).spare i) v (code != 0) s
    let s := s.ddrAtMod c (fun x => { x with remap := sput {} x.remap i { active := true, origin := BitVec.ofNat 2 origin, ca := BitVec.ofNat 38 (la * 64) } })
    let x := s.ddrAt c
    some (i, raise 0x1E01 (recordAdd (wd (5 * 2 ^ 28 + c * 2 ^ 24), wd la, x.serialOf (x.pos la).rank, 0) s))

end Sys2Proof.Machine
end

