-- ==== Sys2Proof/Machine/MeeCore.lean ====
section
/-! DEFINITION. The memory encryption engine on lines: derived keys, counters, tags, protected reads and writes, binding of regions. File 15. -/

namespace Sys2Proof.Machine

/-- A derived key of two blocks (R358): bytes n1 and n2, then b. -/
def deriveKey (k : BitVec 256) (n1 n2 b : Nat) : BitVec 256 :=
  Config.aes256 k (BitVec.ofNat 128 (n1 * 2 ^ 120 + b * 2 ^ 88)) ++ Config.aes256 k (BitVec.ofNat 128 (n2 * 2 ^ 120 + b * 2 ^ 88))

/-- Keystream of a line, as its 512 bits (R358). -/
def keystream (ke : BitVec 256) (a mj mn : Nat) : BitVec 512 :=
  BitVec.ofNat 512 (bytesNat ((List.range 4).flatMap (fun j =>
    let ks := Config.aes256 ke (BitVec.ofNat 128 (a / 64 * 2 ^ 82 + mj * 2 ^ 50 + mn * 2 ^ 43 + j))
    (List.range 16).map (fun i => BitVec.ofNat 8 (ks.toNat >>> (8 * (15 - i)))))))

/-- Tag of a line's ciphertext (R359). -/
def lineTag (ka : BitVec 256) (a mj mn : Nat) (ct : BitVec 512) : BitVec 64 :=
  BitVec.ofNat 64 ((Config.gcmTag ka (BitVec.ofNat 96 (a / 64 * 2 ^ 50 + mj * 2 ^ 18 + mn * 2 ^ 11)) (natBytes ct.toNat 64) []).toNat >>> 64)

/-- Protected region that covers a line of a channel (R356). -/
def State.meeRegion (s : State) (c la : Nat) : Option Nat :=
  let a := s.dramLocal c (la * 64)
  (s.mee.region.find? (fun e => e.2.en && decide (e.2.base.toNat ≤ a) && decide (a < e.2.base.toNat + e.2.size.toNat))).map (·.1)

/-- Number of channels in the interleave set. -/
def State.ddrN (s : State) : Nat := s.ddrSet.length

/-- Groups of a region on one channel, and the group of a line within its region (R360). -/
def State.regionGroups (s : State) (r : Nat) : Nat := (s.mregAt r).size.toNat / s.ddrN / 4096
def State.groupIn (s : State) (r la : Nat) : Nat := (la * 64 - (s.mregAt r).base.toNat / s.ddrN) / 4096

/-- The line is below the pointer of the re-encryption that climbs its region (R371). -/
def State.underNew (s : State) (c r la : Nat) : Bool :=
  match s.mee.reenc with
  | some e => e.climbing && e.regions.head? == some (Fin.ofNat 64 r) && decide (s.groupIn r la < sget 0 e.done c)
  | none => false

/-- Slot key and binding number that a line is under: the old or the new ones. -/
def State.lineKey (s : State) (new : Bool) (r : Nat) : BitVec 256 × Nat :=
  match s.mee.reenc, new with
  | some e, true => ((s.slotAt e.slot.toNat).key, e.binding.toNat)
  | _, _ => ((s.slotAt (s.mregAt r).slot.toNat).key, (s.mregAt r).binding.toNat)

/-- Counter keys. -/
def lineKeyOf (c la : Nat) : Nat := c * 2 ^ 32 + la
def groupKeyOf (c la : Nat) : Nat := c * 2 ^ 32 + la / 64

/-- Encrypt a line under given counters: ciphertext and tag (R358, R359). -/
def State.sealLine (s : State) (c r la : Nat) (new : Bool) (mj mn : Nat) (pt : BitVec 512) : BitVec 512 × BitVec 64 :=
  let k := s.lineKey new r; let a := s.dramLocal c (la * 64)
  let ct := pt ^^^ keystream (deriveKey k.1 1 2 k.2) a mj mn
  (ct, lineTag (deriveKey k.1 3 4 k.2) a mj mn ct)

/-- Faults met in metadata (R372): a fatal code, or the state with what is masked or contained; with minor 0 no tag line is read (R365). -/
def metaFaults (c la : Nat) (m : DimmRead) (s : State) : Except Nat State :=
  if m.nodeUe then .error 0x4F13
  else if m.nodeTagBad then .error 0x4F12
  else
    let s := s.onMee (fun e => { e with nodeCe := satAdd e.nodeCe m.nodeCe })
    if m.tagUe && sget 0 s.mee.minor (lineKeyOf c la) != 0 then
      .ok (raise 0x3F04 (s.each (List.range 8) (fun i t =>
        let l := la / 8 * 8 + i
        if sget 0 t.mee.minor (lineKeyOf c l) = 0 then t
        else match (t.ddrAt c).wb.find? (fun w => w.la == l) with
          | some w => ctlRewrite c l w.data true t
          | none => ctlRewrite c l (t.dramLine c ((t.ddrAt c).phys l)) true t)))
    else .ok s

/-- Read a protected line (R365, R367, R372): its plaintext and 0 good, 1 poisoned, 2 uncorrectable, or the fatal code of a fault. -/
def meeRead (c la r : Nat) (m : DimmRead) (bad : Nat) (s : State) : Except Nat (BitVec 512 × Nat × State) :=
  match metaFaults c la m s with
  | .error e => .error e
  | .ok s =>
    let mn := (sget 0 s.mee.minor (lineKeyOf c la)).toNat; let mj := (sget 0 s.mee.major (groupKeyOf c la)).toNat
    if mn = 0 then .ok (0, 0, s)
    else
      let (ct, code, s) := ctlRead c la m s
      let new := s.underNew c r la; let k := s.lineKey new r; let a := s.dramLocal c (la * 64)
      if code = 0 ∧ lineTag (deriveKey k.1 3 4 k.2) a mj mn ct ≠ sget 0 s.mee.tag (lineKeyOf c la) then .error bad
      else .ok (ct ^^^ keystream (deriveKey k.1 1 2 k.2) a mj mn, code, s)

/-- Store a line's counters and tag. -/
def setLine (c la mn : Nat) (t : BitVec 64) (s : State) : State :=
  s.onMee (fun e => { e with minor := sput 0 e.minor (lineKeyOf c la) (BitVec.ofNat 7 mn), tag := sput 0 e.tag (lineKeyOf c la) t })

/-- A write would take the major counter past its end (R369). -/
def State.majorEnds (s : State) (c la : Nat) : Bool :=
  sget 0 s.mee.minor (lineKeyOf c la) == 127 && sget 0 s.mee.major (groupKeyOf c la) == 0xFFFFFFFF

/-- Slots that an encrypted span port uses (`MEE_SLOT_STATE.span_ports`). -/
def State.slotPorts (s : State) (k : Nat) : Nat :=
  (List.range 12).foldl (fun n p => let w := s.reg 0 (blkSpn + 0x100 + 0x40 * p); if bit w 31 ∧ fld w 29 24 = k then n + 2 ^ p else n) 0

/-- A slot is cleared (R355). -/
def clearSlot (k : Nat) (s : State) : State := s.onMee (fun e => { e with slot := sput {} e.slot k {} })

/-- A slot takes a generated key (R352, R353): what the random generator draws is a free value. -/
def genSlot (k : Nat) (s : State) : State :=
  let (v, s) := s.take 256
  s.slotAtMod k (fun _ => { state := 1, key := v, count := 0 })

/-- A binding is allotted under a slot: its number, a tree serial, and the counts advanced (R357, R361). -/
def allotBinding (k : Nat) (s : State) : Word × Word × State :=
  ((s.slotAt k).count, s.mee.serialNext,
   (s.slotAtMod k (fun x => { x with count := x.count + 1 })).onMee (fun e => { e with serialNext := e.serialNext + 1 }))

/-- Step 3 of a re-encryption begins for the region at the head: its pointer is at the first group (R370). -/
def reencClimb (s : State) : State :=
  match s.mee.reenc with
  | none => s
  | some e =>
    let (b, t, s) := allotBinding e.slot.toNat s
    s.onMee (fun x => { x with reenc := some { e with climbing := true, binding := b, serial := t, done := [] } })

/-- Automatic re-encryption of a region under the lowest empty slot (R369), or its notice. -/
def autoRekey (r : Nat) (s : State) : State :=
  match (List.range 64).find? (fun k => (s.slotAt k).state == 0) with
  | some k =>
    if !s.mee.autoRekey then (if (s.mregAt r).limitNoticed then s else raise 0x2F03 (s.mregAtMod r (fun x => { x with limitNoticed := true })))
    else if s.mee.reenc.isSome then
      (if s.mee.autoWait.contains (Fin.ofNat 64 r) || (match s.mee.reenc with | some e => e.regions.contains (Fin.ofNat 64 r) | none => false) then s
       else s.onMee (fun e => { e with autoWait := e.autoWait ++ [Fin.ofNat 64 r] }))
    else
      let e : Reenc := { cmd := none, regions := [Fin.ofNat 64 r], slot := BitVec.ofNat 6 k, retire := some (s.mregAt r).slot }
      let s := genSlot k s
      reencClimb (s.onMee (fun x => { x with reenc := some e }))
  | none => if (s.mregAt r).limitNoticed then s else raise 0x2F03 (s.mregAtMod r (fun x => { x with limitNoticed := true }))

/-- Re-encrypt the other lines of a group under the next major counter with minor 1 (R368): verified first, so a mismatch is fatal. -/
def regroup (c la r : Nat) (s : State) : Except Nat State :=
  let mj := (sget 0 s.mee.major (groupKeyOf c la)).toNat
  let others := (List.range 64).filter (fun i => la / 64 * 64 + i ≠ la && sget 0 s.mee.minor (lineKeyOf c (la / 64 * 64 + i)) != 0)
  let step (acc : Except Nat State) (i : Nat) : Except Nat State :=
    match acc with
    | .error e => .error e
    | .ok t =>
      let l := la / 64 * 64 + i
      match meeRead c l r {} 0x4F10 t with
      | .error e => .error e
      | .ok (pt, code, t) =>
        let (ct, tg) := t.sealLine c r l (t.underNew c r l) (mj + 1) 1 pt
        .ok (setLine c l 1 tg (ctlRewrite c l ct (code != 0) t))
  match others.foldl step (.ok s) with
  | .error e => .error e
  | .ok s =>
    let s := s.onMee (fun e => { e with major := sput 0 e.major (groupKeyOf c la) (wd (mj + 1)), overflows := satInc e.overflows })
    let s := s.mregAtMod r (fun x => { x with maxMajor := if x.maxMajor.toNat < mj + 1 then wd (mj + 1) else x.maxMajor })
    .ok (s.when (mj + 1 == 0xFFFFFF00) (autoRekey r))

/-- Write a protected line (R366 to R368): counter, encryption, tag, write buffer. -/
def meeWrite (c la r : Nat) (pt : BitVec 512) (poison : Bool) (s : State) : Except Nat State :=
  let full := sget 0 s.mee.minor (lineKeyOf c la) == 127
  match (if full then regroup c la r s else .ok s) with
  | .error e => .error e
  | .ok s =>
    let mn := if full then 1 else (sget 0 s.mee.minor (lineKeyOf c la)).toNat + 1
    let mj := (sget 0 s.mee.major (groupKeyOf c la)).toNat
    let (ct, tg) := s.sealLine c r la (s.underNew c r la) mj mn pt
    .ok (ctlWrite c la ct poison (setLine c la mn tg s))

/-- Read a line at a channel's port, protected or not. -/
def lineRead (c la : Nat) (m : DimmRead) (bad : Nat) (s : State) : Except Nat (BitVec 512 × Nat × State) :=
  match s.meeRegion c la with
  | some r => meeRead c la r m bad s
  | none => .ok (ctlRead c la m s)

/-- Write a whole line at a channel's port, protected or not. -/
def lineWrite (c la : Nat) (v : BitVec 512) (poison : Bool) (s : State) : Except Nat State :=
  match s.meeRegion c la with
  | some r => meeWrite c la r v poison s
  | none => .ok (ctlWrite c la v poison s)

/-- A dirty line of the application cluster's caches reaches its channel's port (R370, R408, R462). -/
def cacheBack (l : Nat) (c : CacheLine) (s : State) : State :=
  match s.dramMap (l * 64) with
  | none => s
  | some (ch, ca) => match lineWrite ch (ca / 64) c.data c.poison s with
    | .error e => fatal e s
    | .ok s => s

/-- Forget the counters and tags of a region's lines: every minor counter reads 0 (R357). -/
def freshCounters (r : Nat) (s : State) : State :=
  let g := s.mregAt r; let n := s.ddrN
  let lo := g.base.toNat / n / 64; let hi := (g.base.toNat + g.size.toNat) / n / 64
  s.onMee (fun e => { e with
    minor := sdrop e.minor (fun k => decide (lo ≤ k % 2 ^ 32) && decide (k % 2 ^ 32 < hi))
    tag := sdrop e.tag (fun k => decide (lo ≤ k % 2 ^ 32) && decide (k % 2 ^ 32 < hi))
    major := sdrop e.major (fun k => decide (lo / 64 ≤ k % 2 ^ 32) && decide (k % 2 ^ 32 < hi / 64)) })

/-- Nodes of a counter tree over n counter lines, all levels (R361). -/
def treeNodes : Nat → Nat → Nat
  | 0, _ => 0
  | fuel + 1, n => let l := ceilDiv n 8; if l ≤ 8 then l else l + treeNodes fuel l

/-- Nodes of level l, from 1 on, of the tree over n counter lines (R361). -/
def levelNodes (n : Nat) : Nat → Nat
  | 0 => n
  | l + 1 => ceilDiv (levelNodes n l) 8

/-- Channel address of the metadata area (R332). -/
def State.metaBase (s : State) (c : Nat) : Nat := ((s.ddrAt c).sizeMib - 1 - fld (s.setting 25) 19 0) * 1048576

/-- Metadata CA of the counter line of group k of region r on channel c, of its tag line t, and of node i of tree level l (R360, R362; log 125). -/
def State.counterCa (s : State) (c r k : Nat) : Nat := s.metaBase c + (s.mregAt r).share + 576 * k
def State.tagCa (s : State) (c r k t : Nat) : Nat := s.counterCa c r k + 64 * (t + 1)
def State.nodeCa (s : State) (c r l i : Nat) : Nat :=
  let n := s.regionGroups r
  s.counterCa c r n + 64 * ((List.range (l - 1)).foldl (fun a j => a + levelNodes n (j + 1)) 0 + i)

/-- Tree key of a region (R361). -/
def State.treeKey (s : State) (r : Nat) : BitVec 256 := deriveKey s.mee.kt 5 6 (s.mregAt r).serial.toNat

/-- Tag of a leaf or node of w bits over its bytes, under the counter `ctr` that its parent holds for it (R361). -/
def treeTag (w : Nat) (k : BitVec 256) (c ca ctr : Nat) (bytes : List Byte) : BitVec w :=
  BitVec.ofNat w ((Config.gcmTag k (BitVec.ofNat 96 (c * 2 ^ 92 + ca / 64 * 2 ^ 60 + ctr * 16)) bytes []).toNat >>> (128 - w))

/-- The counter line of group k of region r on channel c as it is written back, with its leaf tag (R360, R361). -/
def State.counterLine (s : State) (c r k ctr : Nat) : BitVec 512 :=
  let la := (s.mregAt r).base.toNat / s.ddrN / 64 + 64 * k
  let v := (sget 0 s.mee.major (groupKeyOf c la)).toNat
    + (List.range 64).foldl (fun n i => n + (sget 0 s.mee.minor (lineKeyOf c (la + i))).toNat * 2 ^ (32 + 7 * i)) 0
  BitVec.ofNat 512 (v + (treeTag 32 (s.treeKey r) c (s.counterCa c r k) ctr (natBytes v 60)).toNat * 2 ^ 480)

/-- Tag line t of that group: the tags of eight lines, byte 0 first (R360). -/
def State.tagLine (s : State) (c r k t : Nat) : BitVec 512 :=
  let la := (s.mregAt r).base.toNat / s.ddrN / 64 + 64 * k + 8 * t
  BitVec.ofNat 512 ((List.range 8).foldl (fun n i => n + (sget 0 s.mee.tag (lineKeyOf c (la + i))).toNat * 2 ^ (64 * i)) 0)

/-- Node i of level l with the counters of its children, as it is written back (R360, R361). -/
def State.treeNode (s : State) (c r l i ctr : Nat) (kids : List (BitVec 56)) : BitVec 512 :=
  let v := (List.range 8).foldl (fun n j => n + (kids.getD j 0).toNat * 2 ^ (56 * j)) 0
  BitVec.ofNat 512 (v + (treeTag 64 (s.treeKey r) c (s.nodeCa c r l i) ctr (natBytes v 56)).toNat * 2 ^ 448)

/-- Bytes of a region's metadata share on a channel of n groups (R362, R363). -/
def shareBytes (n : Nat) : Nat := 576 * n + 64 * treeNodes 20 n

/-- The lowest place in the metadata area where a share of `size` bytes fits (R362, first-fit). -/
def State.fitShare (s : State) (size : Nat) : Option Nat :=
  let used := (s.mee.region.filter (fun e => e.2.en)).map (fun e => (e.2.share, shareBytes (s.regionGroups e.1)))
  let room := fld (s.setting 25) 19 0 * 1048576
  let starts := 0 :: used.map (fun u => u.1 + u.2)
  let ok := starts.filter (fun a => decide (a + size ≤ room) && used.all (fun u => decide (a + size ≤ u.1) || decide (u.1 + u.2 ≤ a)))
  match ok with
  | [] => none
  | a :: as => some (as.foldl min a)

end Sys2Proof.Machine
end

