-- ==== Sys2Proof/Machine/Ddr.lean ====
section
/-! DEFINITION. The DDR5 channels at work: training, the range, reads, writes and atomics, upkeep, patrol scrub, remap. File 14. -/

namespace Sys2Proof.Machine

/-- Metadata reservation in MiB (settings word 25). -/
def State.metaMib (s : State) : Nat := fld (s.setting 25) 19 0

/-- Entry of the repair record that marks a device (kind 0x4, R471): channel, key, device. -/
def entryMark (x : Chan) (c : Nat) (e : RecEntry) : Option (Nat × Nat) :=
  let w := e.1; let rank := fld w 23 22
  if fld w 31 28 = 4 ∧ onlyBits w 0xFFFE0000 ∧ fld w 27 24 = c ∧ fld w 20 17 ≤ 9 ∧ e.2.2.1 = 0 ∧ e.2.2.2 = 0 ∧ rank < 2 ^ x.ranks.toNat ∧ e.2.1 = x.serialOf rank
  then some (2 * rank + fld w 21 21, fld w 20 17) else none

/-- Entry that remaps a line (kind 0x5): its line address. -/
def entryLine (x : Chan) (c : Nat) (e : RecEntry) : Option Nat :=
  let w := e.1; let la := e.2.1.toNat
  if fld w 31 28 = 5 ∧ onlyBits w 0xFF000000 ∧ fld w 27 24 = c ∧ e.2.2.2 = 0 ∧ la < (x.sizeMib - 1) * 16384 ∧ e.2.2.1 = x.serialOf (x.pos la).rank
  then some la else none

/-- Marks and remap entries whose serial numbers match the DIMMs found are restored (R349). -/
def restoreRecord (c : Nat) (es : List RecEntry) (x : Chan) : Chan :=
  let x := (es.filterMap (entryMark x c)).foldl (fun x m => { x with mark := smod {} x.mark m.1 (fun d =>
    if d.marked then d else { d with marked := true, device := BitVec.ofNat 4 m.2 }) }) x
  ((es.filterMap (entryLine x c)).eraseDups.take 16).zipIdx.foldl (fun x l =>
    { x with remap := sput {} x.remap l.2 { active := true, origin := 0, ca := BitVec.ofNat 38 (l.1 * 64) } }) x

/-- Training has ended on every channel (R331, R334): the interleave set and the usable size; 0x0E30 when capacity is left unused. -/
def trainEnd (s : State) : State :=
  if (List.range 12).any (fun c => (s.ddrAt c).state == .training) || s.ddr.trained then s
  else
    let set := (List.range 12).filter (fun c => (s.ddrAt c).state == .inService)
    let sizes := set.map (fun c => (s.ddrAt c).sizeMib - 1 - s.metaMib)
    let u := match sizes with | [] => 0 | a :: as => as.foldl min a
    let s := s.onDdr (fun d => { d with trained := true, set := bvOf 12 (fun c => set.contains c), usable := u })
    s.when (sizes.any (fun x => decide (u < x))) (raise 0x0E30)

/-- A channel is left out of service (R335). -/
def trainFail (c : Nat) (s : State) : State := trainEnd (raise (0x2E10 + c) (s.ddrAtMod c (fun x => { x with state := .failed })))

/-- Rate a channel trains at, where its SPD allows `r`: at most `ddr_rate`, and one lower at the second attempt (R335). -/
def State.trainRate (s : State) (c : Nat) (r : BitVec 3) : BitVec 3 :=
  BitVec.ofNat 3 (min r.toNat (fld (s.setting 24) 14 12) - b2n (s.ddrAt c).retried)

/-- `DDR_TRAIN_COMPLETE` (R24, R329, R330, R331, R334, R335, R349): a channel passes, or is retried once at the next lower rate, or fails. -/
def ddrTrainCompleteF (c : Nat) (r : TrainResult) (s : State) : State :=
  let x := s.ddrAt c
  if x.state != .training then s
  else if !r.ok then
    if x.retried ∨ fld (s.setting 24) 14 12 = 0 then trainFail c s else s.ddrAtMod c (fun x => { x with retried := true })
  else
    let s := s.ddrAtMod c (fun x => restoreRecord c s.tst.record.entries { x with
      state := .inService, rate := s.trainRate c r.rate, ranks := r.ranks, dens := r.dens, slot1Unused := r.slot1Unused, sizeMib := r.sizeMib
      serial0 := r.serial0, serial1 := r.serial1, masks := defaultMasks r.ranks.toNat })
    let s := s.when (decide ((s.trainRate c r.rate).toNat < fld (s.setting 24) 14 12)) (raise 0x2E08)
    trainEnd (s.when r.slot1Unused (raise 0x0E30))
def execDdrTrainComplete (c : Fin 12) (r : TrainResult) (s : State) : Host.Outcome State Fault Refusal := .next (ddrTrainCompleteF c.val r s)

/-- `DDR_TRAIN_TIMEOUT` (R335): 400 ms have passed. -/
def ddrTrainTimeoutF (c : Nat) (s : State) : State := if (s.ddrAt c).state == .training then trainFail c s else s
def execDdrTrainTimeout (c : Fin 12) (s : State) : Host.Outcome State Fault Refusal := .next (ddrTrainTimeoutF c.val s)

/-- `DDR_RANGE_OPEN` (R334, R361): the range opens, by MGR unless `ddr_hold` is set, or by software; the saggar draws K_T. -/
def ddrRangeOpenF (bySoftware : Bool) (s : State) : State :=
  if s.ddr.trained && !s.ddr.isOpen && (bySoftware || !bit (s.setting 24) 15) then
    let (k, s) := s.take 256
    (s.onDdr (fun d => { d with isOpen := true })).onMee (fun e => { e with kt := if e.kt = 0 then k else e.kt })
  else s
def execDdrRangeOpen (bySoftware : Bool) (s : State) : Host.Outcome State Fault Refusal := .next (ddrRangeOpenF bySoftware s)

/-- A mask keeps the map one-to-one (R334): its own home bit, no other hashed home bit, nothing above the highest row bit. -/
def maskOk (x : Chan) (m : Nat) (v : Word) : Bool :=
  let homes : List Nat := [0, 1, 2, 3, 11, 12]
  bit v (homes.getD m 0) && homes.zipIdx.all (fun h => h.2 == m || !bit v h.1) && decide (v.toNat < 2 ^ (13 + x.ranks.toNat + x.rowBits))

/-- `DDR_MAP_WRITE` (R334). -/
def ddrMapWriteF (c m : Nat) (v : Word) (s : State) : State :=
  s.ddrAtMod c (fun x => if !s.ddr.isOpen && maskOk x m v then { x with masks := setNth x.masks m v } else { x with wrIgn := true })
def execDdrMapWrite (c : Fin 12) (m : Fin 6) (v : Word) (s : State) : Host.Outcome State Fault Refusal := .next (ddrMapWriteF c.val m.val v s)

/-- The queued request of type `t` that is served next: the oldest that no earlier one to the same line, or to the same bank in in-order service, holds
back; before it goes a read that hits the open row of its bank (R338 to R340). -/
def State.nextReq (s : State) (c t : Nat) : Option NReq :=
  let x := s.ddrAt c
  let lines (r : NReq) : List Nat := reqLines (s.reqCa r) r.len.toNat
  let bank (r : NReq) : Nat := (x.pos (x.phys (s.reqCa r / 64))).bank
  let ok (i : Nat) (r : NReq) : Bool := (x.q.take i).all (fun e =>
    !(lines e).any (fun l => (lines r).contains l) && !(e.dst == r.dst && (sget {} x.bank (bank r)).inOrder && bank e == bank r))
  let ready := x.q.zipIdx.filter (fun e => e.1.typ.toNat == t && ok e.2 e.1)
  let hits (r : NReq) : Bool := (sget {} x.bank (bank r)).row == some (x.pos (x.phys (s.reqCa r / 64))).row && !(sget {} x.bank (bank r)).inOrder
  ready.head?.map (fun o => if t = 0 then (((ready.map (·.1)).find? (fun r => bank r == bank o.1 && hits r)).getD o.1) else o.1)

/-- A request leaves the queue. -/
def dequeue (c : Nat) (r : NReq) (s : State) : State := s.ddrAtMod c (fun x => { x with q := x.q.erase r })

/-- Read lines in order; what the operand says the DIMM returned is for the first (log 44). -/
def readLines (c : Nat) (bad : Nat) : List Nat → DimmRead → State → Except Nat (List (BitVec 512 × Nat) × State)
  | [], _, s => .ok ([], s)
  | l :: ls, m, s =>
    match lineRead c l m bad s with
    | .error e => .error e
    | .ok (v, k, s) => match readLines c bad ls {} s with
      | .error e => .error e
      | .ok (vs, s) => .ok ((v, k) :: vs, s)

/-- Bytes of a run of lines from the first line's address on. -/
def linesBytes (vs : List (BitVec 512 × Nat)) : List Byte := vs.flatMap (fun v => natBytes v.1.toNat 64)

/-- The channel takes requests from its queue. -/
def State.ddrServes (s : State) (c : Nat) : Bool := (s.ddrAt c).state == .inService

/-- `DRAM_READ` (R332, R338 to R345, R365, R367, R372). -/
def dramReadF (c : Nat) (m : DimmRead) (s : State) : State :=
  match (if s.ddrServes c then s.nextReq c 0 else none) with
  | none => s
  | some r =>
    let ca := s.reqCa r; let n := r.len.toNat + 1
    match readLines c 0x4F10 (reqLines ca r.len.toNat) m s with
    | .error e => fatal e s
    | .ok (vs, s) =>
      let s := bufWord c ((s.ddrAt c).phys (ca / 64)) m.rdBuf (dequeue c r s)
      let data := placeBytes ca (((linesBytes vs).drop (ca % 64)).take n)
      let bad := (List.range data.length).map (fun j => m.rdBuf == 2 || (vs.getD ((ca / 32 + j) / 2 - ca / 64) (0, 0)).2 != 0)
      sendRsp (ddrPort c) (rspFor r (if bad.any id then stPoison else stOk) data bad) s
def execDramRead (c : Fin 12) (m : DimmRead) (s : State) : Host.Outcome State Fault Refusal := .next (dramReadF c.val m s)

/-- Byte at channel address `x` of a write request. -/
def writeByte (r : NReq) (ca x : Nat) : Byte := BitVec.ofNat 8 ((r.data.getD (x / 32 - ca / 32) 0).toNat >>> (8 * (x % 32)))

/-- A line with the bytes of a write merged in (R346). -/
def mergeLine (r : NReq) (ca la : Nat) (old : BitVec 512) : BitVec 512 :=
  BitVec.ofNat 512 (bytesNat ((natBytes old.toNat 64).zipIdx.map (fun b =>
    let x := la * 64 + b.2
    if ca ≤ x ∧ x ≤ ca + r.len.toNat then writeByte r ca x else b.1)))

/-- A data flit of the write that touches the line is poisoned (R344). -/
def linePoison (r : NReq) (ca la : Nat) : Bool :=
  r.bad.zipIdx.any (fun b => b.1 && (ca / 32 + b.2) / 2 == la)

/-- Store the lines of a write. -/
def writeLines (c : Nat) (r : NReq) (ca : Nat) (old : Nat → BitVec 512) (spoil : Bool) : List Nat → State → Except Nat State
  | [], s => .ok s
  | l :: ls, s =>
    match lineWrite c l (mergeLine r ca l (old l)) (linePoison r ca l || spoil) s with
    | .error e => .error e
    | .ok s => writeLines c r ca old false ls s

/-- Answer a request at a channel's port and drop it from the queue. -/
def ddrAnswer (c : Nat) (r : NReq) (st : BitVec 4) (s : State) : State := sendRsp (ddrPort c) (rspFor r st [] []) (dequeue c r s)

/-- `DRAM_WRITE` (R332, R338, R344 to R346, R366 to R369, R372): a narrow write first reads what it does not cover; an uncorrectable old line is
refused with TARGET_ERR, one in poisoned form with POISON, and then nothing is stored. With no room in the write buffer it waits. -/
def dramWriteF (c : Nat) (m : DimmRead) (s : State) : State :=
  match (if s.ddrServes c then s.nextReq c 1 else none) with
  | none => s
  | some r =>
    let ca := s.reqCa r; let n := r.len.toNat + 1
    let ls := reqLines ca r.len.toNat
    let fresh := ls.filter (fun l => !(s.ddrAt c).wb.any (fun w => w.la == l))
    if 64 < (s.ddrAt c).wb.length + fresh.length then s
    else if ls.any (fun l => (s.meeRegion c l).isSome && s.majorEnds c l) then raise 0x3F05 (ddrAnswer c r stTargetErr s)
    else
      let part := ls.filter (fun l => decide (l * 64 < ca) || decide (ca + n < l * 64 + 64))
      match readLines c 0x4F11 part m s with
      | .error e => fatal e s
      | .ok (vs, s) =>
        if vs.any (fun v => v.2 == 2) then raise 0x3E05 (ddrAnswer c r stTargetErr s)
        else if vs.any (fun v => v.2 == 1) then ddrAnswer c r stPoison s
        else
          let old (l : Nat) : BitVec 512 := ((part.zip vs).find? (fun p => p.1 == l)).map (·.2.1) |>.getD 0
          match writeLines c r ca old (m.wrBuf == 2) ls s with
          | .error e => fatal e s
          | .ok s =>
            let s := bufWord c ((s.ddrAt c).phys (ca / 64)) m.wrBuf s
            ddrAnswer c r (if m.wrBuf = 2 then stTargetErr else stOk) s
def execDramWrite (c : Fin 12) (m : DimmRead) (s : State) : Host.Outcome State Fault Refusal := .next (dramWriteF c.val m s)

/-- `DRAM_ATOMIC` (R243, R345, R346, R366, R372): reads, merges and writes a line and returns the old value. -/
def dramAtomicF (c : Nat) (m : DimmRead) (s : State) : State :=
  match (if s.ddrServes c then s.nextReq c 2 else none) with
  | none => s
  | some r =>
    let ca := s.reqCa r; let n := r.len.toNat + 1; let la := ca / 64
    let d := r.data.headD 0
    if 64 ≤ (s.ddrAt c).wb.length ∧ !(s.ddrAt c).wb.any (fun w => w.la == la) then s
    else if r.bad.any id then ddrAnswer c r stPoison s
    else if (s.meeRegion c la).isSome ∧ s.majorEnds c la then raise 0x3F05 (ddrAnswer c r stTargetErr s)
    else match lineRead c la m 0x4F11 s with
      | .error e => fatal e s
      | .ok (v, code, s) =>
        if code = 2 then raise 0x3E05 (ddrAnswer c r stTargetErr s)
        else if code = 1 then ddrAnswer c r stPoison s
        else
          let lo := 8 * (ca % 64); let fl := 8 * (ca % 32)
          let old := fld v (lo + 8 * n - 1) lo
          let cl := 8 * ((ca % 32 + 16) % 32)
          match atomNew r.aop.toNat (8 * n) old (fld d (fl + 8 * n - 1) fl) (fld d (cl + 8 * n - 1) cl) with
          | none => ddrAnswer c r stUnsupported s
          | some x =>
            if m.wrBuf = 2 then
              match lineWrite c la v true s with
              | .error e => fatal e s
              | .ok s => ddrAnswer c r stTargetErr (bufWord c ((s.ddrAt c).phys la) 2 s)
            else match lineWrite c la (setFld v (lo + 8 * n - 1) lo x) false s with
              | .error e => fatal e s
              | .ok s =>
                sendRsp (ddrPort c) (rspFor r stOk (placeBytes ca (natBytes old n)) [false]) (dequeue c r (bufWord c ((s.ddrAt c).phys la) m.wrBuf s))
def execDramAtomic (c : Fin 12) (m : DimmRead) (s : State) : Host.Outcome State Fault Refusal := .next (dramAtomicF c.val m s)

/-- `DDR_ALERT` (R337): ALERT_n is raised and the commands are replayed; the fourth in succession without progress takes the channel down. -/
def ddrAlertF (c : Nat) (progress : Bool) (s : State) : State :=
  let x := s.ddrAt c
  if x.state != .inService then s
  else
    let n := if progress then 1 else x.alertRun + 1
    if 4 ≤ n then channelDown c (s.ddrAtMod c (fun x => { x with alertRun := n }))
    else s.ddrAtMod c (fun x => { x with alertRun := n, alerts := satInc x.alerts })
def execDdrAlert (c : Fin 12) (progress : Bool) (s : State) : Host.Outcome State Fault Refusal := .next (ddrAlertF c.val progress s)

/-- `DDR_UPKEEP_TIMER` (R336): ZQ calibration and tracking, inside quiet windows with `retrain_qw`. -/
def ddrUpkeepTimerF (c : Nat) (s : State) : State :=
  let w := s.reg 0 (blkDdr + c * 0x10000 + 4)
  if s.ddrServes c && (!bit w 3 || s.quietWin) then s.ddrAtMod c (fun x => { x with upkeep := x.upkeep + 1 }) else s
def execDdrUpkeepTimer (c : Fin 12) (s : State) : Host.Outcome State Fault Refusal := .next (ddrUpkeepTimerF c.val s)

/-- `DDR_REFRESH` (R336, R339): same-bank refresh, which closes the open row of that bank in every bank group. -/
def ddrRefreshF (c bank : Nat) (s : State) : State :=
  if s.ddrServes c then s.ddrAtMod c (fun x => { x with
    refreshed := smod 0 x.refreshed bank (· + 1), bank := smap {} x.bank (fun k b => if k % 4 = bank then { b with row := none } else b) })
  else s
def execDdrRefresh (c : Fin 12) (bank : Fin 4) (s : State) : Host.Outcome State Fault Refusal := .next (ddrRefreshF c.val bank.val s)

/-- `DDR_WB_DRAIN` (R338, R345): from 48 entries down to 16, or all of it when no read has been queued for 1 µs. -/
def ddrWbDrainF (c : Nat) (m : DimmRead) (s : State) : State :=
  let x := s.ddrAt c
  if !s.ddrServes c then s
  else if 48 ≤ x.wb.length then drainTo c 16 64 m.wrBuf s
  else if x.q.any (fun r => r.typ == 0) then s
  else drainTo c 0 64 m.wrBuf s
def execDdrWbDrain (c : Fin 12) (m : DimmRead) (s : State) : Host.Outcome State Fault Refusal := .next (ddrWbDrainF c.val m s)

/-- `DDR_IDLE_CLOSE` (R339): a bank that predicts a miss has been idle. -/
def ddrIdleCloseF (c bank : Nat) (s : State) : State :=
  s.ddrAtMod c (fun x => if (sget {} x.bank bank).ctr.toNat ≤ 1 then { x with bank := smod {} x.bank bank (fun b => { b with row := none }) } else x)
def execDdrIdleClose (c : Fin 12) (bank : Fin 128) (s : State) : Host.Outcome State Fault Refusal := .next (ddrIdleCloseF c.val bank.val s)

/-- Lines of a patrol pass, the line (before remapping) at a place of it, and the line read there: the usable range, the metadata area, the spares in use (R350). -/
def State.patrolLines (s : State) : Nat := (s.ddr.usable + s.metaMib) * 16384 + 16
def State.patrolHome (s : State) (c i : Nat) : Option Nat :=
  let u := s.ddr.usable * 16384
  if i < u then some i
  else if i < u + s.metaMib * 16384 then some (((s.ddrAt c).sizeMib - 1 - s.metaMib) * 16384 + (i - u)) else none
def State.patrolLine (s : State) (c i : Nat) : Option Nat :=
  let x := s.ddrAt c; let u := s.ddr.usable * 16384
  if i < u + s.metaMib * 16384 then (s.patrolHome c i).map x.phys
  else if (sget {} x.remap (i - u - s.metaMib * 16384)).active then some (x.spare (i - u - s.metaMib * 16384)) else none

/-- A failing line is remapped, or 0x2E03 is raised once per start (R347). -/
def autoRemap (c la : Nat) (m : DimmRead) (s : State) : State :=
  match remapLine c la 1 m s with
  | some r => r.2
  | none => if (s.ddrAt c).fullNoticed then s else raise 0x2E03 (s.ddrAtMod c (fun x => { x with fullNoticed := true }))

/-- The line just read is rewritten as it stands corrected (R343, R350), unless a write to it is pending: a corrected one, and each of a rank and subchannel
whose device was marked in the pass before. -/
def patrolRewrite (c line : Nat) (d : Decoded) (v : BitVec 512) (code : Nat) (s : State) : State :=
  let x := s.ddrAt c; let p := x.pos line
  let due := match d with | .corrected _ => true | .good => (sget {} x.mark (2 * p.rank + p.sc)).rewriting | .lost => false
  s.when (due && !x.wb.any (fun w => x.phys w.la == line)) (dramStore c line v (code == 1))

/-- The end of a patrol pass (R343, R347). -/
def patrolEnd (x : Chan) : Chan :=
  { x with pass := x.pass + 1, scrubPos := 0, cePrev := x.ceLines, ceLines := [], mark := smap {} x.mark (fun _ m => { m with charged := [], rewrite := false, rewriting := m.rewrite }) }

/-- `DDR_PATROL_STEP` (R342, R343, R347, R350): the scrubber reads the next line; a line that gives a correctable error outside a marked device
in two consecutive passes is remapped. Whether a pass took longer than `scrub_hours` no command says: a free value (log 151). -/
def ddrPatrolStepF (c : Nat) (m : DimmRead) (s : State) : State :=
  let w := s.reg 0 (blkDdr + c * 0x10000 + 4)
  if !s.ddrServes c || !bit w 0 || s.mode == .held || (bit w 1 && !s.quietWin) || !s.ddr.set.getLsbD c then s
  else
    let i := (s.ddrAt c).scrubPos
    let s := match s.patrolLine c i with
      | none => s
      | some line =>
        let p := (s.ddrAt c).pos line
        let d := decodeLine (sget {} (s.ddrAt c).mark (2 * p.rank + p.sc)) ((m.errs.map Fin.val).eraseDups)
        let (v, code, s) := dimmLine c line m true s
        let s := patrolRewrite c line d v code s
        match d with
        | .corrected (_ :: _) =>
          let again := (s.ddrAt c).cePrev.contains i
          let s := s.ddrAtMod c (fun x => { x with ceLines := x.ceLines ++ [i] })
          if again && bit w 2 && s.patrolHome c i == some line then autoRemap c line {} s else s
        | _ => s
    if s.patrolLines ≤ i + 1 then
      let (k, s) := s.take 1
      s.ddrAtMod c (fun x => { patrolEnd x with late := x.late || k == 1 })
    else s.ddrAtMod c (fun x => { x with scrubPos := i + 1 })
def execDdrPatrolStep (c : Fin 12) (m : DimmRead) (s : State) : Host.Outcome State Fault Refusal := .next (ddrPatrolStepF c.val m s)

/-- `DDR_RETRAIN` as read (RC). -/
def ddrRetrainRead (c : Nat) (insp : Bool) (s : State) : Word × State :=
  (wd ((s.ddrAt c).alerts.toNat * 65536 + fld (s.reg 0 (blkDdr + c * 0x10000 + 0x30)) 15 0), if insp then s else s.ddrAtMod c (fun x => { x with alerts := 0 }))
def execDdrRetrain (c : Fin 12) (insp : Bool) (s : State) : Host.Outcome State Fault Refusal := .next (State.readTo (ddrRetrainRead c.val insp s))

/-- `DDR_ECC` as read (RC). -/
def ddrEccRead (c : Nat) (insp : Bool) (s : State) : Word × State :=
  let x := s.ddrAt c
  (wd (x.bufUe.toNat * 2 ^ 24 + x.bufCe.toNat * 2 ^ 16 + x.ueCount.toNat * 256 + x.ceCount.toNat),
   if insp then s else s.ddrAtMod c (fun x => { x with bufUe := 0, bufCe := 0, ueCount := 0, ceCount := 0 }))
def execDdrEcc (c : Fin 12) (insp : Bool) (s : State) : Host.Outcome State Fault Refusal := .next (State.readTo (ddrEccRead c.val insp s))

/-- `DDR_ERRLOG` word 0 as read (RS, R129). -/
def ddrErrlogRead (c : Nat) (insp : Bool) (s : State) : Word × State :=
  let w := match (s.ddrAt c).log with
    | some e => wd (2 ^ 31 + e.kind.toNat * 2 ^ 29 + b2n e.scrub * 2 ^ 28 + e.device.toNat * 2 ^ 24 + e.rank.toNat * 2 ^ 22 + b2n e.sc * 2 ^ 21)
    | none => 0
  (w, if insp then s else s.ddrAtMod c (fun x => { x with log := none, logCa := match x.log with | some e => e.ca | none => x.logCa }))
def execDdrErrlogRead (c : Fin 12) (insp : Bool) (s : State) : Host.Outcome State Fault Refusal := .next (State.readTo (ddrErrlogRead c.val insp s))

/-- `DDR_REMAP` (R348). -/
def ddrRemapF (id : CmdId) (m : DimmRead) (s : State) : State :=
  startCmd id 0xA2 (fun cmd s =>
    let c := (cmd.p 0).toNat; let ca := (cmd.p 1).toNat + (cmd.p 2).toNat * 2 ^ 32
    require (decide (c < 12) && ca % 64 == 0) rcBadParam cmd (fun s =>
    require (s.ddrServes c) rcHwFault cmd (fun s =>
    require (decide (ca < ((s.ddrAt c).sizeMib - 1) * 1048576)) rcBadParam cmd (fun s =>
      match (List.range 16).find? (fun i => let e := sget {} (s.ddrAt c).remap i; e.active && e.ca.toNat == ca) with
      | some i => finish cmd rcOk [wd i] s
      | none => match remapLine c (ca / 64) 2 m s with
        | none => finish cmd rcHwFault [] s
        | some (i, s) => finish cmd rcOk [wd i] s) s) s) s) s
def execDdrRemap (c : CmdId) (m : DimmRead) (s : State) : Host.Outcome State Fault Refusal := .next (ddrRemapF c m s)

end Sys2Proof.Machine
end

