-- ==== Sys2Proof/Machine/Mee.lean ====
section
/-! DEFINITION. The encryption engine's commands: regions, re-encryption, retirement of slots, loading of slots. File 15. -/

namespace Sys2Proof.Machine

/-- A parameter that names a new slot (R353): the slot and whether it is to be generated, none when it is refused. -/
def State.newSlot (s : State) (w : Word) : Option (Nat × Bool) :=
  let k := fld w 5 0; let gen := bit w 8; let st := (s.slotAt k).state
  if onlyBits w 0x13F ∧ (if gen then st == 0 else st != 0) then some (k, gen) else none

/-- Room for `n` more bindings under a slot (R357); a generated key starts from 0. -/
def State.bindRoom (s : State) (k : Nat) (gen : Bool) (n : Nat) : Bool := gen || decide ((s.slotAt k).count.toNat + n ≤ 0xFFFFFFFF)

/-- A request that a channel has accepted lies in a local address range: it completes under the state before a binding (R357). -/
def State.rangeBusy (s : State) (lo hi : Nat) : Bool :=
  (List.range 12).any (fun c => (s.ddrAt c).q.any (fun r => let a := r.addr.toNat % 2 ^ 52; decide (lo ≤ a) && decide (a < hi)))

/-- The re-encryption names the region. -/
def State.reencNames (s : State) (r : Nat) : Bool :=
  match s.mee.reenc with | some e => e.regions.contains (Fin.ofNat 64 r) | none => false

/-- `MEE_REGION` (R352, R353, R356, R357, R362, R363): bind a range to a slot, or remove the region. -/
def meeRegionF (id : CmdId) (s : State) : State :=
  match s.findCmd id with
  | none => s
  | some c0 =>
    let r := fld (c0.p 0) 5 0; let rm := bit (c0.p 0) 8
    let base := (c0.p 1).toNat + (c0.p 2).toNat * 2 ^ 32; let size := (c0.p 3).toNat + (c0.p 4).toNat * 2 ^ 32
    let g := s.mregAt r
    if (if rm then s.rangeBusy g.base.toNat (g.base.toNat + g.size.toNat) else s.rangeBusy base (base + size)) then s
    else startCmd id 0xA0 (fun c s =>
      require (onlyBits (c.p 0) 0x13F && (rm == g.en)) rcBadParam c (fun s =>
      require (!s.reencNames r) rcBusy c (fun s =>
        if rm then finish c rcOk [] (((freshCounters r s).mregAtMod r (fun x => { limitNoticed := x.limitNoticed })).onMee
          (fun e => { e with autoWait := e.autoWait.filter (fun k => k.val != r) }))
        else
          let u := s.ddrN * 4096
          let clash := s.mee.region.any (fun e => e.2.en && decide (e.2.base.toNat < base + size) && decide (base < e.2.base.toNat + e.2.size.toNat))
          let share := s.fitShare (shareBytes (size / u))
          require (s.ddr.isOpen && decide (0 < u) && decide (0 < size) && base % u == 0 && size % u == 0
            && decide (base + size ≤ s.ddrN * s.ddr.usable * 1048576) && !clash && share.isSome) rcBadParam c (fun s =>
          match s.newSlot (c.p 5) with
          | none => finish c rcBadParam [] s
          | some (k, gen) =>
            require (s.bindRoom k gen 1) rcBadParam c (fun s =>
              let s := s.when gen (genSlot k)
              let (b, t, s) := allotBinding k s
              let s := s.mregAtMod r (fun x => {
                en := true, base := BitVec.ofNat 52 base, size := BitVec.ofNat 52 size, slot := BitVec.ofNat 6 k, binding := b, serial := t
                share := share.getD 0, limitNoticed := x.limitNoticed })
              finish c rcOk [] (freshCounters r s)) s) s) s) s) s
def execMeeRegion (c : CmdId) (s : State) : Host.Outcome State Fault Refusal := .next (meeRegionF c s)

/-- The checks that MEE_REKEY and KEY_SLOT_RETIRE share, and the start of the re-encryption: step 1 (R370). -/
def reencStart (c : Cmd) (regions : List (Fin 64)) (old : Nat) (retire : Bool) (s : State) : State :=
  match s.newSlot (c.p 1) with
  | none => finish c rcBadParam [] s
  | some (k, gen) =>
    require (k != old && (s.slotAt old).state != 0 && s.slotPorts old == 0 && s.bindRoom k gen regions.length) rcBadParam c (fun s =>
    require s.mee.reenc.isNone rcBusy c (fun s =>
      let e : Reenc := { cmd := some c.id, regions := regions, slot := BitVec.ofNat 6 k, gen := gen, retire := if retire then some (BitVec.ofNat 6 old) else none }
      (s.when gen (genSlot k)).onMee (fun x => { x with reenc := some e })) s) s

/-- `MEE_REKEY` (R353, R370): re-encrypt one region under a new slot. -/
def meeRekeyF (id : CmdId) (s : State) : State :=
  startCmd id 0xA1 (fun c s =>
    let r := fld (c.p 0) 5 0
    require (onlyBits (c.p 0) 0x3F && (s.mregAt r).en) rcBadParam c (fun s => reencStart c [Fin.ofNat 64 r] (s.mregAt r).slot.toNat false s) s) s
def execMeeRekey (c : CmdId) (s : State) : Host.Outcome State Fault Refusal := .next (meeRekeyF c s)

/-- `KEY_SLOT_RETIRE` (R353, R355, R370): move every region off a slot and clear it; a slot with no region is cleared at once. -/
def keySlotRetireF (id : CmdId) (s : State) : State :=
  startCmd id 0x71 (fun c s =>
    let k := fld (c.p 0) 5 0
    let rs := (List.range 64).filter (fun r => (s.mregAt r).en && (s.mregAt r).slot.toNat == k)
    require (onlyBits (c.p 0) 0x3F) rcBadParam c (fun s =>
      if rs.isEmpty then
        require (c.p 1 == 0xFF && (s.slotAt k).state != 0 && s.slotPorts k == 0) rcBadParam c (fun s =>
        require (s.mee.reenc.isNone) rcBusy c (fun s => finish c rcOk [] (clearSlot k s)) s) s
      else reencStart c (rs.map (Fin.ofNat 64)) k true s) s) s
def execKeySlotRetire (c : CmdId) (s : State) : Host.Outcome State Fault Refusal := .next (keySlotRetireF c s)

/-- A local DRAM line lies in one of the regions. -/
def State.lineIn (s : State) (rs : List (Fin 64)) (l : Nat) : Bool :=
  match s.dramMap (l * 64) with
  | some (c, ca) => rs.any (fun r => s.meeRegion c (ca / 64) == some r.val)
  | none => false

/-- `MEE_FLUSH_COMPLETE` (step 2 of R370): the application cluster has written back and dropped its lines of the regions, and every channel's write buffer has drained; the commit
point, and the pointer begins to climb. -/
def meeFlushCompleteF (s : State) : State :=
  match s.mee.reenc with
  | none => s
  | some e =>
    if e.climbing then s
    else
      let s := (cacheEmpty (s.lineIn e.regions) cacheBack s).each (List.range 12) (fun c => drainTo c 0 64 0)
      let s := match e.cmd with | some id => cmdMod id (fun c => { c with committed := true }) s | none => s
      reencClimb s
def execMeeFlushComplete (s : State) : Host.Outcome State Fault Refusal := .next (meeFlushCompleteF s)

/-- Re-encrypt one line of the group at the pointer under the new slot with M = 0 and minor 1 (step 3 of R370). -/
def reencLine (c r la : Nat) (m : DimmRead) (s : State) : Except Nat State :=
  if sget 0 s.mee.minor (lineKeyOf c la) = 0 then metaFaults c la m s
  else match meeRead c la r m 0x4F10 s with
    | .error e => .error e
    | .ok (pt, code, s) =>
      let (ct, tg) := s.sealLine c r la true 0 1 pt
      .ok (setLine c la 1 tg (ctlRewrite c la ct (code != 0) s))

/-- `MEE_REENC_GROUP` (R370, R371): a channel's group at the pointer moves to the new slot. -/
def meeReencGroupF (c : Nat) (m : DimmRead) (s : State) : State :=
  match s.mee.reenc with
  | none => s
  | some e =>
    let r := (e.regions.headD 0).val; let g := sget 0 e.done c
    if !e.climbing || s.mode == .held || (s.mee.reencQw && !s.quietWin) || !s.ddr.set.getLsbD c || decide (s.regionGroups r ≤ g) || !s.ddrServes c then s
    else
      let la0 := (s.mregAt r).base.toNat / s.ddrN / 64 + g * 64
      let first := ((List.range 64).find? (fun i => sget 0 s.mee.minor (lineKeyOf c (la0 + i)) != 0)).getD 0
      let step (acc : Except Nat State) (i : Nat) : Except Nat State :=
        match acc with
        | .error x => .error x
        | .ok t => reencLine c r (la0 + i) (if i = first then m else {}) t
      match (List.range 64).foldl step (.ok s) with
      | .error x => fatal x s
      | .ok s => s.onMee (fun x => { x with
          major := sput 0 x.major (groupKeyOf c la0) 0, reenc := x.reenc.map (fun e => { e with done := sput 0 e.done c (g + 1) }) })
def execMeeReencGroup (c : Fin 12) (m : DimmRead) (s : State) : Host.Outcome State Fault Refusal := .next (meeReencGroupF c.val m s)

/-- A slot that a region or an encrypted span port uses (R369). -/
def State.slotUsed (s : State) (k : BitVec 6) : Bool := s.mee.region.any (fun e => e.2.en && e.2.slot == k) || s.slotPorts k.toNat != 0

/-- The end of a re-encryption (steps 4 and 5 of R370): the old slot of a retirement is cleared, that of an automatic one if nothing else uses it
(R369); then 0x0F06, and the next automatic one begins. -/
def reencEnd (e : Reenc) (s : State) : State :=
  let s := match e.retire with | some k => (if e.cmd.isSome || !s.slotUsed k then clearSlot k.toNat s else s) | none => s
  let s := raise 0x0F06 (s.onMee (fun x => { x with reenc := none }))
  let s := match e.cmd with
    | some id => match s.findCmd id with | some c => finish c rcOk [] s | none => s
    | none => s
  match s.mee.autoWait with
  | [] => s
  | r :: rest => autoRekey r.val (s.onMee (fun x => { x with autoWait := rest }))

/-- The greatest major counter among a region's groups (`max_major`). -/
def State.topMajor (s : State) (r : Nat) : Nat :=
  let g := s.mregAt r; let lo := g.base.toNat / s.ddrN / 4096; let hi := (g.base.toNat + g.size.toNat) / s.ddrN / 4096
  s.mee.major.foldl (fun n e => if lo ≤ e.1 % 2 ^ 32 ∧ e.1 % 2 ^ 32 < hi then max n e.2.toNat else n) 0

/-- `MEE_REENC_COMPLETE` (R370): every channel has finished the region; it is bound to the new slot, and the next region begins. -/
def meeReencCompleteF (s : State) : State :=
  match s.mee.reenc with
  | none => s
  | some e =>
    match e.regions with
    | [] => s
    | r :: rest =>
      if e.climbing && s.ddrSet.all (fun c => decide (s.regionGroups r.val ≤ sget 0 e.done c)) then
        let s := s.mregAtMod r.val (fun x => { x with slot := e.slot, binding := e.binding, serial := e.serial, maxMajor := wd (s.topMajor r.val) })
        if rest.isEmpty then reencEnd e s
        else reencClimb (s.onMee (fun x => { x with reenc := some { e with regions := rest } }))
      else s
def execMeeReencComplete (s : State) : Host.Outcome State Fault Refusal := .next (meeReencCompleteF s)

/-- `MEE_SLOT_LOAD_GO` (R352, R354): unwrap a key into an empty slot; the load words are cleared whatever the result. -/
def meeSlotLoadGoF (k : Nat) (s : State) : State :=
  let ws := (List.range 14).map (fun i => sget 0 s.mee.load i)
  let done (res : Nat) (s : State) : State := s.onMee (fun e => { e with load := [], ctrlSlot := BitVec.ofNat 6 k, result := BitVec.ofNat 3 res })
  if (s.slotAt k).state ≠ 0 then done 2 s
  else match s.deviceKey false with
    | none => done 3 s
    | some dk =>
      let iv : BitVec 96 := BitVec.ofNat 96 ((wordBytes (ws.take 2)).foldl (fun n b => n * 256 + b.toNat) 0 * 2 ^ 32)
      match gcmItem dk iv (wordBytes [wd k]) (wordBytes ((ws.drop 2).take 8)) (tagOf (ws.drop 10)) with
      | none => done 1 s
      | some pt => done 0 (s.slotAtMod k (fun _ => { state := 2, key := BitVec.ofNat 256 (bytesNat pt), count := 0 }))
def execMeeSlotLoadGo (slot : BitVec 6) (s : State) : Host.Outcome State Fault Refusal := .next (meeSlotLoadGoF slot.toNat s)

/-- `MEE_COUNT` as read (RC). -/
def meeCountRead (insp : Bool) (s : State) : Word × State :=
  (wd (s.mee.overflows.toNat * 65536 + s.mee.nodeCe.toNat), if insp then s else s.onMee (fun e => { e with overflows := 0, nodeCe := 0 }))
def execMeeCount (insp : Bool) (s : State) : Host.Outcome State Fault Refusal := .next (State.readTo (meeCountRead insp s))

end Sys2Proof.Machine
end

