-- ==== Sys2Proof/Machine/Wds.lean ====
section
/-! DEFINITION. The work dispatcher's rows: enqueue, TAKE, release, timers, spill and refill, and its commands. File 16. -/

namespace Sys2Proof.Machine

/-- An enqueue (R379): a write of one item to `WDS_ENQ`, from the network or from the command's sender. -/
def wdsEnq (r : Option NReq) (item : BitVec 256) (len : Byte) (poison : Bool) (s : State) : State :=
  if !s.wdsOn then wdsAnswer r stOk [] s
  else if len ≠ 31 then wdsAnswer r stUnsupported [] s
  else if poison then wdsAnswer r stPoison [] s
  else
    let q := fld item 9 0; let it := itemOf item none
    if s.enqueueOk q it then wdsServe (wdsAnswer r stOk [] (enqueueItem q it s))
    else wdsAnswer r stTargetErr [] (s.queueAtMod q (fun x => { x with refused := x.refused + 1 }))
/-- `WDS_ENQUEUE` (R379). -/
def wdsEnqueueF (item : BitVec 256) (len : Byte) (poison : Bool) (s : State) : State := wdsEnq none item len poison s
def execWdsEnqueue (item : BitVec 256) (len : Byte) (poison : Bool) (s : State) : Host.Outcome State Fault Refusal :=
  .next (wdsEnqueueF item len poison s)

/-- The item a context would be handed next has lost its payload (R384, R389). -/
def spoilPick (c : Nat) (s : State) : State :=
  match s.pick c with
  | none => s
  | some (q, some i, _) => s.queueAtMod q (fun x => { x with items := x.items.modify i (fun it => { it with err := true }) })
  | some (q, none, it) => s.onWds (fun w => { w with
      again := w.again.map (fun y => if y.1.toNat = q ∧ y.2.1 = it then (y.1, { y.2.1 with err := true }, y.2.2) else y) })

/-- A TAKE (R384). -/
def wdsTakeOf (r : Option NReq) (c : Nat) (len : Byte) (insp bad : Bool) (s : State) : State :=
  let x := s.ctxAt c
  if !s.wdsOn then wdsAnswer r stOk [0] s
  else if len ≠ 31 then wdsAnswer r stUnsupported [] s
  else if insp then
    wdsAnswer r stOk [match s.pick c with | some a => itemBits a.2.2 a.1 s.wds.ticket.toNat | none => emptyItem] s
  else if fld x.cfg 29 26 < x.held.length then wdsAnswer r stOk [emptyItem] s
  else
    let s := s.ctxAtMod c (fun x => { x with held := x.held ++ [r] })
    let s := wdsServe (if bad && s.canServe c then spoilPick c s else s)
    if fld x.timer 15 0 = 0 ∧ (s.ctxAt c).held ≠ [] then
      wdsAnswer r stOk [emptyItem] (s.ctxAtMod c (fun x => { x with held := x.held.dropLast }))
    else s
/-- `WDS_TAKE` (R384). -/
def wdsTakeF (ctx : Fin 256) (len : Byte) (insp bad : Bool) (s : State) : State := wdsTakeOf none ctx.val len insp bad s
def execWdsTake (ctx : Fin 256) (len : Byte) (insp bad : Bool) (s : State) : Host.Outcome State Fault Refusal :=
  .next (wdsTakeF ctx len insp bad s)

/-- `WDS_TAKE_TIMEOUT` (R384): the oldest held TAKE has waited `take_timeout`; timers are frozen in Resting (R390). -/
def wdsTakeTimeoutF (ctx : Fin 256) (s : State) : State :=
  match (if s.mode == .resting then [] else (s.ctxAt ctx.val).held) with
  | [] => s
  | r :: rest => wdsAnswer r stOk [emptyItem] (s.ctxAtMod ctx.val (fun x => { x with held := rest }))
def execWdsTakeTimeout (ctx : Fin 256) (s : State) : Host.Outcome State Fault Refusal := .next (wdsTakeTimeoutF ctx s)

/-- `WDS_CTX_RELEASE` (R385, R390). -/
def wdsCtxReleaseF (ctx : Fin 256) (ticket : BitVec 16) (s : State) : State := if s.wdsOn then wdsRelease ctx.val ticket s else s
def execWdsCtxRelease (ctx : Fin 256) (ticket : BitVec 16) (s : State) : Host.Outcome State Fault Refusal :=
  .next (wdsCtxReleaseF ctx ticket s)

/-- The service timers of a context are frozen (R387, R390, R476). -/
def State.svcFrozen (s : State) (c : Nat) : Bool :=
  let b := (s.ctxAt c).bind
  s.mode == .held || s.mode == .resting
  || (fld b 31 30 == 1 && (s.hartAt (fld b 26 19 % 8)).halted)
  || (fld b 31 30 == 2 && 1 ≤ fld b 29 27 && fld b 29 27 ≤ 4 && ((sget 0 s.dbg.frozen (fld b 29 27 - 1)).getLsbD (fld b 26 19)
      || s.tst.bist.any (fun t => t.whole && t.die.val + 1 == fld b 29 27)))

/-- `WDS_SERVICE_TIMEOUT` (R386, R387): the service timer of one item in service expires. -/
def wdsServiceTimeoutF (ctx : Fin 256) (ticket : BitVec 16) (s : State) : State :=
  let x := s.ctxAt ctx.val
  if s.wdsOn && !s.svcFrozen ctx.val && x.kind != 2 && fld x.timer 31 16 != 0 && x.inService.any (fun i => i.ticket == ticket) then
    ctxDead ctx.val 0x2101 s
  else s
def execWdsServiceTimeout (ctx : Fin 256) (ticket : BitVec 16) (s : State) : Host.Outcome State Fault Refusal :=
  .next (wdsServiceTimeoutF ctx ticket s)

/-- `WDS_CTX_REVIVE` (R386): a 1 written to `dead`. -/
def wdsCtxReviveF (ctx : Fin 256) (s : State) : State :=
  if s.wdsOn then wdsServe (s.ctxAtMod ctx.val (fun x => { x with dead := false })) else s
def execWdsCtxRevive (ctx : Fin 256) (s : State) : Host.Outcome State Fault Refusal := .next (wdsCtxReviveF ctx s)

/-- `WDS_SPILL_TIMER` (R381): 1 us after the first item of a block arrived, the block is written although it is not full. -/
def wdsSpillTimerF (q : BitVec 10) (s : State) : State := if s.wdsOn then spillWrite q.toNat true s else s
def execWdsSpillTimer (q : BitVec 10) (s : State) : Host.Outcome State Fault Refusal := .next (wdsSpillTimerF q s)

/-- `WDS_SPILL_RETRY` (R382): the block whose write failed is written again. -/
def wdsSpillRetryF (q : BitVec 10) (s : State) : State :=
  let x := s.queueAt q.toNat
  match x.ring.find? (fun b => b.failed && !b.sent) with
  | none => s
  | some b =>
    if s.wdsOn && x.stopped && s.portTakes portWdsI then
      wdsIssue q.toNat b.slot true (blockData b)
        (s.queueAtMod q.toNat (fun x => { x with ring := x.ring.map (fun c => if c.slot = b.slot then { c with sent := true } else c) }))
    else s
def execWdsSpillRetry (q : BitVec 10) (s : State) : Host.Outcome State Fault Refusal := .next (wdsSpillRetryF q s)

/-- The item a refilled flit becomes (R382): a poisoned flit, or one that did not come, becomes an item without payload. A proxied item keeps
its origin, which the dispatcher holds beside the ring. -/
def refillItem (r : NRsp) (i : Nat) (old : WItem) : WItem :=
  if r.data.length ≤ i || r.bad.getD i false || (r.hpoison && !r.bad.any id) then { flow := 0xFFFFE, err := true, origin := old.origin }
  else itemOf (r.data.getD i 0) old.origin

/-- `WDS_REFILL` (R382): items of the head block move into the store in ring order, as many as fit. -/
def wdsRefillF (q : BitVec 10) (s : State) : State :=
  let x := s.queueAt q.toNat
  match x.refill, x.ring with
  | some (some r), b :: rest =>
    let n := min b.items.length (min (65536 - s.wdsOndie) (x.max - x.items.length))
    let got := (List.range n).map (fun k => refillItem r (b.moved + k) (b.items.getD k {}))
    let b' := { b with items := b.items.drop n, moved := b.moved + n }
    wdsServe (s.queueAtMod q.toNat (fun x =>
      if b'.items.isEmpty then { x with items := x.items ++ got, ring := rest, refill := none }
      else { x with items := x.items ++ got, ring := b' :: rest }))
  | _, _ => s
def execWdsRefill (q : BitVec 10) (s : State) : Host.Outcome State Fault Refusal := .next (wdsRefillF q s)

/-- `WDS_COUNT` (R385, R386): one read clears both counts; an inspect read does not (R14). -/
def wdsCountRead (insp : Bool) (s : State) : Word × State :=
  if !s.wdsOn then (0, s)
  else (wd (s.wds.redisp.toNat * 65536 + s.wds.stale.toNat), s.when (!insp) (fun t => t.onWds (fun w => { w with redisp := 0, stale := 0 })))
def wdsCountF (insp : Bool) (s : State) : State := State.readTo (wdsCountRead insp s)
def execWdsCount (insp : Bool) (s : State) : Host.Outcome State Fault Refusal := .next (wdsCountF insp s)

/-- `WDS_QUEUE_CFG` (R380). -/
def wdsQueueCfgF (id : CmdId) (s : State) : State :=
  startCmd id 0xB0 (fun c s =>
    let p := c.p 1
    require (onlyBits (c.p 0) 0x3FF && onlyBits p 0x3F && (c.p 2).toNat ≤ 65536) rcBadParam c (fun s =>
      let s := s.queueAtMod (fld (c.p 0) 9 0) (fun x => { x with
        qprio := BitVec.ofNat 3 (fld p 2 0), useIprio := bit p 3, en := bit p 4, spill := bit p 5, ondieMax := BitVec.ofNat 17 (fld (c.p 2) 16 0) })
      finish c rcOk [] (wdsServe s)) s) s
def execWdsQueueCfg (c : CmdId) (s : State) : Host.Outcome State Fault Refusal := .next (wdsQueueCfgF c s)

/-- Items of a flow slot that wait: in the store, in a ring, or for re-dispatch (R380). -/
def State.waitingOf (s : State) (l : Nat) : Nat :=
  let n (is : List WItem) : Nat := (is.filter (fun i => i.slot == some l)).length
  n (s.wds.again.map (·.2.1)) + s.wds.queue.foldl (fun k e => k + n e.2.items + n (e.2.ring.flatMap (·.items))) 0

/-- Words of the flow reply (R380): the context field is a free value while no context holds the slot. -/
def wdsFlowWords (l : Nat) (s : State) : List Word :=
  let lk := sget none s.wds.lock l
  let ctx := match lk with | some (some c) => c.val | _ => (Config.free 8 s.fresh).toNat
  [wd (b2n lk.isSome + 2 * ctx), wd (s.waitingOf l)]

/-- Words of the queue reply (R380). -/
def wdsQueueWords (q : Nat) (s : State) : List Word :=
  let x := s.queueAt q
  [wd (x.items.length + (s.wds.again.filter (fun a => a.1.toNat == q)).length), wd x.spilled, wd (s.serviceOf q).length, wd x.refused]

/-- `WDS_STATUS` (R380). -/
def wdsStatusF (id : CmdId) (s : State) : State :=
  startCmd id 0xB1 (fun c s =>
    let p := c.p 0
    require (if bit p 31 then onlyBits p 0x800FFFFF else onlyBits p 0x3FF) rcBadParam c (fun s =>
      if bit p 31 then finish c rcOk (wdsFlowWords (fld p 19 0 % 16384) s) s.nextFree
      else finish c rcOk (wdsQueueWords (fld p 9 0) s) (s.queueAtMod (fld p 9 0) (fun x => { x with refused := 0 }))) s) s
def execWdsStatus (c : CmdId) (s : State) : Host.Outcome State Fault Refusal := .next (wdsStatusF c s)

end Sys2Proof.Machine
end

