-- ==== Sys2Proof/Machine/Sec.lean ====
section
/-! DEFINITION. Settings, flash, the kiln log, fuses, the battery-backed key and debug authorisation: commands of classes SET and SEC, and the
alert and fatal registers. Files 03, 08, 17, 18 and 21. -/

namespace Sys2Proof.Machine

/-- Set a word of a flash port. -/
def flashSet (port i : Nat) (v : Word) (s : State) : State :=
  s.onFlash (fun f => if port = 0 then { f with w0 := sput 0xFFFFFFFF f.w0 i v } else { f with w1 := sput 0xFFFFFFFF f.w1 i v })

/-- Erase a 4 KiB sector. -/
def flashErase (port sec : Nat) (s : State) : State :=
  s.onFlash (fun f => if port = 0 then { f with w0 := sdrop f.w0 (fun k => k / 1024 == sec) } else { f with w1 := sdrop f.w1 (fun k => k / 1024 == sec) })

/-- Program words from a word index on. -/
def flashPut (port i : Nat) (ws : List Word) (s : State) : State := s.each (List.range ws.length) (fun k => flashSet port (i + k) (wordAt ws k))

/-- A sector fails to erase or program (R482): its contents are open, it is skipped until the next start, and 0x22C6 is raised. -/
def flashFail (port sec : Nat) (s : State) : State :=
  let s := s.each (List.range 1024) (fun i t => let r := t.take 32; flashSet port (1024 * sec + i) r.1 r.2)
  raise 0x22C6 (s.onFlash (fun f => { f with failed := f.failed ++ [(port, sec)] }))

/-- A sector failed in this start. -/
def State.flashSkips (s : State) (port sec : Nat) : Bool := s.flash.failed.contains (port, sec)

/-- A port that R64 does not treat as empty, and its size. -/
def State.flashValid (s : State) (port : Nat) : Bool := if port = 0 then s.flash.valid0 else s.flash.valid1
def State.flashSize (s : State) (port : Nat) : Nat := if port = 0 then s.flash.size0 else s.flash.size1

/-- A word of the record in effect as SET_READ returns it (R74). -/
def State.settingShown (s : State) (n : Nat) : Word :=
  if n = 1023 ∧ s.settings.slot.isNone then crc32 (wordBytes ((List.range 1023).map s.setting)) else s.setting n

/-- `SET_READ` (R74). -/
def setReadF (id : CmdId) (s : State) : State :=
  startCmd id 0x60 (fun c s =>
    let o := (c.p 0).toNat; let n := (c.p 1).toNat
    require (o + n ≤ 1024) rcBadParam c (fun s => finishUnits c ((List.range n).map (fun i => [s.settingShown (o + i)])) s) s) s
def execSetRead (c : CmdId) (s : State) : Host.Outcome State Fault Refusal := .next (setReadF c s)

/-- The highest `sequence` of a verifying settings record (R75). -/
def State.settingsTop (s : State) : Option Nat :=
  ((List.range 256).filter (fun i => settingsVerifies (fun k => flashWord (s.flashOf 0) (settingsBase i + k)))).foldl (fun b i =>
    let q := (flashWord (s.flashOf 0) (settingsBase i + 2)).toNat
    match b with | some r => some (max r q) | none => some q) none

/-- The slot a new settings record takes (R75, R482): the one after the record in effect, or slot 0, passing over those that failed. With records that
verify but none in effect it is slot 0 too (log 133). -/
def State.settingsSlot (s : State) : Option Nat :=
  let first := match s.settings.slot with | some x => x.val + 1 | none => 0
  ((List.range 256).map (fun i => (first + i) % 256)).find? (fun i =>
    !s.flashSkips 0 (256 + i) && (match s.settings.slot with | some x => x.val != i | none => true))

/-- `SET_WRITE` (R75, R482): `flashOk` is clear when the slot fails to erase or program. -/
def setWriteF (id : CmdId) (flashOk : Bool) (s : State) : State :=
  startCmd id 0x61 (fun c s =>
    require (settingsValid (fun n => if n = 2 ∨ n = 1023 then 0 else c.p n)) rcBadParam c (fun s =>
    require (s.flash.valid0 && s.settingsTop != some 0xFFFFFFFE && s.settingsSlot.isSome) rcHwFault c (fun s =>
      let slot := s.settingsSlot.getD 0
      let seq : Word := match s.settingsTop with | some q => wd (q + 1) | none => 1
      let body := setNth (c.params.take 1023) 2 seq
      if flashOk then
        finish c rcOk [seq] (flashPut 0 (settingsBase slot) (body ++ [crc32 (wordBytes body)]) (flashErase 0 (256 + slot) s))
      else finish c rcHwFault [] (flashFail 0 (256 + slot) s)) s) s) s
def execSetWrite (c : CmdId) (flashOk : Bool) (s : State) : Host.Outcome State Fault Refusal := .next (setWriteF c flashOk s)

/-- Byte at an offset of a flash port. -/
def State.flashByte (s : State) (port o : Nat) : Byte := BitVec.ofNat 8 ((flashWord (s.flashOf port) (o / 4)).toNat >>> (8 * (o % 4)))

/-- Word i of a flash reply of n bytes; unused bytes of the last word read zero. -/
def State.flashReadWord (s : State) (port o n i : Nat) : Word :=
  wd (bytesNat ((List.range (min 4 (n - 4 * i))).map (fun k => s.flashByte port (o + 4 * i + k))))

/-- `FLASH_READ` (R493). -/
def flashReadF (id : CmdId) (s : State) : State :=
  startCmd id 0x62 (fun c s =>
    let port := fld (c.p 0) 0 0; let o := (c.p 1).toNat; let n := (c.p 2).toNat
    require (onlyBits (c.p 0) 1) rcBadParam c (fun s =>
    require (s.flashValid port) rcHwFault c (fun s =>
    require (o + n ≤ s.flashSize port) rcBadParam c (fun s =>
      finishUnits c ((List.range (ceilDiv n 4)).map (fun i => [s.flashReadWord port o n i])) s) s) s) s) s
def execFlashRead (c : CmdId) (s : State) : Host.Outcome State Fault Refusal := .next (flashReadF c s)

/-- Erase and program the part of a range of bytes that lies in one sector: bytes of the sector outside the range are open. -/
def flashSector (port o : Nat) (bs : List Byte) (sec : Nat) (s : State) : State :=
  s.each (List.range 1024) (fun i t =>
    let a := 4096 * sec + 4 * i
    if o ≤ a ∧ a + 4 ≤ o + bs.length then flashSet port (1024 * sec + i) (wd (bytesNat ((bs.drop (a - o)).take 4))) t
    else
      let r := t.take 32
      let v := wd (bytesNat ((List.range 4).map (fun k =>
        if o ≤ a + k ∧ a + k < o + bs.length then bs.getD (a + k - o) 0 else BitVec.ofNat 8 (r.1.toNat >>> (8 * k)))))
      flashSet port (1024 * sec + i) v r.2)

/-- `FLASH_PROGRAM` (R482, R493): `flashOk` is clear when the first sector of the range fails. -/
def flashProgramF (id : CmdId) (flashOk : Bool) (s : State) : State :=
  startCmd id 0x63 (fun c s =>
    let port := fld (c.p 0) 0 0; let o := (c.p 1).toNat; let bs := wordBytes (c.params.drop 2)
    let secs := (List.range ((o + bs.length - 1) / 4096 + 1 - o / 4096)).map (fun i => o / 4096 + i)
    require (onlyBits (c.p 0) 1) rcBadParam c (fun s =>
    require (s.flashValid port) rcHwFault c (fun s =>
    require (o + bs.length ≤ s.flashSize port) rcBadParam c (fun s =>
    require (secs.all (fun k => !s.flashSkips port k)) rcHwFault c (fun s =>
      if flashOk then finish c rcOk [] (s.each secs (flashSector port o bs))
      else finish c rcHwFault [] (flashFail port (o / 4096) s)) s) s) s) s) s
def execFlashProgram (c : CmdId) (flashOk : Bool) (s : State) : Host.Outcome State Fault Refusal := .next (flashProgramF c flashOk s)

/-- The words of a kiln log entry (R398). -/
def KilnEntry.words (e : KilnEntry) : List Word :=
  let ws := [e.seq, wd (e.rep.toNat * 2 ^ 24 + e.origin.toNat * 65536 + e.code.toNat), wd e.pos.toNat,
    wd (e.start.toNat * 65536 + e.pos.toNat / 2 ^ 32), e.detA, e.detB, 0]
  ws ++ [crc32 (wordBytes ws)]

/-- Insert an entry into a list that rises by `seq`. -/
def seqInsert (w : List Word) : List (List Word) → List (List Word)
  | [] => [w]
  | v :: vs => if (wordAt w 0).toNat < (wordAt v 0).toNat then w :: v :: vs else v :: seqInsert w vs

/-- Written entries in `seq` order (R400). -/
def State.kilnWritten (s : State) : List (List Word) :=
  ((s.kilnPlaces.map s.kilnAt).filter kilnOk).foldl (fun l w => seqInsert w l) []

/-- `LOG_READ` (R400). -/
def logReadF (id : CmdId) (s : State) : State :=
  startCmd id 0x64 (fun c s =>
    let n := (c.p 1).toNat
    require (1 ≤ n && n ≤ 65535) rcBadParam c (fun s =>
      let es := s.kilnWritten ++ s.mgr.kiln.map KilnEntry.words
      finishUnits c ((es.filter (fun w => decide ((c.p 0).toNat ≤ (wordAt w 0).toNat))).take n) s) s) s
def execLogRead (c : CmdId) (s : State) : Host.Outcome State Fault Refusal := .next (logReadF c s)

/-- The next place of the log that no failed sector holds (R482). -/
def State.kilnPlace (s : State) : Option Nat :=
  let at0 := s.mgr.kilnSlot.toNat
  ((List.range 1025).map (fun k => if k = 0 then at0 else (at0 / 128 + k) % 1024 * 128)).find? (fun i => !s.flashSkips 0 (512 + i / 128))

/-- Notices lost while the buffer was full become one entry, which takes the next `seq` (R399). -/
def kilnLostEntry (s : State) : State :=
  if s.mgr.kilnLost = 0 then s
  else
    let e : KilnEntry := { seq := s.mgr.kilnSeq, code := 0x0FFF, pos := s.clk.pos, start := s.mgr.startNo, detA := s.mgr.kilnLost }
    s.onMgr (fun m => { m with kilnLost := 0, kilnSeq := m.kilnSeq + 1, kiln := m.kiln ++ [e] })

/-- The oldest buffered entry is written (R398, R399, R482): entering a sector, MGR erases the one ahead of it. With `flashOk` clear the
sector of the place fails, and the entry stays buffered. -/
def kilnWrite (flashOk : Bool) (s : State) : State :=
  match s.mgr.kiln, s.kilnPlace with
  | e :: es, some i =>
    if !s.flash.valid0 then s
    else if !flashOk then flashFail 0 (512 + i / 128) s
    else
      let s := if i % 128 = 0 then flashErase 0 (512 + i / 128) s else s
      let s := flashPut 0 (0x80000 + 8 * i) e.words s
      let s := if i % 128 = 0 then flashErase 0 (512 + (i / 128 + 1) % 1024) s else s
      kilnLostEntry (s.onMgr (fun m => { m with kiln := es, kilnSlot := BitVec.ofNat 17 (i + 1) }))
  | [], _ => kilnLostEntry s
  | _, none => s

/-- `KILN_WRITEBACK` (R391, R399, R482): while MGR runs. -/
def kilnWritebackF (flashOk : Bool) (s : State) : State := if s.mgrStopped then s else kilnWrite flashOk s
def execKilnWriteback (flashOk : Bool) (s : State) : Host.Outcome State Fault Refusal := .next (kilnWritebackF flashOk s)

/-- Every buffered entry is written, as many as `n` (R399). -/
def kilnFlush : Nat → Bool → State → State
  | 0, _, s => s
  | n + 1, ok, s => if s.mgr.kiln.isEmpty && s.mgr.kilnLost == 0 then s else kilnFlush n true (kilnWrite ok s)

/-- `MGR_ALERT_LATCH_CLEAR` (R401). -/
def mgrAlertLatchClearF (s : State) : State := s.onMgr (fun m => { m with alertLatch := false })
def execMgrAlertLatchClear (s : State) : Host.Outcome State Fault Refusal := .next (mgrAlertLatchClearF s)

/-- `MGR_FATAL_CLR` (R404, `MGR_FATAL`). -/
def mgrFatalClrF (s : State) : State := s.onAo (fun o => { o with fatalCause := 0, fatalCount := 0 })
def execMgrFatalClr (s : State) : Host.Outcome State Fault Refusal := .next (mgrFatalClrF s)

/-- A fuse field as programmed (R208). -/
def State.fuseNow (s : State) (f : Nat) : Nat := wordsNat ((List.range (ceilDiv (fuseWidth f) 32)).map (fun i => sget 0 s.fuses.bits (f * 128 + i)))

/-- `FUSE_READ` (R208): key fields read as zero. -/
def fuseReadF (id : CmdId) (s : State) : State :=
  startCmd id 0x74 (fun c s =>
    let f := (c.p 0).toNat
    require (fuseWidth f != 0) rcBadParam c (fun s =>
      finish c rcOk (natWords (if f = 8 ∨ f = 9 then 0 else s.fuseNow f) (ceilDiv (fuseWidth f) 32)) s) s) s
def execFuseRead (c : CmdId) (s : State) : Host.Outcome State Fault Refusal := .next (fuseReadF c s)

/-- The authorisation of R209 for commands that program fuses or the battery-backed key: a level granted on this transport since the last
start, when streams must be signed. -/
def State.fuseAuth (s : State) (c : Cmd) : Bool := !bit (s.fuse 1 0) 0 || sget false s.dbg.granted c.id.t.id

/-- The first status of R209 that refuses a value `v` of field `f`, none when it is programmed. -/
def State.fuseRefusal (s : State) (f v : Nat) : Option Nat :=
  let old := s.fuseNow f; let all := old ||| v
  if 2 ^ fuseWidth f ≤ v then some rcBadParam
  else if f = 7 ∨ (0xA ≤ f ∧ f ≤ 0xC) then some rcDenied
  else if (f = 2 ∨ f = 8 ∨ f = 9) ∧ old ≠ 0 then some rcDenied
  else if f = 0 ∧ all / 2 % 4 = 3 then some rcBadParam
  else if f = 1 ∧ s.fuseNow 2 = 0 then some rcBadParam
  else if f = 3 ∧ all &&& (all + 1) ≠ 0 then some rcBadParam
  else none

/-- `FUSE_PROGRAM` (R209): `stuck` names bits of the field that fail to set. DEDUCED (log 154): the statuses are tried in R209's own order,
the authorisation last, although R495 puts it before the parameters. -/
def fuseProgramF (id : CmdId) (stuck : Nat) (s : State) : State :=
  startCmd id 0x75 (fun c s =>
    let f := (c.p 0).toNat; let n := ceilDiv (fuseWidth f) 32; let v := wordsNat (c.params.drop 1)
    require (fuseWidth f != 0) rcBadParam c (fun s =>
      match s.fuseRefusal f v with
      | some st => finish c st [] s
      | none =>
      require (s.fuseAuth c) rcDenied c (fun s =>
        let old := s.fuseNow f
        let new := old ||| bytesNat ((List.range (4 * n)).map (fun k => BitVec.ofNat 8 (v >>> (8 * k)) &&& ~~~BitVec.ofNat 8 (stuck >>> (8 * k))))
        let s := s.each (List.range n) (fun i t => t.onFuses (fun x => { x with bits := sput 0 x.bits (f * 128 + i) (wd (new >>> (32 * i))) }))
        finish c (if new = old ||| v then rcOk else rcHwFault) [] s) s) s) s
def execFuseProgram (c : CmdId) (stuck : Nat) (s : State) : Host.Outcome State Fault Refusal := .next (fuseProgramF c stuck s)

/-- `KEY_LOAD_BBRAM` (R201, R209). -/
def keyLoadBbramF (id : CmdId) (s : State) : State :=
  startCmd id 0x70 (fun c s =>
    require (s.fuseAuth c && !bit (s.fuse 0 0) 2) rcDenied c (fun s =>
      let iv : BitVec 96 := BitVec.ofNat 96 ((wordBytes (c.params.take 2)).foldl (fun n b => n * 256 + b.toNat) 0 * 2 ^ 32)
      match gcmItem ((s.deviceKey false).getD 0) iv (wordBytes [c.hdr]) (wordBytes ((c.params.drop 2).take 8)) (tagOf (c.params.drop 10)) with
      | none => finish c rcDecryptFail [] s
      | some k => finish c rcOk [] (s.onFuses (fun f => { f with bbram := some (keyOf (bytesWords k)), bbramLost := false }))) s) s
def execKeyLoadBbram (c : CmdId) (s : State) : Host.Outcome State Fault Refusal := .next (keyLoadBbramF c s)

/-- Debug is locked by its fuse (R413, R208). -/
def State.debugLocked (s : State) : Bool := 2 ≤ fld (s.fuse 4 0) 1 0

/-- `AUTH_CHALLENGE` (R414): the nonce is a free value. -/
def authChallengeF (id : CmdId) (s : State) : State :=
  startCmd id 0x72 (fun c s =>
    let t := c.id.t.id
    require ((c.p 0).toNat ≤ 1) rcBadParam c (fun s =>
    require (!s.debugLocked && s.dbg.failures < 4) rcDenied c (fun s =>
      if c.p 0 = 0 then finish c rcOk [] (s.onDbg (fun d => { d with level := sput 0 d.level t 0 }))
      else
        let r := s.take 256; let nonce := natWords r.1.toNat 8
        finish c rcOk nonce (r.2.onDbg (fun d => { d with challenge := sput none d.challenge t (some (1, nonce)) }))) s) s) s
def execAuthChallenge (c : CmdId) (s : State) : Host.Outcome State Fault Refusal := .next (authChallengeF c s)

/-- What AUTH_RESPOND must carry (R414): the HMAC of nonce, serial number, level and transport under KEY_DEBUG. -/
def State.authAnswer (s : State) (nonce : List Word) (level t : Nat) : BitVec 384 :=
  Config.hmac384 (BitVec.ofNat 384 (wordsNat ((List.range 8).map (fun i => s.fuse 9 i))))
    (wordBytes (nonce ++ [s.fuse 7 0, s.fuse 7 1, wd level, wd t]))

/-- `AUTH_RESPOND` (R414): `late` when it comes more than 10 s after its challenge. A level already held is not lowered. -/
def authRespondF (id : CmdId) (late : Bool) (s : State) : State :=
  startCmd id 0x73 (fun c s =>
    let t := c.id.t.id
    let open_ := sget none s.dbg.challenge t
    let s := s.onDbg (fun d => { d with challenge := sput none d.challenge t none })
    let good := match open_ with
      | some (l, nonce) => !late && s.authAnswer nonce l.toNat t == BitVec.ofNat 384 (wordsNat c.params)
      | none => false
    let l : BitVec 2 := match open_ with | some (l, _) => l | none => 0
    if good then
      raise 0x0030 (finish c rcOk [wd l.toNat] (s.onDbg (fun d => { d with
        level := sput 0 d.level t (if sget 0 d.level t < l then l else sget 0 d.level t), granted := sput false d.granted t true })))
    else raise 0x0031 (finish c rcAuthFail [] (s.onDbg (fun d => { d with failures := d.failures + 1 })))) s
def execAuthRespond (c : CmdId) (late : Bool) (s : State) : Host.Outcome State Fault Refusal := .next (authRespondF c late s)

end Sys2Proof.Machine
end

