-- ==== Sys2Proof/Machine/Dbg.lean ====
section
/-! DEFINITION. Watchdogs, halting of harts, the debug access path, cross-triggers, sector freeze, Held, trace and stimulus. File 18. -/

namespace Sys2Proof.Machine

/-- The DBG block takes a register write: H is out of reset and its CSR target serves (R29, R454). -/
def State.dbgLive (s : State) : Bool := s.mode != .greenware && decide ((s.pdomAt 0).rung.toNat ≤ 3)

/-- A write to the DBG block that needs a level (R415): without it the write is ignored and sets `denied`. -/
def dbgNeeds (need have_ : Nat) (f : State → State) (s : State) : State :=
  if !s.dbgLive then s else if have_ < need then s.onDbg (fun d => { d with denied := true }) else f s

/-- The same for a write over the network, judged by `DBG_AUTH.level` (R415). -/
def dbgWrite (need : Nat) (f : State → State) (s : State) : State := dbgNeeds need s.authLevel f s

/-- Level that halting a hart needs (R415, R416): 0x2 for MGR. -/
def hartLevel (h : Nat) : Nat := if h = 8 then 2 else 1

/-- Initiator port of a hart (R406); hart 8 is MGR. -/
def hartPort (h : Fin 9) : Nat := if h.val = 8 then portMgr else corePort (Fin.ofNat 8 h.val)

/-- A hart waits for the response to a load, fetch or AMO (R417). -/
def State.hartWaits (s : State) (h : Fin 9) : Bool :=
  (s.iportAt (hartPort h)).out.any (fun o => (h == 8 || o.hart.val == h.val) && (o.req.typ == 0 || o.req.typ == 2) && o.rsp.isNone)

/-- A period or count of 0 acts as 1 (`DBG_WDT_CFG`). -/
def Watchdog.full (w : Watchdog) : BitVec 24 := if w.period = 0 then 1 else w.period

/-- A watchdog is frozen (R411): `frz` is set, and its core is halted or the device is in Held. -/
def State.wdtFrozen (s : State) (w : Nat) : Bool := (s.wdtAt w).frz && ((s.hartAt w).halted || s.mode == .held)

/-- `wdt_grace_us` of the settings, in 10 us (R72, R411). -/
def State.wdtGrace (s : State) : BitVec 24 := BitVec.ofNat 24 (ceilDiv (fld (s.setting 9) 15 0) 10)

/-- A watchdog that was frozen and no longer is counts on, from at least the grace (R411). -/
def wdtResume (w : Nat) (s : State) : State :=
  if (s.wdtAt w).frozen && !s.wdtFrozen w then
    s.wdtAtMod w (fun x => { x with frozen := false, left := if x.left < s.wdtGrace then s.wdtGrace else x.left })
  else s

/-- A watchdog that has become frozen stops (R411). -/
def wdtFreeze (w : Nat) (s : State) : State := s.when ((s.wdtAt w).en && s.wdtFrozen w) (State.wdtAtMod w (fun x => { x with frozen := true }))

/-- `CORE_FENCE` (R245, R406): a RISC-V FENCE whose sets include device input or output issues a NoC FENCE on the core's port. -/
def coreFenceF (hart : Fin 8) (deviceIo : Bool) (s : State) : State :=
  let p := corePort hart
  if deviceIo && !(s.hartAt hart.val).halted && s.portTakes p && s.mode != .greenware then
    retire p (issue p { typ := 3, otag := tagUncached hart, hart := hart } s)
  else s
def execCoreFence (hart : Fin 8) (deviceIo : Bool) (s : State) : Host.Outcome State Fault Refusal := .next (coreFenceF hart deviceIo s)

/-- `DBG_WDT_KICK` (R410, R415): a write of 1 reloads the count, whatever level is held. -/
def dbgWdtKickF (w : Fin 9) (s : State) : State :=
  s.when s.dbgLive (State.wdtAtMod w.val (fun x => { x with left := if x.en then x.full else x.left, expired := false }))
def execDbgWdtKick (w : Fin 9) (s : State) : Host.Outcome State Fault Refusal := .next (dbgWdtKickF w s)

/-- `DBG_WDT_ENABLE` (R410): the watchdog counts from its period. -/
def dbgWdtEnableF (w : Fin 9) (s : State) : State :=
  if s.dbgLive && !(s.wdtAt w.val).en then wdtFreeze w.val (s.wdtAtMod w.val (fun x => { x with en := true, left := x.full })) else s
def execDbgWdtEnable (w : Fin 9) (s : State) : Host.Outcome State Fault Refusal := .next (dbgWdtEnableF w s)

/-- A hart restarts at its reset vector, alone; its watchdog is disabled (R410). -/
def hartReset (h : Nat) (s : State) : State :=
  (s.hartAtMod h (fun x => { resets := x.resets + 1 })).wdtAtMod h (fun w => { w with en := false, left := 0, expired := false, frozen := false })

/-- `WDT_EXPIRY` (R403, R410, R411): the first expiry raises interrupt 16 and reloads the count; a second without a kick resets the hart, or is
fatal for MGR. -/
def wdtExpiryF (w : Fin 9) (s : State) : State :=
  let x := s.wdtAt w.val
  if !x.en || s.wdtFrozen w.val || s.mode == .greenware then s
  else if !x.expired then
    (s.wdtAtMod w.val (fun x => { x with expired := true, left := x.full })).hartAtMod w.val (fun h => { h with irq16 := true })
  else if w.val = 8 then fatal 0x4018 s
  else raise (0x3010 + w.val) (dbgVotes (hartReset w.val s))
def execWdtExpiry (w : Fin 9) (s : State) : Host.Outcome State Fault Refusal := .next (wdtExpiryF w s)

/-- A hart is asked to halt (R416). -/
def hartHaltReq (h : Nat) (s : State) : State := s.hartAtMod h (fun x => { x with haltReq := x.haltReq || !x.halted })

/-- `HALTREQ` (R415, R416): the Debug Module asks a hart to halt. -/
def haltreqF (h : Fin 9) (s : State) : State := dbgWrite (hartLevel h.val) (hartHaltReq h.val) s
def execHaltreq (h : Fin 9) (s : State) : Host.Outcome State Fault Refusal := .next (haltreqF h s)

/-- `HART_HALTED` (R411, R417, R419, R424): the hart halts at an instruction boundary, once the loads, fetches and AMOs it has outstanding have
their responses; its reservation clears. What its registers hold is not known to the model. -/
def hartHaltedF (h : Fin 9) (pc : BitVec 64) (s : State) : State :=
  let x := s.hartAt h.val
  if !x.haltReq || x.halted || s.hartWaits h || s.mode == .greenware then s
  else
    let s := (s.hartAtMod h.val (fun x => { x with halted := true, haltReq := false, pc := pc, reservation := false, regs := [], era := s.fresh + 1 })).nextFree
    let s := dbgVotes (wdtFreeze h.val s)
    fireSource 2 (fun _ _ => true) (trace (s.packet 4 0 h.val 0 (wd pc.toNat)) s)
def execHartHalted (h : Fin 9) (pc : BitVec 64) (s : State) : Host.Outcome State Fault Refusal := .next (hartHaltedF h pc s)

/-- Number of `dcsr`, whose bit 2 is `step`, and of `dpc`, in the CSR numbering of abstract commands (The RISC-V Debug Specification 1.0). -/
def dcsrNo : Nat := 0x7B0
def dpcNo : Nat := 0x7B1

/-- What an Access Register command reads of a halted hart (R416): x0 is zero, `dpc` is the pc, and a register not written since the halt holds
what the program left in it. -/
def State.hartReg (s : State) (h r : Nat) : BitVec 64 :=
  let x := s.hartAt h
  if r = 0x1000 then 0 else if r = dpcNo then x.pc
  else if r = 0x7A0 then sget 0 x.trig 16
  else if 0x7A1 ≤ r ∧ r ≤ 0x7A3 then sget 0 x.trig ((sget 0 x.trig 16).toNat % 4 * 4 + (r - 0x7A0))
  else match sget none x.regs r with
    | some v => v
    | none => if x.era = 0 then 0 else Config.hartReg x.era r

/-- Write a register of a halted hart. -/
def hartRegPut (h r : Nat) (v : BitVec 64) (s : State) : State :=
  s.hartAtMod h (fun x =>
    if r = 0x1000 then x else if r = dpcNo then { x with pc := v }
    else if r = 0x7A0 then { x with trig := sput 0 x.trig 16 v }
    else if 0x7A1 ≤ r ∧ r ≤ 0x7A3 then { x with trig := sput 0 x.trig ((sget 0 x.trig 16).toNat % 4 * 4 + (r - 0x7A0)) v }
    else { x with regs := sput none x.regs r (some v) })

/-- A halted hart resumes (R411, R416, R424); with `dcsr.step` set it halts again after one instruction. -/
def hartResume (h : Nat) (s : State) : State :=
  if !(s.hartAt h).halted then s.hartAtMod h (fun x => { x with haltReq := false })
  else
    let step := (s.hartReg h dcsrNo).getLsbD 2
    let s := s.hartAtMod h (fun x => { x with halted := false, haltReq := step })
    let s := dbgVotes (wdtResume h s)
    trace (s.packet 5 0 h 0 (wd (s.hartAt h).pc.toNat)) s

/-- `RESUMEREQ` (R411, R416): the Debug Module resumes a halted hart. In Held every hart stays halted until the release (R422). -/
def resumereqF (h : Fin 9) (s : State) : State :=
  dbgWrite (hartLevel h.val) (fun s => if s.mode == .held then s else hartResume h.val s) s
def execResumereq (h : Fin 9) (s : State) : Host.Outcome State Fault Refusal := .next (resumereqF h s)

/-- An Access Register command (R416): it sets `cmderr` 4 while the hart runs and 2 for a register it does not name, and nothing runs while
`cmderr` is set (The RISC-V Debug Specification 1.0, log 45). -/
def accessRegister (h r : Nat) (write : Option (BitVec 64)) (s : State) : State :=
  if s.dbg.cmdErr != 0 then s
  else if !(s.hartAt h).halted then s.onDbg (fun d => { d with cmdErr := 4 })
  else if 0x1040 ≤ r then s.onDbg (fun d => { d with cmdErr := 2 })
  else match write with
    | some v => hartRegPut h r v s
    | none =>
      let v := s.hartReg h r
      s.onDbg (fun d => { d with dmData := sput 0 (sput 0 d.dmData 0 (wd v.toNat)) 1 (wd (v.toNat / 2 ^ 32)) })

/-- `ACCESS_REGISTER` (R415, R416): reads a register into `data0` and `data1`, or writes it. -/
def accessRegisterF (h : Fin 9) (reg : BitVec 16) (write : Option (BitVec 64)) (s : State) : State :=
  dbgWrite (hartLevel h.val) (accessRegister h.val reg.toNat write) s
def execAccessRegister (h : Fin 9) (reg : BitVec 16) (write : Option (BitVec 64)) (s : State) : Host.Outcome State Fault Refusal :=
  .next (accessRegisterF h reg write s)

/-- `HART_TRIGGER` (R416, R419): trigger t of a running hart matches. With action 1 the hart enters debug mode; with action 0 and no `timing` it
takes a breakpoint exception, whose `mtval` is not stated. Action 1, or `timing`, is an event on the cross-trigger lines. -/
def hartTriggerF (h : Fin 9) (_t : Fin 4) (action timing : Bool) (s : State) : State :=
  if (s.hartAt h.val).halted || s.mode == .greenware then s
  else
    let s := if action then hartHaltReq h.val s
      else if timing then s
      else let (v, s) := s.take 64; s.hartAtMod h.val (fun x => { x with fault := some (3, v) })
    s.when (action || timing) (fireSource 3 (fun _ _ => true))
def execHartTrigger (h : Fin 9) (t : Fin 4) (action timing : Bool) (s : State) : Host.Outcome State Fault Refusal :=
  .next (hartTriggerF h t action timing s)

/-- A write of `DBG_ACC_CTRL` (R14, R418). A size of 3, and a write that carries `insp`, are answered UNSUPPORTED. -/
def accCtrl (w : Word) (s : State) : State :=
  let s := s.onDbg (fun d => { d with accInsp := bit w 8, accWr := bit w 2, accSize := BitVec.ofNat 2 (fld w 1 0) })
  if !bit w 31 || s.dbg.accBusy then s
  else if fld w 1 0 = 3 ∨ (bit w 8 ∧ bit w 2) then s.onDbg (fun d => { d with accStatus := stUnsupported })
  else
    let a := s.dbg.accLo.toNat + s.dbg.accHi.toNat * 2 ^ 32
    let n := 2 ^ fld w 1 0
    let data := if bit w 2 then placeBytes a ((wordBytes [s.dbg.accData]).take n) else []
    let r : NocReq := { typ := if bit w 2 then 1 else 0, addr := BitVec.ofNat 64 a, len := BitVec.ofNat 8 (n - 1), insp := bit w 8, data := data, bad := data.map (fun _ => false) }
    retire portDbg (s.onDbg (fun d => { d with accBusy := true, accWait := some r }))

/-- `DBG_ACC_GO` (R415, R418): a write of `DBG_ACC_CTRL`. -/
def dbgAccGoF (w : Word) (s : State) : State := dbgWrite 1 (accCtrl w) s
def execDbgAccGo (w : Word) (s : State) : Host.Outcome State Fault Refusal := .next (dbgAccGoF w s)

/-- `DBG_ACC_CTRL` as read (18). -/
def State.accCtrlWord (s : State) : Word :=
  wd (s.dbg.accStatus.toNat * 65536 + b2n s.dbg.accInsp * 256 + b2n s.dbg.accBusy * 8 + b2n s.dbg.accWr * 4 + s.dbg.accSize.toNat)

/-- A debug access register by its DBGACC index (R412). -/
def State.accReg (s : State) (i : Nat) : Word :=
  match i with | 0 => s.dbg.accLo | 1 => s.dbg.accHi | 2 => s.dbg.accData | _ => s.accCtrlWord

/-- Write a debug access register by its DBGACC index (R412). -/
def accRegPut (i : Nat) (w : Word) (s : State) : State :=
  match i with
  | 0 => s.onDbg (fun d => { d with accLo := w })
  | 1 => s.onDbg (fun d => { d with accHi := w })
  | 2 => s.onDbg (fun d => { d with accData := w })
  | _ => accCtrl w s

/-- `JTAG_DBGACC_UPDATE` (R412, R415): Update-DR of DBGACC reads or writes one debug access register; writes are judged by the level of
transport 0. In Greenware and at rungs L5 to L7 DBGACC acts as BYPASS. -/
def jtagDbgaccUpdateF (dr : BitVec 36) (s : State) : State :=
  if s.mode == .greenware || decide (5 ≤ (s.pdomAt 0).rung.toNat) then s
  else
    let i := fld dr 33 32
    let s := s.onDbg (fun d => { d with ir := 0x33, jtagRead := none })
    match fld dr 35 34 with
    | 1 => s.onDbg (fun d => { d with jtagRead := some (s.accReg i) })
    | 2 => if s.levelOf .jtag < 1 then s.onDbg (fun d => { d with denied := true }) else accRegPut i (wd dr.toNat) s
    | _ => s
def execJtagDbgaccUpdate (dr : BitVec 36) (s : State) : Host.Outcome State Fault Refusal := .next (jtagDbgaccUpdateF dr s)

/-- `JTAG_TEST_LOGIC_RESET` (R412): Test-Logic-Reset selects IDCODE. -/
def jtagTestLogicResetF (s : State) : State := s.onDbg (fun d => { d with ir := 2 })
def execJtagTestLogicReset (s : State) : Host.Outcome State Fault Refusal := .next (jtagTestLogicResetF s)

/-- `EXTEST` (R412): the instruction is selected; `State.extesting` says while it drives the pins. -/
def extestF (s : State) : State := s.onDbg (fun d => { d with ir := 0 })
def execExtest (s : State) : Host.Outcome State Fault Refusal := .next (extestF s)

/-- `XTI_EVENT` (R419): XTI[l] of compute die `die` + 1 fires line l if its `xti` source and the die are set. -/
def xtiEventF (die : Fin 4) (line : Fin 16) (s : State) : State := fireSource 5 (fun l w => l == line.val && bit w (20 + die.val)) s
def execXtiEvent (die : Fin 4) (line : Fin 16) (s : State) : Host.Outcome State Fault Refusal := .next (xtiEventF die line s)

/-- `DBG_XT_PULSE` (R415, R419): each named line fires, as a local source. -/
def dbgXtPulseF (w : Word) (s : State) : State := dbgWrite 1 (fun s => if fld w 15 0 = 0 then s else fireLines (fld w 15 0) true s) s
def execDbgXtPulse (w : Word) (s : State) : Host.Outcome State Fault Refusal := .next (dbgXtPulseF w s)

/-- `SFRZ_FREEZE` (R415, R421): the masked loaded sectors of the die freeze. -/
def sfrzFreezeF (die : Fin 4) (s : State) : State := dbgWrite 1 (freezeDie die.val) s
def execSfrzFreeze (die : Fin 4) (s : State) : Host.Outcome State Fault Refusal := .next (sfrzFreezeF die s)

/-- `SFRZ_RELEASE` (R415, R421): the frozen sectors of the die restart. -/
def sfrzReleaseF (die : Fin 4) (s : State) : State := dbgWrite 1 (releaseDie die.val) s
def execSfrzRelease (die : Fin 4) (s : State) : Host.Outcome State Fault Refusal := .next (sfrzReleaseF die s)

/-- `DBG_HELD_ENTER` (R415, R422): a request for Held. -/
def dbgHeldEnterF (s : State) : State := dbgWrite 1 requestHeld s
def execDbgHeldEnter (s : State) : Host.Outcome State Fault Refusal := .next (dbgHeldEnterF s)

/-- `HELD_ENTRY_COMPLETE` (R411, R422, R424): every hart of the cluster has halted, so clocks and timers stop and the mode becomes Held. -/
def heldEntryCompleteF (s : State) : State :=
  if s.dbg.entering && (s.mode == .bisque || s.mode == .glazed || s.mode == .refiring) && (List.range 8).all (fun h => (s.hartAt h).halted) then
    let s := holdPads (fun n => (s.pdomAt (n / 6 + 1)).rung == 0) s
    let s := ({ s with mode := .held }).onDbg (fun d => { d with held := true, entering := false, asked := false })
    let s := s.each (List.range 9) wdtFreeze
    raise 0x0040 (trace (s.packet 6 0 0 1 0) s)
  else s
def execHeldEntryComplete (s : State) : Host.Outcome State Fault Refusal := .next (heldEntryCompleteF s)

/-- Held is left (R411, R422, R423): the recorded mode returns, harts resume unless they were halted before the request, timers count on with
grace, and deferred commits and calendar actions run. -/
def heldRelease (s : State) : State :=
  if s.mode != .held then s
  else
    let s := ({ s with mode := Mode.ofCode s.dbg.prev.toNat }).onDbg (fun d => { d with held := false, heldVote := false })
    let s := s.each ((List.range 8).filter (fun h => !(s.hartAt h).heldBefore)) hartResume
    let s := dbgVotes (s.each (List.range 9) wdtResume)
    let s := trace (s.packet 6 0 0 0 0) s
    calDeferred (releaseDeferred s)

/-- `DBG_HELD_RELEASE` (R415, R422): requests that waited at the PCIe ports follow. -/
def dbgHeldReleaseF (s : State) : State :=
  dbgWrite 1 (fun s => if s.mode == .held then retire portPcie1 (retire portPcie0 (heldRelease s)) else s) s
def execDbgHeldRelease (s : State) : Host.Outcome State Fault Refusal := .next (dbgHeldReleaseF s)

/-- `DBG_STIM` (R426): a write of 1, 2 or 4 bytes to stimulus port n writes a STIM packet when its bit of `stim_en` is set. -/
def dbgStimF (n : Fin 32) (v : Word) (bytes : Nat) (s : State) : State :=
  if s.dbgLive && bit s.dbg.trace.cfg (min n.val 15) then
    trace (s.packet 1 0 n.val bytes (wd (v.toNat % 2 ^ (8 * bytes)))) s
  else s
def execDbgStim (n : Fin 32) (v : Word) (bytes : Fin 5) (s : State) : Host.Outcome State Fault Refusal :=
  .next (s.when (bytes.val == 1 || bytes.val == 2 || bytes.val == 4) (dbgStimF n v bytes.val))

/-- `TRACE_FLUSH_TIMER` (R425): 1 us after its first packet, a partial block is written. -/
def traceFlushTimerF (s : State) : State := retire portDbg (traceFlush s)
def execTraceFlushTimer (s : State) : Host.Outcome State Fault Refusal := .next (traceFlushTimerF s)

end Sys2Proof.Machine
end

