-- ==== Sys2Proof/Machine/Clk.lean ====
section
/-! DEFINITION. Clock qualification, failure and switching, the timebase inputs, and the calendar commands. File 19. -/

namespace Sys2Proof.Machine

/-- Domains fed by a PLL on REFCLK_H (R427). -/
def onRefclkH (d : Nat) : Bool := (1 ≤ d && d ≤ 7) || (9 ≤ d && d ≤ 20) || 58 ≤ d

/-- Domains of a fabric PLL (R427). -/
def isFabricPll (d : Nat) : Bool := 26 ≤ d && d ≤ 57

/-- Domains with a fallback synthesiser (R427). -/
def hasFallback (d : Nat) : Bool := (1 ≤ d && d ≤ 7) || 26 ≤ d

/-- Domains that have a reference to qualify of their own: the crystal, REFCLK_XL0 to 3, REFCLK_H, and the reference of a fabric PLL (R427, R429). -/
def isReference (d : Nat) : Bool := d == 0 || (21 ≤ d && d ≤ 25) || isFabricPll d

/-- The reference that a fabric PLL domain runs or starts from is REFCLK_H: the one of its switch in progress, or of its source (R428). -/
def State.onRefclk25 (s : State) (d : Nat) : Bool :=
  let src := match (s.domAt d).ramp with | some (src, _, _) => src | none => (s.domAt d).src
  isFabricPll d && s.pllRef ((d - 26) / 8) ((d - 26) % 8) (src == 1) == 0

/-- The count of one qualification window at the nominal frequency, as a fraction (R429): 1,024 IOSC cycles of 200 MHz for the 100 MHz REFCLK_H,
8,192 AO cycles of 1 MHz for the 32.768 kHz crystal (R490). The other nominals depend on the board or the configuration. -/
def State.nominalCount (s : State) (d : Nat) : Nat × Nat :=
  if d = 0 then (268435456, 1000000) else if d = 25 ∨ onRefclkH d ∨ s.onRefclk25 d then (512, 1) else (Config.refCount d, 1)

/-- A tolerance in 0.1 %, of which 0 acts as 1 (`CLK_DOM_CFG`). -/
def tolOf (t : Byte) : Nat := if t = 0 then 1 else t.toNat

/-- Distance of two numbers. -/
def absDiff (a b : Nat) : Nat := if a < b then b - a else a - b

/-- The counts of eight windows pass (R429): each lies within `tol` of nominal, and successive ones differ by at most `tol` / 8. -/
def State.countsPass (s : State) (d : Nat) (tol : Byte) (cs : List Nat) : Bool :=
  let n := s.nominalCount d
  cs.length == 8 && cs.all (fun c => decide (absDiff (c * n.2) n.1 * 1000 ≤ tolOf tol * n.1))
    && (cs.zip cs.tail).all (fun x => decide (absDiff x.1 x.2 * n.2 * 8000 ≤ tolOf tol * n.1))

/-- The reference of a domain has passed (R429). -/
def State.refPassed (s : State) (d : Nat) : Bool :=
  if (s.domAt d).ramp.isSome then (s.domAt d).qualified
  else if onRefclkH d || s.onRefclk25 d then (s.domAt 25).qualified else (s.domAt d).qualified

/-- A domain begins to run from source `src`; its measured frequency and its baseline are what the monitor counts, which is not given to the
model (R431). -/
def domRuns (d : Nat) (src : BitVec 2) (s : State) : State :=
  let (k, s) := s.take 32
  s.domAtMod d (fun x => { x with
    state := if src = 2 then .fallback else .running, src := src, qualified := true, khz := k, baseline := k.toNat, ramp := none })

/-- A CLK_SWITCH of the domain ends; a switch before its ramp leaves no trace (R436). -/
def switchEnd (d : Nat) (status : Nat) (s : State) : State :=
  match (s.domAt d).ramp with
  | some (_, n, some id) =>
    let s := s.domAtMod d (fun x => if n = 0 then { x with ramp := none, qualified := true } else { x with ramp := x.ramp.map (fun r => (r.1, r.2.1, none)) })
    match s.findCmd id with | some c => finish c status [] s | none => s
  | _ => s

/-- `REFCLK_QUALIFY_DONE` (R429, R436): the qualification of a reference ends. A reference that passes lets its domain start; a crystal that fails
raises 0x2243; REFCLK_H is not qualified again in a start that went on without it (R58); and the qualification for a CLK_SWITCH that fails ends the command. -/
def refclkQualifyDoneF (d : Nat) (counts : List Nat) (s : State) : State :=
  if s.mode == .greenware || !s.boot.ioscOk then s
  else
    let x := s.domAt d
    let ok := s.countsPass d x.tol counts
    match x.ramp with
    | some (_, 0, some _) => if ok then s.domAtMod d (fun x => { x with qualified := true }) else switchEnd d rcHwFault s
    | some _ => s
    | none =>
      if !isReference d || x.state == .running || (d == 25 && s.boot.refclkFailed) then s
      else if !ok then (if d = 0 then raise 0x2243 s else s.domAtMod d (fun x => { x with state := .qualifying }))
      else if isFabricPll d then s.domAtMod d (fun x => { x with qualified := true, state := .qualifying })
      else
        let s := domRuns d 0 s
        if d = 25 then s.each ((List.range 64).filter onRefclkH) (fun i t =>
          t.domAtMod i (fun x => if x.state = .off then { x with state := .qualifying } else x)) else s
def execRefclkQualifyDone (dom : Fin 64) (counts : List Nat) (s : State) : Host.Outcome State Fault Refusal :=
  .next (refclkQualifyDoneF dom.val counts s)

/-- Bundles that a die sends on, or receives on (R427). -/
def bundlesAt (die : Nat) : List Nat := (List.range 76).filter (fun b => (bundleFrom b).1 / 32 == die || bundleTo b / 32 == die)

/-- Die of a network clock domain, none for another domain (R427). -/
def netDie (d : Nat) : Option Nat := if d = 3 then some 0 else if 4 ≤ d ∧ d ≤ 7 then some (d - 3) else none

/-- A bundle drains and its clock stops for a switch of a network clock (R437). -/
def bundleHold (b : Nat) (s : State) : State :=
  s.bundleAtMod b (fun x =>
    if x.works then { x with state := .asleep, wasHalf := x.state == .half, clkStop := true } else if x.state = .asleep then { x with clkStop := true } else x)

/-- It relocks after the switch (R437), unless its rung keeps it stopped (R284). -/
def bundleFree (b : Nat) (s : State) : State :=
  s.bundleAtMod b (fun x =>
    if x.state = .asleep ∧ x.clkStop ∧ x.slept = 0 then { x with state := if x.wasHalf then .half else .full, clkStop := false } else { x with clkStop := false })

/-- `PLL_LOCK` (R429, R436): a domain's PLL locks on a reference that has passed: the domain starts, or a switch makes its first divider step,
which is the commit point of CLK_SWITCH, and before it the bundles of a network clock drain (R437). -/
def pllLockF (d : Nat) (s : State) : State :=
  let x := s.domAt d
  if s.mode == .greenware || d == 0 || d == 8 || (21 ≤ d && d ≤ 25) || !s.refPassed d then s
  else match x.ramp with
    | some (src, 0, some id) =>
      let s := (s.domAtMod d (fun x => { x with state := .ramping, ramp := some (src, 1, some id) }))
      let s := match netDie d with | some e => s.each (bundlesAt e) bundleHold | none => s
      cmdMod id (fun c => { c with committed := true }) s
    | some _ => s
    | none => if x.state = .off ∨ x.state = .qualifying then domRuns d 0 s else s
def execPllLock (dom : Fin 64) (s : State) : Host.Outcome State Fault Refusal := .next (pllLockF dom.val s)

/-- `AOSC_QUALIFIED` (R430): the AO domain starts. AOSC runs whatever the mode. -/
def aoscQualifiedF (s : State) : State :=
  let s := s.onClk (fun c => { c with aoscOk := true })
  if (s.domAt 0).state = .off then domRuns 0 0 s else s
def execAoscQualified (s : State) : Host.Outcome State Fault Refusal := .next (aoscQualifiedF s)

/-- The open session loads through the clocks of domain d (R225). -/
def State.sessionUses (s : State) (d : Nat) : Bool :=
  match s.cfg.session with
  | none => false
  | some x => !x.verified && (d == 3 || (4 ≤ d && d ≤ 7 &&
      (if hPartial x.hdr then (match x.region with | some r => (s.regionAt r.val).die.toNat == d - 3 | none => false) else (hDies x.hdr).testBit (d - 4))))

/-- A failure is signalled (R401, R432, R467): the ALERT latch sets whatever `alert_mask` holds, and the device wakes from L1 to L4. -/
def clkSignal (code : Nat) (s : State) : State :=
  let s := s.onMgr (fun m => if m.alertLatch then m else { m with alertLatch := true, firstCode := BitVec.ofNat 16 code })
  s.when (s.mode == .resting && decide ((s.pdomAt 0).rung.toNat ≤ 4)) (wake 6)

/-- Every XM lane goes to electrical idle, span ports and PCIe links go down (R433, R450). -/
def xmDown (s : State) : State :=
  let s := s.each (List.range 48) (fun n => State.laneAtMod (laneOf 0 n) Lane.idle)
  pcieDown 1 (pcieDown 0 (s.each (List.range 12) (fun k t => if (t.portAt k).state == .disabled then t else spanDown k t)))

/-- The XL quads of compute die n, 1 to 4, go to electrical idle (R433). -/
def xlDown (n : Nat) (s : State) : State := s.each [0, 1] (quadIdle n)

/-- What the failure of a domain does beside its own clock (R225, R282, R433): that of a forwarded clock disables its bundle, and at a boundary of H fences the die
(log 96). -/
def clkEffect (d bundle : Nat) (s : State) : State :=
  let s := s.when (s.sessionUses d) (sessMod (fun x => { x with paused := true }))
  if d = 3 then s.each ((bundlesAt 0).filter (fun b => (bundleFrom b).1 / 32 == 0)) startRecovery
  else if 4 ≤ d ∧ d ≤ 7 then fenceDie (d - 3) 1 s
  else if d = 8 then
    let s := disableBundle bundle s
    s.when (decide (3 ≤ bundleBnd bundle)) (fenceDie (bndFollower (bundleBnd bundle)) 1)
  else if 9 ≤ d ∧ d ≤ 20 then (if (s.ddrAt (d - 9)).state == .inService || (s.ddrAt (d - 9)).state == .selfRefresh then channelDown (d - 9) s else s)
  else if 21 ≤ d ∧ d ≤ 24 then xlDown (d - 20) s
  else if d = 25 then xmDown s
  else s

/-- Notices of a failure (R432 to R434). -/
def clkNotices (d : Nat) (stopped : Bool) : List Nat :=
  (if d = 0 then [0x2243] else if 21 ≤ d ∧ d ≤ 24 then [] else [0x2240]) ++ (if stopped then [0x3241] else [])

/-- `CLOCK_FAIL` (R225, R431 to R434, R437): the monitor of a running domain detects a failure. `bundle` names the bundle of a forwarded clock. -/
def clockFailF (d bundle : Nat) (s : State) : State :=
  let x := s.domAt d
  let runs := d == 8 || x.state == .running || x.state == .ramping || x.state == .fallback
  if s.mode == .greenware || !runs then s
  else
    let s := switchEnd d rcHwFault s
    let stops := hasFallback d && (s.clk.ioscFailed || x.state == .fallback || (x.state == .ramping && x.src == 2))
    let s := s.domAtMod d (fun x => { x with
      fail := true, fails := satInc x.fails
      state := if d = 0 then x.state else if stops then .stopped else if hasFallback d then .ramping else if d = 8 then x.state else .stopped
      src := if hasFallback d && !stops then 2 else x.src
      qualified := if isReference d then false else x.qualified
      ramp := if hasFallback d && !stops then some (2, 5, none) else none })
    let s := s.each (clkNotices d stops) (raiseFrom ((netDie d).getD (if 26 ≤ d ∧ d ≤ 57 then (d - 26) / 8 + 1 else 0)))
    clkSignal (if d = 0 then 0x2243 else if 21 ≤ d ∧ d ≤ 24 then 0x3C03 else 0x2240) (clkEffect d bundle s)
def execClockFail (dom : Fin 64) (bundle : Fin 76) (s : State) : Host.Outcome State Fault Refusal := .next (clockFailF dom.val bundle.val s)

/-- `IOSC_FAIL` (R403, R434): fatal if any domain runs on a fallback; otherwise monitoring moves to AO. -/
def ioscFailF (s : State) : State :=
  if s.mode == .greenware || s.clk.ioscFailed then s
  else if (List.range 64).any (fun d => let x := s.domAt d; x.state == .fallback || (x.state == .ramping && x.src == 2)) then fatal 0x4242 s
  else raise 0x2244 (s.onClk (fun c => { c with ioscFailed := true }))
def execIoscFail (s : State) : Host.Outcome State Fault Refusal := .next (ioscFailF s)

/-- Lanes whose reference is back bring up their ports again (R435). -/
def lanesBack (d : Nat) (s : State) : State :=
  if d = 25 then s.each ((List.range 12).filter (fun k => (s.portAt k).state != .disabled)) spanEnable
  else
    let n := d - 20
    s.each ([0, 1].filter (fun q => (s.secAt (quadOwners (n - 1) q).1).state == .running)) (fun q t => enableQuad n q t)

/-- `REFCLK_REQUAL_TIMER` (R429, R435): MGR qualifies a failed reference again. Domains on a fallback stay there. -/
def refclkRequalTimerF (d : Nat) (counts : List Nat) (s : State) : State :=
  let x := s.domAt d
  if s.mgrStopped || !isReference d || x.qualified || x.fails = 0 || !s.countsPass d x.tol counts then s
  else if isFabricPll d then s.domAtMod d (fun x => { x with qualified := true })
  else if d = 0 then s.domAtMod 0 (fun x => { x with qualified := true })
  else lanesBack d (domRuns d 0 s)
def execRefclkRequalTimer (dom : Fin 64) (counts : List Nat) (s : State) : Host.Outcome State Fault Refusal :=
  .next (refclkRequalTimerF dom.val counts s)

/-- `CLK_SWITCH` (R436): the new source is qualified; the fallback synthesiser needs no qualification, and is not to be had once IOSC has
failed (R434). -/
def clkSwitchF (id : CmdId) (s : State) : State :=
  startCmd id 0x50 (fun c s =>
    let d := (c.p 0).toNat; let src := (c.p 1).toNat
    require (d < 64 && hasFallback d && src < 3 && (src != 1 || isFabricPll d)) rcBadParam c (fun s =>
      let x := s.domAt d
      if x.ramp.isSome then finish c rcBusy [] s
      else if x.src.toNat = src ∧ (x.state = .running ∨ x.state = .fallback) then finish c rcOk [] s
      else if src = 2 ∧ s.clk.ioscFailed then finish c rcHwFault [] s
      else s.domAtMod d (fun x => { x with ramp := some (BitVec.ofNat 2 src, 0, some id), qualified := src == 2 })) s) s
def execClkSwitch (c : CmdId) (s : State) : Host.Outcome State Fault Refusal := .next (clkSwitchF c s)

/-- `CLK_RAMP_STEP` (R225, R432, R436, R437): a divider step has been held. Steps 1 to 4 divide the old source by 2 to 16 and steps 5 to 8 the new
one by 16 to 2; the domain then runs undivided, and the bundles of a network clock relock. -/
def clkRampStepF (d : Nat) (s : State) : State :=
  match (s.domAt d).ramp with
  | none => s
  | some (src, n, cmd) =>
    if n = 0 then s
    else if n < 8 then
      s.domAtMod d (fun x => { x with ramp := some (src, n + 1, cmd), src := if 4 ≤ n then src else x.src })
    else
      let s := switchEnd d rcOk (domRuns d src s |> State.domAtMod d (fun x => { x with ramp := some (src, n, cmd) }))
      let s := s.domAtMod d (fun x => { x with ramp := none })
      let s := match netDie d with | some e => s.each (bundlesAt e) bundleFree | none => s
      s.when (src == 2 && s.sessionUses d && (match s.cfg.session with | some x => x.paused | none => false))
        (State.onCfg (fun c => { c with decision := true }))
def execClkRampStep (dom : Fin 64) (s : State) : Host.Outcome State Fault Refusal := .next (clkRampStepF dom.val s)

/-- `TB_CONFIG` (R439): a change of mode keeps the position and clears `lock`. -/
def tbConfigF (id : CmdId) (s : State) : State :=
  startCmd id 0x51 (fun c s =>
    require (onlyBits (c.p 0) 7 && onlyBits (c.p 1) 0xFFFF && decide ((c.p 0).toNat ≤ 4)) rcBadParam c (fun s =>
      let m := BitVec.ofNat 3 (c.p 0).toNat
      finish c rcOk [] (s.onClk (fun k =>
        let k := { k with prescale := BitVec.ofNat 16 (c.p 1).toNat }
        if k.mode = m then k
        else { k with mode := m, lock := false, acc := 0, intervals := [], upd := if m = 0 ∨ m = 4 then 0x00640000 else k.upd })).nextFree) s) s
def execTbConfig (c : CmdId) (s : State) : Host.Outcome State Fault Refusal := .next (tbConfigF c s)

/-- The device follows the span link's timebase and ignores its pins (R322). -/
def State.tbFollows (s : State) : Bool := fld (s.reg 0 (blkSpn + 8)) 31 30 == 2

/-- A tick has moved the position: the phase restarts, and the entries that are due run; backward motion never runs one (R438, R441, R443). -/
def tbTicked (back : Bool) (pos : BitVec 48) (s : State) : State :=
  let s := (s.onClk (fun c => { c with pos := pos, dir := back, stale := false })).nextFree
  if back then s else calFireAll s

/-- A timebase input error (R440). -/
def tbError (s : State) : State := raise 0x2246 (s.onClk (fun c => { c with inErr := satInc c.inErr }))

/-- A tick or line interval is learnt (R439): `upd` is the mean of the last 16. -/
def tbLearn (interval : Word) (c : Clk) : Clk :=
  let l := (interval :: c.intervals).take 16
  let mean := wd (l.foldl (fun n x => n + x.toNat) 0 / l.length)
  { c with intervals := l, upd := mean, lock := c.lock || l.length == 16 }

/-- One sample of the pins in modes 0x1 to 0x4, or one period of the local clock in mode 0x0 and on a follower (R439, R440, R441). A leading B
counts forward in quadrature mode. -/
def tbTickF (a b : Bool) (interval : Word) (s : State) : State :=
  if !s.tbRuns then s
  else if s.tbFollows then tbTicked false (s.clk.pos + 1) s
  else
    let pa := s.clk.pinA; let pb := s.clk.pinB
    let rise := a && !pa
    let per : Int := s.clk.prescale.toNat + 1
    let s := s.onClk (fun c => { c with pinA := a, pinB := b })
    match s.clk.mode.toNat with
    | 0 => tbTicked false (s.clk.pos + 1) (s.onClk (fun c => { c with lock := true }))
    | 1 =>
      if !rise then s
      else if s.clk.acc + 1 < per then s.onClk (fun c => { c with acc := c.acc + 1 })
      else tbTicked false (s.clk.pos + 1) (s.onClk (fun c => tbLearn interval { c with acc := 0 }))
    | 2 =>
      if a != pa && b != pb then tbError s
      else if a == pa && b == pb then s
      else
        let up := if a != pa then a != b else a == b
        let n : Int := s.clk.acc + (if up then 1 else -1)
        if n.natAbs < per then s.onClk (fun c => { c with acc := n })
        else tbTicked (n < 0) (if n < 0 then s.clk.pos - 1 else s.clk.pos + 1) (s.onClk (fun c => tbLearn interval { c with acc := 0 }))
    | 3 =>
      if !rise then s
      else
        let s := s.onClk (tbLearn interval)
        if s.clk.pos.toNat % 65536 = 65535 then tbError s else tbTicked false (s.clk.pos + 1) s
    | 4 => if rise then tbTicked false (s.clk.pos + 1) (s.onClk (fun c => { c with lock := true })) else s
    | _ => s
def execTbTick (a b : Bool) (interval : Word) (s : State) : Host.Outcome State Fault Refusal := .next (tbTickF a b interval s)

/-- `TB_INDEX` (R439): a rising TB_Z in quadrature mode latches the position. -/
def tbIndexF (s : State) : State :=
  if s.tbRuns && s.clk.mode == 2 && !s.tbFollows then s.onClk (fun c => { c with index := c.pos }) else s
def execTbIndex (s : State) : Host.Outcome State Fault Refusal := .next (tbIndexF s)

/-- `TB_FRAME_PULSE` (R439): a frame pulse adds 1 to position [47:16] and clears [15:0]. -/
def tbFramePulseF (s : State) : State :=
  if s.tbRuns && s.clk.mode == 3 && !s.tbFollows then tbTicked false (BitVec.ofNat 48 ((s.clk.pos.toNat / 65536 + 1) * 65536)) s else s
def execTbFramePulse (s : State) : Host.Outcome State Fault Refusal := .next (tbFramePulseF s)

/-- `TB_PPS_EDGE` (R324, R439 to R441): the position goes to the nearest multiple of 10^7; more than one cycle away is an input error, except at
the first edge after a wake. Halfway between two multiples a free value decides. -/
def tbPpsEdgeF (s : State) : State :=
  if !(s.tbRuns && s.clk.mode == 4 && !s.tbFollows) then s
  else
    let p := s.clk.pos.toNat; let r := p % 10000000
    let (b, s) := s.take 1
    let up := decide (5000000 < r) || (r == 5000000 && b == 1)
    let q := if up then p - r + 10000000 else p - r
    let far := decide (1 < absDiff q p) && !s.clk.ppsFirst
    let s := s.onClk (fun c => { c with pos := BitVec.ofNat 48 q, ppsFirst := false })
    let s := s.when (decide (p < q)) (calFireStep (q - p))
    s.when far tbError
def execTbPpsEdge (s : State) : Host.Outcome State Fault Refusal := .next (tbPpsEdgeF s)

/-- Position [47:32] with the phase above it (`TBC_POS_HI`). -/
def State.posHi (s : State) : Word := wd (s.phase * 65536 + s.clk.pos.toNat / 2 ^ 32)

/-- A read of `TBC_POS_LO` (R14): an ordinary one latches `TBC_POS_HI`. -/
def tbcPosLoRead (insp : Bool) (s : State) : Word × State :=
  (wd s.clk.pos.toNat, if insp then s else (s.onClk (fun c => { c with latHi := s.posHi })).nextFree)
/-- `TBC_POS_LO` (R14). -/
def execTbcPosLo (insp : Bool) (s : State) : Host.Outcome State Fault Refusal := .next (State.readTo (tbcPosLoRead insp s))

/-- A read of `TBC_STATUS` (R11): an ordinary one clears `in_err`. -/
def tbcStatusRead (insp : Bool) (s : State) : Word × State :=
  let c := s.clk
  (wd (c.inErr.toNat * 65536 + b2n c.stale * 16 + b2n c.quiet * 8 + b2n c.dir * 4 + b2n c.lock * 2),
   if insp then s else s.onClk (fun c => { c with inErr := 0 }))
/-- `TBC_STATUS` (R11). -/
def execTbcStatus (insp : Bool) (s : State) : Host.Outcome State Fault Refusal := .next (State.readTo (tbcStatusRead insp s))

/-- The four words of a calendar entry (`TBC_CAL_ENT`). -/
def CalEnt.words (x : CalEnt) : List Word :=
  [wd x.t.toNat, wd (b2n x.armed * 2 ^ 31 + x.missed.toNat * 65536 + x.t.toNat / 2 ^ 32), wd (x.action.toNat * 2 ^ 24 + x.arg.toNat), x.interval]

/-- A read of word 1 of `TBC_CAL_ENT` (R11): an ordinary one clears `missed`. -/
def tbcCalEntRead (e : Nat) (insp : Bool) (s : State) : Word × State :=
  (wordAt (s.calAt e).words 1, if insp then s else s.calAtMod e (fun x => { x with missed := 0 }))
/-- `TBC_CAL_ENT` (R11). -/
def execTbcCalEnt (e : Fin 256) (insp : Bool) (s : State) : Host.Outcome State Fault Refusal := .next (State.readTo (tbcCalEntRead e.val insp s))

/-- `CAL_SET` (R442): an entry is armed. -/
def calSetF (id : CmdId) (s : State) : State :=
  startCmd id 0x52 (fun c s =>
    let code := fld (c.p 3) 31 24; let arg := fld (c.p 3) 23 0
    require (decide ((c.p 0).toNat < 256) && onlyBits (c.p 2) 0xFFFF && calActionOk code arg) rcBadParam c (fun s =>
      finish c rcOk [] (s.calAtMod (c.p 0).toNat (fun x => { x with
        t := BitVec.ofNat 48 ((c.p 1).toNat + (c.p 2).toNat * 2 ^ 32), armed := true, action := BitVec.ofNat 8 code, arg := BitVec.ofNat 24 arg, interval := c.p 4 }))) s) s
def execCalSet (c : CmdId) (s : State) : Host.Outcome State Fault Refusal := .next (calSetF c s)

/-- `CAL_CLEAR` (R442): one entry, or every entry, is disarmed. -/
def calClearF (id : CmdId) (s : State) : State :=
  startCmd id 0x53 (fun c s =>
    let e := (c.p 0).toNat
    require (decide (e < 256) || e == 0xFFFF) rcBadParam c (fun s =>
      let off (x : CalEnt) : CalEnt := { x with armed := false }
      finish c rcOk [] (if e = 0xFFFF then s.onClk (fun k => { k with cal := smap {} k.cal (fun _ => off) }) else s.calAtMod e off)) s) s
def execCalClear (c : CmdId) (s : State) : Host.Outcome State Fault Refusal := .next (calClearF c s)

/-- `CAL_STATUS` (R442): the entry's words, then the position and phase. -/
def calStatusF (id : CmdId) (s : State) : State :=
  startCmd id 0x54 (fun c s =>
    require (decide ((c.p 0).toNat < 256)) rcBadParam c (fun s =>
      (finish c rcOk ((s.calAt (c.p 0).toNat).words ++ [wd s.clk.pos.toNat, s.posHi]) s).nextFree) s) s
def execCalStatus (c : CmdId) (s : State) : Host.Outcome State Fault Refusal := .next (calStatusF c s)

/-- `CAL_ENTRY_DUE` (R443): an entry that is due runs. -/
def calEntryDueF (e : Nat) (s : State) : State := if s.tbRuns then calFire e s else s
def execCalEntryDue (e : Fin 256) (s : State) : Host.Outcome State Fault Refusal := .next (calEntryDueF e.val s)

end Sys2Proof.Machine
end

