-- ==== Sys2Proof/Machine/Pwr.lean ====
section
/-! DEFINITION. Rails, votes, the rungs of the power domains, and wake. File 20. -/

namespace Sys2Proof.Machine

/-- Bit of a rail in `PWR_RAIL.good`. -/
def railBit : Rail → Nat
  | .vddAo => 0 | .vaux => 1 | .vccH => 2 | .vccC => 3 | .xm => 4 | .xl => 5 | .vbatt => 6

/-- Set or clear a rail in `PWR_RAIL`; a rail that leaves its range is remembered in `low_seen`. -/
def railSet (r : Rail) (good : Bool) (s : State) : State :=
  s.onPwr (fun p => { p with good := setBit p.good (railBit r) good, lowSeen := if good then p.lowSeen else setBit p.lowSeen (railBit r) true })

/-- Loss of VDD_AO (R405, R450): a power-on reset, and the always-on island is lost; the battery-backed key is lost with it when VBATT is
absent (R199). -/
def powerOnReset (s : State) : State :=
  let vb := s.pwr.good.getLsbD 6
  let s := greenware 1 s
  let s := { s with ao := { resetCause := 1 } }
  let s := s.onClk (fun c => { c with aoscOk := false })
  if vb then s else s.onFuses (fun f => { f with bbram := none, bbramLost := f.bbram.isSome || f.bbramLost })

/-- `RAIL_LOSS` (R199, R433, R450, R451): a monitored rail leaves its range. While SLP_N is low the integrator may remove the rails other than
VDD_AO and VBATT. -/
def railLossF (r : Rail) (s : State) : State :=
  if !s.pwr.good.getLsbD (railBit r) then s
  else
    let quiet := s.mode == .greenware || s.pwr.slpLow
    match r with
    | .vddAo => powerOnReset s |> State.onPwr (fun p => { p with good := setBit p.good 0 false })
    | .vaux | .vccH =>
      if s.pwr.slpLow then railSet r false s
      else railSet r false (if s.mode == .greenware then s.onBoot (fun b => { b with hubGood := false }) else greenware 2 s)
    | .vccC =>
      let s := railSet r false s
      if quiet then s
      else
        let (c, s) := s.take 4
        (raiseD 0 0x2280 (wd (railBit r)) 0 s).each [1, 2, 3, 4] (fun d => fenceDie d c.toNat)
    | .xm => let s := railSet r false s; if quiet then s else xmDown (raiseD 0 0x2280 (wd (railBit r)) 0 s)
    | .xl => let s := railSet r false s; if quiet then s else (raiseD 0 0x2280 (wd (railBit r)) 0 s).each [1, 2, 3, 4] xlDown
    | .vbatt =>
      let s := s.onPwr (fun p => { p with good := setBit p.good 6 false })
      if s.pwr.good.getLsbD 0 then s else s.onFuses (fun f => { f with bbram := none, bbramLost := f.bbram.isSome || f.bbramLost })
def execRailLoss (r : Rail) (s : State) : Host.Outcome State Fault Refusal := .next (railLossF r s)

/-- `RAIL_GOOD` (R70, R435, R450): a rail is back in range. Fenced compute dies rejoin with VCC_C, lanes come back with the XL and XM rails. -/
def railGoodF (r : Rail) (s : State) : State :=
  if s.pwr.good.getLsbD (railBit r) then s
  else
    let s := railSet r true s
    if s.mode == .greenware then s
    else match r with
      | .vccC => s.each ([1, 2, 3, 4].filter (fun d => (s.dieAt d).dstate == 3 && s.clocksBack d)) (fun d t => rejoinStart d (clocksReturn d t))
      | .xm => lanesBack 25 s
      | .xl => s.each [21, 22, 23, 24] lanesBack
      | .vddAo | .vaux | .vccH | .vbatt => s
def execRailGood (r : Rail) (s : State) : Host.Outcome State Fault Refusal := .next (railGoodF r s)

/-- `VDD_AO_DIP` (R492): a dip below 1.62 V for 1 us or longer is a power-on reset; a shorter one has no effect. -/
def vddAoDipF (mv ns : Nat) (s : State) : State := if mv < 1620 ∧ 1000 ≤ ns then powerOnReset s else s
def execVddAoDip (mv ns : Nat) (s : State) : Host.Outcome State Fault Refusal := .next (vddAoDipF mv ns s)

/-- `BROWN_OUT` (R405, R452): the always-on regulator is overdrawn in low-power mode, L5 to L7. The recorded cause survives the reset. -/
def brownOutF (s : State) : State := if 5 ≤ (s.pdomAt 0).rung.toNat then greenware 6 s else s
def execBrownOut (s : State) : Host.Outcome State Fault Refusal := .next (brownOutF s)

/-- `floor` of a domain (settings words 28 and 29); 8 to 15 act as 0. -/
def State.floor (s : State) (d : Nat) : Nat :=
  let v := if d < 8 then fld (s.setting 28) (4 * d + 3) (4 * d) else fld (s.setting 29) (4 * (d - 8) + 3) (4 * (d - 8))
  if v < 8 then v else 0

/-- MGR holds L0 on a compute domain while a session, an open region or a CAPTURE names the die (R458). -/
def State.mgrHolds (s : State) (d : Nat) : Bool :=
  1 ≤ d && d ≤ 4 &&
    ((List.range 16).any (fun r => s.regionOpen r && (s.regionAt r).die.toNat == d)
    || (match s.cfg.session with | some x => !hPartial x.hdr && (hDies x.hdr).testBit (d - 1) | none => false)
    || s.cfg.captures.any (fun k => k.die.val + 1 == d))

/-- Votes that answers of followers left with the MGR client, by domain (R284): on HUB for a boundary of H, on both dies for one between compute
dies. -/
def State.bndVotes (s : State) (d : Nat) : List Nat :=
  (List.range 9).filterMap (fun k =>
    let mine := if 3 ≤ k then d == 0 else d == k + 1 || d == k + 2
    if mine then (s.bndAt k).pwrVote.map BitVec.toNat else none)

/-- The MGR client's vote; 15 for none (R458). -/
def State.mgrVote (s : State) (d : Nat) : Nat :=
  ((if s.mgrHolds d then [0] else []) ++ s.bndVotes d).foldl min (s.pdomAt d).mgr.toNat

/-- Deepest rung a guest offers on its CAP page 3 (R277, R456). No page 3 has come from a site that holds a terminator or has not joined: such a
site sets no bound (log 115). -/
def State.guestDeepest (s : State) (d : Nat) : Nat :=
  let b := s.bndAt (hubBnd d)
  if b.capF.getLsbD 3 then (List.range 8).foldl (fun n i => if bit (sget 0 b.caps 3) i then i else n) 0 else 7

/-- Settled rung of a domain (R456). -/
def State.settled (s : State) (d : Nat) : Nat :=
  let p := s.pdomAt d
  let vs := [s.mgrVote d, p.host.toNat, p.fab.toNat, p.dbg.toNat, p.cal.toNat].filter (fun v => v < 8)
  let vs := if d = 5 ∨ d = 6 then vs.map (fun v => min v (s.guestDeepest d)) else vs
  match vs with
  | [] => s.floor d
  | v :: vs => vs.foldl min v

/-- The shallowest settled rung of all domains. -/
def State.settledMin (s : State) : Nat := ((List.range 10).map s.settled).foldl min 7

/-- Effective rung that the votes give a domain (R457); L6 without a warm image settles as L5 (R464). -/
def State.target (s : State) (d : Nat) : Nat :=
  if s.mode != .glazed && s.mode != .resting then 0
  else if 5 ≤ s.settledMin then (if s.settledMin = 6 ∧ !s.pwr.warmHeld then 5 else s.settledMin)
  else
    let e (i : Nat) : Nat := min (s.settled i) 4
    if d = 0 ∨ d = 8 then ((List.range 10).map e).foldl min 4 else e d

/-- Boundaries that a domain's move is announced on (R284). -/
def domainBnds (d : Nat) : List Nat := if d = 0 then [3, 4, 5, 6, 7, 8] else if d ≤ 6 then dieBnds d else []

/-- Initiator ports of a domain (R460). -/
def domainPorts (d : Nat) : List Nat := partIports.filter (fun p => portDomain p == d)

/-- `PWR_DOMAIN_MOVE` (R284, R399, R457, R460, R464): a domain whose effective rung changes begins to move; for a deeper rung PWR_REQ is sent on
its boundaries. HUB moves to L4 or deeper only after MGR has written back every buffered notice. -/
def pwrDomainMoveF (d : Nat) (s : State) : State :=
  let p := s.pdomAt d; let t := s.target d
  if s.mode == .greenware || t == (p.moving.getD p.rung).toNat || (d == 0 && decide (4 ≤ t) && !s.mgr.kiln.isEmpty) then s
  else
    let low := s.settledMin == 6 && !s.pwr.warmHeld && !s.pwr.l6Noticed && (s.mode == .glazed || s.mode == .resting)
    let s := s.when low (fun s => raise 0x2282 (s.onPwr (fun q => { q with l6Noticed := true })))
    let s := s.pdomAtMod d (fun q => { q with moving := some (BitVec.ofNat 4 t) })
    if t ≤ p.rung.toNat then s
    else s.each ((domainBnds d).filter (fun k => (s.bndAt k).step == 11 && (s.bndAt k).leader.up)) (fun k t' =>
      sbSend k true 0x20 0xF 0 t (t'.bndAtMod k (fun b => { b with pwrReq := some (BitVec.ofNat 8 t) })))
def execPwrDomainMove (dom : Fin 10) (s : State) : Host.Outcome State Fault Refusal := .next (pwrDomainMoveF dom.val s)

/-- A domain is on its way to a deeper rung. -/
def PDom.sinking (p : PDom) : Bool := match p.moving with | some t => p.rung < t | none => false

/-- `PWR_DRAIN_TIMEOUT` (R395, R460, step 1 of R468): what is still outstanding 1 ms into a move, or into Cooling, ends with TIMEOUT in its order slot. -/
def pwrDrainTimeoutF (d : Nat) (s : State) : State :=
  if (s.pdomAt d).sinking || s.mode == .cooling then
    s.each (domainPorts d) (fun p t => retire p (t.each ((t.iportAt p).out.filter (fun o => o.rsp.isNone)) (timeoutTxn p)))
  else s
def execPwrDrainTimeout (dom : Fin 10) (s : State) : Host.Outcome State Fault Refusal := .next (pwrDrainTimeoutF dom.val s)

/-- Running sectors of compute die d whose state is not retained (R463). -/
def State.looseSecs (s : State) (d : Nat) : List Nat :=
  ((List.range 192).filter (fun i => !(sget 0 s.pwr.retain (d - 1)).getLsbD i)).map (fun i => (d - 1) * 192 + i)

/-- Sectors lose flip-flops, SDU state and memory contents (R105, R128, R163, R463). -/
def loseSecs (ns : List Nat) (s : State) : State :=
  let p (n : Nat) : Bool := ns.contains n
  let s := dropCapture p (loseSdus p (initMems p s))
  s.each (ns.filter (fun n => (s.secAt n).state == .running)) (fun n => State.secAtMod n (fun x => { x with inReset := true }))

/-- A compute die takes a deeper rung `t` from `r` (R105, R128, R307, R462, R463). -/
def cmpSinks (d r t : Nat) (s : State) : State :=
  let s := s.when (r == 0) (holdPads (fun n => n / 6 + 1 == d))
  let s := s.when (decide (r < 2) && decide (2 ≤ t) && s.present d) (holdBridge d)
  let s := s.when (decide (r < 3) && decide (3 ≤ t)) (fun s =>
    (loseSecs (s.looseSecs d) s).each (List.range 8) (fun i => State.laneAtMod (laneOf d i) Lane.idle))
  s.when (decide (r < 6) && decide (6 ≤ t)) (fun s =>
    let s := blankSectors (fun n => n / 192 == d - 1) { s with bank := smap {} s.bank (fun n q => if n / 6 + 1 = d then { q with enabled := false } else q) }
    let s := s.each (List.range 192) (fun i => State.secAtMod ((d - 1) * 192 + i) (fun x => { ({} : Sector) with state := if x.state == .unavailable then .unavailable else .blank }))
    s.onPwr (fun p => { p with retain := sput 0 p.retain (d - 1) 0 }))

/-- A compute die takes a shallower rung: sectors that lost their state take `init` through the region reset, and lanes train again (R105, R307,
R463). -/
def cmpRises (d r t : Nat) (s : State) : State :=
  s.when (decide (3 ≤ r) && decide (t < 3) && decide (r < 6)) (fun s =>
    let s := s.each (((List.range 192).map (fun i => (d - 1) * 192 + i)).filter (fun n => (s.secAt n).state == .running && (s.secAt n).inReset)) releaseSec
    s.each ([0, 1].filter (fun q => (s.secAt (quadOwners (d - 1) q).1).state == .running)) (enableQuad d))

/-- The application cluster goes off (R410, R462): its dirty lines are written back, and its harts and their watchdogs start anew on wake. -/
def apcOff (s : State) : State :=
  (cacheEmpty (fun _ => true) cacheBack s).each (List.range 8) (fun h t => (t.hartAtMod h (fun x => { resets := x.resets })).wdtAtMod h
    (fun w => { w with en := false, left := 0, expired := false, frozen := false }))

/-- The DDR channels take a deeper rung (R351): write buffers drain, then self-refresh; at L7 contents are lost. -/
def ddrSinks (r t : Nat) (s : State) : State :=
  let s := s.when (decide (r < 4) && decide (4 ≤ t)) (fun s => s.each (List.range 12) (fun c t =>
    if (t.ddrAt c).state == .inService then (drainTo c 0 64 0 t).ddrAtMod c (fun x => { x with state := .selfRefresh }) else t))
  s.when (t == 7) (fun s => { s with ddr := {} })

/-- The PCIe domain takes a deeper rung (R307, R462, R496): the links go to L1, and at L5 down. -/
def pcieSinks (t : Nat) (s : State) : State :=
  let l1 (x : Pcie) : Pcie := if x.up then { x with inL1 := true, ltssm := Config.ltssm 2 } else x
  if t < 5 then s.onXcvr (fun x => { x with pcie0 := l1 x.pcie0, pcie1 := l1 x.pcie1 })
  else (pcieDown 1 (pcieDown 0 s)).each ((List.range 32).filter (fun n => (s.pcieOwner n).isSome)) (fun n => State.laneAtMod (laneOf 0 n) Lane.idle)

/-- HUB takes a deeper rung (R328, R390, R441, R451, R462, R466). -/
def hubSinks (r t : Nat) (s : State) : State :=
  let s := s.when (decide (r < 3) && decide (3 ≤ t)) (fun s =>
    s.each ((List.range 12).filter (fun k => (s.portAt k).state != .disabled)) (fun k t =>
      (spanDown k t).each (List.range 4) (fun i => State.laneAtMod (laneOf 0 (4 * k + i)) Lane.idle)))
  let s := s.when (decide (r < 5) && decide (5 ≤ t)) (fun s => { s with wds := s.wds.emptied, clk := { s.clk with stale := true } })
  s.when (decide (6 ≤ t)) (State.onPwr (fun p => { p with watchNow := p.watch }))

/-- HUB takes a shallower rung (R328, R399, R441, R464). -/
def hubRises (r t : Nat) (s : State) : State :=
  let s := s.when (decide (3 ≤ r) && decide (t < 3)) (fun s => s.each ((List.range 12).filter (fun k => s.span.portEn.getLsbD k)) spanEnable)
  let s := s.when (decide (5 ≤ r) && decide (t < 5)) (fun s =>
    ((s.onSpan (fun p => { p with firstMark := true })).onClk (fun c => { c with ppsFirst := c.mode == 4 })).onPwr (fun p => { p with l6Noticed := false }))
  let s := s.when (decide (6 ≤ r) && decide (t < 6)) (State.onCfg (fun c => { c with flashLoad := some .warm }))
  s.when (decide (4 ≤ r) && decide (t < 4)) aoTake

/-- A domain takes rung `t` from rung `r` (R462). -/
def domainTakes (d r t : Nat) (s : State) : State :=
  if r < t then
    if d = 0 then hubSinks r t s
    else if d ≤ 4 then cmpSinks d r t s
    else if d = 7 then s.when (decide (r < 3) && decide (3 ≤ t)) apcOff
    else if d = 8 then ddrSinks r t s
    else if d = 9 then pcieSinks t s
    else s
  else
    if d = 0 then hubRises r t s
    else if d ≤ 4 then cmpRises d r t s
    else if d = 8 then s.when (decide (4 ≤ r) && decide (t < 4)) (fun s => s.each (List.range 12) (fun c =>
      State.ddrAtMod c (fun x => if x.state = .selfRefresh then { x with state := .inService } else x)))
    else if d = 9 then s.when (t == 0) (State.onXcvr (fun x => { x with
      pcie0 := if x.pcie0.up then { x.pcie0 with inL1 := false, ltssm := Config.ltssm 1 } else x.pcie0
      pcie1 := if x.pcie1.up then { x.pcie1 with inL1 := false, ltssm := Config.ltssm 1 } else x.pcie1 }))
    else s

/-- A route from router `r` to `t` passes a router of die `d`. -/
def State.passes (s : State) (d t : Nat) : Nat → Nat → Bool
  | 0, _ => false
  | n + 1, r =>
    if r / 32 = d then true
    else match nbr r (s.route r t) with | some q => s.passes d t n q | none => false

/-- Routes of die `e` transit die `d` (R457 step 4). -/
def State.transits (s : State) (e d : Nat) : Bool :=
  e != d && (partRouters.filter (fun r => r / 32 == e)).any (fun r => (allRouters.filter (fun t => t / 32 != d && t / 32 != e)).any (fun t => s.passes d t 32 r))

/-- Rung of the routers and bundle ends of a die (R457 step 4). -/
def State.routerRung (s : State) (d : Nat) : Nat :=
  let own := (s.pdomAt d).rung.toNat
  if 1 ≤ d ∧ d ≤ 4 ∧ own ≠ 0 then ((([1, 2, 3, 4] : List Nat).filter (fun e => s.transits e d)).map (fun e => (s.pdomAt e).rung.toNat)).foldl min own
  else own

/-- Rung of a bundle: the shallower of those of its two ends (R284, R457). -/
def State.bundleRung (s : State) (b : Nat) : Nat := min (s.routerRung ((bundleFrom b).1 / 32)) (s.routerRung (bundleTo b / 32))

/-- A bundle takes a deeper rung (R284): from L3 on it is off, and only its lane map is kept. -/
def bundleSleep (r b : Nat) (s : State) : State :=
  s.bundleAtMod b (fun x =>
    if x.works then { (if r < 3 then x else x.fresh) with state := .asleep, wasHalf := x.state == .half, slept := r }
    else if x.state = .asleep then { (if r < 3 then x else { x.fresh with clkStop := x.clkStop }) with slept := max r x.slept }
    else x)

/-- A bundle goes on at its width after L1 or L2 (R284), unless a switch of its clock holds it (R437). -/
def bundleWake (b : Nat) (s : State) : State :=
  s.bundleAtMod b (fun x => if x.clkStop then { x with slept := 0 } else { x with state := if x.wasHalf then .half else .full, slept := 0 })

/-- The bundles of a boundary whose ends are back at L0 (R284): after L1 or L2 they go on; from L3 to L5 with feature [2] at both ends they pass steps 4 to 6 and 8
of the join again, with the lane map they kept; otherwise nothing was kept and the boundary joins in full, one between compute dies once a die has joined again. -/
def bndWake (k : Nat) (s : State) : State :=
  let bs := (bndBundles k).filter (fun b => (s.bundleAt b).state == .asleep && s.bundleRung b == 0)
  let deep := bs.foldl (fun n b => max n (s.bundleAt b).slept) 0
  if deep ≤ 2 then s.each bs bundleWake
  else if deep ≤ 5 ∧ s.feature k 2 then
    stepReport k ((s.each bs (fun b => State.bundleAtMod b (fun x => { x.fresh with state := .training }))).bndAtMod k (fun b =>
      { b with step := 4, retrain := true, syncL := false, syncF := false }))
  else
    let s := s.each (bndBundles k) (fun b t => (stopBundle .down b t).bundleAtMod b (fun x => { x with failed := 0 }))
    if 3 ≤ k then endBreak k false s else s.bndAtMod k (fun b => { b with step := 0 })

/-- Bundles follow the shallower of their two ends (R284, R457). -/
def bundlesFollow (s : State) : State :=
  let s := s.each ((List.range 76).filter (fun b => 0 < s.bundleRung b)) (fun b t => bundleSleep (t.bundleRung b) b t)
  s.each (List.range 9) bndWake

/-- The digest of each sector of the warm image matches (R464). -/
def State.warmOk (s : State) : Bool :=
  s.pwr.warmDigest.all (fun e => Config.sha384 (wordBytes ((s.pwr.warm.filter (fun f => f.1 / (607 * 256) == e.1)).map (·.2))) == e.2)

/-- The stream header that the warm reload acts under: every joined compute die, no compression and no DONE wait (R464). -/
def State.warmHeader (s : State) : List Word :=
  let dies := ([1, 2, 3, 4] : List Nat).foldl (fun n d => if (s.dieAt d).dstate = 2 then n + 2 ^ (d - 1) else n) 0
  (List.range 32).map (fun i => if i = 4 then wd (dies * 256) else 0)

/-- The warm reload of a wake from L6 (R210, R213, R464): the frames come from the warm image, and its digests are checked. -/
def warmReload (s : State) : State :=
  let h := s.warmHeader
  let img := s.pwr.warm
  let s := fullBegin (hDies h) s
  if !s.warmOk then flashFailed .warm rcCheckFail 0 s
  else
    let s := s.each (s.pwr.warmDigest.map (·.1)) warmWrite
    let x : Session := { owner := { t := .stream, tag := 0 }, hdr := h, image := some .warm, phase := .frames, wrote := img, frames := s.pwr.warmFrames, passed := true }
    sessVerified (s.onCfg (fun c => { c with session := some x }))

/-- The mode follows the device rung once no domain moves (R5, R457, R461); a wake from L6 enters Firing. -/
def modeFollows (s : State) : State :=
  if (s.mode != .glazed && s.mode != .resting) || (List.range 10).any (fun d => (s.pdomAt d).moving.isSome) then s
  else if 1 ≤ s.devRung then (if s.mode == .glazed then setMode .resting s else s)
  else if s.mode == .glazed then s
  else if s.cfg.flashLoad == some .warm then warmReload s
  else setMode .glazed s

/-- `PWR_MOVE_COMPLETE` (R5, R284, R451, R460 to R464): the domain has drained and its handshakes are answered, or its supply and exit time are over;
it is at its new rung. SLP_N goes low at the end of the entry to L7. -/
def pwrMoveCompleteF (d : Nat) (s : State) : State :=
  let p := s.pdomAt d
  match p.moving with
  | none => s
  | some t =>
    let busy := (domainPorts d).any (fun q => (s.iportAt q).out.any (fun o => o.rsp.isNone)) || (domainBnds d).any (fun k => (s.bndAt k).pwrReq.isSome)
    if s.mode == .greenware || (p.sinking && busy) then s
    else
      let s := s.pdomAtMod d (fun q => { q with rung := t, moving := none })
      let s := bundlesFollow (domainTakes d p.rung.toNat t.toNat s)
      let s := s.when (s.devRung == 7 && (List.range 10).all (fun i => (s.pdomAt i).moving.isNone)) (State.onPwr (fun p => { p with slpLow := true }))
      retryPorts (modeFollows s)
def execPwrMoveComplete (dom : Fin 10) (s : State) : Host.Outcome State Fault Refusal := .next (pwrMoveCompleteF dom.val s)

/-- `PWR_VOTE` (R458): the HOST vote of one domain, or of every domain. -/
def pwrVoteF (id : CmdId) (s : State) : State :=
  startCmd id 0x40 (fun c s =>
    let d := (c.p 0).toNat; let r := (c.p 1).toNat
    require ((decide (d < 10) || d == 0xFF) && (decide (r < 8) || r == 15)) rcBadParam c (fun s =>
      finish c rcOk [] (s.each (if d = 0xFF then List.range 10 else [d]) (fun i => State.pdomAtMod i (fun p => { p with host := BitVec.ofNat 4 r })))) s) s
def execPwrVote (c : CmdId) (s : State) : Host.Outcome State Fault Refusal := .next (pwrVoteF c s)

/-- Effective rung of a domain, as `PWR_DOM.eff` shows it (R457). -/
def State.eff (s : State) (d : Nat) : BitVec 4 := (s.pdomAt d).moving.getD (s.pdomAt d).rung

/-- `PWR_STATUS` (R50, `PWR_DOM.eff`). -/
def pwrStatusF (id : CmdId) (s : State) : State :=
  startCmd id 0x41 (fun c s =>
    let d := (c.p 0).toNat
    require (decide (d < 10) || d == 0xFFFF) rcBadParam c
      (finish c rcOk ((if d = 0xFFFF then List.range 10 else [d]).map (fun i => wd (s.eff i).toNat))) s) s
def execPwrStatus (c : CmdId) (s : State) : Host.Outcome State Fault Refusal := .next (pwrStatusF c s)

/-- `WATCH_SET` (R466): the parameters of the Watch rung, in force from the next entry to L6 or L7. -/
def watchSetF (id : CmdId) (s : State) : State :=
  startCmd id 0x42 (fun c s =>
    let ok := decide (10 ≤ (c.p 0).toNat) && onlyBits (c.p 0) 0xFFFF && onlyBits (c.p 1) 0xFFFF && onlyBits (c.p 2) 0x7F && onlyBits (c.p 3) 0xFFFF
      && onlyBits (c.p 4) 0xFFFFFF
    require ok rcBadParam c (fun s =>
      finish c rcOk [] (s.onPwr (fun p => { p with watch := (List.range 5).foldl (fun m i => sput 0 m i (c.p i)) [] }))) s) s
def execWatchSet (c : CmdId) (s : State) : Host.Outcome State Fault Refusal := .next (watchSetF c s)

/-- `CAL_PWR_VOTE` (R444, R445, R458): MGR takes the next power vote that the calendar passed to it. -/
def calPwrVoteF (dom : Byte) (rung : BitVec 4) (s : State) : State :=
  match s.clk.toMgr.find? (fun e => e.1 == 5) with
  | none => s
  | some e =>
    if e.2.toNat ≠ rung.toNat * 256 + dom.toNat then s
    else
      let d := dom.toNat
      (s.onClk (fun c => { c with toMgr := c.toMgr.erase e })).each (if d = 0xFF then List.range 10 else [d]) (fun i =>
        State.pdomAtMod i (fun p => { p with cal := rung }))
def execCalPwrVote (dom : Byte) (rung : BitVec 4) (s : State) : Host.Outcome State Fault Refusal := .next (calPwrVoteF dom rung s)

/-- `FAB_POWER_BEAT` (R459): a beat of a die's fabric power port, while the tile that drives it is clocked. -/
def fabPowerBeatF (die : Fin 4) (dom rung : BitVec 4) (s : State) : State :=
  if !s.clocked (tileSec die.val 32 0) then s
  else if 10 ≤ dom.toNat ∨ (8 ≤ rung.toNat ∧ rung.toNat ≠ 15) then s.onPwr (fun p => { p with fabErr := true })
  else s.pdomAtMod dom.toNat (fun p => { p with fab := rung })
def execFabPowerBeat (die : Fin 4) (dom rung : BitVec 4) (s : State) : Host.Outcome State Fault Refusal := .next (fabPowerBeatF die dom rung s)

/-- `PWR_MGR_CLR` (R458, R467): software withdraws wake votes of the MGR client. -/
def pwrMgrClrF (w : Word) (s : State) : State :=
  if !s.dbgLive then s
  else s.each ((List.range 10).filter (bit w)) (fun d => State.pdomAtMod d (fun p => if p.wakeVote then { p with mgr := 0xF, wakeVote := false } else p))
def execPwrMgrClr (w : Word) (s : State) : Host.Outcome State Fault Refusal := .next (pwrMgrClrF w s)

/-- `PWR_WARM_WRITE` (R464): the place of the warm image; `held` clears. -/
def pwrWarmWriteF (i : Nat) (v : Word) (s : State) : State :=
  if !s.dbgLive then s
  else s.onPwr (fun p =>
    let p := { p with warmHeld := false }
    match i with
    | 0 => { p with warmLo := v }
    | 1 => { p with warmHi := BitVec.ofNat 20 v.toNat }
    | _ => { p with warmSize := BitVec.ofNat 10 v.toNat })
def execPwrWarmWrite (word : Fin 3) (v : Word) (s : State) : Host.Outcome State Fault Refusal := .next (pwrWarmWriteF word.val v s)

/-- A wake from L7 (R451, R461, R467): SLP_N is released and the device leaves Greenware by itself for a full start; the wake notice is held
until MGR runs. -/
def wakeDormant (cause : Nat) (s : State) : State :=
  let s := (greenware 7 s).onBoot (fun b => { b with restart := true })
  record 0 0x0281 0 0 (s.onPwr (fun p => { p with wakeCause := BitVec.ofNat 4 cause, wakeFrom := 7 }))

/-- A wake event at any rung (R467). -/
def wakeUp (cause : Nat) (s : State) : State :=
  if s.mode != .resting then s
  else if (s.pdomAt 0).rung = 7 then wakeDormant cause s
  else wake cause s

/-- `WAKE_N_LOW` (R467): WAKE_N is low for 1 us or longer. -/
def wakeNLowF (ns : Nat) (s : State) : State := if ns < 1000 then s else wakeUp 1 s
def execWakeNLow (ns : Nat) (s : State) : Host.Outcome State Fault Refusal := .next (wakeNLowF ns s)

/-- `WAKE_TIMER` (R466, R467): `wake_s` expires at L7. -/
def wakeTimerF (s : State) : State := if (s.pdomAt 0).rung = 7 ∧ sget 0 s.pwr.watchNow 4 ≠ 0 then wakeUp 2 s else s
def execWakeTimer (s : State) : Host.Outcome State Fault Refusal := .next (wakeTimerF s)

/-- A Watch sample crosses a threshold (R465, R466). -/
def State.watchCrossed (s : State) (temp : Byte) (edges : BitVec 16) : Bool :=
  let w (i : Nat) : Word := sget 0 s.pwr.watchNow i
  let hi : Byte := BitVec.ofNat 8 (w 1).toNat; let lo : Byte := BitVec.ofNat 8 (fld (w 1) 15 8)
  decide (hi.toInt < temp.toInt) || decide (temp.toInt < lo.toInt)
    || (List.range 7).any (fun i => bit (w 2) i && !s.pwr.good.getLsbD i)
    || (w 3 != 0 && decide ((w 3).toNat ≤ edges.toNat))

/-- `WATCH_SAMPLE` (R465 to R467): at L6 the sample of the junction temperature, the rails, the TB edges and the level of WAKE_N may wake. Before
a first WATCH_SET no period is set and no sample is taken. -/
def watchSampleF (temp : Byte) (edges : BitVec 16) (wakeN : Bool) (s : State) : State :=
  if (s.pdomAt 0).rung ≠ 6 ∨ (sget 0 s.pwr.watchNow 0).toNat < 10 then s
  else if !wakeN then wakeUp 1 s
  else if s.watchCrossed temp edges then wakeUp 3 s
  else s
def execWatchSample (temp : Byte) (edges : BitVec 16) (wakeN : Bool) (s : State) : Host.Outcome State Fault Refusal :=
  .next (watchSampleF temp edges wakeN s)

/-- `WAKE_VOTE_WITHDRAW` (R467): the vote of wake source 0x7 goes once no command is outstanding. -/
def wakeVoteWithdrawF (s : State) : State := wakeCmdDone s
def execWakeVoteWithdraw (s : State) : Host.Outcome State Fault Refusal := .next (wakeVoteWithdrawF s)

end Sys2Proof.Machine
end

