-- ==== Sys2Proof/Machine/Tst.lean ====
section
/-! DEFINITION. Cooling, repair records, online self-tests, scan, background tests, telemetry. File 21. -/

namespace Sys2Proof.Machine

/-- The device enters Cooling (steps 1 to 3 of R468): ports stop, clocks are gated, DONE is low, DDR is in self-refresh, lanes are idle, and
without `skip` every row is blanked. -/
def coolStart (reset skip : Bool) (s : State) : State :=
  let s := testsAbort (setMode .cooling s)
  let s := s.onCfg (fun c => { c with
    doneDrive := true, doneLine := false, sectors := smap {} c.sectors (fun _ x => { x with clkOn := false, portsOpen := false }) })
  let s := s.each (List.range 12) (fun c t =>
    if (t.ddrAt c).state == .inService then (drainTo c 0 64 0 t).ddrAtMod c (fun x => { x with state := .selfRefresh }) else t)
  let s := s.each ((List.range 12).filter (fun k => (s.portAt k).state != .disabled)) (fun k t =>
    (spanDown k t).each (List.range 4) (fun i => State.laneAtMod (laneOf 0 (4 * k + i)) Lane.idle))
  let s := s.each [1, 2, 3, 4] (fun d t => t.each (List.range 8) (fun i => State.laneAtMod (laneOf d i) Lane.idle))
  let s := s.when (!skip) blankAll
  s.onTst (fun t => { t with cooling := some { reset := reset, skip := skip } })

/-- The record entry of a failed sector row, of a deep memory row, and of a lane (R471). -/
def rowEntry (die col row : Nat) : RecEntry := (wd (2 ^ 28 + die * 2 ^ 25 + col * 2 ^ 21 + row * 2 ^ 17), 0, 0, 0)
def deepEntry (die col row d : Nat) : RecEntry := (wd (2 * 2 ^ 28 + die * 2 ^ 25 + col * 2 ^ 21 + row * 2 ^ 17 + d * 256), 0, 0, 0)
def laneEntry (b lane : Nat) : RecEntry := (wd (3 * 2 ^ 28 + b * 2 ^ 20 + lane * 2 ^ 13), 0, 0, 0)

/-- An entry joins the changes that wait, unless the record holds it already (R473). -/
def entryAdd (e : RecEntry) (s : State) : State :=
  if s.tst.record.entries.contains e then s.onTst (fun t => { t with del := t.del.filter (· != e) }) else recordAdd e s

/-- An entry leaves the record with the next write (R470). -/
def entryDel (e : RecEntry) (s : State) : State :=
  s.onTst (fun t => { t with add := t.add.filter (· != e), del := if t.record.entries.contains e && !t.del.contains e then t.del ++ [e] else t.del })

/-- `SECTOR_TEST_ROW` (R468 to R470): in Cooling a physical row of a joined die passes or fails. Up to four failing deep memory rows are recorded
and the row passes; a fifth fails it. -/
def sectorTestRowF (die col row : Nat) (pass : Bool) (deepRows : List (BitVec 9)) (s : State) : State :=
  match s.tst.cooling with
  | none => s
  | some k =>
    if k.skip || (s.dieAt (die + 1)).dstate != 2 || k.rows.any (fun r => r.1.val == die && r.2.1.val == col && r.2.2.1.val == row) then s
    else
      let fail := !pass || decide (4 < deepRows.length)
      let s := s.onTst (fun t => { t with cooling := some { k with rows := (Fin.ofNat 4 die, Fin.ofNat 16 col, Fin.ofNat 13 row, fail) :: k.rows } })
      let s := if fail then s else s.each deepRows (fun d => entryAdd (deepEntry (die + 1) col row d.toNat))
      if fail then entryAdd (rowEntry (die + 1) col row) s else entryDel (rowEntry (die + 1) col row) s
def execSectorTestRow (die : Fin 4) (col : Fin 16) (row : Fin 13) (pass : Bool) (deepRows : List (BitVec 9)) (s : State) :
    Host.Outcome State Fault Refusal := .next (sectorTestRowF die.val col.val row.val pass deepRows s)

/-- The words of a repair record (R471). -/
def recordWords (seq : Word) (start : BitVec 16) (es : List RecEntry) : List Word :=
  let head := [0x7E9A1BEC, 1, seq, wd (start.toNat * 65536 + es.length)] ++ List.replicate 12 0
  let body := es.flatMap (fun e => [e.1, e.2.1, e.2.2.1, e.2.2.2])
  let ws := head ++ body ++ List.replicate (32767 - 16 - body.length) 0
  ws ++ [crc32 (wordBytes ws)]

/-- Slots that a new record may take, in order: those after the newest, never the newest itself (R473). -/
def State.recordSlots (s : State) : List Nat :=
  match s.tst.record.slot with
  | none => List.range 8
  | some n => (List.range 7).map (fun i => (n.val + 1 + i) % 8)

/-- Try the slots in order; `bad` names those that fail to erase or program (R473, R482). -/
def recordTry (seq : Word) (es : List RecEntry) (bad : List Nat) : List Nat → State → State
  | [], s => s
  | n :: ns, s =>
    let secs := (List.range 32).map (fun i => recordBase n / 1024 + i)
    if secs.any (s.flashSkips 0) then recordTry seq es bad ns s
    else if bad.contains n then recordTry seq es bad ns (flashFail 0 (recordBase n / 1024) s)
    else
      let s := flashPut 0 (recordBase n) (recordWords seq s.mgr.startNo es) (s.each secs (flashErase 0))
      s.onTst (fun t => { t with record := { seq := seq, slot := some (Fin.ofNat 8 n), entries := es } })

/-- MGR writes a new repair record with the changes that wait (R473). -/
def recordWrite (bad : List Nat) (s : State) : State :=
  let t := s.tst
  let es := t.record.entries.filter (fun e => !t.del.contains e) ++ t.add.filter (fun e => !t.record.entries.contains e)
  let s := s.onTst (fun t => { t with add := [], del := [] })
  if es == t.record.entries then s
  else if t.record.slot.isSome && t.record.seq == 0xFFFFFFFE then raise 0x22C4 s
  else
    let s := s.when (decide (8187 < es.length)) (raise 0x22C4)
    if !s.flash.valid0 then s
    else recordTry (if t.record.slot.isSome then t.record.seq + 1 else 1) (es.take 8187) bad s.recordSlots s

/-- `REPAIR_RECORD_WRITE` (R473): within 1 s of an online change MGR writes a new record. -/
def repairRecordWriteF (failSlots : List Nat) (s : State) : State :=
  if s.mgrStopped || s.mode == .cooling || (s.tst.add.isEmpty && s.tst.del.isEmpty) then s else recordWrite failSlots s
def execRepairRecordWrite (failSlots : List Nat) (s : State) : Host.Outcome State Fault Refusal := .next (repairRecordWriteF failSlots s)

/-- Every physical row of every joined die has been tested (R468). -/
def State.rowsDone (s : State) (k : Cooling) : Bool :=
  decide (((List.range 4).filter (fun d => (s.dieAt (d + 1)).dstate == 2)).length * 208 ≤ k.rows.length)

/-- `COOLING_COMPLETE` (R53, R468, R470): the bridge and lane results are in, the record and the kiln log are written, and reset is asserted. With skip only the
kiln log is written back (log 104). -/
def coolingCompleteF (bridgeFails : Nat) (lanePass : List (BitVec 7 × BitVec 7)) (flashOk : Bool) (s : State) : State :=
  match s.tst.cooling with
  | none => s
  | some k =>
    if !k.skip && !s.rowsDone k then s
    else
      let fails := (k.rows.filter (fun r => r.2.2.2)).length
      let tested := lanePass.filter (fun p => s.tst.lanes.contains p || s.tst.record.entries.contains (laneEntry p.1.toNat p.2.toNat))
      let s := if k.skip then s else s.each tested (fun p => entryDel (laneEntry p.1.toNat p.2.toNat))
      let s := s.when (!k.skip) (recordWrite [])
      let s := s.when (!k.skip) (raiseD 0 0x02C0 (wd bridgeFails) (wd fails))
      let s := kilnFlush 1026 flashOk s
      (greenware (if k.reset then 3 else 4) s).onBoot (fun b => { b with restart := k.reset, stay := !k.reset })
def execCoolingComplete (bridgeFails : Nat) (lanePass : List (BitVec 7 × BitVec 7)) (flashOk : Bool) (s : State) :
    Host.Outcome State Fault Refusal := .next (coolingCompleteF bridgeFails lanePass flashOk s)

/-- A sector is frozen by debug (R421). -/
def State.secFrozen (s : State) (n : Nat) : Bool := (sget 0 s.dbg.frozen (n / 192)).getLsbD (n % 192)

/-- A sector is isolated for a test by steps 1 to 5 of R217 (R475). -/
def testIsolate (n : Nat) (s : State) : State :=
  let p (m : Nat) : Bool := m == n
  let s := dropCapture p (blankSectors p (engageHold [n] s))
  s.secAtMod n (fun x => { x with state := .held, hold := true, clkOn := false, inReset := true, portsOpen := false, written := false })

/-- Fabric ports of a sector. -/
def secPorts (n : Nat) : List Nat := partIports.filter (fun p => isFabricPort p && (fabricPortSector p).1 * 192 + (fabricPortSector p).2 == n)

/-- The ports of a sector that a test isolates (steps 1 and 2 of R217, R475): what they still have outstanding ends as at the end of a drain that does not complete
(log 102). -/
def testDrain (n : Nat) (s : State) : State :=
  let left := (secPorts n).any (fun p => !(s.iportAt p).out.isEmpty || !(s.tportAt p).inq.isEmpty || !(s.tportAt p).pres.isEmpty)
  let s := s.each (secPorts n) (fun p t => abandonAll p (poisonAll p (t.tportAtMod p (fun q => { q with drain := q.inq.length }))))
  s.when left (raiseFrom (n / 192 + 1) 0x3908)

/-- A sector test begins (R386, R475). -/
def testSector (cmd : Option CmdId) (die sec : Nat) (set : BitVec 5) (s : State) : State :=
  let n := die * 192 + sec; let x := s.secAt n
  let s := s.onTst (fun t => { t with bist := t.bist ++
    [{ cmd := cmd, whole := false, die := Fin.ofNat 4 die, sec := Fin.ofNat 192 sec, set := set, loaded := x.state == .running, held := x.state == .held }] })
  testIsolate n (testDrain n (wdsRegionOpen (die + 1) (BitVec.ofNat 192 (2 ^ sec)) s))

/-- A die test begins (steps 1 to 4 of R476): its sectors are drained and freeze, its state is saved, and it is fenced without notice. -/
def testDie (cmd : CmdId) (die : Nat) (set : BitVec 5) (s : State) : State :=
  let secs := ((List.range 192).map (fun i => die * 192 + i)).filter (fun n => (s.secAt n).state == .running)
  let s := s.each ((List.range 192).map (fun i => die * 192 + i)) testDrain
  let s := s.onTst (fun t => { t with bist := t.bist ++
    [{ cmd := some cmd, whole := true, die := Fin.ofNat 4 die, sec := 0, set := set, loaded := !secs.isEmpty, save := s.dieSave (die + 1) }] })
  fenceCut false (die + 1) 4 s

/-- `BIST_RUN` (R386, R474 to R476): the checks, then the test begins. -/
def bistRunF (id : CmdId) (s : State) : State :=
  startCmd id 0x90 (fun c s =>
    let kind := fld (c.p 0) 31 28; let die := fld (c.p 0) 26 24; let sec := fld (c.p 0) 7 0
    let n := (die - 1) * 192 + sec; let x := s.secAt n
    let free := !s.tst.bist.any (fun b => b.die.val + 1 == die)
    let common := 1 ≤ die && die ≤ 4 && (s.dieAt die).dstate == 2 && free
    let sector := kind == 1 && onlyBits (c.p 0) 0xF70000FF && onlyBits (c.p 1) 0x11F && decide (sec < 192) && x.state != .unavailable
      && x.state != .inRegion && !s.secFrozen n && (x.state != .running || s.pwr.warmHeld || bit (c.p 1) 8)
    let region := (List.range 16).any (fun r => s.regionOpen r && (s.regionAt r).die.toNat == die)
    let sess := match s.cfg.session with | some x => !hPartial x.hdr && (hDies x.hdr).testBit (die - 1) | none => false
    let whole := kind == 2 && onlyBits (c.p 0) 0xF7000000 && onlyBits (c.p 1) 0x1F && !region && !sess && decide (200 ≤ 16 * fld s.tst.saveHi 31 20)
    let set : BitVec 5 := BitVec.ofNat 5 (c.p 1).toNat
    require (common && (sector || whole)) rcBadParam c (if kind = 1 then testSector (some id) (die - 1) sec set else testDie id (die - 1) set) s) s
def execBistRun (c : CmdId) (s : State) : Host.Outcome State Fault Refusal := .next (bistRunF c s)

/-- Key of a result: a sector or a die (R474). -/
def resultKey (whole : Bool) (die sec : Nat) : Nat := if whole then 1024 + die else die * 256 + sec

/-- The result is recorded, which is the commit point (R474, R475). -/
def testRecord (b : BistRun) (word : Word) (s : State) : State :=
  let s := s.onTst (fun t => { t with
    result := sput (0x80000000, 0) t.result (resultKey b.whole b.die.val b.sec.val) (word, wd s.clk.pos.toNat) })
  match b.cmd with | some id => cmdMod id (fun c => { c with committed := true }) s | none => s

/-- The result of a sector test is recorded, and the command is answered (R474, R475). -/
def testResult (b : BistRun) (word : Word) (s : State) : State :=
  let s := (testRecord b word s).onTst (fun t => { t with bist := t.bist.filter (· != b) })
  match b.cmd.bind s.findCmd with | some c => finish c rcOk [word] s | none => s

/-- The summary word (R474). -/
def summaryWord (fail : BitVec 5) (blank : Bool) (duration : BitVec 16) : Word :=
  wd (b2n (fail != 0) * 2 ^ 30 + fail.toNat * 2 ^ 25 + b2n blank * 2 ^ 24 + duration.toNat)

/-- A sector returns to its use after a test (R475): a blank one stays blank, a loaded one is loaded again from the warm image, or is left blank
where none is held (0x32C7). -/
def testSectorBack (b : BistRun) (s : State) : State :=
  let n := b.die.val * 192 + b.sec.val
  if !b.loaded then s.secAtMod n (fun x => { x with state := if b.held then .held else .blank })
  else if s.pwr.warmHeld then
    releaseSec n (warmWrite n (s.secAtMod n (fun x => { x with state := .loading })))
  else raiseFrom (b.die.val + 1) 0x32C7 s

/-- A sector passes or fails its test (R475). -/
def testSectorEnd (b : BistRun) (fail : BitVec 5) (duration : BitVec 16) (s : State) : State :=
  let n := b.die.val * 192 + b.sec.val
  if fail != 0 then
    let s := testResult b (summaryWord fail false duration) s
    raiseFrom (b.die.val + 1) 0x32C1 (entryAdd (rowEntry (b.die.val + 1) (n % 16) (s.prow n)) s)
  else testSectorBack b (testResult b (summaryWord 0 (b.loaded && !s.pwr.warmHeld) duration) s)

/-- The tests of a die test are over (steps 5 and 6 of R476): the result and the failing rows are recorded, and the die rejoins. `rows` are column × 13 + row. -/
def testDieEnd (b : BistRun) (fail : BitVec 5) (rows : List Nat) (duration : BitVec 16) (s : State) : State :=
  let d := b.die.val; let rows := rows.filter (· < 208)
  let bad := ((List.range 192).map (fun i => d * 192 + i)).filter (fun n => decide (s.prow n ≤ 12) && rows.contains (n % 16 * 13 + s.prow n))
  let s := testRecord b (summaryWord fail false duration) s
  let s := s.each rows (fun r => entryAdd (rowEntry (d + 1) (r / 13) (r % 13)))
  let s := s.onTst (fun t => { t with bist := t.bist.map (fun x => if x == b then { x with tested := some bad } else x) })
  dieRejoinF (d + 1) false s

/-- `BIST_COMPLETE` (R474 to R476, R479): the self-test of a die ends with its failing parts, rows and duration. -/
def bistCompleteF (die : Nat) (failed : BitVec 5) (failRow : List Nat) (duration : BitVec 16) (s : State) : State :=
  match s.tst.bist.find? (fun b => b.die.val == die && b.tested.isNone) with
  | none => s
  | some b =>
    let fail := if b.set = 0 then failed else failed &&& b.set
    if b.whole then testDieEnd b fail failRow duration s else testSectorEnd b fail duration s
def execBistComplete (die : Fin 4) (failed : BitVec 5) (failRow : List Nat) (duration : BitVec 16) (s : State) : Host.Outcome State Fault Refusal :=
  .next (bistCompleteF die.val failed failRow duration s)

/-- `BIST_RESULT` (R474): the last summary of a target and the position it was recorded at. -/
def bistResultF (id : CmdId) (s : State) : State :=
  startCmd id 0x91 (fun c s =>
    let kind := fld (c.p 0) 31 28; let die := fld (c.p 0) 26 24; let sec := fld (c.p 0) 7 0
    let ok := 1 ≤ die && die ≤ 4 && ((kind == 1 && onlyBits (c.p 0) 0xF70000FF && decide (sec < 192)) || (kind == 2 && onlyBits (c.p 0) 0xF7000000))
    require ok rcBadParam c (fun s =>
      let r := sget (0x80000000, 0) s.tst.result (resultKey (kind == 2) (die - 1) sec)
      finish c rcOk [r.1, r.2] s) s) s
def execBistResult (c : CmdId) (s : State) : Host.Outcome State Fault Refusal := .next (bistResultF c s)

/-- `REPAIR_MAP_READ` (R21): the map formed at the last full load, column 0 in [3:0]. -/
def repairMapReadF (id : CmdId) (s : State) : State :=
  startCmd id 0x92 (fun c s =>
    let d := (c.p 0).toNat
    require (1 ≤ d && d ≤ 4) rcBadParam c (fun s =>
      finish c rcOk (natWords ((List.range 16).foldl (fun n i => n + s.repairEnt (d - 1) i * 16 ^ i) 0) 2) s) s) s
def execRepairMapRead (c : CmdId) (s : State) : Host.Outcome State Fault Refusal := .next (repairMapReadF c s)

/-- `LANE_TEST` (R273, R274, R477): the lane is steered out and tested; with any error it stays excluded and is recorded. -/
def laneTestF (id : CmdId) (errors compared : Word) (s : State) : State :=
  startCmd id 0x93 (fun c s =>
    let b := fld (c.p 0) 6 0; let lane := fld (c.p 0) 14 8
    require (onlyBits (c.p 0) 0x7F7F && decide (b < 76) && decide (lane < 78) && onlyBits (c.p 1) 0xFFFF0007 && decide (fld (c.p 1) 2 0 ≤ 4)
      && fld (c.p 1) 31 16 != 0) rcBadParam c (fun s =>
    let x := s.bundleAt b
    require (x.state == .full && decide (ones x.failed + b2n x.rxOut.isSome < 4)) rcHwFault c (fun s =>
      finish c rcOk [errors, compared] (s.when (errors != 0) (failLane b lane))) s) s) s
def execLaneTest (c : CmdId) (errors compared : Word) (s : State) : Host.Outcome State Fault Refusal := .next (laneTestF c errors compared s)

/-- The secrets outside the fuses are zero (R355, R478): segment key, every MEE slot and K_T, the caches of the application cluster, MGR's SRAM with the notices it
buffers, the words of packets that are still arriving, and the capture cells. -/
def zeroSecrets (s : State) : State :=
  let s := sessMod (fun x => { x with key := 0 }) s
  let s := s.onMee (fun m => { m with kt := 0, slot := [], load := [] })
  let s := s.onMgr (fun m => { m with 
    kiln := [], kilnLost := 0, jtag := { m.jtag with rx := [] }, smbus := { m.smbus with rx := [] }, stream := { m.stream with rx := [] } })
  let s := s.onCfg (fun c => { c with port := { c.port with fifo := [] } })
  dropCapture (fun _ => true) (s.onDbg (fun d => { d with cache := [] }))

/-- `SCAN_ENTER` (R415, R478): ports stop, the named dies are fenced for good, secrets are zero, and scan is open. -/
def scanEnterF (id : CmdId) (s : State) : State :=
  startCmd id 0x94 (fun c s =>
    require (!bit (s.fuse 5 0) 0 && decide (2 ≤ s.levelOf c.id.t)) rcDenied c (fun s =>
    require (onlyBits (c.p 0) 0x1F) rcBadParam c (fun s =>
      let dies := ([1, 2, 3, 4] : List Nat).filter (fun d => bit (c.p 0) d)
      let s := s.each dies (fun d t => (fenceDie d 4 t).dieAtMod d (fun x => { x with gaveUp := true }))
      let s := (zeroSecrets s).onTst (fun t => { t with scan := true, scanDies := BitVec.ofNat 5 (c.p 0).toNat })
      finish c rcOk [] s) s) s) s
def execScanEnter (c : CmdId) (s : State) : Host.Outcome State Fault Refusal := .next (scanEnterF c s)

/-- A blank sector that the background test may take (R479). -/
def State.bgSector (s : State) (n : Nat) : Bool := ((s.secAt n).state == .blank || (s.secAt n).state == .held) && !s.secFrozen n

/-- `BG_BIST_TIMER` (R479): the next blank sector of each die is tested, in a quiet window when `bg_qw` is set. -/
def bgBistTimerF (s : State) : State :=
  if s.mgrStopped || !bit s.tst.bgCfg 31 || (bit s.tst.bgCfg 30 && !s.quietWin) || !(s.mode == .bisque || s.mode == .glazed || s.mode == .refiring) then s
  else s.each (List.range 4) (fun d t =>
    let at_ := sget 0 t.tst.bgNext d
    match ((List.range 192).map (fun i => (at_ + i) % 192)).find? (fun i => t.bgSector (d * 192 + i)) with
    | none => t
    | some i =>
      if (t.dieAt (d + 1)).dstate != 2 || t.tst.bist.any (fun b => b.die.val == d) then t
      else testSector none d i 0 (t.onTst (fun x => { x with bgNext := sput 0 x.bgNext d ((i + 1) % 192) })))
def execBgBistTimer (s : State) : Host.Outcome State Fault Refusal := .next (bgBistTimerF s)

/-- Group of a telemetry item, none for an item outside the table (R480). -/
def telGroup (i : Nat) : Option Nat :=
  if i ≤ 4 ∨ i = 8 then some 0 else if 0x10 ≤ i ∧ i ≤ 0x15 then some 1 else if 0x20 ≤ i ∧ i ≤ 0x37 then some 2 else none

/-- One item is sampled and its limits are checked (R480, R481). -/
def telTake (i : Nat) (v : Option Word) (s : State) : State :=
  let s := s.onTst (fun t => { t with tel := sput none t.tel i (v.map (fun w => (w, wd s.clk.pos.toNat))) })
  match v with
  | none => s
  | some w =>
    let l := s.limitAt i
    let off := decide (l.hi.toInt < w.toInt) || decide (w.toInt < l.lo.toInt)
    (s.limitAtMod i (fun l => { l with out := off })).when (off && !l.out) (raise 0x22C5)

/-- A group is sampled (R480); `values` holds what the sensors give, and an item without a value has no sample. -/
def telSample (group : Nat) (values : List (Byte × Word)) (s : State) : State :=
  let items := (List.range 0x38).filter (fun i => match telGroup i with | some g => group == 0xFF || group == g | none => false)
  s.each items (fun i => telTake i ((values.find? (fun e => e.1.toNat == i)).map (·.2)))

/-- `TEL_SAMPLE` (R444, R480): MGR takes the next sample that the calendar asked for. -/
def telSampleF (group : Byte) (values : List (Byte × Word)) (s : State) : State :=
  if s.mgrStopped then s
  else match s.clk.toMgr.find? (fun e => e.1 == 4) with
    | none => s
    | some e => if e.2.toNat ≠ group.toNat then s else telSample group.toNat values (s.onClk (fun c => { c with toMgr := c.toMgr.erase e }))
def execTelSample (group : Byte) (values : List (Byte × Word)) (s : State) : Host.Outcome State Fault Refusal := .next (telSampleF group values s)

/-- `TEL_SAMPLE_TIMER` (R480): every group is sampled once per `tel_period_ms`; a period of 0 samples only on TEL_SAMPLE. -/
def telSampleTimerF (values : List (Byte × Word)) (s : State) : State :=
  if s.mgrStopped || s.tst.telPeriod == 0 then s else telSample 0xFF values s
def execTelSampleTimer (values : List (Byte × Word)) (s : State) : Host.Outcome State Fault Refusal := .next (telSampleTimerF values s)

/-- `TEL_READ` (R480): value and position of each item. -/
def telReadF (id : CmdId) (s : State) : State :=
  startCmd id 0x80 (fun c s =>
    require (c.params.all (fun w => decide (w.toNat < 256) && (telGroup w.toNat).isSome)) rcBadParam c (fun s =>
      finish c rcOk (c.params.flatMap (fun w => match sget none s.tst.tel w.toNat with | some (v, p) => [v, p] | none => [0x80000000, 0])) s) s) s
def execTelRead (c : CmdId) (s : State) : Host.Outcome State Fault Refusal := .next (telReadF c s)

/-- `TEL_THRESH` (R481): limits of one item. -/
def telThreshF (id : CmdId) (s : State) : State :=
  startCmd id 0x81 (fun c s =>
    require (decide ((c.p 0).toNat < 256) && (telGroup (c.p 0).toNat).isSome) rcBadParam c (fun s =>
      finish c rcOk [] (s.limitAtMod (c.p 0).toNat (fun _ => { hi := c.p 1, lo := c.p 2 }))) s) s
def execTelThresh (c : CmdId) (s : State) : Host.Outcome State Fault Refusal := .next (telThreshF c s)

end Sys2Proof.Machine
end

