-- ==== Sys2Proof/Machine/CsrSector.lean ====
section
/-! DEFINITION. The registers of a sector window: sector controls, I/O banks, SDUs, block and deep memories. Files 01 (R32, R33), 05, 06, 07, 09. -/

namespace Sys2Proof.Machine

/-- What a register access answers: the word it returns, whether the word is poisoned, and the state after it. -/
abbrev CsrAnswer := (Word × Bool) × State

/-- An answer with no poison. -/
def csrPlain (r : Word × State) : CsrAnswer := ((r.1, false), r.2)

/-- A word read with no effect. -/
def csrWord (n : Nat) (s : State) : CsrAnswer := ((wd n, false), s)

/-- The sector of window `sec` of compute die `d`, 0 to 3. -/
def winSec (d sec : Nat) : SecId := { die := Fin.ofNat 4 d, sec := Fin.ofNat 192 sec }

/-- `SC_STATUS` (09). -/
def scStatus (n : Nat) (s : State) : Nat :=
  let x := s.secAt n
  let gated := decide (3 ≤ (s.pdomAt (n / 192 + 1)).rung.toNat)
  let state := match x.state with
    | .unavailable => 5
    | .blank => if gated then 6 else 0
    | .loading => if gated then 6 else 1
    | .running => if gated then 6 else 2
    | .inRegion => if gated then 6 else 3
    | .held => if gated then 6 else 4
  let shifted := x.state != .unavailable && decide (s.prow n ≠ n % 192 / 16)
  (if x.state == .inRegion then x.region.toNat * 4096 else 0) + b2n shifted * 256 + s.prow n * 16 + state

/-- The bank whose registers lie in the controls of a sector (R183). -/
def secBank (sec : Nat) : Option Nat := if 178 ≤ sec ∧ sec % 2 = 0 ∧ sec < 190 then some ((sec - 178) / 2) else none

/-- A read of the registers of a bank (R183, 07). -/
def ioRead (d b rel : Nat) (s : State) : Nat :=
  let k := d * 6 + b; let q := s.bankAt k
  if rel = 0xC000 then s.ioPull k * 256 + q.vrefTrim.toNat * 8 + q.vccioCode.toNat
  else if rel = 0xC004 then q.meas.toNat * 16 + b2n q.mismatch * 8 + b2n q.lost * 4 + b2n q.frozen * 2 + b2n q.vok
  else if rel = 0xC008 then b2n q.calEn * 2 ^ 31 + q.period.toNat * 65536 + q.tapQ.toNat
  else if 0xC100 ≤ rel ∧ rel < 0xC1C0 then (sget {} s.pin (k * 48 + (rel - 0xC100) / 4)).cfg.toNat / 1024 * 1024
  else if 0xC200 ≤ rel ∧ rel < 0xC2C0 then
    let p := sget {} s.pin (k * 48 + (rel - 0xC200) / 4)
    b2n p.cal * 2 ^ 31 + p.taps.toNat * 65536 + p.dly.toNat
  else 0

/-- A write to the registers of a bank (07). -/
def ioWrite (d b rel : Nat) (w : Word) (s : State) : State :=
  let k := d * 6 + b
  if rel = 0xC004 then s.bankAtMod k (fun q => { q with mismatch := q.mismatch && !bit w 3, lost := q.lost && !bit w 2 })
  else if rel = 0xC008 then s.bankAtMod k (fun q => { q with calEn := bit w 31, period := BitVec.ofNat 8 (fld w 23 16) })
  else if 0xC200 ≤ rel ∧ rel < 0xC2C0 then
    ioPinDlyWriteF { die := Fin.ofNat 4 d, bank := Fin.ofNat 6 b, pin := Fin.ofNat 48 ((rel - 0xC200) / 4) } w s
  else s

/-- Code of a unit state (R161). -/
def UnitState.code : UnitState → Nat
  | .stopped => 0 | .running => 1 | .stalled => 2 | .sleeping => 3 | .halted => 4 | .faulted => 5

/-- `SDU_STATUS` (06). -/
def sduStatus (q : Sdu) : Nat :=
  q.cur.pc.toNat * 65536 + b2n q.wrIgn * 2048 + b2n q.hit1 * 1024 + b2n q.hit0 * 512 + b2n (q.flight.any (fun f => f.set != q.act)) * 256
    + b2n q.swPending * 128 + b2n q.act * 64 + (if q.seq then q.state.code else 6)

/-- A read in the area of a unit (R136, R138, R162, 06). -/
def sduAreaRead (u : SduId) (rel : Nat) (insp : Bool) (s : State) : CsrAnswer :=
  let q := s.sduAt u
  if !s.areaOpen u.sk then csrWord 0 s
  else if 0x100 ≤ rel ∧ rel < 0x200 then
    let code := (rel - 0x100) % 0x80 / 4
    if 0x1E ≤ code then csrWord 0 s else csrPlain (setRead code (q.rset (decide (0x180 ≤ rel))), s)
  else if 0x1000 ≤ rel ∧ rel < 0x3000 then xyAccess u (decide (0x2000 ≤ rel)) (rel % 0x1000 / 4) none 0 s
  else if 0x3000 ≤ rel then
    let i := (sget 0 q.istore ((rel - 0x3000) / 8)).toNat
    csrWord (if rel / 4 % 2 = 0 then i else i / 2 ^ 32) s
  else match rel with
    | 0x4 => csrWord (sduStatus q) s
    | 0x8 => csrWord (q.entry1.toNat * 512 + b2n q.fdAsat * 256 + q.swEn.toNat * 32 + b2n q.start * 2 + b2n q.seq) s
    | 0xC => csrPlain (q.fault, s)
    | 0x10 => csrPlain (q.cmp0, s)
    | 0x14 => csrPlain (q.cmp1, s)
    | 0x18 => csrPlain (sduEccRead u insp s)
    | 0x1C => csrWord q.casc.toNat s
    | 0x20 => csrWord (q.casc.toNat / 2 ^ 32) s
    | _ => csrWord 0 s

/-- A write of `SDU_CTRL` (06): of [4:0] the first bit set in the order stop, halt, run, resume, step acts; `swreq` acts in addition. -/
def sduCtrlWrite (u : SduId) (w : Word) (s : State) : State :=
  let s := if bit w 1 then sduStopF u s else if bit w 2 then sduHaltF u s else if bit w 0 then sduRunF u s
    else if bit w 3 then sduResumeF u s else if bit w 4 then sduStepF u s else s
  let s := s.when (bit w 5) (sduSwreqF u)
  s.when (!(s.sduAt u).seq && s.areaOpen u.sk) (fun s => s.sduAtMod u (fun q => { q with wrIgn := true }))

/-- A write of a comparator (R164, R415): without a level it is ignored and `wr_ign` sets. -/
def sduCmpWrite (u : SduId) (one : Bool) (w : Word) (s : State) : State :=
  let v := w &&& 0xFF0007FF
  s.sduAtMod u (fun q => if s.authLevel = 0 then { q with wrIgn := true } else if one then { q with cmp1 := v } else { q with cmp0 := v })

/-- A write in the area of a unit, with its byte enables (06). -/
def sduAreaWrite (u : SduId) (rel : Nat) (w : Word) (be : BitVec 4) (s : State) : State :=
  if !s.areaOpen u.sk then s
  else if 0x100 ≤ rel ∧ rel < 0x200 then
    let code := (rel - 0x100) % 0x80 / 4
    if 0x1E ≤ code then s else sduRegWriteF u (decide (0x180 ≤ rel)) (BitVec.ofNat 5 code) w s
  else if 0x1000 ≤ rel ∧ rel < 0x3000 then (xyAccess u (decide (0x2000 ≤ rel)) (rel % 0x1000 / 4) (some w) be s).2
  else if 0x3000 ≤ rel then sduIstoreWriteF u (BitVec.ofNat 9 ((rel - 0x3000) / 8)) (decide (rel / 4 % 2 = 1)) w s
  else match rel with
    | 0x0 => sduCtrlWrite u w s
    | 0x4 => s.sduAtMod u (fun q => { q with wrIgn := q.wrIgn && !bit w 11, hit1 := q.hit1 && !bit w 10, hit0 := q.hit0 && !bit w 9 })
    | 0x8 => s.sduAtMod u (fun q => { q with swEn := BitVec.ofNat 3 (fld w 7 5) })
    | 0x10 => sduCmpWrite u false w s
    | 0x14 => sduCmpWrite u true w s
    | _ => s

/-- `BM_CFG` or `DM_CFG`, `BM_STATUS` or `DM_STATUS` and the registers both kinds of memory share (05). -/
def memCsrRead (c : SecId) (m : MemSel) (rel : Nat) (insp : Bool) (s : State) : CsrAnswer :=
  let k := s.ctlOf c m
  let seen := k.pass.toNat * 65536 + b2n k.ceSeen * 4 + b2n k.ueSeen * 2 + b2n k.initBusy
  if !s.areaOpen c.key then csrWord 0 s
  else match rel, m with
    | 0x0, .block i => csrWord (b2n k.scrubQw * 512 + b2n k.scrubEn * 256 + (s.bmCfg (memBm c i)).toNat) s
    | 0x0, .deep => csrWord (b2n (s.dmSync c.key) * 8 + b2n (s.dmAt c).remapAuto * 4 + b2n k.scrubQw * 2 + b2n k.scrubEn) s
    | 0x4, .block _ => csrWord seen s
    | 0x4, .deep => csrWord (seen + ((s.dmAt c).remap.filter (·.active)).length * 16 + b2n (s.dmAt c).copy.isSome * 8) s
    | 0x8, _ => csrPlain (memCeRead c m insp s)
    | 0xC, _ => csrPlain (memUeRead c m insp s)
    | 0x10, _ => csrPlain (memErrlogRead c m insp s)
    | 0x18, _ => csrWord (b2n k.injArm * 256 + k.injMask.toNat) s
    | n, .deep =>
      if 0x20 ≤ n ∧ n < 0x30 then
        let e := (s.dmAt c).remap.getD ((n - 0x20) / 4) {}
        csrWord (e.origin.toNat * 1024 + b2n e.active * 512 + e.row.toNat) s
      else csrWord 0 s
    | _, _ => csrWord 0 s

/-- A write to the registers of a fabric memory (05). -/
def memCsrWrite (c : SecId) (m : MemSel) (rel : Nat) (w : Word) (s : State) : State :=
  if !s.areaOpen c.key then s
  else match rel, m with
    | 0x0, .block _ => ctlMod c m (fun k => { k with scrubQw := bit w 9, scrubEn := bit w 8 }) s
    | 0x0, .deep => (ctlMod c m (fun k => { k with scrubQw := bit w 1, scrubEn := bit w 0 }) s).dmAtMod c (fun q => { q with remapAuto := bit w 2 })
    | 0x4, _ => ctlMod c m (fun k => { k with ceSeen := k.ceSeen && !bit w 2, ueSeen := k.ueSeen && !bit w 1 }) s
    | 0x14, _ => s.when (bit w 0) (memInitF c m)
    | 0x18, _ => ctlMod c m (fun k => { k with injArm := bit w 8, injMask := BitVec.ofNat 8 w.toNat }) s
    | 0x30, .deep => s.when (bit w 31) (dmRemapReqF c (BitVec.ofNat 9 (fld w 8 0)))
    | _, _ => s

/-- A read in the window of a sector of compute die `d`, 0 to 3 (R32, R33). -/
def secRead (d sec rel : Nat) (insp : Bool) (s : State) : CsrAnswer :=
  let n := d * 192 + sec; let c := winSec d sec
  if rel < 0x10000 then
    match rel with
    | 0x0 => csrWord (scStatus n s) s
    | 0x4 => csrWord (b2n (s.secAt n).capValid * 2 ^ 31 + (s.secAt n).capTrig.toNat * 2 ^ 29) s
    | 0x8 => csrPlain ((s.secAt n).capPos, s)
    | _ => csrWord (match secBank sec with | some b => ioRead d b rel s | none => 0) s
  else if rel < 0x70000 then
    sduAreaRead { die := c.die, sec := c.sec, unit := Fin.ofNat 24 ((rel - 0x10000) / 0x4000) } ((rel - 0x10000) % 0x4000) insp s
  else if rel < 0x7A800 then memCsrRead c (.block (Fin.ofNat 21 ((rel - 0x70000) / 0x800))) ((rel - 0x70000) % 0x800) insp s
  else if 0x80000 ≤ rel ∧ rel < 0x90000 then memCsrRead c .deep (rel - 0x80000) insp s
  else csrWord 0 s

/-- A write in the window of a sector (R32, R33). -/
def secWrite (d sec rel : Nat) (w : Word) (be : BitVec 4) (s : State) : State :=
  let c := winSec d sec
  if rel < 0x10000 then (match secBank sec with | some b => ioWrite d b rel w s | none => s)
  else if rel < 0x70000 then
    sduAreaWrite { die := c.die, sec := c.sec, unit := Fin.ofNat 24 ((rel - 0x10000) / 0x4000) } ((rel - 0x10000) % 0x4000) w be s
  else if rel < 0x7A800 then memCsrWrite c (.block (Fin.ofNat 21 ((rel - 0x70000) / 0x800))) ((rel - 0x70000) % 0x800) w s
  else if 0x80000 ≤ rel ∧ rel < 0x90000 then memCsrWrite c .deep (rel - 0x80000) w s
  else s

end Sys2Proof.Machine
end

