-- ==== Sys2Proof/Machine/CsrHub.lean ====
section
/-! DEFINITION. The registers of the MGR, CFG, NOC, ADL, CLK and lane blocks. Files 02, 08, 09, 10, 11, 12, 17, 18, 19. -/

namespace Sys2Proof.Machine

/-- A read in the MGR block (02, 17, 18). -/
def mgrRead (rel : Nat) (s : State) : CsrAnswer :=
  let o := s.ao
  match rel with
  | 0x0 => csrPlain (s.mgrStatus, s)
  | 0x10 => csrWord (s.mgr.firstCode.toNat * 65536 + b2n (o.fatalCause != 0) * 16 + b2n s.mgr.imageFail * 8 + b2n s.boot.recovery * 4
      + b2n s.boot.refclkFailed * 2 + b2n s.mgr.alertLatch) s
  | 0x20 => csrWord (o.fatalCount.toNat * 65536 + o.fatalCause.toNat) s
  | 0x24 => csrPlain (o.fatalPos, s)
  | 0x28 => csrWord o.resetCause.toNat s
  | n => csrWord (if n = 0x10000 then s.devId else if 0x10000 < n ∧ n < 0x10040 then (sget 0 s.dbg.devmap ((n - 0x10000) / 4)).toNat else 0) s

/-- A write in the MGR block: the RWS fields take the value written, and `clr` clears `cause` and `count` (R11, 17). -/
def mgrWrite (rel : Nat) (w : Word) (s : State) : State :=
  match rel with
  | 0x10 => s.onMgr (fun m => { m with alertLatch := m.alertLatch && !bit w 0 })
  | 0x20 => (s.onAo (fun o => { o with fatalCount := BitVec.ofNat 8 (fld w 23 16), fatalCause := BitVec.ofNat 16 (fld w 15 0) })).when (bit w 31) mgrFatalClrF
  | 0x24 => s.onAo (fun o => { o with fatalPos := w })
  | 0x28 => s.onAo (fun o => { o with resetCause := BitVec.ofNat 4 w.toNat })
  | n => if 0x10000 < n ∧ n < 0x10040 then s.onDbg (fun d => { d with devmap := sput 0 d.devmap ((n - 0x10000) / 4) (w &&& 0xFFF) }) else s

/-- `CFG_LOAD_STATUS.phase` (09). -/
def State.loadPhase (s : State) : Nat :=
  match s.openSess with
  | none => 0
  | some x => match x.phase with | .header => 1 | .frames => 2 | .awaiting => 3 | .startup => 4

/-- `CFG_REGION_STATUS` (09). -/
def regionWord (g : Region) : Nat :=
  let c := match g.commit with | .none => 0 | .armed _ => 1 | .due _ => 2
  b2n (g.phase != .closed) * 2 ^ 31 + g.die.toNat * 2 ^ 28 + c * 2 ^ 26 + b2n g.session * 2 ^ 25 + g.late.toNat

/-- A read in the CFG block of H (08, 09). -/
def cfgBlkRead (rel : Nat) (s : State) : CsrAnswer :=
  let p := s.cfg.port
  if rel = 0 then
    csrWord ((List.range 16).foldl (fun n r => n + b2n (s.regionOpen r) * 2 ^ (16 + r)) 0 + s.loadPhase * 16
      + (match s.cfg.session with | some x => b2n x.paused * 8 + b2n x.onFallback * 4 | none => 0) + b2n s.cfg.doneLine * 2 + b2n s.cfg.doneDrive) s
  else if 0x100 ≤ rel ∧ rel < 0x140 then csrWord (regionWord (s.regionAt ((rel - 0x100) / 4))) s
  else if rel = 0x200 then csrWord (b2n p.isOpen) s
  else if rel = 0x204 then
    csrWord (p.result.toNat * 2 ^ 24 + (1024 - p.fifo.length) * 16 + b2n p.overrun * 8 + b2n p.done * 4
      + b2n (s.openSess.any (fun x => x.owner.t == .stream && x.image.isNone)) * 2) s
  else csrWord 0 s

/-- A write in the CFG block of H (08). -/
def cfgBlkWrite (rel : Nat) (w : Word) (s : State) : State :=
  let port (f : StreamPort → StreamPort) (s : State) : State := s.onCfg (fun c => { c with port := f c.port })
  match rel with
  | 0x200 => (port (fun p => { p with isOpen := bit w 0 }) s).when (bit w 1) cfgStreamAbortF
  | 0x204 => port (fun p => { p with overrun := p.overrun && !bit w 3, done := p.done && !bit w 2 }) s
  | 0x208 => cfgStreamDataF w s
  | _ => s

/-- Routers on a die. -/
def dieRouters (die : Nat) : Nat := if die = 0 then 16 else 24

/-- Requests of an initiator port that wait behind holds (`NOC_IPORT_HOLD.held`, R397). -/
def IPort.heldCount (q : IPort) : Nat := (q.out.filter (fun o => !o.sent && q.holds.contains o.req.dst)).length

/-- A read of the registers of an initiator port. -/
def iportRead (p reg : Nat) (s : State) : Nat :=
  let q := s.iportAt p
  if !isIport p then 0
  else match reg with
    | 0x0 =>
      let c := s.reg (portDie p) (blkNoc + 0x4000 + 0x20 * (p % 128))
      (setFld (setFld c 6 2 (s.portFwg p).toNat) 1 0 (q.qosPend.getD (s.portQos p)).toNat).toNat
    | 0x4 => b2n (q.paused || q.qosPend.isSome) * 2 ^ 31 + b2n q.poisonSeen * 512 + b2n q.timeoutSeen * 256 + q.out.length
    | 0x8 => min q.holds.length 15 * 2 ^ 24 + q.heldCount * 65536 + q.lastHold.toNat
    | _ => 0

/-- A write to the registers of an initiator port (R251, R255, R397). -/
def iportWrite (p reg : Nat) (w : Word) (s : State) : State :=
  if !isIport p then s
  else match reg with
    | 0x0 =>
      let a := blkNoc + 0x4000 + 0x20 * (p % 128)
      qosWrite p (BitVec.ofNat 2 w.toNat) (s.setReg (portDie p) a (setFld (w &&& 0xFFFF00FF) 1 0 (s.portQos p).toNat))
    | 0x4 => s.iportAtMod p (fun q => { q with poisonSeen := q.poisonSeen && !bit w 9, timeoutSeen := q.timeoutSeen && !bit w 8 })
    | 0x8 => s.when (bit w 31) (nocIportHoldClrF p)
    | _ => s

/-- The target behind a port takes atomics (R244). -/
def takesAtom (p : Nat) : Bool := (portDdr p).isSome || isFabricPort p

/-- A read of the registers of a target port. -/
def tportRead (p reg : Nat) (insp : Bool) (s : State) : CsrAnswer :=
  let t := s.tportAt p; let a := blkNoc + 0x8000 + 0x200 * (p % 128)
  if !isTport p then csrWord 0 s
  else match reg with
    | 0x0 => csrWord ((s.reg (portDie p) a).toNat + b2n (takesAtom p) * 4) s
    | 0x4 => csrPlain (nocFwLogRead p insp s)
    | 0x8 => csrWord t.fwAddr.toNat s
    | 0xC => csrWord (t.fwAddr.toNat / 2 ^ 32) s
    | r => if 0x100 ≤ r then csrPlain (s.reg (portDie p) (a + r), s) else csrWord 0 s

/-- A write to the registers of a target port, by a request of firewall group `fwg` (R256). -/
def tportWrite (p reg : Nat) (w : Word) (fwg : BitVec 5) (s : State) : State :=
  let a := blkNoc + 0x8000 + 0x200 * (p % 128)
  let old := s.reg (portDie p) a
  if !isTport p || (bit old 1 && fwg != 31) then s
  else if reg = 0 then s.setReg (portDie p) a (setBit (w &&& 3) 1 (bit w 1 || bit old 1))
  else if 0x100 ≤ reg then s.setReg (portDie p) (a + reg) (if reg / 4 % 4 = 1 then w &&& 0xBF0000FF else w)
  else s

/-- Word `w` of a router's active table, with the alternate entries in use (R259, R261). -/
def State.rtActiveWord (s : State) (r w : Nat) : Nat := (List.range 8).foldl (fun n i => n + s.route r (8 * w + i) % 16 * 16 ^ i) 0

/-- A read in a die's NOC block (10, 17). -/
def nocRead (die rel : Nat) (insp : Bool) (s : State) : CsrAnswer :=
  let n := s.noc; let k := dieRouters die
  if 0x1000 ≤ rel ∧ rel < 0x1000 + 0x80 * k then csrPlain (sget 0xFFFFFFFF n.rtShadow (die * 1024 + (rel - 0x1000) / 4), s)
  else if 0x2000 ≤ rel ∧ rel < 0x2000 + 0x80 * k then csrWord (s.rtActiveWord (die * 32 + (rel - 0x2000) / 0x80) ((rel - 0x2000) % 0x80 / 4)) s
  else if 0x3000 ≤ rel ∧ rel < 0x3800 ∧ die = 0 then csrPlain (sget 0 n.fwShadow ((rel - 0x3000) / 4), s)
  else if 0x3800 ≤ rel ∧ rel < 0x4000 ∧ die = 0 then csrPlain (sget 0 n.fwActive ((rel - 0x3800) / 4), s)
  else if 0x4000 ≤ rel ∧ rel < 0x4000 + 0x80 * k then csrWord (iportRead (die * 128 + (rel - 0x4000) / 0x20) (rel % 0x20) s) s
  else if 0x8000 ≤ rel ∧ rel < 0x8000 + 0x800 * k then tportRead (die * 128 + (rel - 0x8000) / 0x200) (rel % 0x200) insp s
  else match rel with
    | 0x0 => csrWord (k * 256 + die) s
    | 0x4 => csrWord (b2n n.altInUse * 8 + b2n (!n.switches.isEmpty) * 4 + b2n n.commitErr * 2 + b2n n.commitBusy) s
    | 0x8 => csrWord (if die = 0 then n.result.toNat * 16 else 0) s
    | 0xC => csrPlain (s.reg die (blkNoc + 0xC), s)
    | 0x10 => csrPlain (nocPerrRead die insp s)
    | 0x14 => csrPlain (nocErrlogRead die insp s)
    | _ => csrWord 0 s

/-- A write in a die's NOC block (10, 17). -/
def nocWrite (die rel : Nat) (w : Word) (fwg : BitVec 5) (s : State) : State :=
  let k := dieRouters die
  if 0x1000 ≤ rel ∧ rel < 0x1000 + 0x80 * k then shadowWrite false (die * 1024 + (rel - 0x1000) / 4) w s
  else if 0x3000 ≤ rel ∧ rel < 0x3800 ∧ die = 0 then
    let e := (rel - 0x3000) / 4; shadowWrite true e (if e % 2 = 1 then w &&& 0x83F000F9 else w) s
  else if 0x4000 ≤ rel ∧ rel < 0x4000 + 0x80 * k then iportWrite (die * 128 + (rel - 0x4000) / 0x20) (rel % 0x20) w s
  else if 0x8000 ≤ rel ∧ rel < 0x8000 + 0x800 * k then tportWrite (die * 128 + (rel - 0x8000) / 0x200) (rel % 0x200) w fwg s
  else match rel with
    | 0x4 => s.onNoc (fun n => { n with commitErr := n.commitErr && !bit w 1 })
    | 0x8 => s.when (decide (die = 0) && bit w 0) nocCommitF
    | 0xC => s.setReg die (blkNoc + 0xC) w
    | _ => s

/-- Code of a bundle's state. -/
def BndState.code : BndState → Nat
  | .down => 0 | .training => 1 | .full => 2 | .half => 3 | .recovery => 4 | .disabled => 5 | .asleep => 6

/-- The receiving end of a bundle lies on the die; none when the die holds no end. -/
def bundleEnd (b die : Nat) : Option Bool := if bundleTo b / 32 = die then some true else if (bundleFrom b).1 / 32 = die then some false else none

/-- A read of the registers of a bundle's end. -/
def bundleRead (b : Nat) (receiver : Bool) (reg : Nat) (insp : Bool) (s : State) : CsrAnswer :=
  let x := s.bundleAt b
  let test := if receiver then x.rxOut else x.txOut; let ex := x.excl receiver
  match reg with
  | 0x0 => csrWord ((test.getD 0).toNat * 65536 + b2n test.isSome * 32768 + ones x.failed * 256 + b2n receiver * 64 + x.rate.toNat * 16 + x.state.code) s
  | 0x4 => csrWord ex.toNat s
  | 0x8 => csrWord (ex.toNat / 2 ^ 32) s
  | 0xC => csrWord (ex.toNat / 2 ^ 64) s
  | 0x10 => csrPlain (adlBndErrRead b receiver insp s)
  | 0x14 => csrWord x.recoveries.toNat s
  | _ => csrWord 0 s

/-- A write of `ADL_BND_CTRL` (R275). -/
def bundleWrite (b reg : Nat) (w : Word) (s : State) : State :=
  if reg = 0x18 then
    let s := if bit w 1 && !(s.bundleAt b).dead then disableBundle b s else s
    s.when (bit w 0 && !bit w 1) (startRecovery b)
  else s

/-- A read in a die's ADL block (11). -/
def adlRead (die rel : Nat) (insp : Bool) (s : State) : CsrAnswer :=
  if 0x1000 ≤ rel ∧ rel < 0x1000 + 0x40 * 76 then
    match bundleEnd ((rel - 0x1000) / 0x40) die with
    | some e => bundleRead ((rel - 0x1000) / 0x40) e (rel % 0x40) insp s
    | none => csrWord 0 s
  else if 0x100 ≤ rel ∧ rel < 0x190 ∧ rel % 0x10 = 0 then
    let k := (rel - 0x100) / 0x10
    if bndLeader k = die ∨ bndFollower k = die then csrPlain (adlSbStatusRead die k insp s) else csrWord 0 s
  else if rel = 0 then csrWord (2 * 65536 + ((List.range 76).filter (fun b => (bundleEnd b die).isSome)).length * 256 + die) s
  else if rel = 0x30 then csrPlain (s.reg die (blkAdl + 0x30), s)
  else if die ≠ 0 then csrWord 0 s
  else if rel = 4 then
    csrWord ((List.range 6).foldl (fun n i => n + (s.dieAt (i + 1)).dstate.toNat * 2 ^ (2 * i + 2) + b2n (s.dieAt (i + 1)).gaveUp * 2 ^ (17 + i)) 0) s
  else if 0x10 ≤ rel ∧ rel < 0x28 then
    let x := s.dieAt ((rel - 0x10) / 4 + 1); csrWord (b2n x.blank * 65536 + x.count.toNat * 256 + x.cause.toNat) s
  else if rel = 0x40 ∨ rel = 0x44 then csrPlain (s.reg 0 (blkAdl + rel), s)
  else csrWord 0 s

/-- A write in a die's ADL block (11). -/
def adlWrite (die rel : Nat) (w : Word) (fwg : BitVec 5) (s : State) : State :=
  if 0x1000 ≤ rel ∧ rel < 0x1000 + 0x40 * 76 then
    if (bundleEnd ((rel - 0x1000) / 0x40) die).isSome then bundleWrite ((rel - 0x1000) / 0x40) (rel % 0x40) w s else s
  else if 0x100 ≤ rel ∧ rel < 0x190 ∧ rel % 0x10 = 0 then
    let k := (rel - 0x100) / 0x10
    if bndLeader k = die ∨ bndFollower k = die then sbEndMod k (bndLeader k == die) (fun e => { e with fail := e.fail && !bit w 2 }) s else s
  else if rel = 0x30 then rltResume (s.setReg die (blkAdl + 0x30) (w &&& 0xC000FFFF))
  else if die ≠ 0 then s
  else if rel = 8 then
    let d := fld w 2 0
    let s := s.when (bit w 8) (adlFenceDieF d)
    s.when (bit w 9 && !bit w 8) (adlFenceRejoinF d)
  else if rel = 0x40 ∨ rel = 0x44 then
    if bit (s.reg 0 (blkAdl + rel)) 8 && fwg != 31 then s else s.setReg 0 (blkAdl + rel) (w &&& 0x11F)
  else s

/-- Code of a clock domain's state. -/
def ClkState.code : ClkState → Nat
  | .off => 0 | .qualifying => 1 | .running => 2 | .ramping => 3 | .fallback => 4 | .stopped => 5

/-- The die that holds a clock domain (R427, 19). -/
def domDie (d : Nat) : Nat := if 4 ≤ d ∧ d ≤ 7 then d - 3 else if isFabricPll d then (d - 26) / 8 + 1 else 0

/-- Nominal frequency of a domain in kHz (R427); that of a domain whose reference the board or the configuration gives is not stated, nor that of
the forwarded clocks (log 46). -/
def State.nominalKhz (s : State) (d : Nat) : Nat :=
  if 9 ≤ d ∧ d ≤ 20 then (3200 + 800 * (s.ddrAt (d - 9)).rate.toNat) * 500
  else if d = 8 ∨ (21 ≤ d ∧ d ≤ 24) ∨ isFabricPll d then Config.refCount d
  else if 58 ≤ d then [1000000, 1000000, 781250, 1000000, 1500000, 500000].getD (d - 58) 0
  else [1000, 400000, 1600000, 3000000, 3000000, 3000000, 3000000, 3000000].getD d 100000

/-- A read in a die's CLK block (19): the frequency registers read 0 while the domain is off. -/
def clkRead (die rel : Nat) (s : State) : CsrAnswer :=
  let d := (rel - 0x1000) / 0x20; let x := s.domAt d
  if rel < 0x1000 ∨ 0x1800 ≤ rel ∨ domDie d ≠ die then csrWord 0 s
  else match rel % 0x20 with
    | 0x0 => csrWord (x.monTol.toNat * 65536 + x.tol.toNat * 256) s
    | 0x4 => csrWord (x.fails.toNat * 2 ^ 24 + b2n x.fail * 256 + x.state.code * 16 + x.src.toNat) s
    | 0x8 => csrPlain (x.khz, s)
    | 0xC => csrWord (if x.state = .off then 0 else s.nominalKhz d) s
    | _ => csrWord 0 s

/-- A write in a die's CLK block (19). -/
def clkWrite (die rel : Nat) (w : Word) (s : State) : State :=
  let d := (rel - 0x1000) / 0x20
  if rel < 0x1000 ∨ 0x1800 ≤ rel ∨ domDie d ≠ die then s
  else match rel % 0x20 with
    | 0x0 => s.domAtMod d (fun x => { x with monTol := BitVec.ofNat 8 (fld w 23 16), tol := BitVec.ofNat 8 (fld w 15 8) })
    | 0x4 => s.domAtMod d (fun x => { x with fail := x.fail && !bit w 8 })
    | _ => s

/-- Code of a lane's state. -/
def LnState.code : LnState → Nat
  | .off => 0 | .detect => 1 | .train => 2 | .exchange => 3 | .active => 4 | .realign => 5 | .blind => 6

/-- A read of the registers of a lane (12). -/
def laneRead (l : LaneId) (reg : Nat) (insp : Bool) (s : State) : CsrAnswer :=
  let s := s.when (reg == 0xC || reg == 0x14) (lineSeen l)
  let x := s.laneAt l
  match reg with
  | 0x0 => csrPlain (x.cfg, s)
  | 0x4 => csrPlain (x.rate, s)
  | 0x8 => csrWord (x.lpbk.toNat * 1024 + b2n x.adaptHold * 512 + x.prbsSel.toNat * 64 + b2n x.prbsRx * 32 + b2n x.prbsTx * 16) s
  | 0xC => csrWord (x.tries.toNat * 65536 + b2n x.lost * 512 + b2n x.wrIgn * 256 + b2n x.prbsLock * 128 + b2n x.symLock * 64 + b2n x.cdrLock * 32
      + b2n x.sigDet * 16 + x.state.code) s
  | 0x10 => csrPlain (x.eqTx, s)
  | 0x14 => csrPlain (x.eqRx, s)
  | 0x20 => csrPlain (lnPrbsErrLoRead l insp s)
  | 0x24 => csrWord x.latErrHi.toNat s
  | 0x28 => csrWord x.latBits.toNat s
  | 0x2C => csrWord (x.latBits.toNat / 2 ^ 32) s
  | 0x30 => csrPlain (lnCodeErrRead l insp s)
  | 0x34 => csrPlain (lnFecRead l insp s)
  | 0x38 => csrPlain (lnHeldRead l insp s)
  | 0x3C => csrPlain (x.fill, s)
  | 0x40 => csrPlain (x.eyeCtrl, s)
  | 0x44 => csrWord (b2n x.eyeDone * 2 ^ 31 + x.eyeCount.toNat) s
  | _ => csrWord 0 s

/-- A write of `LN_CTRL` (R298, R303, R306): each field that changes acts as its own row does. -/
def lnCtrlWrite (l : LaneId) (w : Word) (s : State) : State :=
  let x := s.laneAt l
  let s := s.laneAtMod l (fun x => { x with prbsSel := BitVec.ofNat 3 (fld w 8 6) })
  let s := s.when (bit w 9 != x.adaptHold) (lnAdaptHoldF l (bit w 9))
  let s := s.when (BitVec.ofNat 2 (fld w 11 10) != x.lpbk) (lnLpbkF l (BitVec.ofNat 2 (fld w 11 10)))
  let s := s.when (bit w 5 != x.prbsRx) (lnPrbsRxEnF l (bit w 5))
  let s := s.when (bit w 4 != x.prbsTx) (lnPrbsTxEnF l (bit w 4))
  s.when (bit w 12) (lnPrbsClrF l)

/-- A write to the registers of a lane (12): `pre` is fixed on XL and PCIe lanes. -/
def laneWrite (l : LaneId) (reg : Nat) (w : Word) (s : State) : State :=
  let x := s.laneAt l
  match reg with
  | 0x8 => lnCtrlWrite l w s
  | 0xC => s.laneAtMod l (fun x => { x with lost := x.lost && !bit w 9, wrIgn := x.wrIgn && !bit w 8 })
  | 0x10 =>
    let v := w &&& 0x003FFF3F
    s.laneAtMod l (fun y => { y with eqTx := if l.die ≠ 0 ∨ x.owner = 1 ∨ x.owner = 2 then setFld v 5 0 (fld y.eqTx 5 0) else v })
  | 0x3C => s.laneAtMod l (fun x => { x with fill := w })
  | 0x40 => eyeScanGoF l w s
  | _ => s

/-- A read of the registers of a PCIe controller (R300, R302); a configuration read returns what the link answers, a free value. -/
def pcieRead (c reg : Nat) (insp : Bool) (s : State) : CsrAnswer :=
  let x := s.pcieAt c
  match reg with
  | 0x0 => csrWord (x.ltssm.toNat * 1024 + x.width.toNat * 32 + x.gen.toNat * 4 + b2n x.downSeen * 2 + b2n x.up) s
  | 0x4 => csrPlain (x.winLo, s)
  | 0x8 => csrPlain (x.winHi, s)
  | 0xC => csrWord x.lsize.toNat s
  | 0x10 => csrPlain (x.obLo, s)
  | 0x14 => csrPlain (x.obHi, s)
  | 0x20 => csrPlain (x.cfgReq, s)
  | 0x24 => let (v, s) := s.take 32; csrPlain (pcieCfgAccess c none (some v) insp s)
  | _ => csrWord 0 s

/-- A write to the registers of a PCIe controller (R300, R302). -/
def pcieWrite (c reg : Nat) (w : Word) (s : State) : State :=
  match reg with
  | 0x0 => s.pcieMod c (fun x => { x with downSeen := x.downSeen && !bit w 1 })
  | 0x4 => s.pcieMod c (fun x => { x with winLo := w &&& 0xFFF00000 })
  | 0x8 => s.pcieMod c (fun x => { x with winHi := w })
  | 0xC => s.pcieMod c (fun x => { x with lsize := BitVec.ofNat 6 w.toNat })
  | 0x10 => s.pcieMod c (fun x => { x with obLo := w &&& 0xFFFFF000 })
  | 0x14 => s.pcieMod c (fun x => { x with obHi := w })
  | 0x20 => s.pcieMod c (fun x => { x with cfgReq := w &&& 0xFFFF0FFF })
  | 0x24 => (pcieCfgAccess c (some w) none false s).2
  | _ => s

/-- A read in a die's lane block (12). An outbound aperture answers with what the link returns, a free value (R302). -/
def lnBlkRead (die rel : Nat) (insp : Bool) (s : State) : CsrAnswer :=
  let n := if die = 0 then 48 else 8
  if 0x1000 ≤ rel ∧ rel < 0x1000 + 0x1000 * n then laneRead (laneOf die ((rel - 0x1000) / 0x1000)) (rel % 0x1000) insp s
  else if rel = 0 then csrWord ((if die = 0 then 0 else 256) + n) s
  else if die ≠ 0 then csrWord 0 s
  else if rel = 4 then csrWord s.xcvr.spanPorts.toNat s
  else if 0x100 ≤ rel ∧ rel < 0x180 then pcieRead ((rel - 0x100) / 0x40) (rel % 0x40) insp s
  else if 0x80000 ≤ rel then
    let (v, s) := s.take 32; csrPlain (pcieOutbound ((rel - 0x80000) / 0x40000) (rel % 0x40000) none (some v) s)
  else csrWord 0 s

/-- A write in a die's lane block (12). -/
def lnBlkWrite (die rel : Nat) (w : Word) (s : State) : State :=
  let n := if die = 0 then 48 else 8
  if 0x1000 ≤ rel ∧ rel < 0x1000 + 0x1000 * n then laneWrite (laneOf die ((rel - 0x1000) / 0x1000)) (rel % 0x1000) w s
  else if die ≠ 0 then s
  else if 0x100 ≤ rel ∧ rel < 0x180 then pcieWrite ((rel - 0x100) / 0x40) (rel % 0x40) w s
  else if 0x80000 ≤ rel then (pcieOutbound ((rel - 0x80000) / 0x40000) (rel % 0x40000) (some w) none s).2
  else s

end Sys2Proof.Machine
end

