-- ==== Sys2Proof/Machine/CsrMem.lean ====
section
/-! DEFINITION. The registers of the SPN, DDR, MEE, WDS, TBC, PWR, TST and DBG blocks. Files 13 to 16 and 18 to 21. -/

namespace Sys2Proof.Machine

/-- Code of a span port's state. -/
def SpState.code : SpState → Nat
  | .disabled => 0 | .bringUp => 1 | .deskew => 2 | .up => 3 | .down => 4

/-- A read in the SPN block (13). -/
def spnRead (rel : Nat) (insp : Bool) (s : State) : CsrAnswer :=
  let p := s.span
  if 0x1000 ≤ rel ∧ rel < 0x1800 then csrPlain (sget 0xFFFFFFFF p.rt ((rel - 0x1000) / 4), s)
  else if 0x100 ≤ rel ∧ rel < 0x400 then
    let k := (rel - 0x100) / 0x40; let x := s.portAt k
    match rel % 0x40 with
    | 0x0 => csrPlain (s.reg 0 (blkSpn + rel), s)
    | 0x4 => csrWord (b2n x.tagFail * 512 + b2n x.downSeen * 256 + x.state.code) s
    | 0x8 => csrPlain (spnPerrRead k insp s)
    | 0xC => csrWord (s.owd k % 2 ^ 24) s
    | _ => csrWord 0 s
  else match rel with
    | 0x0 => csrWord (p.portEn.toNat * 4096 + p.devId.toNat) s
    | 0x4 => csrWord (b2n (!p.drains.isEmpty) * 32768 + b2n p.tbLost * 16384 + b2n p.wrIgn * 4096
        + (List.range 12).foldl (fun n k => n + b2n ((s.portAt k).state == .up) * 2 ^ k) 0) s
    | n => if n = 8 ∨ n = 0xC ∨ n = 0x10 then csrPlain (s.reg 0 (blkSpn + n), s) else csrWord 0 s

/-- A write in the SPN block (13). A device that becomes a follower waits for its first mark (R324). -/
def spnWrite (rel : Nat) (w : Word) (s : State) : State :=
  if 0x1000 ≤ rel ∧ rel < 0x1800 then spnRtWriteF ((rel - 0x1000) / 4) w s
  else if 0x100 ≤ rel ∧ rel < 0x400 then
    let k := (rel - 0x100) / 0x40
    match rel % 0x40 with
    | 0x0 => s.setReg 0 (blkSpn + rel) (w &&& 0xBF1FFF00)
    | 0x4 => s.portAtMod k (fun x => { x with tagFail := x.tagFail && !bit w 9, downSeen := x.downSeen && !bit w 8 })
    | _ => s
  else match rel with
    | 0x0 => spnCfgWriteF w s
    | 0x4 => s.onSpan (fun p => { p with wrIgn := p.wrIgn && !bit w 12 })
    | 0x8 =>
      let starts := fld w 31 30 == 2 && fld (s.reg 0 (blkSpn + 8)) 31 30 != 2
      (s.setReg 0 (blkSpn + 8) (w &&& 0xFCFFFFFF)).when starts (State.onSpan (fun p => { p with firstMark := true }))
    | n => if n = 0xC ∨ n = 0x10 then s.setReg 0 (blkSpn + n) w else s

/-- Code of a channel's state. -/
def ChState.code : ChState → Nat
  | .disabled => 0 | .training => 1 | .inService => 2 | .selfRefresh => 3 | .failed => 4 | .down => 5

/-- A read of the registers of a DRAM channel (14). -/
def ddrChRead (c reg : Nat) (insp : Bool) (s : State) : CsrAnswer :=
  let x := s.ddrAt c
  let ca := (match x.log with | some e => e.ca | none => x.logCa).toNat
  if 0x10 ≤ reg ∧ reg < 0x28 then csrPlain (wordAt x.masks ((reg - 0x10) / 4), s)
  else if 0x60 ≤ reg ∧ reg < 0x80 then
    let m := sget {} x.mark ((reg - 0x60) / 4)
    csrWord (min 65535 ((List.range 10).foldl (fun n i => max n (sget 0 m.charged i)) 0) * 65536 + b2n m.marked * 16 + m.device.toNat) s
  else if 0x100 ≤ reg ∧ reg < 0x180 then
    let e := sget {} x.remap ((reg - 0x100) / 8)
    csrWord (if reg % 8 < 4 then e.ca.toNat else b2n e.active * 2 ^ 31 + e.origin.toNat * 2 ^ 29 + e.ca.toNat / 2 ^ 32) s
  else match reg with
    | 0x0 => csrWord (((List.range 16).filter (fun i => (sget {} x.remap i).active)).length * 65536 + b2n x.wrIgn * 2048 + b2n x.slot1Unused * 1024
        + b2n x.dens * 512 + x.ranks.toNat * 128 + x.rate.toNat * 16 + x.state.code) s
    | 0x4 => csrPlain (s.reg 0 (blkDdr + c * 0x10000 + 4), s)
    | 0x30 => csrPlain (ddrRetrainRead c insp s)
    | 0x34 => csrWord (x.pass.toNat * 65536 + b2n x.late) s
    | 0x40 => csrPlain (ddrEccRead c insp s)
    | 0x44 => csrPlain (ddrErrlogRead c insp s)
    | 0x48 => csrWord ca s
    | 0x4C => csrWord (ca / 2 ^ 32) s
    | _ => csrWord 0 s

/-- A read in the DDR block (14). -/
def ddrBlkRead (rel : Nat) (insp : Bool) (s : State) : CsrAnswer :=
  if rel < 0xC0000 then ddrChRead (rel / 0x10000) (rel % 0x10000) insp s
  else match rel with
    | 0xC0000 => csrWord (b2n s.ddr.isOpen * 2 ^ 21 + ones s.ddr.set * 2 ^ 17 + s.ddr.set.toNat) s
    | 0xC0008 => csrWord s.ddr.usable s
    | _ => csrWord 0 s

/-- A write in the DDR block (14). -/
def ddrBlkWrite (rel : Nat) (w : Word) (s : State) : State :=
  let c := rel / 0x10000; let reg := rel % 0x10000
  if rel = 0xC0004 then s.when (bit w 0) (ddrRangeOpenF true)
  else if 0xC0000 ≤ rel then s
  else if 0x10 ≤ reg ∧ reg < 0x28 then ddrMapWriteF c ((reg - 0x10) / 4) w s
  else match reg with
    | 0x0 => s.ddrAtMod c (fun x => { x with wrIgn := x.wrIgn && !bit w 11 })
    | 0x4 => s.setReg 0 (blkDdr + rel) (w &&& 0xFFFFFF0F)
    | 0x30 => s.setReg 0 (blkDdr + rel) (w &&& 0xFFFF)
    | 0x34 => s.ddrAtMod c (fun x => { x with late := x.late && !bit w 0 })
    | _ => s

/-- `MEE_REGION.progress` (15): groups done in 1/65,536 of the region, on the slowest channel. -/
def State.meeProgress (s : State) (r : Nat) : Nat :=
  match s.mee.reenc with
  | some e =>
    if e.climbing ∧ e.regions.head? = some (Fin.ofNat 64 r) then
      min 65535 ((s.ddrSet.map (fun c => sget 0 e.done c)).foldl min (s.regionGroups r) * 65536 / max 1 (s.regionGroups r))
    else 0
  | none => 0

/-- A word of `MEE_REGION` (15). -/
def State.mregWord (s : State) (r w : Nat) : Nat :=
  let x := s.mregAt r
  let re := match s.mee.reenc with | some e => e.regions.head? == some (Fin.ofNat 64 r) | none => false
  match w with
  | 0 => x.base.toNat
  | 1 => x.base.toNat / 2 ^ 32
  | 2 => x.size.toNat
  | 3 => x.size.toNat / 2 ^ 32
  | 4 => b2n x.en * 2 ^ 31 + b2n re * 2 ^ 30 + x.slot.toNat * 2 ^ 24 + s.meeProgress r
  | 5 => x.maxMajor.toNat
  | 6 => x.binding.toNat
  | _ => 0

/-- A read in the MEE block (15). -/
def meeBlkRead (rel : Nat) (insp : Bool) (s : State) : CsrAnswer :=
  let e := s.mee
  if 0x100 ≤ rel ∧ rel < 0x200 then
    let k := (rel - 0x100) / 4
    csrWord (s.slotPorts k * 4096 + ((List.range 64).filter (fun r => (s.mregAt r).en && (s.mregAt r).slot.toNat == k)).length * 4 + (s.slotAt k).state.toNat) s
  else if 0x1000 ≤ rel ∧ rel < 0x1800 then csrWord (s.mregWord ((rel - 0x1000) / 0x20) (rel % 0x20 / 4)) s
  else match rel with
    | 0x0 =>
      let reg := match e.reenc with | some x => (x.regions.headD 0).val | none => 0
      csrWord (b2n e.reenc.isSome * 32768 + reg * 512 + ((List.range 64).filter (fun k => (s.slotAt k).state == 0)).length) s
    | 0x4 => csrWord (b2n e.autoRekey * 256 + b2n e.reencQw * 128 + e.reencCap.toNat) s
    | 0x8 => csrPlain (meeCountRead insp s)
    | 0x10 => csrWord (e.result.toNat * 2 ^ 28 + e.ctrlSlot.toNat) s
    | _ => csrWord 0 s

/-- A write in the MEE block (15). -/
def meeBlkWrite (rel : Nat) (w : Word) (s : State) : State :=
  if 0x40 ≤ rel ∧ rel < 0x78 then s.onMee (fun e => { e with load := sput 0 e.load ((rel - 0x40) / 4) w })
  else match rel with
    | 0x4 => s.onMee (fun e => { e with autoRekey := bit w 8, reencQw := bit w 7, reencCap := BitVec.ofNat 7 w.toNat })
    | 0x10 => (s.onMee (fun e => { e with ctrlSlot := BitVec.ofNat 6 w.toNat })).when (bit w 31) (meeSlotLoadGoF (fld w 5 0))
    | _ => s

/-- A read in the WDS block by a word (16); enqueues and TAKEs are whole 32-byte accesses. -/
def wdsBlkRead (rel : Nat) (insp : Bool) (s : State) : CsrAnswer :=
  let d := s.wds
  if !s.wdsOn then csrWord 0 s
  else if 0x10000 ≤ rel ∧ rel < 0x14000 then
    let c := (rel - 0x10000) / 0x40; let x := s.ctxAt c
    match rel % 0x40 with
    | 0x0 => csrPlain (x.cfg, s)
    | 0x4 => csrPlain (x.bind, s)
    | 0x8 => csrPlain (x.timer, s)
    | 0xC => csrPlain (x.remote, s)
    | 0x10 => csrWord (x.inService.length * 65536 + x.held.length * 256 + b2n (s.svcFrozen c) * 2 + b2n x.dead) s
    | _ => csrWord 0 s
  else match rel with
    | 0x0 => csrWord (b2n d.spillErr * 2 ^ 17 + s.wdsOndie) s
    | 0x4 => csrWord d.spillLsize.toNat s
    | 0x8 => csrPlain (d.spillLo, s)
    | 0xC => csrPlain (d.spillHi, s)
    | 0x10 => csrPlain (wdsCountRead insp s)
    | _ => csrWord 0 s

/-- A write in the WDS block by a word (16). -/
def wdsBlkWrite (rel : Nat) (w : Word) (s : State) : State :=
  if !s.wdsOn then s
  else if 0x10000 ≤ rel ∧ rel < 0x14000 then
    let n := (rel - 0x10000) / 0x40; let c : Fin 256 := Fin.ofNat 256 n
    match rel % 0x40 with
    | 0x0 => wdsServe (s.ctxAtMod n (fun x => { x with cfg := w &&& 0xFFFFFFE0 }))
    | 0x4 => s.ctxAtMod n (fun x => { x with bind := w &&& 0xFFF80000 })
    | 0x8 => s.ctxAtMod n (fun x => { x with timer := w })
    | 0xC => wdsServe (s.ctxAtMod n (fun x => { x with remote := w &&& 0xFFF003FF }))
    | 0x10 => s.when (bit w 0) (wdsCtxReviveF c)
    | 0x14 => wdsCtxReleaseF c (BitVec.ofNat 16 w.toNat) s
    | _ => s
  else match rel with
    | 0x0 => s.onWds (fun d => { d with spillErr := d.spillErr && !bit w 17 })
    | 0x4 => s.onWds (fun d => { d with spillLsize := BitVec.ofNat 6 w.toNat })
    | 0x8 => s.onWds (fun d => { d with spillLo := w })
    | 0xC => s.onWds (fun d => { d with spillHi := w &&& 0xFFFFF })
    | _ => s

/-- A read in the TBC block (19). -/
def tbcRead (rel : Nat) (insp : Bool) (s : State) : CsrAnswer :=
  let c := s.clk
  if 0x1000 ≤ rel ∧ rel < 0x2000 then
    let e := (rel - 0x1000) / 0x10
    if rel % 0x10 = 4 then csrPlain (tbcCalEntRead e insp s) else csrPlain (wordAt (s.calAt e).words (rel % 0x10 / 4), s)
  else match rel with
    | 0x0 => csrWord (c.prescale.toNat * 65536 + c.mode.toNat) s
    | 0x4 => csrPlain (tbcStatusRead insp s)
    | 0x8 => csrPlain (tbcPosLoRead insp s)
    | 0xC => csrPlain (c.latHi, s)
    | 0x10 => csrPlain (c.upd, s)
    | 0x14 => csrWord c.index.toNat s
    | 0x18 => csrWord (c.index.toNat / 2 ^ 32) s
    | 0x1C => csrWord (b2n c.qwForce * 2) s
    | _ => csrWord 0 s

/-- A write in the TBC block (19). -/
def tbcWrite (rel : Nat) (w : Word) (s : State) : State := if rel = 0x1C then rltResume (s.onClk (fun c => { c with qwForce := bit w 1 })) else s

/-- Word 0 or 1 of `PWR_DOM` (20). -/
def State.pdomWord (s : State) (d w : Nat) : Nat :=
  let p := s.pdomAt d
  if w = 0 then s.mgrVote d + p.host.toNat * 16 + p.fab.toNat * 256 + p.dbg.toNat * 4096 + p.cal.toNat * 65536
  else b2n p.moving.isSome * 4096 + s.floor d * 256 + s.settled d * 16 + (s.eff d).toNat

/-- A read in a die's PWR block (20). -/
def pwrRead (die rel : Nat) (s : State) : CsrAnswer :=
  let p := s.pwr
  if die ≠ 0 then
    csrWord (if 0x200 ≤ rel ∧ rel < 0x218 then (sget 0 p.retain (die - 1)).toNat / 2 ^ (8 * (rel - 0x200) / 32 * 32) else 0) s
  else if 0x100 ≤ rel ∧ rel < 0x1A0 then csrWord (if rel % 0x10 < 8 then s.pdomWord ((rel - 0x100) / 0x10) (rel % 0x10 / 4) else 0) s
  else if 0x10 ≤ rel ∧ rel < 0x24 then csrPlain (sget 0 p.watch ((rel - 0x10) / 4), s)
  else match rel with
    | 0x0 => csrWord (p.lowSeen.toNat * 256 + p.good.toNat) s
    | 0x4 => csrWord (p.wakeFrom.toNat * 65536 + b2n p.fabErr * 16 + p.wakeCause.toNat) s
    | 0x30 => csrPlain (p.warmLo, s)
    | 0x34 => csrWord p.warmHi.toNat s
    | 0x38 => csrWord (b2n p.warmHeld * 2 ^ 31 + p.warmSize.toNat) s
    | _ => csrWord 0 s

/-- A write in a die's PWR block (20). -/
def pwrWrite (die rel : Nat) (w : Word) (s : State) : State :=
  if die ≠ 0 then
    if 0x200 ≤ rel ∧ rel < 0x218 then
      let lo := (rel - 0x200) / 4 * 32
      s.onPwr (fun p => { p with retain := smod 0 p.retain (die - 1) (fun m => setFld m (lo + 31) lo w.toNat) })
    else s
  else match rel with
    | 0x0 => s.onPwr (fun p => { p with lowSeen := p.lowSeen &&& ~~~BitVec.ofNat 8 (fld w 15 8) })
    | 0x4 => s.onPwr (fun p => { p with fabErr := p.fabErr && !bit w 4 })
    | 0x8 => pwrMgrClrF w s
    | 0x30 => pwrWarmWriteF 0 w s
    | 0x34 => pwrWarmWriteF 1 w s
    | 0x38 => pwrWarmWriteF 2 w s
    | _ => s

/-- `TST_STATUS` (21): of several tests that run at once, the one that began first; a lane test is one step (log 103). -/
def State.tstStatus (s : State) : Nat :=
  let t := s.tst
  b2n t.scan * 2 ^ 31 + match t.bist with
    | b :: _ => (b.die.val + 1) * 65536 + (if b.whole then 0 else b.sec.val) * 256 + (if b.whole then 2 else if b.cmd.isSome then 1 else 4)
    | [] => 0

/-- A read in the TST block of H (21). -/
def tstRead (rel : Nat) (s : State) : CsrAnswer :=
  let t := s.tst
  match rel with
  | 0x0 => csrWord s.tstStatus s
  | 0x4 => csrPlain (t.bgCfg, s)
  | 0x8 => csrPlain (t.saveLo, s)
  | 0xC => csrPlain (t.saveHi, s)
  | 0x10 => csrWord (t.record.entries.length * 65536 + b2n (!t.add.isEmpty || !t.del.isEmpty) * 2 + b2n t.record.slot.isNone) s
  | 0x14 => csrPlain (t.record.seq, s)
  | 0x20 => csrWord t.telPeriod.toNat s
  | _ => csrWord 0 s

/-- A write in the TST block of H (21). -/
def tstWrite (rel : Nat) (w : Word) (s : State) : State :=
  match rel with
  | 0x4 => s.onTst (fun t => { t with bgCfg := w &&& 0xC000FFFF })
  | 0x8 => s.onTst (fun t => { t with saveLo := w })
  | 0xC => s.onTst (fun t => { t with saveHi := w })
  | 0x20 => s.onTst (fun t => { t with telPeriod := BitVec.ofNat 16 w.toNat })
  | _ => s

/-- The hart that the Debug Module has selected; 9 when it names none (R416). -/
def State.dmHart (s : State) : Nat := min 9 (fld s.dbg.dmControl 25 16)

/-- `dmstatus` (The RISC-V Debug Specification 1.0, log 45): version 3, authenticated, and the state of the selected hart. -/
def State.dmStatus (s : State) : Nat :=
  let h := s.dmHart; let x := s.hartAt h
  3 + 128 + (if 9 ≤ h then 0xC000 else if x.halted then 0x300 else 0xC00)

/-- A read of a Debug Module register (R416, log 45). -/
def dmRead (a : Nat) (s : State) : CsrAnswer :=
  if a = 4 ∨ a = 5 then csrPlain (sget 0 s.dbg.dmData (a - 4), s)
  else if 0x20 ≤ a ∧ a < 0x28 then csrPlain (sget 0 s.dbg.progbuf (a - 0x20), s)
  else match a with
    | 0x10 => csrPlain (s.dbg.dmControl, s)
    | 0x11 => csrWord s.dmStatus s
    | 0x16 => csrWord (8 * 2 ^ 24 + s.dbg.cmdErr.toNat * 256 + 2) s
    | _ => csrWord 0 s

/-- An abstract command (R416, log 45): Access Register of 32 or 64 bits. One that runs the program buffer leaves the hart's registers unknown. -/
def dmCommand (w : Word) (s : State) : State :=
  let h := s.dmHart; let size := fld w 22 20
  let err (n : Nat) (s : State) : State := s.onDbg (fun d => { d with cmdErr := BitVec.ofNat 3 n })
  if s.dbg.cmdErr != 0 then s
  else if fld w 31 24 ≠ 0 ∨ (size ≠ 2 ∧ size ≠ 3) ∨ bit w 19 ∨ 9 ≤ h then err 2 s
  else if !(s.hartAt h).halted then err 4 s
  else
    let lo := (sget 0 s.dbg.dmData 0).toNat
    let v := if size = 3 then lo + (sget 0 s.dbg.dmData 1).toNat * 2 ^ 32 else lo
    let s := s.when (bit w 17) (accessRegister h (fld w 15 0) (if bit w 16 then some (BitVec.ofNat 64 v) else none))
    if bit w 18 && s.dbg.cmdErr == 0 then
      ((s.hartAtMod h (fun x => { x with regs := x.regs.filter (fun e => e.1 == dcsrNo), era := s.fresh + 1 })).nextFree)
    else s

/-- A write of a Debug Module register (R415, R416, log 45). The bits of `dmcontrol` that take effect are `haltreq`, `resumereq` and `hartsel`. -/
def dmWrite (a : Nat) (w : Word) (s : State) : State :=
  if a = 4 ∨ a = 5 then s.onDbg (fun d => { d with dmData := sput 0 d.dmData (a - 4) w })
  else if 0x20 ≤ a ∧ a < 0x28 then s.onDbg (fun d => { d with progbuf := sput 0 d.progbuf (a - 0x20) w })
  else match a with
    | 0x10 =>
      let h := fld w 25 16
      if h = 8 ∧ s.authLevel < 2 then s.onDbg (fun d => { d with denied := true })
      else
        let s := s.onDbg (fun d => { d with dmControl := w &&& 0x03FF0001 })
        let s := s.when (bit w 31 && decide (h < 9)) (hartHaltReq h)
        s.when (bit w 30 && !bit w 31 && decide (h < 9) && s.mode != .held) (hartResume h)
    | 0x16 => s.onDbg (fun d => { d with cmdErr := d.cmdErr &&& ~~~BitVec.ofNat 3 (fld w 10 8) })
    | 0x17 => if s.dmHart = 8 ∧ s.authLevel < 2 then s.onDbg (fun d => { d with denied := true }) else dmCommand w s
    | _ => s

/-- A read in a die's DBG block (18). -/
def dbgRead (die rel : Nat) (s : State) : CsrAnswer :=
  let d := s.dbg
  if die ≠ 0 then
    if 0x500 ≤ rel ∧ rel < 0x518 then csrPlain (sget 0 d.sfrz ((die - 1) * 6 + (rel - 0x500) / 4), s)
    else csrWord (if rel = 0x518 then b2n (sget 0 d.frozen (die - 1) != 0) * 256 else 0) s
  else if 0x100 ≤ rel ∧ rel < 0x140 then csrPlain (sget 0 d.xt ((rel - 0x100) / 4), s)
  else if 0x200 ≤ rel ∧ rel < 0x290 then
    let x := s.wdtAt ((rel - 0x200) / 0x10)
    csrWord (match rel % 0x10 with
      | 0x0 => b2n x.en * 2 ^ 31 + b2n x.frz * 2 ^ 30 + x.period.toNat
      | 0x8 => b2n x.expired * 2 ^ 31 + b2n x.frozen * 2 ^ 30 + x.left.toNat
      | _ => 0) s
  else if 0x1000 ≤ rel ∧ rel < 0x1200 then dmRead ((rel - 0x1000) / 4) s
  else match rel with
    | 0x0 => csrWord (b2n d.denied * 65536 + fld (s.fuse 4 0) 1 0 * 16384
        + (List.range 5).foldl (fun n t => n + (sget 0 d.level t).toNat * 2 ^ (4 + 2 * t)) 0 + s.authLevel) s
    | 0x4 => csrWord (b2n d.calDefer * 256 + d.prev.toNat * 16 + b2n d.entering * 8 + b2n d.held * 4) s
    | 0x10 => csrPlain (d.accLo, s)
    | 0x14 => csrPlain (d.accHi, s)
    | 0x18 => csrPlain (d.accData, s)
    | 0x1C => csrPlain (s.accCtrlWord, s)
    | 0x400 => csrPlain (d.trace.cfg, s)
    | 0x404 => csrPlain (d.trace.baseLo, s)
    | 0x408 => csrPlain (d.trace.baseHi, s)
    | 0x40C => csrPlain (d.trace.wptr, s)
    | _ => csrWord 0 s

/-- A write of `DBG_HELD` (R422, R423). -/
def dbgHeldWrite (w : Word) (s : State) : State :=
  let s := s.onDbg (fun d => { d with calDefer := bit w 8 })
  if bit w 1 && s.mode == .held then retire portPcie1 (retire portPcie0 (heldRelease s)) else s.when (bit w 0) requestHeld

/-- A write of `DBG_TRACE_CFG` (R425): with `stop_full` cleared a full ring wraps. -/
def traceCfgWrite (w : Word) (s : State) : State :=
  s.onDbg (fun d =>
    let t := d.trace
    let wraps := t.full && !bit w 30
    { d with trace := { t with cfg := w, full := t.full && bit w 30, wptr := if wraps then 0 else t.wptr, post := if bit w 31 && !bit t.cfg 31 then none else t.post } })

/-- A write to the registers of a watchdog (R410, R411): they are always writable. -/
def wdtWrite (n reg : Nat) (w : Word) (s : State) : State :=
  match reg with
  | 0x0 =>
    let s := s.wdtAtMod n (fun x => { x with frz := bit w 30, period := BitVec.ofNat 24 w.toNat })
    wdtResume n (wdtFreeze n (s.when (bit w 31) (dbgWdtEnableF (Fin.ofNat 9 n))))
  | 0x4 => s.when (bit w 0) (dbgWdtKickF (Fin.ofNat 9 n))
  | _ => s

/-- A write to the DBG block of H that needs a level (R415). -/
def dbgCfgWrite (rel : Nat) (w : Word) (s : State) : State :=
  let onTrace (f : Trace → Trace) (s : State) : State := s.onDbg (fun d => { d with trace := f d.trace })
  if 0x100 ≤ rel ∧ rel < 0x140 then s.onDbg (fun d => { d with xt := sput 0 d.xt ((rel - 0x100) / 4) (w &&& 0xFEF000FE) })
  else if 0x1000 ≤ rel ∧ rel < 0x1200 then dmWrite ((rel - 0x1000) / 4) w s
  else match rel with
    | 0x0 => s.onDbg (fun d => { d with denied := d.denied && !bit w 16 })
    | 0x4 => dbgHeldWrite w s
    | 0x10 => accRegPut 0 w s
    | 0x14 => accRegPut 1 w s
    | 0x18 => accRegPut 2 w s
    | 0x1C => accCtrl w s
    | 0x140 => s.when (decide (fld w 15 0 ≠ 0)) (fireLines (fld w 15 0) true)
    | 0x400 => traceCfgWrite w s
    | 0x404 => onTrace (fun t => { t with baseLo := w }) s
    | 0x408 => onTrace (fun t => { t with baseHi := w }) s
    | _ => s

/-- A write in a die's DBG block, with its byte enables (18). -/
def dbgBlkWrite (die rel : Nat) (w : Word) (be : BitVec 4) (s : State) : State :=
  if die ≠ 0 then
    dbgWrite 1 (fun s =>
      if 0x500 ≤ rel ∧ rel < 0x518 then s.onDbg (fun d => { d with sfrz := sput 0 d.sfrz ((die - 1) * 6 + (rel - 0x500) / 4) w })
      else if rel = 0x518 then
        let s := s.when (bit w 0) (freezeDie (die - 1))
        s.when (bit w 1 && !bit w 0) (releaseDie (die - 1))
      else s) s
  else if 0x200 ≤ rel ∧ rel < 0x290 then wdtWrite ((rel - 0x200) / 0x10) (rel % 0x10) w s
  else if 0x300 ≤ rel ∧ rel < 0x380 then
    let n := ones be; let lo := ((List.range 4).find? (fun i => be.getLsbD i)).getD 0
    if n = 1 ∨ n = 2 ∨ n = 4 then dbgStimF (Fin.ofNat 32 ((rel - 0x300) / 4)) (w >>> (8 * lo)) n s else s
  else dbgWrite 1 (dbgCfgWrite rel w) s

end Sys2Proof.Machine
end

