-- ==== Sys2Proof/Machine/Csr.lean ====
section
/-! DEFINITION. CSR space: which offsets are mapped, reading and writing one register word, narrow writes, and REG_WRITE. Files 00 (R11 to R14) and
01 (R29 to R33). -/

namespace Sys2Proof.Machine

/-- The offset lies in a block or a sector window that the die implements (R30). -/
def csrMapped (die off : Nat) : Bool :=
  if die = 0 then decide (off < 0xE00000)
  else decide (die < 5) && (decide (blkCfg ≤ off ∧ off < blkSpn) || decide (0x1000000 ≤ off ∧ off < 0xD000000))

/-- A read of the register word at an offset of a die's CSR range (R11, R13, R14). -/
def csrRead (die off : Nat) (insp : Bool) (s : State) : CsrAnswer :=
  let rel := off % 0x100000
  if 0x1000000 ≤ off then secRead (die - 1) ((off - 0x1000000) / 0x100000) rel insp s
  else match off / 0x100000, die with
    | 0, _ => mgrRead rel s
    | 1, 0 => cfgBlkRead rel s
    | 2, _ => nocRead die rel insp s
    | 3, _ => adlRead die rel insp s
    | 4, _ => clkRead die rel s
    | 5, _ => pwrRead die rel s
    | 6, 0 => tstRead rel s
    | 7, _ => dbgRead die rel s
    | 8, _ => lnBlkRead die rel insp s
    | 9, _ => spnRead rel insp s
    | 10, _ => ddrBlkRead rel insp s
    | 11, _ => meeBlkRead rel insp s
    | 12, _ => wdsBlkRead rel insp s
    | 13, _ => tbcRead rel insp s
    | _, _ => csrWord 0 s

/-- A write of the register word at an offset of a die's CSR range (R11, R13), by a request of firewall group `fwg`. -/
def csrPut (die off : Nat) (be : BitVec 4) (w : Word) (fwg : BitVec 5) (s : State) : State :=
  let rel := off % 0x100000
  if 0x1000000 ≤ off then secWrite (die - 1) ((off - 0x1000000) / 0x100000) rel w be s
  else match off / 0x100000, die with
    | 0, _ => mgrWrite rel w s
    | 1, 0 => cfgBlkWrite rel w s
    | 2, _ => nocWrite die rel w fwg s
    | 3, _ => adlWrite die rel w fwg s
    | 4, _ => clkWrite die rel w s
    | 5, _ => pwrWrite die rel w s
    | 6, 0 => tstWrite rel w s
    | 7, _ => dbgBlkWrite die rel w be s
    | 8, _ => lnBlkWrite die rel w s
    | 9, _ => spnWrite rel w s
    | 10, _ => ddrBlkWrite rel w s
    | 11, _ => meeBlkWrite rel w s
    | 12, _ => wdsBlkWrite rel w s
    | 13, _ => tbcWrite rel w s
    | _, _ => s

/-- The register at the offset has W1C fields, so a byte that is not written writes zeros there (R11). No such register has RW fields. -/
def csrClears (die off : Nat) : Bool :=
  let rel := off % 0x100000
  if 0x1000000 ≤ off then
    if rel < 0x10000 then rel == 0xC004 else if rel < 0x70000 then (rel - 0x10000) % 0x4000 == 4
    else if rel < 0x7A800 then (rel - 0x70000) % 0x800 == 4 else rel == 0x80004
  else match off / 0x100000 with
    | 0 => rel == 0x10
    | 1 => rel == 0x204
    | 2 => rel == 4 || (decide (0x4000 ≤ rel ∧ rel < 0x8000) && rel % 0x20 == 4)
    | 3 => decide (0x100 ≤ rel ∧ rel < 0x190)
    | 4 => rel % 0x20 == 4
    | 5 => die == 0 && decide (rel < 8)
    | 7 => rel == 0 && die == 0
    | 8 => (decide (0x100 ≤ rel ∧ rel < 0x180) && rel % 0x40 == 0) || (decide (0x1000 ≤ rel ∧ rel < 0x80000) && rel % 0x1000 == 0xC)
    | 9 => rel == 4 || (decide (0x100 ≤ rel ∧ rel < 0x400) && rel % 0x40 == 4)
    | 10 => decide (rel < 0xC0000) && (rel % 0x10000 == 0 || rel % 0x10000 == 0x34)
    | 12 => rel == 0 || (decide (0x10000 ≤ rel) && rel % 0x40 == 0x10)
    | _ => false

/-- A write of some bytes of a register word: a byte that is not written leaves its fields as they are (R240, log 47). -/
def csrWrite (die off : Nat) (be : BitVec 4) (w : Word) (fwg : BitVec 5) (s : State) : State :=
  if be = 15 then csrPut die off be w fwg s
  else
    let old : Word := if csrClears die off then 0 else (csrRead die off true s).1.1
    let v := (List.range 4).foldl (fun v i => if be.getLsbD i then setFld v (8 * i + 7) (8 * i) (fld w (8 * i + 7) (8 * i)) else v) old
    csrPut die off be v fwg s

/-- CSR target port of a die (R246). -/
def csrPort (die : Nat) : Nat := if die = 0 then portSink else die * 128 + 2

/-- The registers of a die take accesses: the device is out of Greenware, the die has joined, and its CSR target serves (R28, R454). -/
def State.csrLive (s : State) (die : Nat) : Bool := s.mode != .greenware && !s.dieOffline die && s.portServes (csrPort die)

/-- `REG_WRITE` (R11, R13, R29, R30): a whole-word write to a register. The registers of a guest die are its own (R31). -/
def regWriteF (die off : Nat) (w : Word) (fwg : BitVec 5) (s : State) : State :=
  if s.csrLive die && csrMapped die off && off % 4 == 0 then csrWrite die off 15 w fwg s else s
def execRegWrite (die : Fin 7) (off : BitVec 28) (w : Word) (fwg : BitVec 5) (s : State) : Host.Outcome State Fault Refusal :=
  .next (regWriteF die.val off.toNat w fwg s)

end Sys2Proof.Machine
end

