-- ==== Sys2Proof/Machine/NocServe.lean ====
section
/-! DEFINITION. Target ports: the firewall, registers over the network, requests handed to DRAM, fabric, the dispatcher and the span link, and
READ_MEM. Files 02, 10, 13, 14 and 16. -/

namespace Sys2Proof.Machine

/-- Local address of a request (R34). -/
def NReq.local (q : NReq) : Nat := q.addr.toNat % 2 ^ 52

/-- Word `i` of firewall window `w` of a target port (R256). -/
def State.fwWin (s : State) (p w i : Nat) : Word := s.reg (portDie p) (blkNoc + 0x8000 + 0x200 * (p % 128) + 0x100 + 0x10 * w + 4 * i)

/-- Window `w` of a target port permits a request of the type and group (R256): enabled, of a legal size, aligned, holding every byte. -/
def State.fwPermits (s : State) (p w : Nat) (q : NReq) : Bool :=
  let w1 := s.fwWin p w 1; let l := fld w1 29 24
  let base := fld w1 7 0 * 2 ^ 44 + (s.fwWin p w 0).toNat * 2 ^ 12
  let rd := bit (s.fwWin p w 2) q.fwg.toNat; let wr := bit (s.fwWin p w 3) q.fwg.toNat
  bit w1 31 && decide (12 ≤ l ∧ l ≤ 52) && base % 2 ^ l == 0
  && decide (base ≤ q.local ∧ q.local + q.len.toNat < base + 2 ^ l)
  && (if q.typ = 0 then rd else if q.typ = 1 then wr else rd && wr)

/-- The firewall of a target port lets a request pass (R256). -/
def State.fwPass (s : State) (p : Nat) (q : NReq) : Bool :=
  !bit (s.reg (portDie p) (blkNoc + 0x8000 + 0x200 * (p % 128))) 0 || q.fwg == 31 || 3 ≤ q.typ.toNat
  || (List.range 16).any (fun w => s.fwPermits p w q)

/-- A denial (R256): the first one is logged while the log is empty, 0x3A04 is raised, and the answer is DENIED, sent at port `via`. -/
def fwDenyVia (via p : Nat) (q : NReq) (s : State) : State :=
  let s := if (s.tportAt p).fwLog.isSome then s
    else s.tportAtMod p (fun t => { t with fwLog := some (q.typ != 0, q.fwg, q.src), fwAddr := BitVec.ofNat 52 q.local })
  sendRsp via (rspFor q stDenied [] []) (raiseFrom (portDie p) 0x3A04 s)
/-- A denial at the port the request came to. -/
def fwDeny (p : Nat) (q : NReq) (s : State) : State := fwDenyVia p p q s

/-- Byte enables of register word `w` under a request (R240). -/
def wordEnables (a len w : Nat) : BitVec 4 := bvOf 4 (fun i => decide (a ≤ 4 * w + i ∧ 4 * w + i ≤ a + len))

/-- Register words a request touches, ascending, as word numbers of its die's CSR range. -/
def csrWords (a len : Nat) : List Nat := (List.range ((a + len) / 4 - a / 4 + 1)).map (fun i => a / 4 + i)

/-- Read register words in ascending order: each word with its poison. -/
def csrReadAll (die : Nat) (insp : Bool) : List Nat → State → List (Word × Bool) × State
  | [], s => ([], s)
  | w :: ws, s =>
    let r := csrRead die (4 * w) insp s
    let t := csrReadAll die insp ws r.2
    (r.1 :: t.1, t.2)

/-- A read of registers over the network (R11, R14, R240, R242). -/
def csrServeRead (p : Nat) (q : NReq) (s : State) : State :=
  let die := portDie p; let a := q.local % 0x10000000; let len := q.len.toNat
  let r := csrReadAll die q.insp (csrWords a len) s
  let bytes := (r.1.flatMap (fun x => natBytes x.1.toNat 4)).drop (a % 4)
  let data := placeBytes a (bytes.take (len + 1))
  let bad := (List.range data.length).map (fun j => r.1.zipIdx.any (fun x => x.1.2 && (a / 4 + x.2) / 8 == a / 32 + j))
  sendRsp p (rspFor q (if bad.any id then stPoison else stOk) data bad) r.2

/-- A write of registers over the network, word by word in ascending order (R11, R240, R244). -/
def csrServeWrite (p : Nat) (q : NReq) (s : State) : State :=
  let die := portDie p; let a := q.local % 0x10000000; let len := q.len.toNat
  let word (w : Nat) : Word := wd (fld (q.data.getD (w / 8 - a / 32) 0) (32 * (w % 8) + 31) (32 * (w % 8)))
  let s := s.each (csrWords a len) (fun w t => csrWrite die (4 * w) (wordEnables a len w) (word w) q.fwg t)
  sendRsp p (rspFor q stOk [] []) s

/-- The request touches the enqueue or a TAKE address of the dispatcher in service (R379, R384): the context, or none for `WDS_ENQ`. -/
def State.wdsDoor (s : State) (q : NReq) : Option (Option Nat) :=
  let a := q.local % 0x10000000; let r := a - blkWds; let e := r + q.len.toNat
  if !s.wdsOn || decide (a < blkWds) then none
  else if r < 0x120 ∧ 0x100 ≤ e then some none
  else if 0x10000 ≤ r ∧ r < 0x14000 ∧ (0x20 ≤ r % 0x40 ∨ 0x20 ≤ r % 0x40 + q.len.toNat) then some (some ((r - 0x10000) / 0x40))
  else none

/-- A request at the dispatcher's doors (R379, R384): one write enqueues an item, one read takes one; other forms are UNSUPPORTED, but for a read of
`WDS_ENQ`, which returns zero (R11). -/
def wdsDoorServe (door : Option Nat) (q : NReq) (s : State) : State :=
  let whole := q.len == 31 && q.local % 32 == 0
  match door with
  | none =>
    if q.typ = 1 then
      if whole then wdsEnq (some q) (q.data.headD 0) 31 (q.bad.any id) s else sendRsp portSink (rspFor q stUnsupported [] []) s
    else csrServeRead portSink q s
  | some c => if q.typ = 0 ∧ whole then wdsTakeOf (some q) c 31 q.insp false s else sendRsp portSink (rspFor q stUnsupported [] []) s

/-- The request goes to the registers of the dispatcher, which the H CSR target hands on to the WDS target (16, Registers). -/
def toWds (p : Nat) (q : NReq) : Bool := p == portSink && (q.local % 0x10000000) / 0x100000 == blkWds / 0x100000

/-- A request at a CSR target (R13, R30, R242, R244); one for the dispatcher passes the firewall of its own target port too (R256). -/
def csrServe (p : Nat) (q : NReq) (s : State) : State :=
  let a := q.local % 0x10000000
  if toWds p q && !s.fwPass portWdsT q then fwDenyVia p portWdsT q s
  else if q.hpoison then sendRsp p (poisonRsp q) s
  else if 2 ≤ q.typ.toNat then sendRsp p (rspFor q stUnsupported [] []) s
  else if (csrWords a q.len.toNat).any (fun w => !csrMapped (portDie p) (4 * w)) then sendRsp p (rspFor q stUnmapped [] []) s
  else match (if p = portSink then s.wdsDoor q else none) with
    | some door => wdsDoorServe door q s
    | none =>
      if q.typ = 0 then csrServeRead p q s
      else if q.bad.any id then sendRsp p (rspFor q stPoison [] []) s
      else csrServeWrite p q s

/-- A request at a DRAM port joins the channel's queue (R338, R340); a channel that does not serve answers TARGET_ERR (R337). -/
def ddrTake (c p : Nat) (q : NReq) (s : State) : State :=
  let x := s.ddrAt c
  if q.hpoison then sendRsp p (poisonRsp q) s
  else if 3 ≤ q.typ.toNat then sendRsp p (rspFor q stUnsupported [] []) s
  else if (s.dramMap q.local).isNone then sendRsp p (rspFor q stUnmapped [] []) s
  else if x.state == .down || x.state == .failed || x.state == .disabled then sendRsp p (rspFor q stTargetErr [] []) s
  else
    let s := if q.typ = 0 then readArrives c (s.reqCa q) s else s
    s.ddrAtMod c (fun x => { x with q := x.q ++ [q] })

/-- The lowest span transaction ID that is free (R314). -/
def State.freeStid (s : State) : Option Nat := (List.range 1024).find? (fun k => sget none s.span.stx k == none)

/-- The REQ frame of a request and the DATA frames of its further flits (R314). -/
def reqFrames (ddev sdev ttl stid : Nat) (q : NReq) : List (List Word) :=
  let w2 := q.typ.toNat * 2 ^ 28 + q.otag.toNat * 2 ^ 24 + q.qos.toNat * 2 ^ 22 + b2n q.hpoison * 2 ^ 21 + q.aop.toNat * 65536 + q.len.toNat * 256
  mkFrame 1 ddev sdev ttl ([wd w2, wd (stid * 65536 + b2n (q.bad.headD false))] ++ natWords q.addr.toNat 2 ++ natWords (q.data.headD 0).toNat 8)
  :: (List.range (q.data.length - 1)).map (fun i =>
    mkFrame 3 ddev sdev ttl (natWords (q.data.getD (i + 1) 0).toNat 8 ++ [wd (b2n (q.bad.getD (i + 1) false))]))

/-- A request for another device at the SPN target (R314, R317): it leaves as a span transaction. -/
def spanTake (q : NReq) (s : State) : State :=
  let dev := q.addr.toNat / 2 ^ 52
  if 3 ≤ q.typ.toNat then sendRsp portSpn (rspFor q stUnsupported [] []) s
  else match s.spanRoute dev, s.freeStid with
    | none, _ => sendRsp portSpn (rspFor q stUnmapped [] []) s
    | some _, none => s
    | some k, some id =>
      if (s.portAt k).state != .up then sendRsp portSpn (rspFor q stUnreach [] []) s
      else
        let s := s.onSpan (fun p => { p with stx := sput none p.stx id (some { req := q, ddev := BitVec.ofNat 12 dev, port := BitVec.ofNat 4 k }) })
        spanSend k (reqFrames dev q.sdev.toNat (s.ttlInit k) id q) s

/-- A request presented to user logic behind a fabric target port (R249, R252, R254). A region that has closed the port answers UNMAPPED, but those
accepted before it opened, `kept`, are still presented (R217). -/
def fabricPresent (p : Nat) (kept : Bool) (q : NReq) (s : State) : State :=
  if !kept && !(s.secAt ((fabricPortSector p).1 * 192 + (fabricPortSector p).2)).portsOpen then sendRsp p (rspFor q stUnmapped [] []) s
  else if 3 ≤ q.typ.toNat ∨ (q.typ = 2 ∧ 4 < q.aop.toNat) then sendRsp p (rspFor q stUnsupported [] []) s
  else s.tportAtMod p (fun t => { t with pres := t.pres ++ [(t.nextId, q)], nextId := t.nextId + 1 })

/-- The target can take its next request now (R249, R252, R314, R318, R338, R421, R422): room behind the port, and no clock that stands still. -/
def State.targetReady (s : State) (p : Nat) (q : NReq) : Bool :=
  if isFabricPort p then
    let n := (fabricPortSector p).1 * 192 + (fabricPortSector p).2
    (!(s.secAt n).portsOpen && (s.tportAt p).drain == 0) || (s.clocked n && decide ((s.tportAt p).pres.length < 64) && !(s.tportAt p).pres.any (fun e => e.1 == (s.tportAt p).nextId))
  else if p = portSpn then s.freeStid.isSome && !s.span.drains.any (fun d => d.dev.toNat == q.addr.toNat / 2 ^ 52)
  else match portDdr p with
    | some c => q.typ != 0 || decide (((s.ddrAt c).q.filter (fun r => r.typ == 0)).length < 64)
    | none => true

/-- A request that passed the firewall reaches its target. A PCIe controller's target port stands at no address (R246): it answers UNMAPPED,
and like the WDS target UNSUPPORTED to what only DRAM and fabric take (R243, R244). -/
def targetTake (p : Nat) (kept : Bool) (q : NReq) (s : State) : State :=
  if isCsrPort p then csrServe p q s
  else if isFabricPort p then fabricPresent p kept q s
  else if p = portSpn then spanTake q s
  else match portDdr p with
    | some c => ddrTake c p q s
    | none => sendRsp p (rspFor q (if q.typ.toNat < 2 then stUnmapped else stUnsupported) [] []) s

/-- The oldest request of a target port is checked by the firewall and served, when it is of one of the types named (R243, R248, R256). -/
def targetServe (p : Nat) (types : Nat → Bool) (s : State) : State :=
  match (s.tportAt p).inq with
  | [] => s
  | q :: rest =>
    if types q.typ.toNat && s.targetReady p q && s.portClocked p && s.mode != .greenware then
      let kept := 0 < (s.tportAt p).drain
      let s := s.tportAtMod p (fun t => { t with inq := rest, drain := t.drain - 1 })
      if s.fwPass p q then targetTake p kept q s else fwDeny p q s
    else s

/-- `RD` (R14, R242, R243, R247 to R249, R256): and a request of a reserved type, which is answered UNSUPPORTED. -/
def rdF (p : Nat) (s : State) : State := targetServe p (fun t => t != 1 && t != 2) s
def execRd (p : BitVec 10) (s : State) : Host.Outcome State Fault Refusal :=
  .next (s.when (isTport p.toNat) (rdF p.toNat))

/-- `WR` (R242 to R244, R247 to R249, R256). -/
def wrF (p : Nat) (s : State) : State := targetServe p (fun t => t == 1) s
def execWr (p : BitVec 10) (s : State) : Host.Outcome State Fault Refusal :=
  .next (s.when (isTport p.toNat) (wrF p.toNat))

/-- `ATOM` (R243, R244, R247 to R249, R256): DRAM and fabric ports take it; every other target answers UNSUPPORTED. -/
def atomF (p : Nat) (s : State) : State := targetServe p (fun t => t == 2) s
def execAtom (p : BitVec 10) (s : State) : Host.Outcome State Fault Refusal :=
  .next (s.when (isTport p.toNat) (atomF p.toNat))

/-- The word at a word-aligned global address, as MGR reads it for READ_MEM: none when the access gives no data. Registers and DRAM are read as
MGR's initiator port would; what another device, a guest die or user logic returns is not of this part: a free value (log 48). -/
def memWord (a : Nat) (s : State) : Option (Word × State) :=
  let l := a % 2 ^ 52
  match s.resolve a with
  | .error _ => none
  | .ok t =>
    if isCsrPort t then
      let door := if t = portSink then (match s.wdsDoor { addr := BitVec.ofNat 64 l, len := 3 } with | some (some _) => true | _ => false) else false
      if csrMapped (portDie t) (l % 0x10000000) && !door then
        let r := csrRead (portDie t) (l % 0x10000000) false s
        if r.1.2 then none else some (r.1.1, r.2)
      else none
    else match portDdr t, s.dramMap l with
      | some c, some x =>
        if !s.ddrServes c then none
        else match lineRead c (x.2 / 64) {} 0x4F10 s with
          | .error e => some (0, fatal e s)
          | .ok (v, 0, s) => some (wd (fld v (8 * (x.2 % 64) + 31) (8 * (x.2 % 64))), s)
          | .ok _ => none
      | _, _ => if t = portPcie0 ∨ t = portPcie1 then none else some (s.take 32)

/-- Words from a word-aligned address on, until one gives no data. -/
def memWords : Nat → Nat → State → List Word × State
  | 0, _, s => ([], s)
  | n + 1, a, s =>
    match memWord a s with
    | none => ([], s)
    | some (w, s) => let r := memWords n (a + 4) s; (w :: r.1, r.2)

/-- `READ_MEM` (R39, R42, R50, R415): needs level 0x1; the byte count is a multiple of 4. An access that fails ends the command with HW_FAULT
after the data before it (log 48); one that is fatal ends everything. -/
def readMemF (id : CmdId) (s : State) : State :=
  startCmd id 0x32 (fun c s =>
    let a := (c.p 0).toNat + (c.p 1).toNat * 2 ^ 32; let n := (c.p 2).toNat
    require (1 ≤ s.levelOf c.id.t) rcDenied c (fun s =>
    require (n % 4 == 0) rcBadParam c (fun s =>
      let r := memWords (if n = 0 then 0 else (a % 4 + n + 3) / 4) (a / 4 * 4) s
      let bytes := (wordBytes r.1).drop (a % 4)
      let got := min n (bytes.length / 4 * 4)
      let units := (List.range (got / 4)).map (fun i => [wd (bytesNat ((bytes.drop (4 * i)).take 4))])
      if r.2.mode == .greenware then r.2
      else if got = n then finishUnits c units r.2
      else finishAfter c units rcHwFault [] r.2) s) s) s
def execReadMem (c : CmdId) (s : State) : Host.Outcome State Fault Refusal := .next (readMemF c s)

end Sys2Proof.Machine
end

