-- ==== Sys2Proof/Machine/Pins.lean ====
section
/-! DEFINITION. What the pins outside user I/O show, and what the JTAG port captures: views of the state, which no command writes.
Files 03 (R62), 12 (R307) and 18 (R412). -/

namespace Sys2Proof.Machine

/-- What the device does to a pin. -/
inductive PinShow where
  /-- high-impedance -/
  | highZ
  /-- an open-drain output that is not pulled low -/
  | released
  /-- driven low -/
  | low
  /-- driven high -/
  | high
  /-- driven by its interface as that runs -/
  | live
  deriving DecidableEq, Repr, Inhabited

/-- VDD_AO, VAUX and VCC_H are in range; otherwise the pins are in the Unpowered column (R62). -/
def State.powered (s : State) : Bool := s.pwr.good.getLsbD 0 && s.pwr.good.getLsbD 1 && s.pwr.good.getLsbD 2

/-- DONE (R62, R213). -/
def State.donePin (s : State) : PinShow := if s.powered && s.mode != .greenware && s.cfg.doneDrive then .low else .released

/-- ALERT_N (R62, R401). -/
def State.alertPin (s : State) : PinShow := if s.powered && s.alert then .low else .released

/-- SLP_N (R451): driven from the always-on island, open drain, low while the device rests at L7. -/
def State.slpPin (s : State) : PinShow := if s.pwr.slpLow then .low else .released

/-- The chip selects of FSPI0 and FSPI1 between transfers (R62): driven high from step 5. -/
def State.fspiPin (s : State) : PinShow := if s.powered && s.mode != .greenware && s.boot.flashDone then .high else .highZ

/-- SMB_CLK and SMB_DAT (R62): the target is live from step 7, unless the straps leave JTAG alone (R61). -/
def State.smbPin (s : State) : PinShow :=
  if s.powered && s.mode != .greenware && s.boot.settingsDone && s.boot.straps != 4 then .live else .released

/-- The DDR pins (R62): high-impedance until training. -/
def State.ddrPin (s : State) (c : Fin 12) : PinShow :=
  if s.powered && (s.ddrAt c).state != .disabled then .live else .highZ

/-- JTAG TDO (R412): driven only in Shift-IR and Shift-DR, which `shift` says; the port runs whenever VAUX and VDD_AO are in range. -/
def State.tdoPin (s : State) (shift : Bool) : PinShow :=
  if s.pwr.good.getLsbD 0 && s.pwr.good.getLsbD 1 && shift then .live else .highZ

/-- What the transmitter of a lane does, and whether its terminations are on (R62, R291, R307). -/
inductive LaneShow where
  /-- electrical idle -/
  | idle (terminated : Bool)
  /-- receiver detect -/
  | detect
  /-- training sets or Ethernet training frames -/
  | training
  /-- idle fill or the `fill` word, and nothing of the user's -/
  | fill
  /-- running -/
  | running
  deriving DecidableEq, Repr, Inhabited

/-- The state of a lane by mode and rung (R307). -/
def State.laneShow (s : State) (l : LaneId) : LaneShow :=
  let x := s.laneAt l
  let xm := l.die == 0
  let rail := s.pwr.good.getLsbD (if xm then 4 else 5)
  let pcie := (s.pcieOwner l.lane.val).isSome
  let rung := (s.pdomAt (if !xm then l.die.val else if pcie then 9 else 0)).rung.toNat
  if !s.powered || !rail || s.mode == .greenware || (s.mode == .bisque && !s.boot.settingsDone) then .idle false
  else if s.mode == .bisque && !xm then .idle false
  else if decide (6 ≤ rung) || (s.mode == .cooling && !(xm && pcie)) then .idle false
  else match x.state with
    | .off => .idle (s.mode != .bisque)
    | .detect => .detect
    | .train | .exchange | .realign => .training
    | .active | .blind => if !xm && (s.mode == .held || 1 ≤ rung) then .fill else .running

/-- What Capture-IR loads (R412). -/
def jtagCaptureIr : Byte := 0b00000101

/-- What Capture-DR loads under the instruction in force, as length and value (R412, R478): boundary scan and the scan chains have lengths and
contents that the spec does not give (none). -/
def State.jtagCapture (s : State) : Option (Nat × Nat) :=
  let bypass : Option (Nat × Nat) := some (1, 0)
  let gone := s.mode == .greenware || decide (5 ≤ (s.pdomAt 0).rung.toNat)
  match s.dbg.ir.toNat with
  | 0x00 => if s.extesting then none else bypass
  | 0x01 => if gone then bypass else none
  | 0x02 => some (32, 0x1940A5B7)
  | 0x32 => some (34, s.mgr.jtagDr.toNat)
  | 0x33 => if gone then bypass else some (36, match s.dbg.jtagRead with | some w => 2 ^ 34 + w.toNat | none => 0)
  | 0x34 => if gone || !s.tst.scan then bypass else none
  | _ => bypass

end Sys2Proof.Machine
end

