-- ==== Sys2Proof/Machine/System.lean ====
section
/-! DEFINITION. Commands that end other commands: ABORT, RESET_DEVICE and SET_MODE. File 02 (R53 to R55). -/

namespace Sys2Proof.Machine

/-- A self-test is given up (R55): its target is initialised again and returned to its user, a die through its rejoin, and no result is recorded. -/
def bistGiveUp (b : BistRun) (s : State) : State :=
  if b.whole then
    dieRejoinF (b.die.val + 1) false (s.onTst (fun t => { t with bist := t.bist.map (fun x => if x == b then { x with cmd := none, tested := some [] } else x) }))
  else testSectorBack b (s.onTst (fun t => { t with bist := t.bist.filter (· != b) }))

/-- Roll back a command that has started and is before its commit point, and end it ABORTED (R54, R55); none for an atomic command and for one past
its commit point. -/
def rollBack (c : Cmd) (s : State) : Option State :=
  if c.committed then none
  else match c.op with
  | 0x10 => match s.cfg.session with
    | some x => if x.owner = c.id ∧ x.early s then some (sessionRollback s) else none
    | none => none
  | 0x30 =>
    if s.cfg.captures.any (fun k => k.cmd == c.id) then
      some (finish c rcAborted [] (s.onCfg (fun g => { g with captures := g.captures.filter (fun k => k.cmd != c.id) })))
    else none
  | 0x50 =>
    ((List.range 64).find? (fun d => match (s.domAt d).ramp with | some (_, 0, some id) => id == c.id | _ => false)).map (fun d => switchEnd d rcAborted s)
  | 0x71 | 0xA1 => match s.mee.reenc with
    | some e =>
      if e.cmd = some c.id ∧ !e.climbing then
        some (finish c rcAborted [] ((s.onMee (fun x => { x with reenc := none })).when e.gen (clearSlot e.slot.toNat)))
      else none
    | none => none
  | 0x90 => (s.tst.bist.find? (fun b => b.cmd == some c.id)).map (fun b => finish c rcAborted [] (bistGiveUp b s))
  | _ => none

/-- Session packets (R48). -/
def isSessionOp (op : Nat) : Bool := op == 0x11 || op == 0x12 || op == 0x13 || op == 0x17 || op == 0x18

/-- End one outstanding command by ABORT (R54): a queued one has no effect, but a session packet of an open session fails its load (R497), and with the
CFG_BEGIN of the session that is open the session ends and its queued packets with it (R55). None when it is too late. -/
def abortCmd (c : Cmd) (s : State) : Option State :=
  if c.started then rollBack c s
  else some (if isSessionOp c.op then sessFail rcAborted c s
    else if s.sessOwner = some c.id then sessionRollback s else finish c rcAborted [] s)

/-- `ABORT` (R54, R55). -/
def abortF (id : CmdId) (s : State) : State :=
  startCmd id 0x04 (fun c s =>
    require (onlyBits (c.p 0) (if bit (c.p 0) 8 then 0x100 else 0xFF)) rcBadParam c (fun s =>
      let r := if bit (c.p 0) 8 then
          match s.openSess with
          | some x => if x.early s then some (sessionRollback s) else none
          | none => none
        else match s.findCmd { c.id with tag := BitVec.ofNat 8 (fld (c.p 0) 7 0) } with
          | some t => if t.id = c.id then none else abortCmd t s
          | none => none
      match r with
      | some s => finish c rcOk [] s
      | none => finish c rcTooLate [] s) s) s
def execAbort (c : CmdId) (s : State) : Host.Outcome State Fault Refusal := .next (abortF c s)

/-- Every other command that is queued or before its commit point ends ABORTED, the configuration session first (R53, R55). -/
def abortOthers (id : CmdId) (s : State) : State :=
  let s := match s.openSess with
    | some x => if x.early s then sessionRollback s else s
    | none => s
  s.each (s.mgr.cmds.filter (fun c => c.id != id)) (fun c t => if c.started then (rollBack c t).getD t else finish c rcAborted [] t)

/-- Enter Cooling (R53): what can be aborted ends; commands past their commit point complete first, and until then the command stays queued, as it
does while the device is in Held (R5; log 129). -/
def enterCooling (reset skip : Bool) (c : Cmd) (s : State) : State :=
  let s := abortOthers c.id s
  if s.mgr.cmds.any (fun x => x.id != c.id) || s.mode == .held then cmdMod c.id (fun x => { x with started := false }) s
  else coolStart reset skip (finish c rcOk [] s)

/-- `RESET_DEVICE` (R53, R468): the device will leave Greenware by itself. -/
def resetDeviceF (id : CmdId) (s : State) : State :=
  startCmd id 0x05 (fun c s => require (onlyBits (c.p 0) 1) rcBadParam c (enterCooling true (bit (c.p 0) 0) c) s) s
def execResetDevice (c : CmdId) (s : State) : Host.Outcome State Fault Refusal := .next (resetDeviceF c s)

/-- `SET_MODE` (R53, R468): only to Cooling; the device will stay in Greenware. -/
def setModeF (id : CmdId) (s : State) : State :=
  startCmd id 0x06 (fun c s =>
    require (onlyBits (c.p 0) 0x10F && fld (c.p 0) 3 0 == 8) rcBadParam c (enterCooling false (bit (c.p 0) 8) c) s) s
def execSetMode (c : CmdId) (s : State) : Host.Outcome State Fault Refusal := .next (setModeF c s)

end Sys2Proof.Machine
end

