-- ==== Sys2Proof/Machine/Dispatch.lean ====
section
/-! DEFINITION. One arm for each constructor of `Instr`: the command's effect on everything but the queue. -/

namespace Sys2Proof.Machine

def exec (i : Instr) (s : State) : Host.Outcome State Fault Refusal :=
  match i with
  | .hubPowerGood => Sys2Proof.Machine.execHubPowerGood s
  | .ioscQualified straps0 => Sys2Proof.Machine.execIoscQualified straps0 s
  | .refclkQualifyDone dom0 counts0 => Sys2Proof.Machine.execRefclkQualifyDone dom0 counts0 s
  | .refclkHQualTimeout => Sys2Proof.Machine.execRefclkHQualTimeout s
  | .flashDiscovery valid00 size00 valid10 size10 => Sys2Proof.Machine.execFlashDiscovery valid00 size00 valid10 size10 s
  | .settingsSelect => Sys2Proof.Machine.execSettingsSelect s
  | .firmwareVerify => Sys2Proof.Machine.execFirmwareVerify s
  | .dieRelease => Sys2Proof.Machine.execDieRelease s
  | .vccCGoodTimeout => Sys2Proof.Machine.execVccCGoodTimeout s
  | .dieJoinTimeout d0 => Sys2Proof.Machine.execDieJoinTimeout d0 s
  | .flashLoadStart => Sys2Proof.Machine.execFlashLoadStart s
  | .porstAssert ns0 => Sys2Proof.Machine.execPorstAssert ns0 s
  | .railLoss r0 => Sys2Proof.Machine.execRailLoss r0 s
  | .vddAoDip mv0 ns0 => Sys2Proof.Machine.execVddAoDip mv0 ns0 s
  | .brownOut => Sys2Proof.Machine.execBrownOut s
  | .autoRestart => Sys2Proof.Machine.execAutoRestart s
  | .fatalAutoRestart => Sys2Proof.Machine.execFatalAutoRestart s
  | .mgrLockstepMismatch => Sys2Proof.Machine.execMgrLockstepMismatch s
  | .packetArrival t0 dev0 words0 => Sys2Proof.Machine.execPacketArrival t0 dev0 words0 s
  | .packetTimeout t0 => Sys2Proof.Machine.execPacketTimeout t0 s
  | .mgrcmdUpdateDr dr0 => Sys2Proof.Machine.execMgrcmdUpdateDr dr0 s
  | .mgrcmdCaptureDr => Sys2Proof.Machine.execMgrcmdCaptureDr s
  | .smbusBlockWrite count0 words0 pecOk0 => Sys2Proof.Machine.execSmbusBlockWrite count0 words0 pecOk0 s
  | .smbusBlockRead => Sys2Proof.Machine.execSmbusBlockRead s
  | .smbusReadByte => Sys2Proof.Machine.execSmbusReadByte s
  | .mbxSubmit v0 => Sys2Proof.Machine.execMbxSubmit v0 s
  | .mbxFlush => Sys2Proof.Machine.execMbxFlush s
  | .mbxRspDone => Sys2Proof.Machine.execMbxRspDone s
  | .nop c0 => Sys2Proof.Machine.execNop c0 s
  | .getStatus c0 => Sys2Proof.Machine.execGetStatus c0 s
  | .getId c0 => Sys2Proof.Machine.execGetId c0 s
  | .abort c0 => Sys2Proof.Machine.execAbort c0 s
  | .resetDevice c0 => Sys2Proof.Machine.execResetDevice c0 s
  | .setMode c0 => Sys2Proof.Machine.execSetMode c0 s
  | .getNotices c0 => Sys2Proof.Machine.execGetNotices c0 s
  | .cfgBegin c0 => Sys2Proof.Machine.execCfgBegin c0 s
  | .cfgFrames c0 => Sys2Proof.Machine.execCfgFrames c0 s
  | .cfgKeyRoll c0 => Sys2Proof.Machine.execCfgKeyRoll c0 s
  | .cfgEnd c0 => Sys2Proof.Machine.execCfgEnd c0 s
  | .cfgSignature c0 => Sys2Proof.Machine.execCfgSignature c0 s
  | .cfgMeminit c0 => Sys2Proof.Machine.execCfgMeminit c0 s
  | .cfgCommit c0 => Sys2Proof.Machine.execCfgCommit c0 s
  | .cfgRegionOpen c0 => Sys2Proof.Machine.execCfgRegionOpen c0 s
  | .cfgRegionClear c0 => Sys2Proof.Machine.execCfgRegionClear c0 s
  | .regionDrainComplete r0 => Sys2Proof.Machine.execRegionDrainComplete r0 s
  | .regionDrainTimeout r0 => Sys2Proof.Machine.execRegionDrainTimeout r0 s
  | .regionBlankComplete r0 => Sys2Proof.Machine.execRegionBlankComplete r0 s
  | .commitDue r0 => Sys2Proof.Machine.execCommitDue r0 s
  | .regionReleaseComplete r0 us0 => Sys2Proof.Machine.execRegionReleaseComplete r0 us0 s
  | .doneLineHigh => Sys2Proof.Machine.execDoneLineHigh s
  | .doneWaitTimeout => Sys2Proof.Machine.execDoneWaitTimeout s
  | .startupComplete => Sys2Proof.Machine.execStartupComplete s
  | .streamInactivityTimeout => Sys2Proof.Machine.execStreamInactivityTimeout s
  | .loadFallbackDecision => Sys2Proof.Machine.execLoadFallbackDecision s
  | .cfgStreamData w0 => Sys2Proof.Machine.execCfgStreamData w0 s
  | .cfgStreamAbort => Sys2Proof.Machine.execCfgStreamAbort s
  | .capture c0 => Sys2Proof.Machine.execCapture c0 s
  | .captureSnapshot => Sys2Proof.Machine.execCaptureSnapshot s
  | .readback c0 => Sys2Proof.Machine.execReadback c0 s
  | .readbackTimeout c0 => Sys2Proof.Machine.execReadbackTimeout c0 s
  | .readMem c0 => Sys2Proof.Machine.execReadMem c0 s
  | .pwrVote c0 => Sys2Proof.Machine.execPwrVote c0 s
  | .pwrStatus c0 => Sys2Proof.Machine.execPwrStatus c0 s
  | .watchSet c0 => Sys2Proof.Machine.execWatchSet c0 s
  | .clkSwitch c0 => Sys2Proof.Machine.execClkSwitch c0 s
  | .clkRampStep dom0 => Sys2Proof.Machine.execClkRampStep dom0 s
  | .tbConfig c0 => Sys2Proof.Machine.execTbConfig c0 s
  | .calSet c0 => Sys2Proof.Machine.execCalSet c0 s
  | .calClear c0 => Sys2Proof.Machine.execCalClear c0 s
  | .calStatus c0 => Sys2Proof.Machine.execCalStatus c0 s
  | .setRead c0 => Sys2Proof.Machine.execSetRead c0 s
  | .setWrite c0 flashOk0 => Sys2Proof.Machine.execSetWrite c0 flashOk0 s
  | .flashRead c0 => Sys2Proof.Machine.execFlashRead c0 s
  | .flashProgram c0 flashOk0 => Sys2Proof.Machine.execFlashProgram c0 flashOk0 s
  | .logRead c0 => Sys2Proof.Machine.execLogRead c0 s
  | .keyLoadBbram c0 => Sys2Proof.Machine.execKeyLoadBbram c0 s
  | .keySlotRetire c0 => Sys2Proof.Machine.execKeySlotRetire c0 s
  | .authChallenge c0 => Sys2Proof.Machine.execAuthChallenge c0 s
  | .authRespond c0 late0 => Sys2Proof.Machine.execAuthRespond c0 late0 s
  | .fuseRead c0 => Sys2Proof.Machine.execFuseRead c0 s
  | .fuseProgram c0 stuck0 => Sys2Proof.Machine.execFuseProgram c0 stuck0 s
  | .telRead c0 => Sys2Proof.Machine.execTelRead c0 s
  | .telThresh c0 => Sys2Proof.Machine.execTelThresh c0 s
  | .bistRun c0 => Sys2Proof.Machine.execBistRun c0 s
  | .bistComplete die0 failed0 failRow0 duration0 => Sys2Proof.Machine.execBistComplete die0 failed0 failRow0 duration0 s
  | .bistResult c0 => Sys2Proof.Machine.execBistResult c0 s
  | .repairMapRead c0 => Sys2Proof.Machine.execRepairMapRead c0 s
  | .laneTest c0 errors0 compared0 => Sys2Proof.Machine.execLaneTest c0 errors0 compared0 s
  | .scanEnter c0 => Sys2Proof.Machine.execScanEnter c0 s
  | .meeRegion c0 => Sys2Proof.Machine.execMeeRegion c0 s
  | .meeRekey c0 => Sys2Proof.Machine.execMeeRekey c0 s
  | .meeFlushComplete => Sys2Proof.Machine.execMeeFlushComplete s
  | .meeReencComplete => Sys2Proof.Machine.execMeeReencComplete s
  | .ddrRemap c0 m0 => Sys2Proof.Machine.execDdrRemap c0 m0 s
  | .wdsQueueCfg c0 => Sys2Proof.Machine.execWdsQueueCfg c0 s
  | .wdsStatus c0 => Sys2Proof.Machine.execWdsStatus c0 s
  | .regWrite die0 off0 w0 fwg0 => Sys2Proof.Machine.execRegWrite die0 off0 w0 fwg0 s
  | .bmRead b0 portB0 addr0 edge0 => Sys2Proof.Machine.execBmRead b0 portB0 addr0 edge0 s
  | .bmWrite b0 portB0 we0 addr0 di0 edge0 => Sys2Proof.Machine.execBmWrite b0 portB0 we0 addr0 di0 edge0 s
  | .dmRead s0 addr0 edge0 => Sys2Proof.Machine.execDmRead s0 addr0 edge0 s
  | .dmWrite s0 be0 addr0 data0 edge0 => Sys2Proof.Machine.execDmWrite s0 be0 addr0 data0 edge0 s
  | .memInit s0 m0 => Sys2Proof.Machine.execMemInit s0 m0 s
  | .memInitComplete s0 m0 => Sys2Proof.Machine.execMemInitComplete s0 m0 s
  | .memScrubStep s0 m0 => Sys2Proof.Machine.execMemScrubStep s0 m0 s
  | .dmRemapReq s0 row0 => Sys2Proof.Machine.execDmRemapReq s0 row0 s
  | .rowCopyComplete s0 => Sys2Proof.Machine.execRowCopyComplete s0 s
  | .bmErrlogRead b0 insp0 => Sys2Proof.Machine.execBmErrlogRead b0 insp0 s
  | .dmErrlogRead s0 insp0 => Sys2Proof.Machine.execDmErrlogRead s0 insp0 s
  | .bmCeCount s0 m0 insp0 => Sys2Proof.Machine.execBmCeCount s0 m0 insp0 s
  | .bmUeCount s0 m0 insp0 => Sys2Proof.Machine.execBmUeCount s0 m0 insp0 s
  | .bridgeParityMismatch boundary0 westward0 group0 => Sys2Proof.Machine.execBridgeParityMismatch boundary0 westward0 group0 s
  | .sduRun u0 => Sys2Proof.Machine.execSduRun u0 s
  | .sduStop u0 => Sys2Proof.Machine.execSduStop u0 s
  | .sduHalt u0 => Sys2Proof.Machine.execSduHalt u0 s
  | .sduResume u0 => Sys2Proof.Machine.execSduResume u0 s
  | .sduStep u0 => Sys2Proof.Machine.execSduStep u0 s
  | .sduSwreq u0 => Sys2Proof.Machine.execSduSwreq u0 s
  | .swreq u0 => Sys2Proof.Machine.execSwreq u0 s
  | .switchSlot u0 => Sys2Proof.Machine.execSwitchSlot u0 s
  | .sduStreamReady u0 sin0 soutR0 => Sys2Proof.Machine.execSduStreamReady u0 sin0 soutR0 s
  | .sduRegWrite u0 set0 code0 w0 => Sys2Proof.Machine.execSduRegWrite u0 set0 code0 w0 s
  | .sduIstoreWrite u0 n0 hi0 w0 => Sys2Proof.Machine.execSduIstoreWrite u0 n0 hi0 w0 s
  | .sduXyCsrAccess u0 y0 pair0 write0 be0 free0 => Sys2Proof.Machine.execSduXyCsrAccess u0 y0 pair0 write0 be0 free0 s
  | .sduEcc u0 insp0 => Sys2Proof.Machine.execSduEcc u0 insp0 s
  | .mpy u0 => Sys2Proof.Machine.execMpy u0 s
  | .mac u0 => Sys2Proof.Machine.execMac u0 s
  | .msu u0 => Sys2Proof.Machine.execMsu u0 s
  | .mpyd u0 => Sys2Proof.Machine.execMpyd u0 s
  | .macd u0 => Sys2Proof.Machine.execMacd u0 s
  | .msud u0 => Sys2Proof.Machine.execMsud u0 s
  | .ldx u0 => Sys2Proof.Machine.execLdx u0 s
  | .ldy u0 => Sys2Proof.Machine.execLdy u0 s
  | .stx u0 => Sys2Proof.Machine.execStx u0 s
  | .sty u0 => Sys2Proof.Machine.execSty u0 s
  | .inSlot u0 => Sys2Proof.Machine.execInSlot u0 s
  | .outSlot u0 => Sys2Proof.Machine.execOutSlot u0 s
  | .aluNop u0 => Sys2Proof.Machine.execAluNop u0 s
  | .clr u0 => Sys2Proof.Machine.execClr u0 s
  | .mova u0 => Sys2Proof.Machine.execMova u0 s
  | .adda u0 => Sys2Proof.Machine.execAdda u0 s
  | .suba u0 => Sys2Proof.Machine.execSuba u0 s
  | .nega u0 => Sys2Proof.Machine.execNega u0 s
  | .ash u0 => Sys2Proof.Machine.execAsh u0 s
  | .lda u0 => Sys2Proof.Machine.execLda u0 s
  | .addx u0 => Sys2Proof.Machine.execAddx u0 s
  | .ext u0 => Sys2Proof.Machine.execExt u0 s
  | .lcomb u0 => Sys2Proof.Machine.execLcomb u0 s
  | .lcombs u0 => Sys2Proof.Machine.execLcombs u0 s
  | .casci u0 => Sys2Proof.Machine.execCasci u0 s
  | .casca u0 => Sys2Proof.Machine.execCasca u0 s
  | .casco u0 => Sys2Proof.Machine.execCasco u0 s
  | .movx u0 => Sys2Proof.Machine.execMovx u0 s
  | .movr u0 => Sys2Proof.Machine.execMovr u0 s
  | .ldi u0 => Sys2Proof.Machine.execLdi u0 s
  | .br u0 => Sys2Proof.Machine.execBr u0 s
  | .loopOp u0 => Sys2Proof.Machine.execLoopOp u0 s
  | .sleep u0 => Sys2Proof.Machine.execSleep u0 s
  | .halt u0 => Sys2Proof.Machine.execHalt u0 s
  | .illegalInstruction u0 => Sys2Proof.Machine.execIllegalInstruction u0 s
  | .fdHold u0 fa0 fb0 acc0 sgn0 => Sys2Proof.Machine.execFdHold u0 fa0 fb0 acc0 sgn0 s
  | .fdMpy u0 fa0 fb0 acc0 sgn0 => Sys2Proof.Machine.execFdMpy u0 fa0 fb0 acc0 sgn0 s
  | .fdMac u0 fa0 fb0 acc0 sgn0 => Sys2Proof.Machine.execFdMac u0 fa0 fb0 acc0 sgn0 s
  | .fdMsu u0 fa0 fb0 acc0 sgn0 => Sys2Proof.Machine.execFdMsu u0 fa0 fb0 acc0 sgn0 s
  | .fdMpyd u0 fa0 fb0 acc0 sgn0 => Sys2Proof.Machine.execFdMpyd u0 fa0 fb0 acc0 sgn0 s
  | .fdMacd u0 fa0 fb0 acc0 sgn0 => Sys2Proof.Machine.execFdMacd u0 fa0 fb0 acc0 sgn0 s
  | .fdCascadeMac u0 fa0 fb0 acc0 sgn0 => Sys2Proof.Machine.execFdCascadeMac u0 fa0 fb0 acc0 sgn0 s
  | .fdClear u0 fa0 fb0 acc0 sgn0 => Sys2Proof.Machine.execFdClear u0 fa0 fb0 acc0 sgn0 s
  | .vccioLost die0 bank0 => Sys2Proof.Machine.execVccioLost die0 bank0 s
  | .vccioRestored die0 bank0 meas0 tapQ0 => Sys2Proof.Machine.execVccioRestored die0 bank0 meas0 tapQ0 s
  | .islip p0 => Sys2Proof.Machine.execIslip p0 s
  | .ioTapMeasure die0 bank0 tapQ0 => Sys2Proof.Machine.execIoTapMeasure die0 bank0 tapQ0 s
  | .ioTapMove p0 => Sys2Proof.Machine.execIoTapMove p0 s
  | .ioPinDlyWrite p0 w0 => Sys2Proof.Machine.execIoPinDlyWrite p0 w0 s
  | .rd p0 => Sys2Proof.Machine.execRd p0 s
  | .wr p0 => Sys2Proof.Machine.execWr p0 s
  | .atom p0 => Sys2Proof.Machine.execAtom p0 s
  | .fence p0 => Sys2Proof.Machine.execFence p0 s
  | .initiatorRequestIssue p0 r0 => Sys2Proof.Machine.execInitiatorRequestIssue p0 r0 s
  | .flitRoute router0 inport0 vc0 => Sys2Proof.Machine.execFlitRoute router0 inport0 vc0 s
  | .nocResponseArrival p0 txid0 => Sys2Proof.Machine.execNocResponseArrival p0 txid0 s
  | .rspTimeout p0 txid0 => Sys2Proof.Machine.execRspTimeout p0 txid0 s
  | .qosChangeApply p0 => Sys2Proof.Machine.execQosChangeApply p0 s
  | .fabricTargetResponse p0 id0 status0 data0 poison0 => Sys2Proof.Machine.execFabricTargetResponse p0 id0 status0 data0 poison0 s
  | .nocCommit => Sys2Proof.Machine.execNocCommit s
  | .nocCommitApply => Sys2Proof.Machine.execNocCommitApply s
  | .pathSwitchDrainEnd timedOut0 => Sys2Proof.Machine.execPathSwitchDrainEnd timedOut0 s
  | .nocErrlogRead die0 insp0 => Sys2Proof.Machine.execNocErrlogRead die0 insp0 s
  | .nocFwLogRead p0 insp0 => Sys2Proof.Machine.execNocFwLogRead p0 insp0 s
  | .nocPerrCount die0 insp0 => Sys2Proof.Machine.execNocPerrCount die0 insp0 s
  | .nocIportHoldClr p0 => Sys2Proof.Machine.execNocIportHoldClr p0 s
  | .adlPairReceive b0 slot00 slot10 r0 => Sys2Proof.Machine.execAdlPairReceive b0 slot00 slot10 r0 s
  | .adlLinkFlit b0 f0 => Sys2Proof.Machine.execAdlLinkFlit b0 f0 s
  | .adlReplayTimer b0 => Sys2Proof.Machine.execAdlReplayTimer b0 s
  | .adlRecovery b0 => Sys2Proof.Machine.execAdlRecovery b0 s
  | .adlRecoveryComplete b0 bad0 third0 => Sys2Proof.Machine.execAdlRecoveryComplete b0 bad0 third0 s
  | .adlBndDisable b0 => Sys2Proof.Machine.execAdlBndDisable b0 s
  | .adlBndRecover b0 => Sys2Proof.Machine.execAdlBndRecover b0 s
  | .adlBndErr b0 receiver0 insp0 => Sys2Proof.Machine.execAdlBndErr b0 receiver0 insp0 s
  | .reqOut b0 lane0 test0 => Sys2Proof.Machine.execReqOut b0 lane0 test0 s
  | .steerOut b0 lane0 test0 stag0 => Sys2Proof.Machine.execSteerOut b0 lane0 test0 stag0 s
  | .reqIn b0 lane0 => Sys2Proof.Machine.execReqIn b0 lane0 s
  | .steerIn b0 lane0 stag0 => Sys2Proof.Machine.execSteerIn b0 lane0 stag0 s
  | .half b0 stag0 => Sys2Proof.Machine.execHalf b0 stag0 s
  | .rltDwellExpiry b0 err0 => Sys2Proof.Machine.execRltDwellExpiry b0 err0 s
  | .keepalive k0 toLeader0 f0 => Sys2Proof.Machine.execKeepalive k0 toLeader0 f0 s
  | .ack k0 toLeader0 f0 => Sys2Proof.Machine.execAck k0 toLeader0 f0 s
  | .hello k0 toLeader0 f0 => Sys2Proof.Machine.execHello k0 toLeader0 f0 s
  | .bootGo k0 toLeader0 f0 => Sys2Proof.Machine.execBootGo k0 toLeader0 f0 s
  | .trainSync k0 toLeader0 f0 => Sys2Proof.Machine.execTrainSync k0 toLeader0 f0 s
  | .laneMap k0 toLeader0 f0 => Sys2Proof.Machine.execLaneMap k0 toLeader0 f0 s
  | .cap k0 toLeader0 f0 => Sys2Proof.Machine.execCap k0 toLeader0 f0 s
  | .joined k0 toLeader0 f0 bridgeFails0 => Sys2Proof.Machine.execJoined k0 toLeader0 f0 bridgeFails0 s
  | .pwrReq k0 toLeader0 f0 => Sys2Proof.Machine.execPwrReq k0 toLeader0 f0 s
  | .pwrAck k0 toLeader0 f0 => Sys2Proof.Machine.execPwrAck k0 toLeader0 f0 s
  | .pwrDeny k0 toLeader0 f0 => Sys2Proof.Machine.execPwrDeny k0 toLeader0 f0 s
  | .pwrReqTimeout k0 => Sys2Proof.Machine.execPwrReqTimeout k0 s
  | .sidebandFence k0 toLeader0 f0 => Sys2Proof.Machine.execSidebandFence k0 toLeader0 f0 s
  | .rejoin k0 toLeader0 f0 => Sys2Proof.Machine.execRejoin k0 toLeader0 f0 s
  | .recover k0 toLeader0 f0 => Sys2Proof.Machine.execRecover k0 toLeader0 f0 s
  | .disable k0 toLeader0 f0 => Sys2Proof.Machine.execDisable k0 toLeader0 f0 s
  | .notice k0 toLeader0 f0 => Sys2Proof.Machine.execNotice k0 toLeader0 f0 s
  | .sbResendTimer k0 fromLeader0 => Sys2Proof.Machine.execSbResendTimer k0 fromLeader0 s
  | .sbKeepaliveTimer k0 fromLeader0 => Sys2Proof.Machine.execSbKeepaliveTimer k0 fromLeader0 s
  | .sbFail k0 => Sys2Proof.Machine.execSbFail k0 s
  | .sbBreak k0 cycles0 => Sys2Proof.Machine.execSbBreak k0 cycles0 s
  | .joinStepTimeout k0 => Sys2Proof.Machine.execJoinStepTimeout k0 s
  | .dieFence d0 cause0 => Sys2Proof.Machine.execDieFence d0 cause0 s
  | .dieRejoin d0 thrice0 => Sys2Proof.Machine.execDieRejoin d0 thrice0 s
  | .adlFenceDie d0 => Sys2Proof.Machine.execAdlFenceDie d0 s
  | .adlFenceRejoin d0 => Sys2Proof.Machine.execAdlFenceRejoin d0 s
  | .adlSbStatus die0 k0 insp0 => Sys2Proof.Machine.execAdlSbStatus die0 k0 insp0 s
  | .lanePortEnable l0 => Sys2Proof.Machine.execLanePortEnable l0 s
  | .lanePortDisable l0 => Sys2Proof.Machine.execLanePortDisable l0 s
  | .laneDetectTimer l0 => Sys2Proof.Machine.execLaneDetectTimer l0 s
  | .laneFarEndDetect l0 => Sys2Proof.Machine.execLaneFarEndDetect l0 s
  | .ts1 l0 set0 => Sys2Proof.Machine.execTs1 l0 set0 s
  | .ts2 l0 set0 => Sys2Proof.Machine.execTs2 l0 set0 s
  | .laneTrainTimeout l0 => Sys2Proof.Machine.execLaneTrainTimeout l0 s
  | .laneExchangeTimeout l0 => Sys2Proof.Machine.execLaneExchangeTimeout l0 s
  | .laneSyncLoss l0 errs0 => Sys2Proof.Machine.execLaneSyncLoss l0 errs0 s
  | .laneSymbolLock l0 => Sys2Proof.Machine.execLaneSymbolLock l0 s
  | .laneRealignTimeout l0 => Sys2Proof.Machine.execLaneRealignTimeout l0 s
  | .ethFecCodeword l0 symbolErrors0 => Sys2Proof.Machine.execEthFecCodeword l0 symbolErrors0 s
  | .lnPrbsClr l0 => Sys2Proof.Machine.execLnPrbsClr l0 s
  | .lnPrbsTxEn l0 on0 => Sys2Proof.Machine.execLnPrbsTxEn l0 on0 s
  | .lnPrbsRxEn l0 on0 => Sys2Proof.Machine.execLnPrbsRxEn l0 on0 s
  | .lnLpbk l0 v0 => Sys2Proof.Machine.execLnLpbk l0 v0 s
  | .lnAdaptHold l0 on0 => Sys2Proof.Machine.execLnAdaptHold l0 on0 s
  | .lnPrbsErrLo l0 insp0 => Sys2Proof.Machine.execLnPrbsErrLo l0 insp0 s
  | .lnCodeErr l0 insp0 => Sys2Proof.Machine.execLnCodeErr l0 insp0 s
  | .lnFec l0 insp0 => Sys2Proof.Machine.execLnFec l0 insp0 s
  | .lnHeld l0 insp0 => Sys2Proof.Machine.execLnHeld l0 insp0 s
  | .eyeScanGo l0 w0 => Sys2Proof.Machine.execEyeScanGo l0 w0 s
  | .eyeScanDone l0 count0 => Sys2Proof.Machine.execEyeScanDone l0 count0 s
  | .pcieLinkUp c0 width0 gen0 => Sys2Proof.Machine.execPcieLinkUp c0 width0 gen0 s
  | .pcieLinkDown c0 => Sys2Proof.Machine.execPcieLinkDown c0 s
  | .pcieInboundRequest c0 bar0 off0 len0 write0 data0 ep0 => Sys2Proof.Machine.execPcieInboundRequest c0 bar0 off0 len0 write0 data0 ep0 s
  | .pcieL1Exit c0 => Sys2Proof.Machine.execPcieL1Exit c0 s
  | .pcieCfgdata c0 write0 completion0 insp0 => Sys2Proof.Machine.execPcieCfgdata c0 write0 completion0 insp0 s
  | .pcieOutboundAccess c0 off0 write0 completion0 => Sys2Proof.Machine.execPcieOutboundAccess c0 off0 write0 completion0 s
  | .spanPortUp k0 => Sys2Proof.Machine.execSpanPortUp k0 s
  | .spanProgressTimeout k0 => Sys2Proof.Machine.execSpanProgressTimeout k0 s
  | .aos k0 aligned0 => Sys2Proof.Machine.execAos k0 aligned0 s
  | .req k0 f0 => Sys2Proof.Machine.execReq k0 f0 s
  | .rsp k0 f0 => Sys2Proof.Machine.execRsp k0 f0 s
  | .data k0 f0 => Sys2Proof.Machine.execData k0 f0 s
  | .cmd k0 f0 => Sys2Proof.Machine.execCmd k0 f0 s
  | .trig k0 f0 => Sys2Proof.Machine.execTrig k0 f0 s
  | .align k0 f0 => Sys2Proof.Machine.execAlign k0 f0 s
  | .probe k0 f0 turnaround0 => Sys2Proof.Machine.execProbe k0 f0 turnaround0 s
  | .echo k0 f0 t40 => Sys2Proof.Machine.execEcho k0 f0 t40 s
  | .tag k0 f0 => Sys2Proof.Machine.execTag k0 f0 s
  | .link k0 f0 => Sys2Proof.Machine.execLink k0 f0 s
  | .deliver k0 f0 => Sys2Proof.Machine.execDeliver k0 f0 s
  | .release k0 f0 => Sys2Proof.Machine.execRelease k0 f0 s
  | .spanRetryTimer k0 => Sys2Proof.Machine.execSpanRetryTimer k0 s
  | .spanAckTimer k0 => Sys2Proof.Machine.execSpanAckTimer k0 s
  | .spanTxnTimeout stid0 => Sys2Proof.Machine.execSpanTxnTimeout stid0 s
  | .spnRtWrite w0 v0 => Sys2Proof.Machine.execSpnRtWrite w0 v0 s
  | .spanRouteDrainEnd d0 => Sys2Proof.Machine.execSpanRouteDrainEnd d0 s
  | .spnCfgWrite v0 => Sys2Proof.Machine.execSpnCfgWrite v0 s
  | .spanProbeTimer k0 t10 => Sys2Proof.Machine.execSpanProbeTimer k0 t10 s
  | .spanGroupTimer k0 => Sys2Proof.Machine.execSpanGroupTimer k0 s
  | .tbMarkLoss => Sys2Proof.Machine.execTbMarkLoss s
  | .spnPerr k0 insp0 => Sys2Proof.Machine.execSpnPerr k0 insp0 s
  | .ddrTrainComplete c0 r0 => Sys2Proof.Machine.execDdrTrainComplete c0 r0 s
  | .ddrTrainTimeout c0 => Sys2Proof.Machine.execDdrTrainTimeout c0 s
  | .ddrRangeOpen bySoftware0 => Sys2Proof.Machine.execDdrRangeOpen bySoftware0 s
  | .ddrMapWrite c0 m0 v0 => Sys2Proof.Machine.execDdrMapWrite c0 m0 v0 s
  | .dramRead c0 m0 => Sys2Proof.Machine.execDramRead c0 m0 s
  | .dramWrite c0 m0 => Sys2Proof.Machine.execDramWrite c0 m0 s
  | .dramAtomic c0 m0 => Sys2Proof.Machine.execDramAtomic c0 m0 s
  | .ddrAlert c0 progress0 => Sys2Proof.Machine.execDdrAlert c0 progress0 s
  | .ddrUpkeepTimer c0 => Sys2Proof.Machine.execDdrUpkeepTimer c0 s
  | .ddrRefresh c0 bank0 => Sys2Proof.Machine.execDdrRefresh c0 bank0 s
  | .ddrWbDrain c0 m0 => Sys2Proof.Machine.execDdrWbDrain c0 m0 s
  | .ddrIdleClose c0 bank0 => Sys2Proof.Machine.execDdrIdleClose c0 bank0 s
  | .ddrPatrolStep c0 m0 => Sys2Proof.Machine.execDdrPatrolStep c0 m0 s
  | .ddrRetrain c0 insp0 => Sys2Proof.Machine.execDdrRetrain c0 insp0 s
  | .ddrEcc c0 insp0 => Sys2Proof.Machine.execDdrEcc c0 insp0 s
  | .ddrErrlogRead c0 insp0 => Sys2Proof.Machine.execDdrErrlogRead c0 insp0 s
  | .meeSlotLoadGo slot0 => Sys2Proof.Machine.execMeeSlotLoadGo slot0 s
  | .meeCount insp0 => Sys2Proof.Machine.execMeeCount insp0 s
  | .wdsEnqueue item0 len0 poison0 => Sys2Proof.Machine.execWdsEnqueue item0 len0 poison0 s
  | .wdsTake ctx0 len0 insp0 badPayload0 => Sys2Proof.Machine.execWdsTake ctx0 len0 insp0 badPayload0 s
  | .wdsTakeTimeout ctx0 => Sys2Proof.Machine.execWdsTakeTimeout ctx0 s
  | .wdsCtxRelease ctx0 ticket0 => Sys2Proof.Machine.execWdsCtxRelease ctx0 ticket0 s
  | .wdsServiceTimeout ctx0 ticket0 => Sys2Proof.Machine.execWdsServiceTimeout ctx0 ticket0 s
  | .wdsCtxRevive ctx0 => Sys2Proof.Machine.execWdsCtxRevive ctx0 s
  | .wdsSpillTimer q0 => Sys2Proof.Machine.execWdsSpillTimer q0 s
  | .wdsSpillRetry q0 => Sys2Proof.Machine.execWdsSpillRetry q0 s
  | .wdsRefill q0 => Sys2Proof.Machine.execWdsRefill q0 s
  | .wdsCount insp0 => Sys2Proof.Machine.execWdsCount insp0 s
  | .kilnWriteback flashOk0 => Sys2Proof.Machine.execKilnWriteback flashOk0 s
  | .mgrAlertLatchClear => Sys2Proof.Machine.execMgrAlertLatchClear s
  | .mgrFatalClr => Sys2Proof.Machine.execMgrFatalClr s
  | .coreFence hart0 deviceIo0 => Sys2Proof.Machine.execCoreFence hart0 deviceIo0 s
  | .dbgWdtKick w0 => Sys2Proof.Machine.execDbgWdtKick w0 s
  | .dbgWdtEnable w0 => Sys2Proof.Machine.execDbgWdtEnable w0 s
  | .wdtExpiry w0 => Sys2Proof.Machine.execWdtExpiry w0 s
  | .haltreq h0 => Sys2Proof.Machine.execHaltreq h0 s
  | .hartHalted h0 pc0 => Sys2Proof.Machine.execHartHalted h0 pc0 s
  | .resumereq h0 => Sys2Proof.Machine.execResumereq h0 s
  | .accessRegister h0 reg0 write0 => Sys2Proof.Machine.execAccessRegister h0 reg0 write0 s
  | .hartTrigger h0 t0 action0 timing0 => Sys2Proof.Machine.execHartTrigger h0 t0 action0 timing0 s
  | .dbgAccGo w0 => Sys2Proof.Machine.execDbgAccGo w0 s
  | .jtagDbgaccUpdate dr0 => Sys2Proof.Machine.execJtagDbgaccUpdate dr0 s
  | .jtagTestLogicReset => Sys2Proof.Machine.execJtagTestLogicReset s
  | .extest => Sys2Proof.Machine.execExtest s
  | .xtiEvent die0 line0 => Sys2Proof.Machine.execXtiEvent die0 line0 s
  | .dbgXtPulse w0 => Sys2Proof.Machine.execDbgXtPulse w0 s
  | .sfrzFreeze die0 => Sys2Proof.Machine.execSfrzFreeze die0 s
  | .sfrzRelease die0 => Sys2Proof.Machine.execSfrzRelease die0 s
  | .dbgHeldEnter => Sys2Proof.Machine.execDbgHeldEnter s
  | .heldEntryComplete => Sys2Proof.Machine.execHeldEntryComplete s
  | .dbgHeldRelease => Sys2Proof.Machine.execDbgHeldRelease s
  | .dbgStim n0 v0 bytes0 => Sys2Proof.Machine.execDbgStim n0 v0 bytes0 s
  | .traceFlushTimer => Sys2Proof.Machine.execTraceFlushTimer s
  | .clockFail dom0 bundle0 => Sys2Proof.Machine.execClockFail dom0 bundle0 s
  | .ioscFail => Sys2Proof.Machine.execIoscFail s
  | .refclkRequalTimer dom0 counts0 => Sys2Proof.Machine.execRefclkRequalTimer dom0 counts0 s
  | .tbTick a0 b0 interval0 => Sys2Proof.Machine.execTbTick a0 b0 interval0 s
  | .tbIndex => Sys2Proof.Machine.execTbIndex s
  | .tbFramePulse => Sys2Proof.Machine.execTbFramePulse s
  | .tbPpsEdge => Sys2Proof.Machine.execTbPpsEdge s
  | .tbcPosLo insp0 => Sys2Proof.Machine.execTbcPosLo insp0 s
  | .tbcStatus insp0 => Sys2Proof.Machine.execTbcStatus insp0 s
  | .tbcCalEnt e0 insp0 => Sys2Proof.Machine.execTbcCalEnt e0 insp0 s
  | .calEntryDue e0 => Sys2Proof.Machine.execCalEntryDue e0 s
  | .telSample group0 values0 => Sys2Proof.Machine.execTelSample group0 values0 s
  | .calPwrVote dom0 rung0 => Sys2Proof.Machine.execCalPwrVote dom0 rung0 s
  | .fabPowerBeat die0 dom0 rung0 => Sys2Proof.Machine.execFabPowerBeat die0 dom0 rung0 s
  | .pwrDomainMove dom0 => Sys2Proof.Machine.execPwrDomainMove dom0 s
  | .pwrDrainTimeout dom0 => Sys2Proof.Machine.execPwrDrainTimeout dom0 s
  | .pwrMgrClr w0 => Sys2Proof.Machine.execPwrMgrClr w0 s
  | .pwrWarmWrite word0 v0 => Sys2Proof.Machine.execPwrWarmWrite word0 v0 s
  | .wakeNLow ns0 => Sys2Proof.Machine.execWakeNLow ns0 s
  | .wakeTimer => Sys2Proof.Machine.execWakeTimer s
  | .watchSample temp0 edges0 wakeN0 => Sys2Proof.Machine.execWatchSample temp0 edges0 wakeN0 s
  | .wakeVoteWithdraw => Sys2Proof.Machine.execWakeVoteWithdraw s
  | .coolingComplete bridgeFails0 lanePass0 flashOk0 => Sys2Proof.Machine.execCoolingComplete bridgeFails0 lanePass0 flashOk0 s
  | .sectorTestRow die0 col0 row0 pass0 deepRows0 => Sys2Proof.Machine.execSectorTestRow die0 col0 row0 pass0 deepRows0 s
  | .repairRecordWrite failSlots0 => Sys2Proof.Machine.execRepairRecordWrite failSlots0 s
  | .bgBistTimer => Sys2Proof.Machine.execBgBistTimer s
  | .telSampleTimer values0 => Sys2Proof.Machine.execTelSampleTimer values0 s
  | .railGood r0 => Sys2Proof.Machine.execRailGood r0 s
  | .adlAckTimer b0 => Sys2Proof.Machine.execAdlAckTimer b0 s
  | .meeReencGroup c0 m0 => Sys2Proof.Machine.execMeeReencGroup c0 m0 s
  | .pwrMoveComplete dom0 => Sys2Proof.Machine.execPwrMoveComplete dom0 s
  | .pllLock dom0 => Sys2Proof.Machine.execPllLock dom0 s
  | .aoscQualified => Sys2Proof.Machine.execAoscQualified s
  | .tileClockEdge t0 ck10 pad0 => Sys2Proof.Machine.execTileClockEdge t0 ck10 pad0 s

end Sys2Proof.Machine
end

