-- ==== Sys2Proof/Machine/Step.lean ====
section
/-! DEFINITION. One step of the block: the command at the front of the queue runs. -/

namespace Sys2Proof.Machine

/-- A step: take the command at the front of the queue and run it on the state with the queue's rest. On an empty queue the block idles
(DESIGN CHOICE, log 2: the spec's own table has no row for a tick of the block's clocks; every time-driven effect is a row of it). -/
def step (s : State) : Host.Outcome State Fault Refusal :=
  match s.pending with
  | [] => .next s
  | c :: rest => exec c { s with pending := rest }

/-- `s` with the command that the word spells put at the front of its queue; no row of the opcode table gives bits, so no word spells a
command and `s` is unchanged. -/
def State.withFetchWord (s : State) (nbits w : Nat) : State :=
  match Sys2Proof.decodeTableWord nbits w with
  | some c => { s with pending := c :: s.pending }
  | none => s

end Sys2Proof.Machine
end

