-- ==== Sys2Proof/Safety.lean ====
section
/-! DEFINITION. What counts as a safe state and a safe step, and when a command packet is ready to start, in the terms claims use. -/

namespace Sys2Proof

open Machine

/-- DRAM is held in the canonical form: addresses strictly rising, and no cell equal to what an unlisted address reads as. -/
def Safety.memoryCanonical (s : State) : Prop := Store.wf (0 : Byte) s.ddr.mem = true

/-- The step completes: it answers a next state. -/
def Safety.completes (s : State) : Prop := ∃ t, step s = .next t

/-- `s` with the outstanding command `id` marked as started. -/
def Safety.begun (id : CmdId) (s : State) : State := cmdMod id (fun c => { c with started := true }) s

/-- MGR comes to start the command `c` with opcode `op`, outstanding under `id`: it is queued, MGR executes commands now, and no earlier command of
its class has yet to end (R46, R47, R48). -/
def Safety.queued (id : CmdId) (op : Nat) (c : Cmd) (s : State) : Prop :=
  s.findCmd id = some c ∧ c.op = op ∧ c.started = false ∧ s.mgrServes = true ∧ s.turn c = true

/-- The same, and the mode allows the command (R47, R50). -/
def Safety.ready (id : CmdId) (op : Nat) (c : Cmd) (s : State) : Prop :=
  Safety.queued id op c s ∧ (Safety.begun id s).modeOk c = true

/-- The same for a session packet: a session of its transport is open, not yet verified by CFG_END, and not paused (R48, R497). -/
def Safety.readySession (id : CmdId) (op : Nat) (x : Session) (c : Cmd) (s : State) : Prop :=
  Safety.ready id op c s ∧ s.cfg.session = some x ∧ x.owner.t = c.id.t ∧ x.verified = false ∧ x.paused = false

/-- A running sequenced unit issues the instruction at its pc in its next slot: it is clocked, no bubble slot and no halt is due, no comparator
matches, no switch is due, and the instruction is legal and does not stall (R148, R149, R155, R159, R161, R164). -/
def Safety.sduIssues (u : SduId) (s : State) : Prop :=
  let q := s.sduAt u
  let a := q.cur.pc.toNat
  s.sduLive u = true ∧ q.seq = true ∧ q.state = .running ∧ q.bubble = false ∧ q.haltNext = false
    ∧ (q.skipCmp = true ∨ q.compare 0 0 a = (q, false, false)) ∧ insLegal q (q.ins a) a = true ∧ insStalls q (q.ins a) = false
    ∧ (switchOpen q && q.swWait == 0) = false

/-- `s` after that issue slot, one DSP cycle on, with the comparator event and the memory error it may meet (R142 to R156, R164). -/
def Safety.sduIssued (u : SduId) (s : State) : State :=
  let s := asyncHold s
  let q := s.sduAt u
  let a := q.cur.pc.toNat
  let c := s.nextCyc u
  let r := issueSlot (s.cascin u c) (q.ins a) a { q with cyc := c }
  ((s.sduAtMod u (fun _ => r.1)).when r.2.event (cmpEvent u.die.val)).when r.2.ue.isSome (raiseFrom (u.die.val + 1) 0x3602)

/-- The command packet that a command starts: its identity and its opcode (R50). MEE_REGION, which first waits until no request to its range is left, is not
among them. -/
def Safety.packet : Instr → Option (CmdId × Nat)
  | .nop id => some (id, 0x01)
  | .getStatus id => some (id, 0x02)
  | .getId id => some (id, 0x03)
  | .abort id => some (id, 0x04)
  | .resetDevice id => some (id, 0x05)
  | .setMode id => some (id, 0x06)
  | .getNotices id => some (id, 0x07)
  | .cfgBegin id => some (id, 0x10)
  | .cfgFrames id => some (id, 0x11)
  | .cfgKeyRoll id => some (id, 0x12)
  | .cfgEnd id => some (id, 0x13)
  | .cfgSignature id => some (id, 0x18)
  | .cfgMeminit id => some (id, 0x17)
  | .cfgCommit id => some (id, 0x14)
  | .cfgRegionOpen id => some (id, 0x15)
  | .cfgRegionClear id => some (id, 0x16)
  | .capture id => some (id, 0x30)
  | .readback id => some (id, 0x31)
  | .readbackTimeout c => some (c.cmd, 0x31)
  | .readMem id => some (id, 0x32)
  | .pwrVote id => some (id, 0x40)
  | .pwrStatus id => some (id, 0x41)
  | .watchSet id => some (id, 0x42)
  | .clkSwitch id => some (id, 0x50)
  | .tbConfig id => some (id, 0x51)
  | .calSet id => some (id, 0x52)
  | .calClear id => some (id, 0x53)
  | .calStatus id => some (id, 0x54)
  | .setRead id => some (id, 0x60)
  | .setWrite id _ => some (id, 0x61)
  | .flashRead id => some (id, 0x62)
  | .flashProgram id _ => some (id, 0x63)
  | .logRead id => some (id, 0x64)
  | .keyLoadBbram id => some (id, 0x70)
  | .keySlotRetire id => some (id, 0x71)
  | .authChallenge id => some (id, 0x72)
  | .authRespond id _ => some (id, 0x73)
  | .fuseRead id => some (id, 0x74)
  | .fuseProgram id _ => some (id, 0x75)
  | .telRead id => some (id, 0x80)
  | .telThresh id => some (id, 0x81)
  | .bistRun id => some (id, 0x90)
  | .bistResult id => some (id, 0x91)
  | .repairMapRead id => some (id, 0x92)
  | .laneTest id _ _ => some (id, 0x93)
  | .scanEnter id => some (id, 0x94)
  | .meeRekey id => some (id, 0xA1)
  | .ddrRemap id _ => some (id, 0xA2)
  | .wdsQueueCfg id => some (id, 0xB0)
  | .wdsStatus id => some (id, 0xB1)
  | _ => none

/-- The session packets (R48). -/
def Safety.sessionPacket : Instr → Bool
  | .cfgFrames _ | .cfgKeyRoll _ | .cfgEnd _ | .cfgSignature _ | .cfgMeminit _ => true
  | _ => false

/-- Reads of registers with RC or RS fields that carry the inspect attribute (R14). -/
def Safety.inspectRead : Instr → Bool
  | .bmErrlogRead _ true
  | .dmErrlogRead _ true
  | .bmCeCount _ _ true
  | .bmUeCount _ _ true
  | .sduEcc _ true
  | .nocErrlogRead _ true
  | .nocFwLogRead _ true
  | .nocPerrCount _ true
  | .adlBndErr _ _ true
  | .adlSbStatus _ _ true
  | .lnPrbsErrLo _ true
  | .lnCodeErr _ true
  | .lnFec _ true
  | .lnHeld _ true
  | .spnPerr _ true
  | .ddrRetrain _ true
  | .ddrEcc _ true
  | .ddrErrlogRead _ true
  | .meeCount true
  | .wdsCount true
  | .tbcPosLo true
  | .tbcStatus true
  | .tbcCalEnt _ true => true
  | _ => false

/-- The parts of the state that one command can be confined to. -/
inductive Safety.Part where
  | adl | ao | clk | dbg | ddr | mgr | noc | pin | pwr | sdu | span | xcvr
  deriving DecidableEq, Repr

/-- The part of the state that a command is confined to, for the commands that the spec gives an effect on one part alone. -/
def Safety.part : Instr → Option Safety.Part
  | .adlRecovery _
  | .adlAckTimer _
  | .adlBndRecover _
  | .reqOut _ _ _
  | .reqIn _ _
  | .steerIn _ _ _
  | .keepalive _ _ _
  | .ack _ _ _
  | .laneMap _ _ _
  | .pwrReq _ _ _
  | .pwrAck _ _ _
  | .pwrDeny _ _ _
  | .pwrReqTimeout _
  | .sbKeepaliveTimer _ _ => some .adl
  | .mgrFatalClr => some .ao
  | .tbIndex => some .clk
  | .dbgWdtKick _
  | .dbgWdtEnable _
  | .haltreq _
  | .accessRegister _ _ _
  | .jtagTestLogicReset
  | .extest => some .dbg
  | .ddrMapWrite _ _ _
  | .ddrUpkeepTimer _
  | .ddrRefresh _ _
  | .ddrIdleClose _ _ => some .ddr
  | .mgrcmdCaptureDr
  | .smbusReadByte
  | .mbxFlush
  | .mbxRspDone
  | .mgrAlertLatchClear => some .mgr
  | .nocCommit => some .noc
  | .islip _
  | .ioTapMove _ => some .pin
  | .fabPowerBeat _ _ _
  | .pwrWarmWrite _ _
  | .wakeVoteWithdraw => some .pwr
  | .sduRun _
  | .sduStop _
  | .sduHalt _
  | .sduResume _
  | .sduSwreq _
  | .swreq _
  | .switchSlot _
  | .sduRegWrite _ _ _ _
  | .sduIstoreWrite _ _ _ _
  | .fdHold _ _ _ _ _
  | .fdMpy _ _ _ _ _
  | .fdMac _ _ _ _ _
  | .fdMsu _ _ _ _ _
  | .fdMpyd _ _ _ _ _
  | .fdMacd _ _ _ _ _
  | .fdCascadeMac _ _ _ _ _
  | .fdClear _ _ _ _ _ => some .sdu
  | .aos _ _ => some .span
  | .lanePortEnable _
  | .laneDetectTimer _
  | .laneFarEndDetect _
  | .laneSyncLoss _ _
  | .laneSymbolLock _
  | .lnPrbsClr _
  | .lnAdaptHold _ _
  | .eyeScanGo _ _
  | .eyeScanDone _ _ => some .xcvr
  | _ => none

/-- `t` differs from `s` in that part at most; where it is the DRAM controller, DRAM itself is unchanged too. A lane that ends its training takes a free
value, which advances the model's counter of those (log 149). -/
def Safety.onlyPart (s t : State) : Safety.Part → Prop
  | .adl => t = { s with adl := t.adl }
  | .ao => t = { s with ao := t.ao }
  | .clk => t = { s with clk := t.clk }
  | .dbg => t = { s with dbg := t.dbg }
  | .ddr => t = { s with ddr := t.ddr } ∧ t.ddr.mem = s.ddr.mem ∧ t.ddr.poison = s.ddr.poison
  | .mgr => t = { s with mgr := t.mgr }
  | .noc => t = { s with noc := t.noc }
  | .pin => t = { s with pin := t.pin }
  | .pwr => t = { s with pwr := t.pwr }
  | .sdu => t = { s with sdu := t.sdu }
  | .span => t = { s with span := t.span }
  | .xcvr => t = { s with xcvr := t.xcvr, fresh := t.fresh }

end Sys2Proof
end

