-- ==== Sys2Proof/WellFormed.lean ====
section
/-! DEFINITION. Which commands are well formed: those whose operands name parts and forms that the device has. One that is not
names no part of the device, or has a form that no sender forms, and has no effect: a read of this kind answers zero (log 11). -/

namespace Sys2Proof

open Machine

/-- The operands name a part the device has, and have the form the rule of the command gives. The types of the operands see to the rest. -/
def Instr.wellFormed (i : Instr) : Bool :=
  match i with
  | .hubPowerGood => true
  | .ioscQualified _ => true
  | .refclkQualifyDone _ _ => true
  | .refclkHQualTimeout => true
  | .flashDiscovery _ _ _ _ => true
  | .settingsSelect => true
  | .firmwareVerify => true
  | .dieRelease => true
  | .vccCGoodTimeout => true
  | .dieJoinTimeout _ => true
  | .flashLoadStart => true
  | .porstAssert _ => true
  | .railLoss _ => true
  | .vddAoDip _ _ => true
  | .brownOut => true
  | .autoRestart => true
  | .fatalAutoRestart => true
  | .mgrLockstepMismatch => true
  | .packetArrival _ _ _ => true
  | .packetTimeout _ => true
  | .mgrcmdUpdateDr _ => true
  | .mgrcmdCaptureDr => true
  | .smbusBlockWrite _ _ _ => true
  | .smbusBlockRead => true
  | .smbusReadByte => true
  | .mbxSubmit _ => true
  | .mbxFlush => true
  | .mbxRspDone => true
  | .nop _ => true
  | .getStatus _ => true
  | .getId _ => true
  | .abort _ => true
  | .resetDevice _ => true
  | .setMode _ => true
  | .getNotices _ => true
  | .cfgBegin _ => true
  | .cfgFrames _ => true
  | .cfgKeyRoll _ => true
  | .cfgEnd _ => true
  | .cfgSignature _ => true
  | .cfgMeminit _ => true
  | .cfgCommit _ => true
  | .cfgRegionOpen _ => true
  | .cfgRegionClear _ => true
  | .regionDrainComplete _ => true
  | .regionDrainTimeout _ => true
  | .regionBlankComplete _ => true
  | .commitDue _ => true
  | .regionReleaseComplete _ _ => true
  | .doneLineHigh => true
  | .doneWaitTimeout => true
  | .startupComplete => true
  | .streamInactivityTimeout => true
  | .loadFallbackDecision => true
  | .cfgStreamData _ => true
  | .cfgStreamAbort => true
  | .capture _ => true
  | .captureSnapshot => true
  | .readback _ => true
  | .readbackTimeout _ => true
  | .readMem _ => true
  | .pwrVote _ => true
  | .pwrStatus _ => true
  | .watchSet _ => true
  | .clkSwitch _ => true
  | .clkRampStep _ => true
  | .tbConfig _ => true
  | .calSet _ => true
  | .calClear _ => true
  | .calStatus _ => true
  | .setRead _ => true
  | .setWrite _ _ => true
  | .flashRead _ => true
  | .flashProgram _ _ => true
  | .logRead _ => true
  | .keyLoadBbram _ => true
  | .keySlotRetire _ => true
  | .authChallenge _ => true
  | .authRespond _ _ => true
  | .fuseRead _ => true
  | .fuseProgram _ _ => true
  | .telRead _ => true
  | .telThresh _ => true
  | .bistRun _ => true
  | .bistComplete _ _ _ _ => true
  | .bistResult _ => true
  | .repairMapRead _ => true
  | .laneTest _ _ _ => true
  | .scanEnter _ => true
  | .meeRegion _ => true
  | .meeRekey _ => true
  | .meeFlushComplete => true
  | .meeReencComplete => true
  | .ddrRemap _ _ => true
  | .wdsQueueCfg _ => true
  | .wdsStatus _ => true
  | .regWrite _ _ _ _ => true
  | .bmRead _ _ _ _ => true
  | .bmWrite _ _ _ _ _ _ => true
  | .dmRead _ _ _ => true
  | .dmWrite _ _ _ _ _ => true
  | .memInit _ _ => true
  | .memInitComplete _ _ => true
  | .memScrubStep _ _ => true
  | .dmRemapReq _ _ => true
  | .rowCopyComplete _ => true
  | .bmErrlogRead _ _ => true
  | .dmErrlogRead _ _ => true
  | .bmCeCount _ _ _ => true
  | .bmUeCount _ _ _ => true
  | .bridgeParityMismatch _ _ _ => true
  | .sduRun _ => true
  | .sduStop _ => true
  | .sduHalt _ => true
  | .sduResume _ => true
  | .sduStep _ => true
  | .sduSwreq _ => true
  | .swreq _ => true
  | .switchSlot _ => true
  | .sduStreamReady _ _ _ => true
  | .sduRegWrite _ _ _ _ => true
  | .sduIstoreWrite _ _ _ _ => true
  | .sduXyCsrAccess _ _ _ _ _ _ => true
  | .sduEcc _ _ => true
  | .mpy _ => true
  | .mac _ => true
  | .msu _ => true
  | .mpyd _ => true
  | .macd _ => true
  | .msud _ => true
  | .ldx _ => true
  | .ldy _ => true
  | .stx _ => true
  | .sty _ => true
  | .inSlot _ => true
  | .outSlot _ => true
  | .aluNop _ => true
  | .clr _ => true
  | .mova _ => true
  | .adda _ => true
  | .suba _ => true
  | .nega _ => true
  | .ash _ => true
  | .lda _ => true
  | .addx _ => true
  | .ext _ => true
  | .lcomb _ => true
  | .lcombs _ => true
  | .casci _ => true
  | .casca _ => true
  | .casco _ => true
  | .movx _ => true
  | .movr _ => true
  | .ldi _ => true
  | .br _ => true
  | .loopOp _ => true
  | .sleep _ => true
  | .halt _ => true
  | .illegalInstruction _ => true
  | .fdHold _ _ _ _ _ => true
  | .fdMpy _ _ _ _ _ => true
  | .fdMac _ _ _ _ _ => true
  | .fdMsu _ _ _ _ _ => true
  | .fdMpyd _ _ _ _ _ => true
  | .fdMacd _ _ _ _ _ => true
  | .fdCascadeMac _ _ _ _ _ => true
  | .fdClear _ _ _ _ _ => true
  | .vccioLost _ _ => true
  | .vccioRestored _ _ _ _ => true
  | .islip _ => true
  | .ioTapMeasure _ _ _ => true
  | .ioTapMove _ => true
  | .ioPinDlyWrite _ _ => true
  | .rd p0 => decide (isTport p0.toNat)
  | .wr p0 => decide (isTport p0.toNat)
  | .atom p0 => decide (isTport p0.toNat)
  | .fence p0 => decide (isIport p0.toNat)
  | .initiatorRequestIssue p0 r0 => decide (isIport p0.toNat && reqDataOk r0)
  | .flitRoute router0 inport0 _ => decide (routerExists router0.toNat && decide (router0.toNat / 32 < 5) && (inport0 == 0 || (nbr router0.toNat inport0.val).isSome))
  | .nocResponseArrival p0 _ => decide (isIport p0.toNat)
  | .rspTimeout p0 _ => decide (isIport p0.toNat)
  | .qosChangeApply p0 => decide (isIport p0.toNat)
  | .fabricTargetResponse p0 _ status0 _ _ => decide (isFabricPort p0.toNat && ([0, 4, 5, 8].contains status0.toNat))
  | .nocCommit => true
  | .nocCommitApply => true
  | .pathSwitchDrainEnd _ => true
  | .nocErrlogRead _ _ => true
  | .nocFwLogRead p0 _ => decide (isTport p0.toNat)
  | .nocPerrCount _ _ => true
  | .nocIportHoldClr p0 => decide (isIport p0.toNat)
  | .adlPairReceive _ _ _ _ => true
  | .adlLinkFlit _ _ => true
  | .adlReplayTimer _ => true
  | .adlRecovery _ => true
  | .adlRecoveryComplete _ _ _ => true
  | .adlBndDisable _ => true
  | .adlBndRecover _ => true
  | .adlBndErr _ _ _ => true
  | .reqOut _ lane0 _ => decide (lane0.toNat < 78)
  | .steerOut _ lane0 _ _ => decide (lane0.toNat < 78)
  | .reqIn _ lane0 => decide (lane0.toNat < 78)
  | .steerIn _ lane0 _ => decide (lane0.toNat < 78)
  | .half _ _ => true
  | .rltDwellExpiry _ _ => true
  | .keepalive _ _ _ => true
  | .ack _ _ _ => true
  | .hello _ _ _ => true
  | .bootGo _ _ _ => true
  | .trainSync _ _ _ => true
  | .laneMap _ _ _ => true
  | .cap _ _ _ => true
  | .joined _ _ _ _ => true
  | .pwrReq _ _ _ => true
  | .pwrAck _ _ _ => true
  | .pwrDeny _ _ _ => true
  | .pwrReqTimeout _ => true
  | .sidebandFence _ _ _ => true
  | .rejoin _ _ _ => true
  | .recover _ _ _ => true
  | .disable _ _ _ => true
  | .notice _ _ _ => true
  | .sbResendTimer _ _ => true
  | .sbKeepaliveTimer _ _ => true
  | .sbFail _ => true
  | .sbBreak _ _ => true
  | .joinStepTimeout _ => true
  | .dieFence _ _ => true
  | .dieRejoin d0 _ => !decide (d0.val = 0)
  | .adlFenceDie _ => true
  | .adlFenceRejoin _ => true
  | .adlSbStatus die0 k0 _ => decide (bndLeader k0.val = die0.val ∨ bndFollower k0.val = die0.val)
  | .lanePortEnable l0 => laneExists l0
  | .lanePortDisable l0 => laneExists l0
  | .laneDetectTimer l0 => laneExists l0
  | .laneFarEndDetect l0 => laneExists l0
  | .ts1 l0 t0 => decide (t0.length = 16) && laneExists l0
  | .ts2 l0 t0 => decide (t0.length = 16) && laneExists l0
  | .laneTrainTimeout l0 => laneExists l0
  | .laneExchangeTimeout l0 => laneExists l0
  | .laneSyncLoss l0 _ => laneExists l0
  | .laneSymbolLock l0 => laneExists l0
  | .laneRealignTimeout l0 => laneExists l0
  | .ethFecCodeword l0 _ => laneExists l0
  | .lnPrbsClr l0 => laneExists l0
  | .lnPrbsTxEn l0 _ => laneExists l0
  | .lnPrbsRxEn l0 _ => laneExists l0
  | .lnLpbk l0 _ => laneExists l0
  | .lnAdaptHold l0 _ => laneExists l0
  | .lnPrbsErrLo l0 _ => laneExists l0
  | .lnCodeErr l0 _ => laneExists l0
  | .lnFec l0 _ => laneExists l0
  | .lnHeld l0 _ => laneExists l0
  | .eyeScanGo l0 _ => laneExists l0
  | .eyeScanDone l0 _ => laneExists l0
  | .pcieLinkUp _ _ _ => true
  | .pcieLinkDown _ => true
  | .pcieInboundRequest _ _ off0 len0 write0 data0 _ => decide (!write0 || data0.length == dataFlits off0.toNat len0.toNat)
  | .pcieL1Exit _ => true
  | .pcieCfgdata _ _ _ _ => true
  | .pcieOutboundAccess _ _ _ _ => true
  | .spanPortUp _ => true
  | .spanProgressTimeout _ => true
  | .aos _ _ => true
  | .req _ f0 => decide (f0.length = 16)
  | .rsp _ f0 => decide (f0.length = 16)
  | .data _ f0 => decide (f0.length = 16)
  | .cmd _ f0 => decide (f0.length = 16)
  | .trig _ f0 => decide (f0.length = 16)
  | .align _ f0 => decide (f0.length = 16)
  | .probe _ f0 _ => decide (f0.length = 16)
  | .echo _ f0 _ => decide (f0.length = 16)
  | .tag _ f0 => decide (f0.length = 16)
  | .link _ f0 => decide (f0.length = 16)
  | .deliver _ f0 => decide (f0.length = 16)
  | .release _ f0 => decide (f0.length = 16)
  | .spanRetryTimer _ => true
  | .spanAckTimer _ => true
  | .spanTxnTimeout _ => true
  | .spnRtWrite _ _ => true
  | .spanRouteDrainEnd _ => true
  | .spnCfgWrite _ => true
  | .spanProbeTimer _ _ => true
  | .spanGroupTimer _ => true
  | .tbMarkLoss => true
  | .spnPerr _ _ => true
  | .ddrTrainComplete _ _ => true
  | .ddrTrainTimeout _ => true
  | .ddrRangeOpen _ => true
  | .ddrMapWrite _ _ _ => true
  | .dramRead _ _ => true
  | .dramWrite _ _ => true
  | .dramAtomic _ _ => true
  | .ddrAlert _ _ => true
  | .ddrUpkeepTimer _ => true
  | .ddrRefresh _ _ => true
  | .ddrWbDrain _ _ => true
  | .ddrIdleClose _ _ => true
  | .ddrPatrolStep _ _ => true
  | .ddrRetrain _ _ => true
  | .ddrEcc _ _ => true
  | .ddrErrlogRead _ _ => true
  | .meeSlotLoadGo _ => true
  | .meeCount _ => true
  | .wdsEnqueue _ _ _ => true
  | .wdsTake _ _ _ _ => true
  | .wdsTakeTimeout _ => true
  | .wdsCtxRelease _ _ => true
  | .wdsServiceTimeout _ _ => true
  | .wdsCtxRevive _ => true
  | .wdsSpillTimer _ => true
  | .wdsSpillRetry _ => true
  | .wdsRefill _ => true
  | .wdsCount _ => true
  | .kilnWriteback _ => true
  | .mgrAlertLatchClear => true
  | .mgrFatalClr => true
  | .coreFence _ _ => true
  | .dbgWdtKick _ => true
  | .dbgWdtEnable _ => true
  | .wdtExpiry _ => true
  | .haltreq _ => true
  | .hartHalted _ _ => true
  | .resumereq _ => true
  | .accessRegister _ _ _ => true
  | .hartTrigger _ _ _ _ => true
  | .dbgAccGo _ => true
  | .jtagDbgaccUpdate _ => true
  | .jtagTestLogicReset => true
  | .extest => true
  | .xtiEvent _ _ => true
  | .dbgXtPulse _ => true
  | .sfrzFreeze _ => true
  | .sfrzRelease _ => true
  | .dbgHeldEnter => true
  | .heldEntryComplete => true
  | .dbgHeldRelease => true
  | .dbgStim _ _ bytes0 => decide (bytes0.val = 1 ∨ bytes0.val = 2 ∨ bytes0.val = 4)
  | .traceFlushTimer => true
  | .clockFail _ _ => true
  | .ioscFail => true
  | .refclkRequalTimer _ _ => true
  | .tbTick _ _ _ => true
  | .tbIndex => true
  | .tbFramePulse => true
  | .tbPpsEdge => true
  | .tbcPosLo _ => true
  | .tbcStatus _ => true
  | .tbcCalEnt _ _ => true
  | .calEntryDue _ => true
  | .telSample _ _ => true
  | .calPwrVote _ _ => true
  | .fabPowerBeat _ _ _ => true
  | .pwrDomainMove _ => true
  | .pwrDrainTimeout _ => true
  | .pwrMgrClr _ => true
  | .pwrWarmWrite _ _ => true
  | .wakeNLow _ => true
  | .wakeTimer => true
  | .watchSample _ _ _ => true
  | .wakeVoteWithdraw => true
  | .coolingComplete _ _ _ => true
  | .sectorTestRow _ _ _ _ _ => true
  | .repairRecordWrite _ => true
  | .bgBistTimer => true
  | .telSampleTimer _ => true
  | .railGood _ => true
  | .adlAckTimer _ => true
  | .meeReencGroup _ _ => true
  | .pwrMoveComplete _ => true
  | .pllLock _ => true
  | .aoscQualified => true
  | .tileClockEdge _ _ _ => true

end Sys2Proof
end

