-- ==== Sys2Proof/Certificates/Slice0/Obligations.lean ====
section
/-! DEFINITION. The statements for the provers: how a step takes a command, the rules of the spec that say what the block does and keeps, and, family by
family, the next state that every command of the opcode table answers. -/

open Sys2Proof Sys2Proof.Machine

/-- A step runs the command at the front of the queue on the state with the queue's rest. For every state whose queue of waiting commands is c
followed by rest, step answers exactly what exec answers for c on the same state with the queue rest. The queue itself is the model's (log 2). Cites
spec/INDEX.md, R46. -/
def Obligations.StepRunsFrontCommand : Prop :=
  ∀ (s : State) (c : Instr) (rest : List Instr), s.pending = c :: rest → step s = exec c { s with pending := rest }

/-- On an empty queue the block idles (the model's choice, log 2). For every state with no waiting command, step answers next with the state
unchanged. This is the model's DESIGN CHOICE of log 2: every time-driven effect of the spec is a command of the table, so nothing happens without one.
Cites spec/INDEX.md. -/
def Obligations.EmptyQueueIdles : Prop := ∀ s : State, s.pending = [] → step s = .next s

/-- What the reset state holds. State.reset is in Greenware, no command waits, DRAM lists nothing, no fuse bit is programmed (the model's choice: an
unprogrammed part), the quiet window is closed, no debug level is granted, no span port is enabled, and the read-write registers NOC_QOS of every die,
NOC_IPORT_CFG of H's port 0, SPN timeouts and the DDR controller's scrub and patrol registers hold the Reset column of their register maps. Cites R4,
R12, R63, R446, R456, spec/10_network_on_chip.md register tables, spec/13_span_link.md register tables, spec/14_dram_controller.md register tables. -/
def Obligations.ResetIsGreenware : Prop :=
  State.reset.mode = .greenware ∧ State.reset.pending = [] ∧ State.reset.ddr.mem = [] ∧ State.reset.fuses.bits = []
    ∧ State.reset.clk.quiet = false ∧ State.reset.authLevel = 0 ∧ State.reset.span.portEn = 0
    ∧ (∀ die : Fin 5, State.reset.reg die.val (blkNoc + 0xC) = 0x40040201)
    ∧ State.reset.reg 0 (blkNoc + 0x4000) = 0x03E80000 ∧ State.reset.reg 0 (blkSpn + 0xC) = 0x03E803E8
    ∧ State.reset.reg 0 (blkSpn + 0x10) = 0x03E80064 ∧ State.reset.reg 0 (blkDdr + 4) = 0x10103C05
    ∧ State.reset.reg 0 (blkDdr + 0x30) = 128

/-- DRAM has its canonical form at reset. The DRAM cells of State.reset are in the canonical form: addresses strictly rising and no cell equal to what
an unlisted address reads as. The form is the model's own. Cites spec/14_dram_controller.md. -/
def Obligations.DramCanonicalAtReset : Prop := Safety.memoryCanonical State.reset

/-- Every step keeps the canonical form of DRAM. For every state whose DRAM cells are in the canonical form, whatever command is at the front of the
queue, if step answers a next state then its DRAM cells are in the canonical form. So equal memories are equal data after every command. The form is
the model's own. Cites spec/14_dram_controller.md, R338, R344, R346. -/
def Obligations.EveryStepKeepsDramCanonical : Prop :=
  ∀ s t : State, Safety.memoryCanonical s → step s = .next t → Safety.memoryCanonical t

/-- A programmed fuse bit stays programmed through every step. For every state, every fuse word k and bit i of it: if the bit is programmed and step
answers a next state, the bit is programmed in that state. No command of the table, a reset or a fatal outcome among them, clears a fuse bit (R209:
bits already set stay set). Cites R208, R209. -/
def Obligations.ProgrammedFuseBitsStay : Prop :=
  ∀ (s t : State) (k i : Nat), (sget 0 s.fuses.bits k).getLsbD i = true → step s = .next t → (sget 0 t.fuses.bits k).getLsbD i = true

/-- A step takes exactly the front command off the queue. For every state whose queue is c followed by rest, if step answers a next state then the
queue of that state is rest: no command adds to the queue, removes from it or reorders it, and a reset of the device leaves it. Cites spec/INDEX.md,
R46. -/
def Obligations.StepTakesOneCommand : Prop :=
  ∀ (s t : State) (c : Instr) (rest : List Instr), s.pending = c :: rest → step s = .next t → t.pending = rest

/-- Every command completes, and one whose operands name no part of the device has no effect. For every command and state, exec answers a next state;
when the command is not well formed (an operand names a port, router, lane or sideband end that the device does not have, a status that no target
returns, or a request that no port can carry), that state is the old one in every field but readOut, the value that a read of such a register returns.
So no command of the table is refused, and none stops. Cites spec/INDEX.md, R236, R242, R286, R288. -/
def Obligations.EveryCommandCompletes : Prop :=
  ∀ (i : Instr) (s : State), ∃ t, exec i s = .next t ∧ (i.wellFormed = false → t = { s with readOut := t.readOut })

/-- A command packet that is not outstanding, or whose turn has not come, changes nothing. For every command that starts a packet (Safety.packet names
it, its identity and its opcode): when no command is outstanding under that identity exec answers the state unchanged; and so it does when the one
outstanding under it has another opcode, has started, MGR executes no commands now, or an earlier command of its class has yet to end. Cites R45, R46,
R47, R48. -/
def Obligations.PacketThatCannotStartDoesNothing : Prop :=
  ∀ (i : Instr) (id : CmdId) (op : Nat) (s : State), Safety.packet i = some (id, op) →
    (s.findCmd id = none → exec i s = .next s)
    ∧ (∀ c, s.findCmd id = some c → (c.op ≠ op ∨ c.started = true ∨ s.mgrServes = false ∨ s.turn c = false) → exec i s = .next s)

/-- A packet whose mode check fails when it starts ends with WRONG_MODE and has no other effect. For every packet command (Safety.packet) whose turn
has come: when the mode check fails, exec answers the state in which the packet is started and ended with the status WRONG_MODE; a session packet
(CFG_FRAMES, CFG_KEY_ROLL, CFG_END, CFG_SIGNATURE, CFG_MEMINIT) is ended through sessFail, which also acts on the session as R497 says. Cites R44,
R47, R50, R497. -/
def Obligations.PacketInTheWrongModeIsAnswered : Prop :=
  ∀ (i : Instr) (id : CmdId) (op : Nat) (c : Cmd) (s : State), Safety.packet i = some (id, op) →
    Safety.queued id op c s → (Safety.begun id s).modeOk c = false →
    exec i s = .next ((if Safety.sessionPacket i then sessFail rcWrongMode c else finish c rcWrongMode []) (Safety.begun id s))

/-- A read with the inspect attribute changes nothing but the value read out. For every read command of a register with RC or RS fields, with the
inspect attribute set: when exec answers a next state, that state is the old one in every field but readOut, the value read out. Cites R11, R14. -/
def Obligations.InspectReadsHaveNoSideEffect : Prop :=
  ∀ (i : Instr) (s t : State), Safety.inspectRead i = true → exec i s = .next t → t = { s with readOut := t.readOut }

/-- The areas of an unavailable, gated or held sector read zero and ignore writes. For every compute die d and sector n, when the sector is
unavailable, held in reset by a partial load (inRegion or held) or power-gated (its die at rung L3 or deeper): a read at any offset of its SDU, block
memory and deep memory areas answers zero with no error and changes nothing, a write there changes nothing, and its sector controls stay readable:
SC_STATUS still answers its status word. Cites R33. -/
def Obligations.UnavailableSectorAreasReadZero : Prop :=
  ∀ (d : Fin 4) (sec : Fin 192) (rel : Nat) (w : Word) (be : BitVec 4) (insp : Bool) (s : State),
    let n := d.val * 192 + sec.val
    ((s.secAt n).state = .unavailable ∨ (s.secAt n).state = .inRegion ∨ (s.secAt n).state = .held ∨ 3 ≤ (s.pdomAt (d.val + 1)).rung.toNat) →
    ((0x10000 ≤ rel ∧ rel < 0x7A800 ∨ 0x80000 ≤ rel ∧ rel < 0x90000) →
      secRead d.val sec.val rel insp s = ((0, false), s) ∧ secWrite d.val sec.val rel w be s = s)
    ∧ secRead d.val sec.val 0 insp s = ((wd (scStatus n s), false), s)

/-- The quiet window: who waits for it, what opens and closes it, and that a reset closes it. While neither the quiet window is open nor qw_force is
set: MEM_SCRUB_STEP of a memory with scrub_qw reads no word for the scrubber (it leaves the state unchanged but for the corrected words that wait for
an idle cycle, R122); DDR_UPKEEP_TIMER with retrain_qw, DDR_PATROL_STEP with patrol_qw, MEE_REENC_GROUP with reenc_qw and BG_BIST_TIMER with bg_qw
leave the state unchanged; and at a bundle with rlt_qw neither end makes a lane change: the receiver starts none, the transmitter sends none, and
REQ_OUT is at most kept as asked. The calendar action QW_OPEN leaves the state unchanged while the window is open and opens it otherwise; QW_CLOSE
leaves it unchanged while closed and closes it otherwise. The window is closed in State.reset and after every entry to Greenware. Cites R446. -/
def Obligations.QuietWindowGatesBackgroundWork : Prop :=
  (∀ s : State, s.clk.quiet = false → s.clk.qwForce = false →
    (∀ (c : SecId) (m : MemSel), (s.ctlOf c m).scrubQw = true → exec (.memScrubStep c (.mem m)) s = .next (
        if !s.memRuns c.key || (s.ctlOf c m).initBusy then s
        else match m with
          | .block i => s.bmAtMod (memBm c i) (bmAdvance (bit (s.bmCfg (memBm c i)) 0) 0)
          | .deep => s.dmAtMod c (dmAdvance 0)))
    ∧ (∀ c : Fin 12, bit (s.reg 0 (blkDdr + c.val * 0x10000 + 4)) 3 = true → exec (.ddrUpkeepTimer c) s = .next s)
    ∧ (∀ (c : Fin 12) (m : DimmRead), bit (s.reg 0 (blkDdr + c.val * 0x10000 + 4)) 1 = true → exec (.ddrPatrolStep c m) s = .next s)
    ∧ (∀ (c : Fin 12) (m : DimmRead), s.mee.reencQw = true → exec (.meeReencGroup c m) s = .next s)
    ∧ (bit s.tst.bgCfg 30 = true → exec .bgBistTimer s = .next s)
    ∧ (∀ b : Fin 76, bit (s.reg (bundleTo b.val / 32) (blkAdl + 0x30)) 30 = true →
        rltBegin b.val s = s ∧ steerSend b.val s = s
        ∧ ∀ (lane : BitVec 7) (test : Bool), exec (.reqOut b lane test) s = .next s
          ∨ exec (.reqOut b lane test) s = .next (s.bundleAtMod b.val (fun x => { x with ask := some (true, test, lane) }))))
  ∧ (∀ (t : BitVec 48) (arg : BitVec 24) (s : State),
    (s.clk.quiet = true → calAct t 2 arg s = s) ∧ (calAct t 2 arg s).clk.quiet = true
    ∧ (s.clk.quiet = false → calAct t 3 arg s = s) ∧ (calAct t 3 arg s).clk.quiet = false)
  ∧ State.reset.clk.quiet = false ∧ (∀ (cause : Nat) (s : State), (greenware cause s).clk.quiet = false)

/-- The settled rung of a domain is the shallowest rung that any vote names, else its floor. For every domain d: take the votes of MGR, HOST, FAB, DBG
and CAL that name a rung (L0 to L7); for a guest domain a vote deeper than the deepest rung of its CAP page 3 counts as that rung (guestDeepest; a
site no page 3 has come from sets no bound, log 115). When no vote names a rung the settled rung is the domain's floor; otherwise it is one of these
votes and none is shallower. Cites R456. -/
def Obligations.SettledRungFollowsTheVotes : Prop :=
  ∀ (s : State) (d : Nat),
    let named := [s.mgrVote d, (s.pdomAt d).host.toNat, (s.pdomAt d).fab.toNat, (s.pdomAt d).dbg.toNat, (s.pdomAt d).cal.toNat].filter (fun v => v < 8)
    let votes := if d = 5 ∨ d = 6 then named.map (fun v => min v (s.guestDeepest d)) else named
    (votes = [] → s.settled d = s.floor d) ∧ (votes ≠ [] → s.settled d ∈ votes ∧ ∀ v ∈ votes, s.settled d ≤ v)

/-- FENCE stays in the initiator port until every earlier request has its response, and the port issues nothing meanwhile. Issuing a FENCE puts it in
the port's list behind every earlier request and marks the port as holding it, and changes no channel of the network. While a port holds a FENCE it
takes no request. The command FENCE retires what is due at the port; while any other transaction is left it returns nothing more, and once the FENCE
alone is left it is answered with the response FENR of status OK, which the port returns. Cites R245. -/
def Obligations.FenceHoldsItsPort : Prop :=
  (∀ (p : Nat) (r : NocReq) (qos : BitVec 2) (fwg : BitVec 5) (sdev : BitVec 12) (hp : Bool) (s : State), r.typ = 3 →
    let t := issueAs p r qos fwg sdev hp s
    t.noc.chan = s.noc.chan ∧ (t.iportAt p).fence = some r.otag
      ∧ ∃ o : Outst, o.req.typ = 3 ∧ o.req.otag = r.otag ∧ o.rsp = none ∧ (t.iportAt p).out = (s.iportAt p).out ++ [o])
  ∧ (∀ (p : Nat) (s : State), (s.iportAt p).fence.isSome → s.portTakes p = false)
  ∧ (∀ (p : BitVec 10) (s : State), isIport p.toNat →
    (2 ≤ ((retire p.toNat s).iportAt p.toNat).out.length → exec (.fence p) s = .next (retire p.toNat s))
    ∧ (∀ o : Outst, ((retire p.toNat s).iportAt p.toNat).out = [o] → o.req.typ = 3 →
        exec (.fence p) s = .next (retire p.toNat ((retire p.toNat s).iportAtMod p.toNat (fun q => { q with
          out := [{ o with rsp := some (rspFor o.req stOk [] []) }] })))
        ∧ (rspFor o.req stOk [] []).typ = 11 ∧ (rspFor o.req stOk [] []).status = stOk))

/-- A transaction without a response ends with TIMEOUT in its order slot, and not in Held. When rsp_timeout of the port is not 0, the device is not in
Held and the port has a transaction of that number that has left and has no response, RSP_TIMEOUT answers the state in which timeoutTxn ends it and
the port retires what is due; in Held it leaves the state unchanged. At a port with transactions, ending keeps every one at its place in the list, so
the TIMEOUT takes the transaction's own order slot, and gives it the status TIMEOUT; timeoutTxn of a read is that ending with timeoutSeen set and
notice 0x3A05 raised, and of a write or an atomic the same followed by the hold of R397. Cites R262. -/
def Obligations.ResponseTimeoutEndsTheTransaction : Prop :=
  (∀ (p : BitVec 10) (txid : BitVec 16) (s : State) (o : Outst), isIport p.toNat →
    fld (s.reg (portDie p.toNat) (blkNoc + 0x4000 + 0x20 * (p.toNat % 128))) 31 16 ≠ 0 →
    (s.iportAt p.toNat).out.find? (fun o => o.req.txid == txid && o.rsp.isNone && o.sent && o.req.typ != 3) = some o →
    (s.mode ≠ .held → exec (.rspTimeout p txid) s = .next (retire p.toNat (timeoutTxn p.toNat o s)))
    ∧ (s.mode = .held → exec (.rspTimeout p txid) s = .next s))
  ∧ (∀ (p : Nat) (txid : BitVec 16) (s : State),
    let out := (s.iportAt p).out
    let ended := ((endTxn p txid (fun r => rspFor r stTimeout [] []) s).iportAt p).out
    out ≠ [] → ended.map (·.req) = out.map (·.req)
    ∧ ∀ (n : Nat) (o : Outst), out[n]? = some o → o.req.txid = txid → o.rsp = none →
        ∃ o', ended[n]? = some o' ∧ o'.rsp = some (rspFor o.req stTimeout [] []) ∧ (rspFor o.req stTimeout [] []).status = stTimeout)
  ∧ (∀ (p : Nat) (o : Outst) (s : State), o.req.typ = 0 →
    timeoutTxn p o s = raiseFrom (portDie p) 0x3A05
      ((endTxn p o.req.txid (fun r => rspFor r stTimeout [] []) s).iportAtMod p (fun q => { q with timeoutSeen := true })))
  ∧ (∀ (p : Nat) (o : Outst) (s : State), o.req.typ = 1 ∨ o.req.typ = 2 →
    timeoutTxn p o s = raiseFrom (portDie p) 0x3A08
      ((raiseFrom (portDie p) 0x3A05
        ((endTxn p o.req.txid (fun r => rspFor r stTimeout [] []) s).iportAtMod p (fun q => { q with timeoutSeen := true }))).iportAtMod p (fun q => { q with
          holds := q.holds.filter (· != o.req.dst) ++ [o.req.dst], lastHold := o.req.dst })))

/-- H rewrites the firewall group, the origin and the inspect attribute of every request from a guest link. For either guest site and every header
flit of a request of which every byte has a good copy (any other goes to the error sink, R241): after the rewrite the fwg field holds ADL_GUEST_FWG of
that site, the sdev field the device's own ID, and insp is clear. Every header that a router takes at an input whose neighbour is a router of guest
site 5 or 6 is rewritten so after its header check, by the values that stand after the check. Cites R281. -/
def Obligations.GuestRequestsAreRewritten : Prop :=
  (∀ (s : State) (site : Fin 2) (f : BitVec 288), hdrIsRsp f = false → headerLost f = false →
    let d := flitData (guestRewrite s site.val f)
    fld d 144 140 = fld (s.reg 0 (blkAdl + 0x40 + 4 * site.val)) 4 0 ∧ fld d 139 128 = s.devId ∧ bit d 20 = false)
  ∧ (∀ (s : State) (r inp q : Nat) (f : BitVec 288), inp ≠ 0 → nbr r inp = some q → (q / 32 = 5 ∨ q / 32 = 6) →
    (checkFlit r inp true f s).1 = guestRewrite (checkFlit r inp true f s).2 (q / 32 - 5) (repairHeader f).2.2)

/-- When a calendar entry is due and how it advances. An entry is due exactly while it is armed and (position − T) mod 2^48 lies below 2^47. A
one-shot entry (interval 0) that runs is disarmed and else unchanged. A repeating entry that is due takes T + interval × k with the least k at least 1
that puts T ahead of the position; k − 1 is what is added to missed, saturating, and what decides on notice 0x0247; the entry stays armed and is then
not due at that position. Cites R443. -/
def Obligations.DueCalendarEntryAdvances : Prop :=
  (∀ (s : State) (e : Nat), s.calDue e = true ↔ (s.calAt e).armed = true ∧ (s.clk.pos - (s.calAt e).t).toNat < 2 ^ 47)
  ∧ (∀ (x : CalEnt) (pos : BitVec 48), x.interval = 0 → x.advance pos = ({ x with armed := false }, 0))
  ∧ (∀ (x : CalEnt) (pos : BitVec 48), x.interval ≠ 0 → (pos - x.t).toNat < 2 ^ 47 →
    ∃ k : Nat, 1 ≤ k ∧ (pos - x.t).toNat < x.interval.toNat * k ∧ (∀ j, 1 ≤ j → (pos - x.t).toNat < x.interval.toNat * j → k ≤ j)
      ∧ x.advance pos = ({ x with t := x.t + BitVec.ofNat 48 (x.interval.toNat * k), missed := satAdd x.missed (k - 1) }, k - 1)
      ∧ 2 ^ 47 ≤ (pos - (x.advance pos).1.t).toNat)

/-- A local DRAM address maps to one channel address of the interleave set, and back. Whenever a local address A maps to a channel and a channel
address CA: the channel is entry ((A div 256) mod N) of the interleave set, CA is ((A div 256) div N) × 256 + A mod 256, the channel is in the set, CA
lies below the usable size, the inverse gives A back, and every address of the same 256-byte block that maps at all maps to the same channel. An
address at or above N × U MiB, and any address while the range is closed, does not map. Cites R24, R331, R332. -/
def Obligations.DramAddressMapIsOneToOne : Prop :=
  (∀ (s : State) (a c ca : Nat), s.dramMap a = some (c, ca) →
    let n := s.ddrSet.length
    s.ddrSet[a / 256 % n]? = some c ∧ ca = a / 256 / n * 256 + a % 256 ∧ c ∈ s.ddrSet ∧ ca < s.ddr.usable * 1048576
      ∧ s.dramLocal c ca = a ∧ ∀ b c' cb, b / 256 = a / 256 → s.dramMap b = some (c', cb) → c' = c)
  ∧ (∀ (s : State) (a : Nat), s.ddr.isOpen = false ∨ s.ddrSet.length * s.ddr.usable * 1048576 ≤ a → s.dramMap a = none)

/-- Storing a DRAM line is read back, and every other byte of DRAM keeps its value. After dramStore of a value v at line l of channel c (the operation
through which every command that stores to DRAM does so), reading that line gives v if the cells were in the canonical form
(EveryStepKeepsDramCanonical), the line is marked as poisoned if it was stored so, and every byte outside the 64 bytes that start at c × 2^38 + l × 64
reads as before; the state is else unchanged but for the DRAM cells and the poisoned-form marks. Cites R341, R344, R345. -/
def Obligations.DramLineStoreChangesOnlyItsLine : Prop :=
  ∀ (c line : Nat) (v : BitVec 512) (poison : Bool) (s : State),
    let t := dramStore c line v poison s
    let base := c * 2 ^ 38 + line * 64
    (Safety.memoryCanonical s → t.dramLine c line = v) ∧ (poison = true → sget false t.ddr.poison (c * 2 ^ 32 + line) = true)
    ∧ (∀ a, ¬ (base ≤ a ∧ a < base + 64) → sget 0 t.ddr.mem a = sget 0 s.ddr.mem a)
    ∧ t = { s with ddr := { s.ddr with mem := t.ddr.mem, poison := t.ddr.poison } }

/-- What the firewall of a target port permits, and what a denial does. With fw_en clear every request passes; with group 31 every request passes.
With fw_en set, an RD, WR or ATOM of another group passes exactly when one of the port's 16 windows that is enabled, of a legal size and aligned
contains every byte of the request and has the group's bit set in rd_mask (RD), wr_mask (WR) or both (ATOM). An RD, WR or ATOM that a target port is
ready to take and that is not permitted leaves the port's queue and is denied: the command answers fwDeny on the rest of the queue, which sends the
response DENIED of that request without data. Cites R256. -/
def Obligations.FirewallDecidesByGroupAndWindow : Prop :=
  (∀ (s : State) (p : Nat) (q : NReq), bit (s.reg (portDie p) (blkNoc + 0x8000 + 0x200 * (p % 128))) 0 = false ∨ q.fwg = 31 → s.fwPass p q = true)
  ∧ (∀ (s : State) (p : Nat) (q : NReq), bit (s.reg (portDie p) (blkNoc + 0x8000 + 0x200 * (p % 128))) 0 = true → q.fwg ≠ 31 → q.typ.toNat < 3 →
    (s.fwPass p q = true ↔ ∃ w, w < 16 ∧ bit (s.fwWin p w 1) 31 = true ∧
      (let l := fld (s.fwWin p w 1) 29 24
       let base := fld (s.fwWin p w 1) 7 0 * 2 ^ 44 + (s.fwWin p w 0).toNat * 2 ^ 12
       12 ≤ l ∧ l ≤ 52 ∧ base % 2 ^ l = 0 ∧ base ≤ q.local ∧ q.local + q.len.toNat < base + 2 ^ l)
      ∧ (q.typ = 0 → bit (s.fwWin p w 2) q.fwg.toNat = true) ∧ (q.typ = 1 → bit (s.fwWin p w 3) q.fwg.toNat = true)
      ∧ (q.typ = 2 → bit (s.fwWin p w 2) q.fwg.toNat = true ∧ bit (s.fwWin p w 3) q.fwg.toNat = true)))
  ∧ (∀ (p0 : BitVec 10) (s : State) (q : NReq) (rest : List NReq), isTport p0.toNat → (s.tportAt p0.toNat).inq = q :: rest →
    s.targetReady p0.toNat q → s.portClocked p0.toNat → s.mode ≠ .greenware →
    let s1 := s.tportAtMod p0.toNat (fun t => { t with inq := rest, drain := t.drain - 1 })
    s1.fwPass p0.toNat q = false →
    (q.typ = 0 → exec (.rd p0) s = .next (fwDeny p0.toNat q s1)) ∧ (q.typ = 1 → exec (.wr p0) s = .next (fwDeny p0.toNat q s1))
    ∧ (q.typ = 2 → exec (.atom p0) s = .next (fwDeny p0.toNat q s1)))
  ∧ (∀ (q : NReq), (rspFor q stDenied [] []).status = stDenied ∧ (rspFor q stDenied [] []).data = [])

/-- The pending-notice queue keeps at most 256 entries, one per code, and loses nothing uncounted. For every queue of at most 256 notices with no code
twice, entering a notice keeps both. A code that has an entry advances that entry's repeat count and no other part of the queue; a new code is
appended last while there is room with the position of its occurrence; when the queue is full the lost-notice count advances instead, saturating, and
the position of the first lost notice is kept. Cites R52. -/
def Obligations.NoticeQueueKeepsOneEntryPerCode : Prop :=
  ∀ (code : BitVec 16) (pos : Word) (m : Mgr), m.notices.length ≤ 256 → (m.notices.map (·.code)).Nodup →
    let t := queueNotice code.toNat pos m
    t.notices.length ≤ 256 ∧ (t.notices.map (·.code)).Nodup
    ∧ (code ∈ m.notices.map (·.code) →
        t = { m with notices := m.notices.map (fun n => if n.code = code then { n with rep := satInc n.rep } else n) })
    ∧ (code ∉ m.notices.map (·.code) → m.notices.length < 256 → t = { m with notices := m.notices ++ [{ code := code, rep := 0, pos := pos }] })
    ∧ (code ∉ m.notices.map (·.code) → m.notices.length = 256 →
        t = { m with lost := satInc m.lost, lostPos := if m.lost = 0 then pos else m.lostPos })

/-- Accumulator results: overflow is flagged, clamped with asat and wrapped without. For every integer result of a 40-bit accumulator write: the
overflow flag is raised exactly when it lies outside the signed 40-bit range; within the range the value is the result; with asat a result above or
below it gives the largest or smallest value; without asat it wraps modulo 2^40. The same holds of the two 20-bit lanes of a dual form, each computed
from its own lane alone, and the flag is that of either lane. A write that lands with the flag sets ov0 or ov1 of its accumulator, and one without
leaves both as they are. Cites R133, R134. -/
def Obligations.AccumulatorOverflowSaturatesOrWraps : Prop :=
  (∀ (sat : Bool) (v : Int),
    (acc40 sat v).2 = decide (v < -2 ^ 39 ∨ 2 ^ 39 ≤ v)
    ∧ (-2 ^ 39 ≤ v ∧ v < 2 ^ 39 → (acc40 sat v).1.toInt = v)
    ∧ (sat = true → 2 ^ 39 ≤ v → (acc40 sat v).1.toInt = 2 ^ 39 - 1) ∧ (sat = true → v < -2 ^ 39 → (acc40 sat v).1.toInt = -2 ^ 39)
    ∧ (sat = false → (acc40 sat v).1 = BitVec.ofInt 40 v))
  ∧ (∀ (sat : Bool) (a p : BitVec 40),
    let lane (n : Nat) : Int × Bool := narrow 20 sat ((lane20 n a).toInt + (lane20 n p).toInt)
    (mulValue 5 sat a p).1 = BitVec.ofInt 20 (lane 1).1 ++ BitVec.ofInt 20 (lane 0).1 ∧ (mulValue 5 sat a p).2 = ((lane 0).2 || (lane 1).2))
  ∧ (∀ (d ov : Bool) (v : BitVec 40) (set : Bool) (left : Nat) (u : Sdu),
    let t := land { set := set, left := left, w := .acc d v ov } u
    (t.rset set).acc d = v ∧ (t.rset set).acc (!d) = (u.rset set).acc (!d)
    ∧ (ov = true → bit (t.rset set).st (if d then 9 else 8) = true) ∧ (ov = false → (t.rset set).st = (u.rset set).st)
    ∧ t.rset (!set) = u.rset (!set))

/-- Where a logical sector row stands: below the failed row it keeps its number, from there on it moves up by one. For every sector that is not
unavailable, with repair-map entry e of its column: when e names a row (0 to 12), logical row r stands on physical row r for r below e and on r + 1
otherwise; with any other entry row r stands on physical row r. The example of file 01: with entry 0x7 for column 5 of C2, logical sectors 101, 117
and 181 stand on physical rows 6, 8 and 12. Cites R17, R18, R20, R22. -/
def Obligations.RepairMapSkipsTheFailedRow : Prop :=
  (∀ (s : State) (d : Fin 4) (sec : Fin 192), (s.secAt (d.val * 192 + sec.val)).state ≠ .unavailable →
    let e := s.repairEnt d.val (sec.val % 16)
    let r := sec.val / 16
    (e ≤ 12 → r < e → s.prow (d.val * 192 + sec.val) = r) ∧ (e ≤ 12 → e ≤ r → s.prow (d.val * 192 + sec.val) = r + 1)
    ∧ (12 < e → s.prow (d.val * 192 + sec.val) = r))
  ∧ (∀ s : State, s.repairEnt 1 5 = 7 → (∀ n, (s.secAt n).state ≠ .unavailable) →
    s.prow (192 + 101) = 6 ∧ s.prow (192 + 117) = 8 ∧ s.prow (192 + 181) = 12)

/-- What a fatal outcome leaves: Greenware, no key, no outstanding command, the record of the cause. After every fatal outcome the device is in
Greenware; its cause is recorded and the count has advanced, saturating; every encryption state is that of reset, so every key slot is empty; no
command is outstanding and no reply waits; DRAM lists nothing (its contents are lost); and flash areas, fuses, the queue of waiting commands and the
battery-backed and always-on values that R403 keeps are as before. Cites R49, R355, R403, R404. -/
def Obligations.FatalOutcomeReturnsToGreenware : Prop :=
  ∀ (code : Nat) (s : State),
    let t := fatal code s
    t.mode = .greenware ∧ t.ao.fatalCause = BitVec.ofNat 16 code ∧ t.ao.fatalCount = satInc s.ao.fatalCount
    ∧ t.mee = State.reset.mee ∧ (∀ k, (t.slotAt k).state = 0) ∧ t.mgr.cmds = [] ∧ t.mgr.mbxOut = [] ∧ t.ddr.mem = []
    ∧ t.fuses = s.fuses ∧ t.flash.areas = s.flash.areas ∧ t.pending = s.pending ∧ t.mgr.kilnSlot = s.mgr.kilnSlot

/-- The debug level of every transport at a start follows the DEBUG_LEVEL fuse. When IOSC_QUALIFIED starts a device whose straps are not reserved,
every transport holds the level open (2) if the fuse as sensed is 0, and none (0) otherwise. Cites R413. -/
def Obligations.StartLevelsFollowTheFuse : Prop :=
  ∀ (straps : BitVec 3) (s : State), s.mode = .greenware → s.boot.hubGood = true → s.boot.ioscOk = false →
    straps ≠ 3 → straps ≠ 5 → straps ≠ 6 → straps ≠ 7 →
    ∃ t, exec (.ioscQualified straps) s = .next t ∧ t.mode = .bisque ∧ t.fuses.sensed = s.fuses.bits ∧ t.cfg.doneDrive = true
      ∧ ∀ x : Transport, t.levelOf x = if fld (sget 0 s.fuses.bits (4 * 128)) 1 0 = 0 then 2 else 0

/-- Frame: 64 commands of one unit change that unit's state and nothing else. For every command that Safety.part confines to one part of the state
(the 64 it names: sequencer controls and vector operations, ADL link events, lane and transceiver events, clock, power, DRAM controller, mailbox,
probe, pin and network commands), for all operands and states: when exec answers a next state, that state equals the old one in every field but that
part; for the DRAM controller's commands DRAM itself and its poison marks are unchanged too, and a lane's command may also advance the model's own
counter of free values (log 149). So no register, key, fuse, queue, notice or memory byte of another unit changes. Cites R100, R101, R118, R126, R166, R301, R312, spec/INDEX.md. -/
def Obligations.OnePartCommandsLeaveTheRest : Prop :=
  ∀ (i : Instr) (p : Safety.Part) (s t : State), Safety.part i = some p → exec i s = .next t → Safety.onlyPart s t p

/-- Start-up: power good, qualification, flash, settings, firmware and entry to user mode: each command answers the next state its rule gives. One
clause for each command, under its mnemonic and the rule it follows: the conditions on operands and state under which the command has its effect, then
the state that exec answers. -/
def Obligations.StartCommandsComplete : Prop :=
  -- HUB_POWER_GOOD (R56)
  (∀ (s : State),
      (s.mode == .greenware && !s.boot.hubGood && (!s.boot.stay || s.boot.porstLow)) →
      exec .hubPowerGood s = .next ((s.onPwr (fun p => { p with good := p.good ||| 7 })).onBoot (fun _ => { hubGood := true }))) ∧
  -- IOSC_QUALIFIED (R430)
  (∀ (straps : BitVec 3) (s : State),
      (s.mode == .greenware && s.boot.hubGood && !s.boot.ioscOk) →
      exec (.ioscQualified straps) s = .next (
          let s := { s with mode := .bisque, fuses := { s.fuses with sensed := s.fuses.bits } }
          let s := s.onBoot (fun b => { b with ioscOk := true, straps := straps })
          let s := s.onDbg (fun d => { d with level := startLevels (fld (s.fuse 4 0) 1 0) })
          let s := s.onCfg (fun c => { c with doneDrive := true })
          let s := s.onMgr (fun m => { m with startNo := m.startNo + 1 })
          s.when (straps == 3 || straps == 5 || straps == 6 || straps == 7) (raise 0x0307))) ∧
  -- REFCLK_H_QUAL_TIMEOUT (R58)
  (∀ (s : State),
      (s.boot.ioscOk && !(s.domAt 25).qualified && !s.boot.refclkFailed) →
      exec .refclkHQualTimeout s = .next (
          raise 0x3308 ((s.onBoot (fun b => { b with refclkFailed := true })).onXcvr
            (fun x => { x with pcie0 := { x.pcie0 with enabled := false }, pcie1 := { x.pcie1 with enabled := false } })))) ∧
  -- FLASH_DISCOVERY (R64)
  (∀ (valid0 : Bool) (size0 : Nat) (valid1 : Bool) (size1 : Nat) (s : State),
      (s.boot.ioscOk && ((s.domAt 25).qualified || s.boot.refclkFailed) && !s.boot.flashDone) →
      exec (.flashDiscovery valid0 size0 valid1 size1) s = .next (
          let s := s.onBoot (fun b => { b with flashDone := true })
          let s := s.onFlash (fun f => { f with valid0 := valid0, size0 := if valid0 then size0 else 0, valid1 := valid1, size1 := if valid1 then size1 else 0 })
          let copy (i : Nat) : Nat → Word := fun k => flashWord s.flash.w0 (1024 * i + k)
          let v0 := valid0 && dirVerifies (copy 0) valid1; let v1 := valid0 && dirVerifies (copy 1) valid1
          let use (i : Nat) (s : State) : State := s.onFlash (fun f => { f with fwPref := bit (copy i 3) 0, areas := dirAreas (copy i) })
          if v0 && v1 then (if (copy 0 2).toNat < (copy 1 2).toNat then use 1 s else use 0 s)
          else if v0 then raise 0x2304 (use 0 s)
          else if v1 then raise 0x2304 (use 1 s)
          else raise 0x2304 (s.onFlash (fun f => { f with fwPref := false, areas := State.reset.flash.areas })))) ∧
  -- SETTINGS_SELECT (R73)
  (∀ (s : State),
      (s.boot.flashDone && !s.boot.settingsDone) →
      exec .settingsSelect s = .next (
          let w (i : Nat) : Nat → Word := fun k => flashWord (s.flashOf 0) (settingsBase i + k)
          let rank := rankSlots 256 (fun i => w i 0 == 0x5E771A65 && fld (w i 1) 15 0 == 1 && w i 2 != 0xFFFFFFFF) (fun i => (w i 2).toNat)
          let s := s.onBoot (fun b => { b with settingsDone := true })
          let s := match rank.find? (fun i => settingsVerifies (w i)) with
            | some i =>
              let words := (List.range 1024).foldl (fun m k => sput (factoryWord k) m k (w i k)) []
              let s := { s with settings := { words := words, defaulted := false, slot := some (Fin.ofNat 256 i) } }
              s.when ((List.range 256).any (fun j => w j 0 == 0x5E771A65 && w j 2 != 0xFFFFFFFF && decide ((w i 2).toNat < (w j 2).toNat))) (raise 0x1303)
            | none =>
              let s := { s with settings := { words := [], defaulted := true, slot := none } }
              raise (if flashErased (s.flashOf 0) 0x40000 0x40000 then 0x0301 else 0x2302) s
          settingsTakeEffect (recordSelect s))) ∧
  -- FIRMWARE_VERIFY (R68)
  (∀ (s : State),
      (s.boot.settingsDone && !s.boot.fwRuns && !s.boot.recovery) →
      exec .firmwareVerify s = .next (
          let area (b : Bool) := s.flash.areas.getD (b2n b) (0, 0, 0)
          if firmwareVerifies s (area s.flash.fwPref) then firmwareStart s.flash.fwPref s
          else if firmwareVerifies s (area !s.flash.fwPref) then firmwareStart (!s.flash.fwPref) (raise 0x2305 s)
          else fatalNotice (raise 0x3306 ((s.onBoot (fun b => { b with recovery := true })).onMgr setCmdFree)))) ∧
  -- DIE_RELEASE (R70)
  (∀ (s : State),
      let d := s.boot.released + 1;
      (s.boot.fwRuns && decide (d ≤ 6) && (d == 1 || (s.dieAt (d - 1)).settled) && (decide (5 ≤ d) || s.pwr.good.getLsbD 3)) →
      exec .dieRelease s = .next (
          let s := s.onBoot (fun b => { b with released := d })
          let s := s.dieAtMod d (fun x => { x with dstate := 1 })
          endBreak (hubBnd d) false s)) ∧
  -- VCC_C_GOOD_TIMEOUT (R70)
  (∀ (s : State),
      (s.boot.fwRuns && !s.pwr.good.getLsbD 3 && !s.boot.vccCFailed) →
      exec .vccCGoodTimeout s = .next (
          let s := s.onBoot (fun b => { b with vccCFailed := true, released := max 4 b.released })
          s.each [1, 2, 3, 4] (fun d t => if (t.dieAt d).settled then t else joinFailed d t))) ∧
  -- DIE_JOIN_TIMEOUT (R71)
  (∀ (d : Fin 7) (s : State),
      ((s.dieAt d.val).dstate == 1) →
      exec (.dieJoinTimeout d) s = .next (
          raise (0x3310 + d.val) ((stopBnd (hubBnd d.val) s).dieAtMod d.val (fun x => { x with dstate := 0, settled := true })))) ∧
  -- FLASH_LOAD_START (R57)
  (∀ (s : State),
      (s.boot.fwRuns && !s.boot.loadStarted && s.mode == .bisque && [1, 2, 3, 4, 5, 6].all (fun d => (s.dieAt d).settled)) →
      exec .flashLoadStart s = .next (
          let s := s.onBoot (fun b => { b with loadStarted := true })
          if s.boot.straps = 0 ∨ s.boot.straps = 1 then
            ({ s with mode := .firing }).onCfg (fun c => { c with flashLoad := some (if s.boot.straps = 0 then .primary else .golden), flashPos := 0 })
          else s)) ∧
  -- PORST_ASSERT (R59)
  (∀ (ns : Nat) (s : State),
      exec (.porstAssert ns) s = .next (
          let reset (s : State) : State := (greenware 2 s).onBoot (fun b => { b with porstLow := true })
          if 10000 ≤ ns then reset s
          else if ns < 1000 then s
          else
            let (b, s) := s.take 1
            if b = 1 then reset s else s)) ∧
  -- AUTO_RESTART (R53)
  (∀ (s : State),
      (s.mode == .greenware && s.boot.restart && !s.boot.fatalRestart && !s.boot.hubGood) →
      exec .autoRestart s = .next ((s.onPwr (fun p => { p with good := p.good ||| 7 })).onBoot (fun _ => { hubGood := true }))) ∧
  -- FATAL_AUTO_RESTART (R404)
  (∀ (s : State),
      (s.mode == .greenware && s.boot.fatalRestart && !s.boot.stay && !s.boot.hubGood) →
      exec .fatalAutoRestart s = .next ((s.onPwr (fun p => { p with good := p.good ||| 7 })).onBoot (fun _ => { hubGood := true }))) ∧
  -- MGR_LOCKSTEP_MISMATCH (R35)
  (∀ (s : State),
      ¬(s.mgrStopped) →
      exec .mgrLockstepMismatch s = .next (
          let s := s.onAo (fun o => { o with fatalCause := BitVec.ofNat 16 0x4320, fatalCount := satInc o.fatalCount, fatalPos := wd s.clk.pos.toNat })
          let w := s.setting 17
          let stay := bit w 0 || (fld w 15 8 != 0 && decide (fld w 15 8 ≤ s.ao.fatalCount.toNat))
          (greenware 5 s).onBoot (fun b => { b with stay := stay, restart := !stay, fatalRestart := !stay })))

/-- Clocks and timebase, first half: qualification, clock loss, switches, timebase and calendar: each command answers the next state its rule gives.
One clause for each command, under its mnemonic and the rule it follows: the conditions on operands and state under which the command has its effect,
then the state that exec answers. -/
def Obligations.ClockCommandsComplete1 : Prop :=
  -- REFCLK_QUALIFY_DONE (R429)
  (∀ (dom : Fin 64) (counts : List Nat) (s : State),
      let d : Nat := dom.val;
      ¬(s.mode == .greenware || !s.boot.ioscOk) →
      exec (.refclkQualifyDone dom counts) s = .next (
          let x := s.domAt d
          let ok := s.countsPass d x.tol counts
          match x.ramp with
          | some (_, 0, some _) => if ok then s.domAtMod d (fun x => { x with qualified := true }) else switchEnd d rcHwFault s
          | some _ => s
          | none =>
            if !isReference d || x.state == .running || (d == 25 && s.boot.refclkFailed) then s
            else if !ok then (if d = 0 then raise 0x2243 s else s.domAtMod d (fun x => { x with state := .qualifying }))
            else if isFabricPll d then s.domAtMod d (fun x => { x with qualified := true, state := .qualifying })
            else
              let s := domRuns d 0 s
              if d = 25 then s.each ((List.range 64).filter onRefclkH) (fun i t =>
                t.domAtMod i (fun x => if x.state = .off then { x with state := .qualifying } else x)) else s)) ∧
  -- CLK_SWITCH (R436)
  (∀ (id : CmdId) (s0 : State) (c : Cmd),
      Safety.ready id 0x50 c s0 →
      let s := Safety.begun id s0;
      let d := (c.p 0).toNat;
      let src := (c.p 1).toNat;
      (d < 64 && hasFallback d && src < 3 && (src != 1 || isFabricPll d)) →
      exec (.clkSwitch id) s0 = .next (
          let x := s.domAt d
          if x.ramp.isSome then finish c rcBusy [] s
          else if x.src.toNat = src ∧ (x.state = .running ∨ x.state = .fallback) then finish c rcOk [] s
          else if src = 2 ∧ s.clk.ioscFailed then finish c rcHwFault [] s
          else s.domAtMod d (fun x => { x with ramp := some (BitVec.ofNat 2 src, 0, some id), qualified := src == 2 }))) ∧
  -- CLK_RAMP_STEP (R436)
  (∀ (dom : Fin 64) (s : State),
      let d : Nat := dom.val;
      ∀ src n cmd, (s.domAt d).ramp = some (src, n, cmd) →
      ¬(n = 0) →
      exec (.clkRampStep dom) s = .next (
          if n < 8 then
            s.domAtMod d (fun x => { x with ramp := some (src, n + 1, cmd), src := if 4 ≤ n then src else x.src })
          else
            let s := switchEnd d rcOk (domRuns d src s |> State.domAtMod d (fun x => { x with ramp := some (src, n, cmd) }))
            let s := s.domAtMod d (fun x => { x with ramp := none })
            let s := match netDie d with | some e => s.each (bundlesAt e) bundleFree | none => s
            s.when (src == 2 && s.sessionUses d && (match s.cfg.session with | some x => x.paused | none => false))
              (State.onCfg (fun c => { c with decision := true })))) ∧
  -- TB_CONFIG (R439)
  (∀ (id : CmdId) (s0 : State) (c : Cmd),
      Safety.ready id 0x51 c s0 →
      let s := Safety.begun id s0;
      (onlyBits (c.p 0) 7 && onlyBits (c.p 1) 0xFFFF && decide ((c.p 0).toNat ≤ 4)) →
      exec (.tbConfig id) s0 = .next (
          let m := BitVec.ofNat 3 (c.p 0).toNat
          finish c rcOk [] (s.onClk (fun k =>
            let k := { k with prescale := BitVec.ofNat 16 (c.p 1).toNat }
            if k.mode = m then k
            else { k with mode := m, lock := false, acc := 0, intervals := [], upd := if m = 0 ∨ m = 4 then 0x00640000 else k.upd })).nextFree)) ∧
  -- CAL_SET (R442)
  (∀ (id : CmdId) (s0 : State) (c : Cmd),
      Safety.ready id 0x52 c s0 →
      let s := Safety.begun id s0;
      let code := fld (c.p 3) 31 24;
      let arg := fld (c.p 3) 23 0;
      (decide ((c.p 0).toNat < 256) && onlyBits (c.p 2) 0xFFFF && calActionOk code arg) →
      exec (.calSet id) s0 = .next (
          finish c rcOk [] (s.calAtMod (c.p 0).toNat (fun x => { x with
            t := BitVec.ofNat 48 ((c.p 1).toNat + (c.p 2).toNat * 2 ^ 32), armed := true, action := BitVec.ofNat 8 code, arg := BitVec.ofNat 24 arg, interval := c.p 4 })))) ∧
  -- CAL_CLEAR (R442)
  (∀ (id : CmdId) (s0 : State) (c : Cmd),
      Safety.ready id 0x53 c s0 →
      let s := Safety.begun id s0;
      let e := (c.p 0).toNat;
      (decide (e < 256) || e == 0xFFFF) →
      exec (.calClear id) s0 = .next (
          let off (x : CalEnt) : CalEnt := { x with armed := false }
          finish c rcOk [] (if e = 0xFFFF then s.onClk (fun k => { k with cal := smap {} k.cal (fun _ => off) }) else s.calAtMod e off))) ∧
  -- CAL_STATUS (R442)
  (∀ (id : CmdId) (s0 : State) (c : Cmd),
      Safety.ready id 0x54 c s0 →
      let s := Safety.begun id s0;
      (decide ((c.p 0).toNat < 256)) →
      exec (.calStatus id) s0 = .next (
          (finish c rcOk ((s.calAt (c.p 0).toNat).words ++ [wd s.clk.pos.toNat, s.posHi]) s).nextFree)) ∧
  -- CLOCK_FAIL (R432)
  (∀ (dom : Fin 64) (bundle0 : Fin 76) (s : State),
      let d : Nat := dom.val;
      let bundle : Nat := bundle0.val;
      let x := s.domAt d;
      let runs := d == 8 || x.state == .running || x.state == .ramping || x.state == .fallback;
      ¬(s.mode == .greenware || !runs) →
      exec (.clockFail dom bundle0) s = .next (
          let s := switchEnd d rcHwFault s
          let stops := hasFallback d && (s.clk.ioscFailed || x.state == .fallback || (x.state == .ramping && x.src == 2))
          let s := s.domAtMod d (fun x => { x with
            fail := true, fails := satInc x.fails
            state := if d = 0 then x.state else if stops then .stopped else if hasFallback d then .ramping else if d = 8 then x.state else .stopped
            src := if hasFallback d && !stops then 2 else x.src
            qualified := if isReference d then false else x.qualified
            ramp := if hasFallback d && !stops then some (2, 5, none) else none })
          let s := s.each (clkNotices d stops) (raiseFrom ((netDie d).getD (if 26 ≤ d ∧ d ≤ 57 then (d - 26) / 8 + 1 else 0)))
          clkSignal (if d = 0 then 0x2243 else if 21 ≤ d ∧ d ≤ 24 then 0x3C03 else 0x2240) (clkEffect d bundle s))) ∧
  -- IOSC_FAIL (R434)
  (∀ (s : State),
      ¬(s.mode == .greenware || s.clk.ioscFailed) →
      exec .ioscFail s = .next (
          if (List.range 64).any (fun d => let x := s.domAt d; x.state == .fallback || (x.state == .ramping && x.src == 2)) then fatal 0x4242 s
          else raise 0x2244 (s.onClk (fun c => { c with ioscFailed := true })))) ∧
  -- REFCLK_REQUAL_TIMER (R435)
  (∀ (dom : Fin 64) (counts : List Nat) (s : State),
      let d : Nat := dom.val;
      let x := s.domAt d;
      ¬(s.mgrStopped || !isReference d || x.qualified || x.fails = 0 || !s.countsPass d x.tol counts) →
      exec (.refclkRequalTimer dom counts) s = .next (
          if isFabricPll d then s.domAtMod d (fun x => { x with qualified := true })
          else if d = 0 then s.domAtMod 0 (fun x => { x with qualified := true })
          else lanesBack d (domRuns d 0 s)))

/-- Clocks and timebase, second half: each command answers the next state its rule gives. One clause for each command, under its mnemonic and the rule
it follows: the conditions on operands and state under which the command has its effect, then the state that exec answers. -/
def Obligations.ClockCommandsComplete2 : Prop :=
  -- TB_TICK (R439)
  (∀ (a : Bool) (b : Bool) (interval : Word) (s : State),
      ¬(!s.tbRuns) →
      exec (.tbTick a b interval) s = .next (
          if s.tbFollows then tbTicked false (s.clk.pos + 1) s
          else
            let pa := s.clk.pinA; let pb := s.clk.pinB
            let rise := a && !pa
            let per : Int := s.clk.prescale.toNat + 1
            let s := s.onClk (fun c => { c with pinA := a, pinB := b })
            match s.clk.mode.toNat with
            | 0 => tbTicked false (s.clk.pos + 1) (s.onClk (fun c => { c with lock := true }))
            | 1 =>
              if !rise then s
              else if s.clk.acc + 1 < per then s.onClk (fun c => { c with acc := c.acc + 1 })
              else tbTicked false (s.clk.pos + 1) (s.onClk (fun c => tbLearn interval { c with acc := 0 }))
            | 2 =>
              if a != pa && b != pb then tbError s
              else if a == pa && b == pb then s
              else
                let up := if a != pa then a != b else a == b
                let n : Int := s.clk.acc + (if up then 1 else -1)
                if n.natAbs < per then s.onClk (fun c => { c with acc := n })
                else tbTicked (n < 0) (if n < 0 then s.clk.pos - 1 else s.clk.pos + 1) (s.onClk (fun c => tbLearn interval { c with acc := 0 }))
            | 3 =>
              if !rise then s
              else
                let s := s.onClk (tbLearn interval)
                if s.clk.pos.toNat % 65536 = 65535 then tbError s else tbTicked false (s.clk.pos + 1) s
            | 4 => if rise then tbTicked false (s.clk.pos + 1) (s.onClk (fun c => { c with lock := true })) else s
            | _ => s)) ∧
  -- TB_INDEX (R439)
  (∀ (s : State),
      (s.tbRuns && s.clk.mode == 2 && !s.tbFollows) →
      exec .tbIndex s = .next (s.onClk (fun c => { c with index := c.pos }))) ∧
  -- TB_FRAME_PULSE (R439)
  (∀ (s : State),
      (s.tbRuns && s.clk.mode == 3 && !s.tbFollows) →
      exec .tbFramePulse s = .next (tbTicked false (BitVec.ofNat 48 ((s.clk.pos.toNat / 65536 + 1) * 65536)) s)) ∧
  -- TB_PPS_EDGE (R439)
  (∀ (s : State),
      ¬(!(s.tbRuns && s.clk.mode == 4 && !s.tbFollows)) →
      exec .tbPpsEdge s = .next (
          let p := s.clk.pos.toNat; let r := p % 10000000
          let (b, s) := s.take 1
          let up := decide (5000000 < r) || (r == 5000000 && b == 1)
          let q := if up then p - r + 10000000 else p - r
          let far := decide (1 < absDiff q p) && !s.clk.ppsFirst
          let s := s.onClk (fun c => { c with pos := BitVec.ofNat 48 q, ppsFirst := false })
          let s := s.when (decide (p < q)) (calFireStep (q - p))
          s.when far tbError)) ∧
  -- TBC_POS_LO (R14)
  (∀ (insp : Bool) (s : State),
      exec (.tbcPosLo insp) s = .next (State.readTo (tbcPosLoRead insp s))) ∧
  -- TBC_STATUS (R11)
  (∀ (insp : Bool) (s : State),
      exec (.tbcStatus insp) s = .next (State.readTo (tbcStatusRead insp s))) ∧
  -- TBC_CAL_ENT (R11)
  (∀ (e : Fin 256) (insp : Bool) (s : State),
      exec (.tbcCalEnt e insp) s = .next (State.readTo (tbcCalEntRead e.val insp s))) ∧
  -- CAL_ENTRY_DUE (R443)
  (∀ (e0 : Fin 256) (s : State),
      let e : Nat := e0.val;
      (s.tbRuns) →
      (s.calDue e) →
      exec (.calEntryDue e0) s = .next (
          let x := s.calAt e
          let a := x.advance s.clk.pos
          let s := s.calAtMod e (fun _ => a.1)
          calRun x.t x.action x.arg (captureEntry e (s.when (decide (0 < a.2)) (raise 0x0247))))) ∧
  -- PLL_LOCK (R429)
  (∀ (dom : Fin 64) (s : State),
      let d : Nat := dom.val;
      let x := s.domAt d;
      ¬(s.mode == .greenware || d == 0 || d == 8 || (21 ≤ d && d ≤ 25) || !s.refPassed d) →
      exec (.pllLock dom) s = .next (
          match x.ramp with
          | some (src, 0, some id) =>
            let s := (s.domAtMod d (fun x => { x with state := .ramping, ramp := some (src, 1, some id) }))
            let s := match netDie d with | some e => s.each (bundlesAt e) bundleHold | none => s
            cmdMod id (fun c => { c with committed := true }) s
          | some _ => s
          | none => if x.state = .off ∨ x.state = .qualifying then domRuns d 0 s else s)) ∧
  -- AOSC_QUALIFIED (R430)
  (∀ (s : State),
      exec .aoscQualified s = .next (
          let s := s.onClk (fun c => { c with aoscOk := true })
          if (s.domAt 0).state = .off then domRuns 0 0 s else s))

/-- Power ladder, first half: rails, votes, rungs and sensors: each command answers the next state its rule gives. One clause for each command, under
its mnemonic and the rule it follows: the conditions on operands and state under which the command has its effect, then the state that exec answers.
-/
def Obligations.PowerCommandsComplete1 : Prop :=
  -- RAIL_LOSS (R450)
  (∀ (r : Rail) (s : State),
      ¬(!s.pwr.good.getLsbD (railBit r)) →
      exec (.railLoss r) s = .next (
          let quiet := s.mode == .greenware || s.pwr.slpLow
          match r with
          | .vddAo => powerOnReset s |> State.onPwr (fun p => { p with good := setBit p.good 0 false })
          | .vaux | .vccH =>
            if s.pwr.slpLow then railSet r false s
            else railSet r false (if s.mode == .greenware then s.onBoot (fun b => { b with hubGood := false }) else greenware 2 s)
          | .vccC =>
            let s := railSet r false s
            if quiet then s
            else
              let (c, s) := s.take 4
              (raiseD 0 0x2280 (wd (railBit r)) 0 s).each [1, 2, 3, 4] (fun d => fenceDie d c.toNat)
          | .xm => let s := railSet r false s; if quiet then s else xmDown (raiseD 0 0x2280 (wd (railBit r)) 0 s)
          | .xl => let s := railSet r false s; if quiet then s else (raiseD 0 0x2280 (wd (railBit r)) 0 s).each [1, 2, 3, 4] xlDown
          | .vbatt =>
            let s := s.onPwr (fun p => { p with good := setBit p.good 6 false })
            if s.pwr.good.getLsbD 0 then s else s.onFuses (fun f => { f with bbram := none, bbramLost := f.bbram.isSome || f.bbramLost }))) ∧
  -- VDD_AO_DIP (R492)
  (∀ (mv : Nat) (ns : Nat) (s : State),
      (mv < 1620 ∧ 1000 ≤ ns) →
      exec (.vddAoDip mv ns) s = .next (powerOnReset s)) ∧
  -- BROWN_OUT (R452)
  (∀ (s : State),
      (5 ≤ (s.pdomAt 0).rung.toNat) →
      exec .brownOut s = .next (greenware 6 s)) ∧
  -- PWR_VOTE (R458)
  (∀ (id : CmdId) (s0 : State) (c : Cmd),
      Safety.ready id 0x40 c s0 →
      let s := Safety.begun id s0;
      let d := (c.p 0).toNat;
      let r := (c.p 1).toNat;
      ((decide (d < 10) || d == 0xFF) && (decide (r < 8) || r == 15)) →
      exec (.pwrVote id) s0 = .next (
          finish c rcOk [] (s.each (if d = 0xFF then List.range 10 else [d]) (fun i => State.pdomAtMod i (fun p => { p with host := BitVec.ofNat 4 r }))))) ∧
  -- PWR_STATUS (R50)
  (∀ (id : CmdId) (s0 : State) (c : Cmd),
      Safety.ready id 0x41 c s0 →
      let s := Safety.begun id s0;
      let d := (c.p 0).toNat;
      (decide (d < 10) || d == 0xFFFF) →
      exec (.pwrStatus id) s0 = .next (
          finish c rcOk ((if d = 0xFFFF then List.range 10 else [d]).map (fun i => wd (s.eff i).toNat)) s)) ∧
  -- WATCH_SET (R466)
  (∀ (id : CmdId) (s0 : State) (c : Cmd),
      Safety.ready id 0x42 c s0 →
      let s := Safety.begun id s0;
      let ok := decide (10 ≤ (c.p 0).toNat) && onlyBits (c.p 0) 0xFFFF && onlyBits (c.p 1) 0xFFFF && onlyBits (c.p 2) 0x7F && onlyBits (c.p 3) 0xFFFF
      && onlyBits (c.p 4) 0xFFFFFF;
      (ok) →
      exec (.watchSet id) s0 = .next (
          finish c rcOk [] (s.onPwr (fun p => { p with watch := (List.range 5).foldl (fun m i => sput 0 m i (c.p i)) [] })))) ∧
  -- CAL_PWR_VOTE (R458)
  (∀ (dom : Byte) (rung : BitVec 4) (s : State),
      ∀ e, s.clk.toMgr.find? (fun e => e.1 == 5) = some e →
      ¬(e.2.toNat ≠ rung.toNat * 256 + dom.toNat) →
      exec (.calPwrVote dom rung) s = .next (
          let d := dom.toNat
          (s.onClk (fun c => { c with toMgr := c.toMgr.erase e })).each (if d = 0xFF then List.range 10 else [d]) (fun i =>
            State.pdomAtMod i (fun p => { p with cal := rung })))) ∧
  -- FAB_POWER_BEAT (R459)
  (∀ (die : Fin 4) (dom : BitVec 4) (rung : BitVec 4) (s : State),
      ¬(!s.clocked (tileSec die.val 32 0)) →
      exec (.fabPowerBeat die dom rung) s = .next (
          if 10 ≤ dom.toNat ∨ (8 ≤ rung.toNat ∧ rung.toNat ≠ 15) then s.onPwr (fun p => { p with fabErr := true })
          else s.pdomAtMod dom.toNat (fun p => { p with fab := rung }))) ∧
  -- PWR_DOMAIN_MOVE (R460)
  (∀ (dom : Fin 10) (s : State),
      let d : Nat := dom.val;
      let p := s.pdomAt d;
      let t := s.target d;
      ¬(s.mode == .greenware || t == (p.moving.getD p.rung).toNat || (d == 0 && decide (4 ≤ t) && !s.mgr.kiln.isEmpty)) →
      exec (.pwrDomainMove dom) s = .next (
          let low := s.settledMin == 6 && !s.pwr.warmHeld && !s.pwr.l6Noticed && (s.mode == .glazed || s.mode == .resting)
          let s := s.when low (fun s => raise 0x2282 (s.onPwr (fun q => { q with l6Noticed := true })))
          let s := s.pdomAtMod d (fun q => { q with moving := some (BitVec.ofNat 4 t) })
          if t ≤ p.rung.toNat then s
          else s.each ((domainBnds d).filter (fun k => (s.bndAt k).step == 11 && (s.bndAt k).leader.up)) (fun k t' =>
            sbSend k true 0x20 0xF 0 t (t'.bndAtMod k (fun b => { b with pwrReq := some (BitVec.ofNat 8 t) })))))

/-- Power ladder, second half: each command answers the next state its rule gives. One clause for each command, under its mnemonic and the rule it
follows: the conditions on operands and state under which the command has its effect, then the state that exec answers. -/
def Obligations.PowerCommandsComplete2 : Prop :=
  -- PWR_DRAIN_TIMEOUT (R460)
  (∀ (dom : Fin 10) (s : State),
      let d : Nat := dom.val;
      ((s.pdomAt d).sinking || s.mode == .cooling) →
      exec (.pwrDrainTimeout dom) s = .next (
          s.each (domainPorts d) (fun p t => retire p (t.each ((t.iportAt p).out.filter (fun o => o.rsp.isNone)) (timeoutTxn p))))) ∧
  -- PWR_MGR_CLR (R458)
  (∀ (w : Word) (s : State),
      ¬(!s.dbgLive) →
      exec (.pwrMgrClr w) s = .next (
          s.each ((List.range 10).filter (bit w)) (fun d => State.pdomAtMod d (fun p => if p.wakeVote then { p with mgr := 0xF, wakeVote := false } else p)))) ∧
  -- PWR_WARM_WRITE (R464)
  (∀ (word : Fin 3) (v : Word) (s : State),
      let i : Nat := word.val;
      ¬(!s.dbgLive) →
      exec (.pwrWarmWrite word v) s = .next (
          s.onPwr (fun p =>
          let p := { p with warmHeld := false }
          match i with
          | 0 => { p with warmLo := v }
          | 1 => { p with warmHi := BitVec.ofNat 20 v.toNat }
          | _ => { p with warmSize := BitVec.ofNat 10 v.toNat }))) ∧
  -- WAKE_N_LOW (R467)
  (∀ (ns : Nat) (s : State),
      ¬(ns < 1000) →
      exec (.wakeNLow ns) s = .next (wakeUp 1 s)) ∧
  -- WAKE_TIMER (R467)
  (∀ (s : State),
      ((s.pdomAt 0).rung = 7 ∧ sget 0 s.pwr.watchNow 4 ≠ 0) →
      exec .wakeTimer s = .next (wakeUp 2 s)) ∧
  -- WATCH_SAMPLE (R465)
  (∀ (temp : Byte) (edges : BitVec 16) (wakeN : Bool) (s : State),
      ¬((s.pdomAt 0).rung ≠ 6 ∨ (sget 0 s.pwr.watchNow 0).toNat < 10) →
      exec (.watchSample temp edges wakeN) s = .next (
          if !wakeN then wakeUp 1 s
          else if s.watchCrossed temp edges then wakeUp 3 s
          else s)) ∧
  -- WAKE_VOTE_WITHDRAW (R467)
  (∀ (s : State),
      exec .wakeVoteWithdraw s = .next (wakeCmdDone s)) ∧
  -- RAIL_GOOD (R450)
  (∀ (r : Rail) (s : State),
      ¬(s.pwr.good.getLsbD (railBit r)) →
      exec (.railGood r) s = .next (
          let s := railSet r true s
          if s.mode == .greenware then s
          else match r with
            | .vccC => s.each ([1, 2, 3, 4].filter (fun d => (s.dieAt d).dstate == 3 && s.clocksBack d)) (fun d t => rejoinStart d (clocksReturn d t))
            | .xm => lanesBack 25 s
            | .xl => s.each [21, 22, 23, 24] lanesBack
            | .vddAo | .vaux | .vccH | .vbatt => s)) ∧
  -- PWR_MOVE_COMPLETE (R461)
  (∀ (dom : Fin 10) (s : State),
      let d : Nat := dom.val;
      let p := s.pdomAt d;
      ∀ t, p.moving = some t →
      let busy := (domainPorts d).any (fun q => (s.iportAt q).out.any (fun o => o.rsp.isNone)) || (domainBnds d).any (fun k => (s.bndAt k).pwrReq.isSome);
      ¬(s.mode == .greenware || (p.sinking && busy)) →
      exec (.pwrMoveComplete dom) s = .next (
          let s := s.pdomAtMod d (fun q => { q with rung := t, moving := none })
          let s := bundlesFollow (domainTakes d p.rung.toNat t.toNat s)
          let s := s.when (s.devRung == 7 && (List.range 10).all (fun i => (s.pdomAt i).moving.isNone)) (State.onPwr (fun p => { p with slpLow := true }))
          retryPorts (modeFollows s)))

/-- Management: queueing, transports, mailbox, notices and system packets: each command answers the next state its rule gives. One clause for each
command, under its mnemonic and the rule it follows: the conditions on operands and state under which the command has its effect, then the state that
exec answers. -/
def Obligations.ManagerCommandsComplete : Prop :=
  -- PACKET_ARRIVAL (R495)
  (∀ (t : Transport) (dev : BitVec 12) (words : List Word) (s : State),
      exec (.packetArrival t dev words) s = .next (
          if t = .stream then
            if !s.mgrServes ∨ !s.takesPackets .stream then s
            else match s.cfg.flashLoad with
              | some .warm => s
              | some img => flashPacket img s
              | none => portPacket s
          else packetIn (idOf t dev (wordAt words 0)) words.length words s)) ∧
  -- PACKET_TIMEOUT (R40)
  (∀ (t : Transport) (s : State),
      let rx := match t with | .jtag => s.mgr.jtag.rx | .smbus => s.mgr.smbus.rx | .mailbox | .stream | .span => [];
      ∀ h rest, rx = h :: rest →
      exec (.packetTimeout t) s = .next (
          let s := s.onMgr (fun m => if t = .jtag then { m with jtag := { m.jtag with rx := [] } } else { m with smbus := { m.smbus with rx := [] } })
          refuse (idOf t 0 h) h rcTimeout s)) ∧
  -- MGRCMD_UPDATE_DR (R39)
  (∀ (dr : BitVec 34) (s : State),
      ¬(!bit dr 32 ∨ !s.takesPackets .jtag) →
      exec (.mgrcmdUpdateDr dr) s = .next (
          drainRx .jtag (fun s => s.mgr.jtag.rx) (fun ws s => s.onMgr (fun m => { m with jtag := { m.jtag with rx := ws } })) 1
          ((s.onMgr (fun m => { m with jtag := { m.jtag with rx := m.jtag.rx ++ [wd dr.toNat] } })).onDbg (fun d => { d with ir := 0x32 })))) ∧
  -- MGRCMD_CAPTURE_DR (R39)
  (∀ (s : State),
      exec .mgrcmdCaptureDr s = .next (
          if !s.takesPackets .jtag then s.onMgr (fun m => { m with jtagDr := 0 })
          else
            let room := b2n (decide (s.queued .jtag < 16)) * 2 ^ 33
            match s.mgr.jtag.out with
            | (w :: ws) :: rest => s.onMgr (fun m => { m with
                jtagDr := BitVec.ofNat 34 (room + 2 ^ 32 + w.toNat), jtag := { m.jtag with out := if ws.isEmpty then rest else ws :: rest } })
            | _ => s.onMgr (fun m => { m with jtagDr := BitVec.ofNat 34 room }))) ∧
  -- SMBUS_BLOCK_WRITE (R494)
  (∀ (count : Nat) (words : List Word) (pecOk : Bool) (s : State),
      (s.takesPackets .smbus && count != 0 && count % 4 == 0 && decide (count ≤ 32) && pecOk) →
      exec (.smbusBlockWrite count words pecOk) s = .next (
          drainRx .smbus (fun s => s.mgr.smbus.rx) (fun ws s => s.onMgr (fun m => { m with smbus := { m.smbus with rx := ws } })) 8
          (s.onMgr (fun m => { m with smbAck := true, smbus := { m.smbus with rx := m.smbus.rx ++ words.take (count / 4) } })))) ∧
  -- SMBUS_BLOCK_READ (R39)
  (∀ (s : State),
      ¬(!s.takesPackets .smbus) →
      exec .smbusBlockRead s = .next (
          match s.mgr.smbus.out with
          | [] => s.onMgr (fun m => { m with smbRead := [] })
          | r :: rest => s.onMgr (fun m => { m with
              smbRead := r.take 8, smbus := { m.smbus with out := if (r.drop 8).isEmpty then rest else r.drop 8 :: rest } }))) ∧
  -- SMBUS_READ_BYTE (R39)
  (∀ (s : State),
      ¬(!s.takesPackets .smbus) →
      exec .smbusReadByte s = .next (
          s.onMgr (fun m => { m with smbByte := BitVec.ofNat 8 (b2n (!m.smbus.out.isEmpty) + 2 * b2n (decide (s.queued .smbus < 16))) }))) ∧
  -- MBX_SUBMIT (R43)
  (∀ (v : Word) (s : State),
      exec (.mbxSubmit v) s = .next (
          if !s.mgr.mbx.cmdFree then s.onMgr (fun m => { m with mbx := { m.mbx with overrun := true } })
          else if !s.takesPackets .mailbox then s
          else
            let s := wakeHub .mailbox s
            let n := fld v 12 0
            let ws := (List.range (min n 4097)).map (fun i => sget 0 s.mgr.mbx.cmdBuf i)
            let h := sget 0 s.mgr.mbx.cmdBuf 0
            let s := if ws.isEmpty then refusalActs (idOf .mailbox 0 h) h rcBadLength (refuse (idOf .mailbox 0 h) h rcBadLength s)
              else if bit v 31 then mbxForward (BitVec.ofNat 12 (fld v 27 16)) n ws s
              else packetIn (idOf .mailbox 0 h) n ws s
            s.onMgr (fun m => setCmdFree { m with mbx := { m.mbx with cmdFree := false } }))) ∧
  -- MBX_FLUSH (R43)
  (∀ (s : State),
      exec .mbxFlush s = .next (
          s.onMgr (fun m => { m with mbxOut := [], mbx := { m.mbx with cmdBuf := [], rspBuf := [], rspValid := false } }))) ∧
  -- MBX_RSP_DONE (R43)
  (∀ (s : State),
      exec .mbxRspDone s = .next (
          mbxPost (s.onMgr (fun m => { m with mbx := { m.mbx with rspBuf := [], rspValid := false } })))) ∧
  -- NOP (R50)
  (∀ (id : CmdId) (s0 : State) (c : Cmd),
      Safety.ready id 0x01 c s0 →
      let s := Safety.begun id s0;
      exec (.nop id) s0 = .next ((finish c rcOk []) s)) ∧
  -- GET_STATUS (R50)
  (∀ (id : CmdId) (s0 : State) (c : Cmd),
      Safety.ready id 0x02 c s0 →
      let s := Safety.begun id s0;
      exec (.getStatus id) s0 = .next (finish c rcOk (statusWords s) s)) ∧
  -- GET_ID (R51)
  (∀ (id : CmdId) (s0 : State) (c : Cmd),
      Safety.ready id 0x03 c s0 →
      let s := Safety.begun id s0;
      exec (.getId id) s0 = .next (finish c rcOk (idWords s) s)) ∧
  -- GET_NOTICES (R52)
  (∀ (id : CmdId) (s0 : State) (c : Cmd),
      Safety.ready id 0x07 c s0 →
      let s := Safety.begun id s0;
      let n := (c.p 0).toNat;
      (1 ≤ n && n ≤ 255) →
      exec (.getNotices id) s0 = .next (
          let ns := s.mgr.notices.take n
          let data := ns.flatMap (fun x => [wd (x.rep.toNat * 65536 + x.code.toNat), x.pos])
          let lost := s.mgr.lost != 0 && decide (s.mgr.notices.length < n)
          let tail := if lost then [wd (s.mgr.lost.toNat * 65536 + 0x0FFF), s.mgr.lostPos] else []
          let s := s.onMgr (fun m => { m with notices := m.notices.drop n, lost := if lost then 0 else m.lost, lostPos := if lost then 0 else m.lostPos })
          finish c rcOk (data ++ tail) s)) ∧
  -- ABORT (R54)
  (∀ (id : CmdId) (s0 : State) (c : Cmd),
      Safety.ready id 0x04 c s0 →
      let s := Safety.begun id s0;
      (onlyBits (c.p 0) (if bit (c.p 0) 8 then 0x100 else 0xFF)) →
      exec (.abort id) s0 = .next (
          let r := if bit (c.p 0) 8 then
              match s.openSess with
              | some x => if x.early s then some (sessionRollback s) else none
              | none => none
            else match s.findCmd { c.id with tag := BitVec.ofNat 8 (fld (c.p 0) 7 0) } with
              | some t => if t.id = c.id then none else abortCmd t s
              | none => none
          match r with
          | some s => finish c rcOk [] s
          | none => finish c rcTooLate [] s)) ∧
  -- RESET_DEVICE (R53)
  (∀ (id : CmdId) (s0 : State) (c : Cmd),
      Safety.ready id 0x05 c s0 →
      let s := Safety.begun id s0;
      (onlyBits (c.p 0) 1) →
      exec (.resetDevice id) s0 = .next (enterCooling true (bit (c.p 0) 0) c s)) ∧
  -- SET_MODE (R53)
  (∀ (id : CmdId) (s0 : State) (c : Cmd),
      Safety.ready id 0x06 c s0 →
      let s := Safety.begun id s0;
      (onlyBits (c.p 0) 0x10F && fld (c.p 0) 3 0 == 8) →
      exec (.setMode id) s0 = .next (enterCooling false (bit (c.p 0) 8) c s))

/-- Configuration sessions, first half: each command answers the next state its rule gives. One clause for each command, under its mnemonic and the
rule it follows: the conditions on operands and state under which the command has its effect, then the state that exec answers. -/
def Obligations.ConfigurationCommandsComplete1 : Prop :=
  -- CFG_BEGIN (R189)
  (∀ (id : CmdId) (s0 : State) (c : Cmd),
      Safety.ready id 0x10 c s0 →
      let s := Safety.begun id s0;
      exec (.cfgBegin id) s0 = .next (
          let h := c.params
          let r := s.namedRegion c.id.t h
          let img := if c.id.t = .stream then s.cfg.flashLoad else none
          let form := headerCheck c s r
          let bad := if form.isSome then form else policyCheck h s
          let key := unwrapKey h s
          let named := if form.isNone then r else none
          let s := s.onCfg (fun g => { g with session := some { owner := c.id, hdr := h, region := named, image := img, key := key.getD 0 } })
          match bad with
          | some st => loadFail st s
          | none =>
            if key.isNone then loadFail rcDecryptFail s
            else if (List.range 4).any (fun d => (hDies h).testBit d && (s.dieAt (d + 1)).dstate != 2) then loadFail rcHwFault s
            else
              let s := sessMod (fun x => { x with passed := true, phase := .frames }) s
              match named with
              | some n => s.regionAtMod n.val (fun g => { g with session := true })
              | none => fullBegin (hDies h) s)) ∧
  -- CFG_FRAMES (R191)
  (∀ (id : CmdId) (s0 : State) (c : Cmd) (x : Session),
      Safety.readySession id 0x11 x c s0 →
      let s := Safety.begun id s0;
      let p0 := c.p 0;
      let n := fld p0 9 6;
      let die := fld p0 30 28;
      let sec := fld p0 27 20;
      let f := fld p0 19 10;
      let enc := hEnc x.hdr;
      let cmp := bit p0 31;
      let body := c.params.drop 1;
      let payload := if enc then body.take (body.length - 4) else body;
      ((!enc || 4 ≤ body.length) && (cmp || payload.length == 256 * n)) →
      (1 ≤ die && die ≤ 4 && sec < 192 && f + n ≤ 607 && 1 ≤ n && fld p0 5 0 == 0 && x.names s die sec) →
      exec (.cfgFrames id) s0 = .next (
          let ct := wordBytes payload
          if enc ∧ 4194304 < x.segBytes + ct.length then sessFail rcDecryptFail c (raise 0x3806 s)
          else
            match (if enc then gcmItem x.key (sessIv x.hdr x.ctr.toNat) (wordBytes [c.hdr, p0]) ct (tagOf (body.drop (body.length - 4))) else some ct) with
            | none => sessFail rcDecryptFail c s
            | some pt =>
              match (if cmp then decompress n pt else some pt) with
              | none => sessFail rcCheckFail c s
              | some out =>
                let ws := bytesWords out
                let s := sessMod (fun x => { x with
                  ctr := if enc then x.ctr + 1 else x.ctr, segBytes := if enc then x.segBytes + ct.length else x.segBytes }) s
                let s := s.each (List.range n) (fun i => takeFrame die sec (f + i) ((ws.drop (256 * i)).take 256))
                finish c rcOk [] s)) ∧
  -- CFG_KEY_ROLL (R198)
  (∀ (id : CmdId) (s0 : State) (c : Cmd) (x : Session),
      Safety.readySession id 0x12 x c s0 →
      let s := Safety.begun id s0;
      (hEnc x.hdr) →
      exec (.cfgKeyRoll id) s0 = .next (
          if 4194304 < x.segBytes + 32 then sessFail rcDecryptFail c (raise 0x3806 s)
          else
            match gcmItem x.key (sessIv x.hdr x.ctr.toNat) (wordBytes [c.hdr]) (wordBytes (c.params.take 8)) (tagOf (c.params.drop 8)) with
            | none => sessFail rcDecryptFail c s
            | some pt => finish c rcOk [] (sessMod (fun x => { x with key := keyOf (bytesWords pt), ctr := x.ctr + 1, segBytes := 0 }) s))) ∧
  -- CFG_END (R203)
  (∀ (id : CmdId) (s0 : State) (c : Cmd) (x : Session),
      Safety.readySession id 0x13 x c s0 →
      let s := Safety.begun id s0;
      let enc := hEnc x.hdr;
      (c.params.length == (if enc then 16 else 12)) →
      exec (.cfgEnd id) s0 = .next (
          let dig := c.params.take 12
          if enc ∧ (gcmItem x.key (sessIv x.hdr x.ctr.toNat) (wordBytes (c.hdr :: dig)) [] (tagOf (c.params.drop 12))).isNone then sessFail rcDecryptFail c s
          else if wordBytes dig ≠ sessDigest x then sessFail rcCheckFail c s
          else if !signatureOk x s then sessFail rcAuthFail c s
          else sessVerified (finish c rcOk [] s))) ∧
  -- CFG_SIGNATURE (R204)
  (∀ (id : CmdId) (s0 : State) (c : Cmd) (x : Session),
      Safety.readySession id 0x18 x c s0 →
      let s := Safety.begun id s0;
      (hSigned x.hdr && x.sig.isNone) →
      exec (.cfgSignature id) s0 = .next (finish c rcOk [] (sessMod (fun x => { x with sig := some c.params }) s))) ∧
  -- CFG_MEMINIT (R498)
  (∀ (id : CmdId) (s0 : State) (c : Cmd) (x : Session),
      Safety.readySession id 0x17 x c s0 →
      let s := Safety.begun id s0;
      let p0 := c.p 0;
      let die := fld p0 2 0;
      let kind := fld p0 9 8;
      let secs := maskSecs (maskOf (c.params.drop 1));
      (onlyBits p0 0x307 && 1 ≤ die && die ≤ 4 && kind != 0 && !secs.isEmpty && secs.all (fun i => x.names s die i)) →
      exec (.cfgMeminit id) s0 = .next (
          let s := sessMod (fun x => { x with dig := c.params.reverse ++ c.hdr :: x.dig }) s
          let s := s.each (secs.map (fun i => (die - 1) * 192 + i)) (fun n t =>
            if (t.secAt n).state == .unavailable then t
            else
              let t := if kind % 2 = 1 then cfgInitBlock n t else t
              if 2 ≤ kind then cfgInitDeep n t else t)
          finish c rcOk [] s)) ∧
  -- CFG_COMMIT (R221)
  (∀ (id : CmdId) (s0 : State) (c : Cmd),
      Safety.ready id 0x14 c s0 →
      let s := Safety.begun id s0;
      let r := (c.p 0).toNat;
      let timed := c.params.length == 3;
      (decide (r < 16) && s.regionOpen r && (!timed || onlyBits (c.p 2) 0xFFFF)) →
      exec (.cfgCommit id) s0 = .next (
          let t : BitVec 48 := BitVec.ofNat 48 ((c.p 1).toNat + (c.p 2).toNat * 2 ^ 32)
          let g := s.regionAt r
          let s := finish c rcOk [] s
          if !timed then commitFalls s.clk.pos r s
          else if g.phase != .opened || g.deferred then s
          else if (s.clk.pos - t).toNat < 2 ^ 47 then commitFalls t r s
          else s.regionAtMod r (fun g => { g with commit := .armed t }))) ∧
  -- CFG_REGION_OPEN (R216)
  (∀ (id : CmdId) (s0 : State) (c : Cmd),
      Safety.ready id 0x15 c s0 →
      let s := Safety.begun id s0;
      let die := (c.p 0).toNat;
      let m := maskOf (c.params.drop 1);
      let keys := (maskSecs m).map (fun i => (die - 1) * 192 + i);
      let slot := (List.range 16).find? (fun r => !s.regionOpen r);
      (1 ≤ die && die ≤ 4 && m != 0 && slot.isSome && !splitsBank m
      && keys.all (fun n => (s.secAt n).state != .unavailable && !s.underTest n && !(List.range 16).any (fun r => (s.regionAt r).has n))) →
      ((s.dieAt die).dstate == 2) →
      exec (.cfgRegionOpen id) s0 = .next (
          let s := bgStop keys s
          let s := s.onDbg (fun d => { d with frozen := smod 0 d.frozen (die - 1) (· &&& ~~~m) })
          let s := dbgVotes s
          let r := slot.getD 0
          let s := s.regionAtMod r (fun g => { phase := .draining, die := BitVec.ofNat 3 die, mask := m, late := g.late, cmd := some c.id })
          let s := s.each (s.regionAt r).ports (fun p t => t.tportAtMod p (fun q => { q with drain := q.inq.length }))
          let s := s.each keys (fun n t => t.secAtMod n (fun x => { x with state := .inRegion, region := BitVec.ofNat 4 r, portsOpen := false, written := false }))
          let s := s.onCfg (fun g => { g with lastOpen := sput none g.lastOpen c.id.t.id (some (Fin.ofNat 16 r)) })
          wdsRegionOpen die m (s.each (quadsOf m) (quadIdle die)))) ∧
  -- CFG_REGION_CLEAR (R220)
  (∀ (id : CmdId) (s0 : State) (c : Cmd),
      Safety.ready id 0x16 c s0 →
      let s := Safety.begun id s0;
      let r := (c.p 0).toNat;
      (decide (r < 16) && (s.regionAt r).phase == .opened && !(s.regionAt r).session) →
      exec (.cfgRegionClear id) s0 = .next (
          cmdMod c.id (fun c => { c with committed := true })
            (s.regionAtMod r (fun g => { g with phase := .blanking, clearing := true, cmd := some c.id, commit := .none, deferred := false })))) ∧
  -- REGION_DRAIN_COMPLETE (R217)
  (∀ (r : Fin 16) (s : State),
      let g := s.regionAt r.val;
      (g.phase == .draining && s.drained g) →
      exec (.regionDrainComplete r) s = .next (regionHold r.val s)) ∧
  -- REGION_DRAIN_TIMEOUT (R217)
  (∀ (r : Fin 16) (s : State),
      let g := s.regionAt r.val;
      (g.phase == .draining) →
      exec (.regionDrainTimeout r) s = .next (
          let s := s.each g.ports (fun p t => abandonAll p (poisonAll p t))
          regionHold r.val (raiseFrom g.die.toNat 0x3908 s))) ∧
  -- REGION_BLANK_COMPLETE (R217)
  (∀ (r : Fin 16) (s : State),
      let g := s.regionAt r.val;
      ¬(g.phase != .blanking) →
      exec (.regionBlankComplete r) s = .next (
          let s := blankSectors (fun n => g.has n) s
          if g.clearing then closeBlank r.val (regionReply r.val [] s)
          else
            let s := s.regionAtMod r.val (fun g => { g with phase := .opened })
            setMode .refiring (regionReply r.val [wd r.val] s))) ∧
  -- COMMIT_DUE (R221)
  (∀ (r : Fin 16) (s : State),
      exec (.commitDue r) s = .next (
          match (s.regionAt r.val).commit with
          | .armed t => if (s.clk.pos - t).toNat < 2 ^ 47 then commitFalls t r.val s else s
          | _ => s))

/-- Configuration sessions, second half: each command answers the next state its rule gives. One clause for each command, under its mnemonic and the
rule it follows: the conditions on operands and state under which the command has its effect, then the state that exec answers. -/
def Obligations.ConfigurationCommandsComplete2 : Prop :=
  -- REGION_RELEASE_COMPLETE (R223)
  (∀ (r : Fin 16) (us : Nat) (s : State),
      let g := s.regionAt r.val;
      ¬(g.phase != .releasing) →
      exec (.regionReleaseComplete r us) s = .next (
          let secs := g.secs.filter (fun n => (s.secAt n).state != .unavailable)
          let kept := secs.filter (fun n => !(s.secAt n).written)
          let s := s.each secs releaseSec
          let s := s.each kept (fun n t => t.secAtMod n (fun x => { x with state := .blank }))
          let x := s.sessionOf r.val
          let s := s.regionAtMod r.val (fun _ => { late := if g.deferred then BitVec.ofNat 16 (min us 65535) else 0 })
          closeMode (regionForget r.val (endSession rcOk (warmStore false ((x.map Session.wrote).getD []) ((x.map Session.frames).getD []) s))))) ∧
  -- DONE_LINE_HIGH (R213)
  (∀ (s : State),
      ¬(s.cfg.doneDrive) →
      exec .doneLineHigh s = .next (
          let s := s.onCfg (fun c => { c with doneLine := true })
          match s.cfg.session with | some x => if x.doneWait then startupPins s else s | none => s)) ∧
  -- DONE_WAIT_TIMEOUT (R213)
  (∀ (s : State),
      ∀ x, s.cfg.session = some x →
      (x.doneWait ∧ fld (s.setting 16) 31 16 ≠ 0) →
      exec .doneWaitTimeout s = .next (startupPins (raise 0x2905 s))) ∧
  -- STARTUP_COMPLETE (R213)
  (∀ (s : State),
      ∀ x, s.cfg.session = some x →
      (x.started ∧ !hPartial x.hdr) →
      exec .startupComplete s = .next (startupDone s)) ∧
  -- STREAM_INACTIVITY_TIMEOUT (R186)
  (∀ (s : State),
      ∀ x, s.cfg.session = some x →
      let holds := s.mgr.cmds.any (fun c => c.id.t == x.owner.t && [0x11, 0x12, 0x13, 0x17, 0x18].contains c.op);
      ¬(x.verified || x.paused || holds) →
      exec .streamInactivityTimeout s = .next (loadFail rcTruncated s)) ∧
  -- LOAD_FALLBACK_DECISION (R225)
  (∀ (s : State),
      ∀ x, s.cfg.session = some x →
      ¬(!s.cfg.decision ∨ !x.paused) →
      exec .loadFallbackDecision s = .next (
          if hClkFb x.hdr then
            raise 0x2907 (sessMod (fun x => { x with paused := false, onFallback := true }) (s.onCfg (fun c => { c with decision := false })))
          else loadFail rcTruncated s)) ∧
  -- CFG_STREAM_DATA (R184)
  (∀ (w : Word) (s : State),
      let p := s.cfg.port;
      ¬(!p.isOpen) →
      exec (.cfgStreamData w) s = .next (
          if p.fifo.length < 1024 then s.onCfg (fun c => { c with port := { c.port with fifo := c.port.fifo ++ [w] } })
          else
            let s := s.onCfg (fun c => { c with port := { c.port with overrun := true } })
            match s.openSess with | some x => if x.owner.t = .stream ∧ !x.verified then loadFail rcCheckFail s else s | none => s)) ∧
  -- CFG_STREAM_ABORT (R54)
  (∀ (s : State),
      exec .cfgStreamAbort s = .next (
          let s := (s.onCfg (fun c => { c with port := { c.port with fifo := [] } })).onMgr (fun m => { m with stream := { m.stream with rx := [] } })
          match s.openSess with
          | some x => if x.owner.t = .stream ∧ x.early s then sessionRollback s else s
          | none => s)) ∧
  -- CAPTURE (R228)
  (∀ (id : CmdId) (s0 : State) (c : Cmd),
      Safety.ready id 0x30 c s0 →
      let s := Safety.begun id s0;
      let die := (c.p 0).toNat;
      let m := maskOf (c.params.drop 1);
      let p7 := c.p 7;
      let trig := fld p7 31 30;
      let keys := (maskSecs m).map (fun i => (die - 1) * 192 + i);
      (1 ≤ s.levelOf c.id.t) →
      (1 ≤ die && die ≤ 4 && m != 0 && trig != 3
      && onlyBits p7 (if trig = 0 then 0 else if trig = 1 then 0x401FFFFF else 0x800000FF)
      && (trig == 0 || s.mode != .held)
      && keys.all (fun n => (s.secAt n).state != .unavailable && !s.underTest n && !s.inRegion n)) →
      ((s.dieAt die).dstate == 2) →
      exec (.capture id) s0 = .next (
          let k : Capture := { cmd := c.id, die := Fin.ofNat 4 (die - 1), mask := m, p7 := p7 }
          if trig = 0 then captureTake k s else s.onCfg (fun g => { g with captures := g.captures ++ [k] }))) ∧
  -- CAPTURE_SNAPSHOT (R229)
  (∀ (s : State),
      ∀ k, s.cfg.captures.find? (fun k => fld k.p7 31 30 == 1) = some k →
      exec .captureSnapshot s = .next (captureTake k s)) ∧
  -- READBACK (R230)
  (∀ (id : CmdId) (s0 : State) (c : Cmd),
      Safety.ready id 0x31 c s0 →
      let s := Safety.begun id s0;
      let die := fld (c.p 0) 2 0;
      let kind := fld (c.p 0) 9 8;
      let sec := (c.p 1).toNat;
      let n := (die - 1) * 192 + sec;
      (1 ≤ s.levelOf c.id.t) →
      (onlyBits (c.p 0) 0x307 && 1 ≤ die && die ≤ 4 && kind != 3 && sec < 192 && (c.p 3) != 0
      && (c.p 2).toNat + (c.p 3).toNat ≤ unitCount kind && !s.underTest n && !s.inRegion n
      && (kind != 2 || (s.secAt n).capValid)) →
      ((s.dieAt die).dstate == 2 && (s.secAt n).state != .unavailable) →
      exec (.readback id) s0 = .next (
          let sid : SecId := { die := Fin.ofNat 4 (die - 1), sec := Fin.ofNat 192 sec }
          let r := readUnits sid kind ((List.range (c.p 3).toNat).map ((c.p 2).toNat + ·)) [] s
          match r.2.1 with
          | some w => finishAfter c r.1 rcCheckFail [w] r.2.2
          | none => finishUnits c r.1 r.2.2)) ∧
  -- READBACK_TIMEOUT (R233)
  (∀ (id : CmdId) (units : Nat) (s0 : State) (c : Cmd),
      Safety.ready id 0x31 c s0 →
      let s := Safety.begun id s0;
      let die := fld (c.p 0) 2 0;
      let kind := fld (c.p 0) 9 8;
      let sec := (c.p 1).toNat;
      let n := (die - 1) * 192 + sec;
      (1 ≤ s.levelOf c.id.t) →
      (onlyBits (c.p 0) 0x307 && 1 ≤ die && die ≤ 4 && kind != 3 && sec < 192 && (c.p 3) != 0
      && (c.p 2).toNat + (c.p 3).toNat ≤ unitCount kind && !s.underTest n && !s.inRegion n
      && (kind != 2 || (s.secAt n).capValid)) →
      ((s.dieAt die).dstate == 2 && (s.secAt n).state != .unavailable) →
      exec (.readbackTimeout ⟨id, units⟩) s0 = .next (
          let sid : SecId := { die := Fin.ofNat 4 (die - 1), sec := Fin.ofNat 192 sec }
          let r := readUnits sid kind ((List.range (min units (c.p 3).toNat)).map ((c.p 2).toNat + ·)) [] s
          match r.2.1 with
          | some w => finishAfter c r.1 rcCheckFail [w] r.2.2
          | none => if units < (c.p 3).toNat then finishAfter c r.1 rcTimeout [] r.2.2 else finishUnits c r.1 r.2.2))

/-- Network on chip: ports, routers, requests at targets, held ports and error registers: each command answers the next state its rule gives. One
clause for each command, under its mnemonic and the rule it follows: the conditions on operands and state under which the command has its effect, then
the state that exec answers. -/
def Obligations.NetworkCommandsComplete : Prop :=
  -- FENCE (R245)
  (∀ (p0 : BitVec 10) (s : State),
      (isIport p0.toNat) →
      let p : Nat := p0.toNat;
      exec (.fence p0) s = .next (
          let s := retire p s
          match (s.iportAt p).out with
          | [o] => if o.req.typ = 3 then
              retire p (s.iportAtMod p (fun q => { q with out := [{ o with rsp := some (rspFor o.req stOk [] []) }] })) else s
          | _ => s)) ∧
  -- INITIATOR_REQUEST_ISSUE (R246, R406, R408)
  (∀ (p0 : BitVec 10) (r : NocReq) (s : State),
      (isIport p0.toNat && reqDataOk r) = true →
      let p : Nat := p0.toNat;
      s.mode ≠ .greenware →
      (p ≠ portApc0 → p ≠ portApc1 → (s.portTakes p && s.fabricOpen p && !(p == portMgr && (s.hartAt 8).halted)) = true →
        exec (.initiatorRequestIssue p0 r) s = .next (retire p (issue p (s.ingress p r) s))) ∧
      (p = portApc0 ∨ p = portApc1 → p = corePort r.hart → s.portAwake p = true → (s.hartAt r.hart.val).halted = false →
        exec (.initiatorRequestIssue p0 r) s = .next (retire p (coreAccess r s)))) ∧
  -- FLIT_ROUTE (R251, R257)
  (∀ (router : BitVec 8) (inport : Fin 6) (vc0 : Fin 5) (s : State),
      (routerExists router.toNat && decide (router.toNat / 32 < 5) && (inport == 0 || (nbr router.toNat inport.val).isSome)) →
      let r : Nat := router.toNat;
      let inp : Nat := inport.val;
      let vc : Nat := vc0.val;
      ∀ f rest g hdr out lport left, (s.chanAt (chanKey r inp vc)).buf = f :: rest →
      s.nextFlit r inp vc f = (g, hdr, out, lport, left) →
      s.flitBlocked r inp vc hdr out lport = false → s.flitTurn r out lport vc = true → (s.domAt (netDomain (r / 32))).state ≠ .stopped →
      exec (.flitRoute router inport vc0) s = .next (
          let s1 := (checkFlit r inp hdr f (arbStep r out lport vc s)).2
          let s1 := s1.chanAtMod (chanKey r inp vc) (fun c => { c with
            buf := rest, cur := if left = 0 then none else some (BitVec.ofNat 4 out, BitVec.ofNat 2 lport, left) })
          let s1 := freeSlot r inp vc s1
          if out = 0 then localFlit inp (r * 4 + lport) vc g s1
          else if out ≤ 5 then outFlit r out vc g s1
          else if hdr then unreachable r inp g s1
          else s1)) ∧
  -- NOC_RESPONSE_ARRIVAL (R248)
  (∀ (p0 : BitVec 10) (txid : BitVec 16) (s : State),
      (isIport p0.toNat) →
      let p : Nat := p0.toNat;
      exec (.nocResponseArrival p0 txid) s = .next (
          let key := p * 5 + 4
          let (ps, rest) := splitPackets s 1000 (sget [] s.noc.asm key)
          match ps.find? (fun k => (rspOfPacket k).txid == txid) with
          | none => s
          | some k =>
            let s := s.onNoc (fun n => { n with asm := sput [] n.asm key ((ps.erase k).flatten ++ rest) })
            takeRsp p (rspOfPacket k) s)) ∧
  -- RSP_TIMEOUT (R262)
  (∀ (p0 : BitVec 10) (txid : BitVec 16) (s : State),
      (isIport p0.toNat) →
      let p : Nat := p0.toNat;
      let never := fld (s.reg (portDie p) (blkNoc + 0x4000 + 0x20 * (p % 128))) 31 16 == 0;
      ∀ o, (s.iportAt p).out.find? (fun o => o.req.txid == txid && o.rsp.isNone && o.sent && o.req.typ != 3) = some o →
      ¬(never || s.mode == .held) →
      exec (.rspTimeout p0 txid) s = .next (retire p (timeoutTxn p o s))) ∧
  -- QOS_CHANGE_APPLY (R251)
  (∀ (p0 : BitVec 10) (s : State),
      (isIport p0.toNat) →
      let p : Nat := p0.toNat;
      let q := s.iportAt p;
      ∀ v, q.qosPend = some v →
      (q.out.isEmpty) →
      exec (.qosChangeApply p0) s = .next (
          let off := blkNoc + 0x4000 + 0x20 * (p % 128)
          retire p ((s.setReg (portDie p) off (setFld (s.reg (portDie p) off) 1 0 v.toNat)).iportAtMod p (fun q => { q with qosPend := none })))) ∧
  -- FABRIC_TARGET_RESPONSE (R249, R252)
  (∀ (p0 : BitVec 10) (id : BitVec 6) (status : BitVec 4) (data : List (BitVec 256)) (poison : List Bool) (s : State),
      (isFabricPort p0.toNat && ([0, 4, 5, 8].contains status.toNat)) →
      let p : Nat := p0.toNat;
      ∀ e, (s.tportAt p).pres.find? (fun e => e.1 == id) = some e →
      exec (.fabricTargetResponse p0 id status data poison) s = .next (
          let q := e.2
          let ds := if q.typ = 1 then [] else beatsFor q data
          let s := s.tportAtMod p (fun t => { t with pres := t.pres.filter (fun e => e.1 != id) })
          sendRsp p (rspFor q status ds ((List.range ds.length).map (fun j => poison.getD j false))) s)) ∧
  -- NOC_COMMIT (R259)
  (∀ (s : State),
      ¬(s.noc.commitBusy) →
      exec .nocCommit s = .next (
          let k := s.commitResult
          s.onNoc (fun n => { n with result := BitVec.ofNat 4 k, commitErr := n.commitErr || k != 0, commitBusy := k == 0 }))) ∧
  -- NOC_COMMIT_APPLY (R259)
  (∀ (s : State),
      (s.noc.commitBusy) →
      exec .nocCommitApply s = .next (
          let ws := s.noc.shadowWait
          let s := s.onNoc (fun n => { n with
            rtDefault := false, rtActive := n.rtShadow, fwActive := n.fwShadow, alts := [], altInUse := false, commitBusy := false, shadowWait := [] })
          s.each ws (fun w t => shadowWrite w.1 w.2.1 w.2.2 t))) ∧
  -- PATH_SWITCH_DRAIN_END (R261)
  (∀ (timedOut : Bool) (s : State),
      ∀ b rest, s.noc.switches = b :: rest →
      exec (.pathSwitchDrainEnd timedOut) s = .next (
          let ports := partIports.filter (fun p => (s.iportAt p).paused && s.portCrosses b.val p)
          if timedOut then
            let s := s.each ports (fun p t =>
              retire p (t.each ((t.iportAt p).out.filter (fun o => o.rsp.isNone && o.sent && o.req.typ != 3)) (timeoutTxn p)))
            retryPorts (pathSwitchEnd b s)
          else if ports.all (fun p => (s.iportAt p).out.isEmpty) then retryPorts (pathSwitchEnd b s)
          else s)) ∧
  -- NOC_ERRLOG_READ (R241)
  (∀ (die : Fin 5) (insp : Bool) (s : State),
      exec (.nocErrlogRead die insp) s = .next (State.readTo (nocErrlogRead die.val insp s))) ∧
  -- NOC_FW_LOG_READ (R256)
  (∀ (p : BitVec 10) (insp : Bool) (s : State),
      (isTport p.toNat) →
      exec (.nocFwLogRead p insp) s = .next (State.readTo (nocFwLogRead p.toNat insp s))) ∧
  -- NOC_PERR_COUNT (R11)
  (∀ (die : Fin 5) (insp : Bool) (s : State),
      exec (.nocPerrCount die insp) s = .next (State.readTo (nocPerrRead die.val insp s))) ∧
  -- NOC_IPORT_HOLD_CLR (R397)
  (∀ (p0 : BitVec 10) (s : State),
      (isIport p0.toNat) →
      let p : Nat := p0.toNat;
      exec (.nocIportHoldClr p0) s = .next (s.each (s.iportAt p).holds (releaseHold1 p))) ∧
  -- READ_MEM (R42)
  (∀ (id : CmdId) (s0 : State) (c : Cmd),
      Safety.ready id 0x32 c s0 →
      let s := Safety.begun id s0;
      let a := (c.p 0).toNat + (c.p 1).toNat * 2 ^ 32;
      let n := (c.p 2).toNat;
      (1 ≤ s.levelOf c.id.t) →
      (n % 4 == 0) →
      exec (.readMem id) s0 = .next (
          let r := memWords (if n = 0 then 0 else (a % 4 + n + 3) / 4) (a / 4 * 4) s
          let bytes := (wordBytes r.1).drop (a % 4)
          let got := min n (bytes.length / 4 * 4)
          let units := (List.range (got / 4)).map (fun i => [wd (bytesNat ((bytes.drop (4 * i)).take 4))])
          if r.2.mode == .greenware then r.2
          else if got = n then finishUnits c units r.2
          else finishAfter c units rcHwFault [] r.2)) ∧
  -- RD (R243)
  (∀ (p0 : BitVec 10) (s : State),
      (isTport p0.toNat) →
      let p : Nat := p0.toNat;
      ∀ q rest, (s.tportAt p).inq = q :: rest →
      (q.typ.toNat != 1 && q.typ.toNat != 2 && s.targetReady p q && s.portClocked p && s.mode != .greenware) →
      let s1 := s.tportAtMod p (fun t => { t with inq := rest, drain := t.drain - 1 });
      (s1.fwPass p q) →
      exec (.rd p0) s = .next (targetTake p (0 < (s.tportAt p).drain) q s1)) ∧
  -- WR (R244)
  (∀ (p0 : BitVec 10) (s : State),
      (isTport p0.toNat) →
      let p : Nat := p0.toNat;
      ∀ q rest, (s.tportAt p).inq = q :: rest →
      (q.typ.toNat == 1 && s.targetReady p q && s.portClocked p && s.mode != .greenware) →
      let s1 := s.tportAtMod p (fun t => { t with inq := rest, drain := t.drain - 1 });
      (s1.fwPass p q) →
      exec (.wr p0) s = .next (targetTake p (0 < (s.tportAt p).drain) q s1)) ∧
  -- ATOM (R243)
  (∀ (p0 : BitVec 10) (s : State),
      (isTport p0.toNat) →
      let p : Nat := p0.toNat;
      ∀ q rest, (s.tportAt p).inq = q :: rest →
      (q.typ.toNat == 2 && s.targetReady p q && s.portClocked p && s.mode != .greenware) →
      let s1 := s.tportAtMod p (fun t => { t with inq := rest, drain := t.drain - 1 });
      (s1.fwPass p q) →
      exec (.atom p0) s = .next (targetTake p (0 < (s.tportAt p).drain) q s1))

/-- Security: keys, authorisation, fuses: each command answers the next state its rule gives. One clause for each command, under its mnemonic and the
rule it follows: the conditions on operands and state under which the command has its effect, then the state that exec answers. -/
def Obligations.SecurityCommandsComplete : Prop :=
  -- SET_READ (R74)
  (∀ (id : CmdId) (s0 : State) (c : Cmd),
      Safety.ready id 0x60 c s0 →
      let s := Safety.begun id s0;
      let o := (c.p 0).toNat;
      let n := (c.p 1).toNat;
      (o + n ≤ 1024) →
      exec (.setRead id) s0 = .next (finishUnits c ((List.range n).map (fun i => [s.settingShown (o + i)])) s)) ∧
  -- SET_WRITE (R75)
  (∀ (id : CmdId) (flashOk : Bool) (s0 : State) (c : Cmd),
      Safety.ready id 0x61 c s0 →
      let s := Safety.begun id s0;
      (settingsValid (fun n => if n = 2 ∨ n = 1023 then 0 else c.p n)) →
      (s.flash.valid0 && s.settingsTop != some 0xFFFFFFFE && s.settingsSlot.isSome) →
      exec (.setWrite id flashOk) s0 = .next (
          let slot := s.settingsSlot.getD 0
          let seq : Word := match s.settingsTop with | some q => wd (q + 1) | none => 1
          let body := setNth (c.params.take 1023) 2 seq
          if flashOk then
            finish c rcOk [seq] (flashPut 0 (settingsBase slot) (body ++ [crc32 (wordBytes body)]) (flashErase 0 (256 + slot) s))
          else finish c rcHwFault [] (flashFail 0 (256 + slot) s))) ∧
  -- FLASH_READ (R493)
  (∀ (id : CmdId) (s0 : State) (c : Cmd),
      Safety.ready id 0x62 c s0 →
      let s := Safety.begun id s0;
      let port := fld (c.p 0) 0 0;
      let o := (c.p 1).toNat;
      let n := (c.p 2).toNat;
      (onlyBits (c.p 0) 1) →
      (s.flashValid port) →
      (o + n ≤ s.flashSize port) →
      exec (.flashRead id) s0 = .next (finishUnits c ((List.range (ceilDiv n 4)).map (fun i => [s.flashReadWord port o n i])) s)) ∧
  -- FLASH_PROGRAM (R493)
  (∀ (id : CmdId) (flashOk : Bool) (s0 : State) (c : Cmd),
      Safety.ready id 0x63 c s0 →
      let s := Safety.begun id s0;
      let port := fld (c.p 0) 0 0;
      let o := (c.p 1).toNat;
      let bs := wordBytes (c.params.drop 2);
      let secs := (List.range ((o + bs.length - 1) / 4096 + 1 - o / 4096)).map (fun i => o / 4096 + i);
      (onlyBits (c.p 0) 1) →
      (s.flashValid port) →
      (o + bs.length ≤ s.flashSize port) →
      (secs.all (fun k => !s.flashSkips port k)) →
      exec (.flashProgram id flashOk) s0 = .next (
          if flashOk then finish c rcOk [] (s.each secs (flashSector port o bs))
          else finish c rcHwFault [] (flashFail port (o / 4096) s))) ∧
  -- LOG_READ (R400)
  (∀ (id : CmdId) (s0 : State) (c : Cmd),
      Safety.ready id 0x64 c s0 →
      let s := Safety.begun id s0;
      let n := (c.p 1).toNat;
      (1 ≤ n && n ≤ 65535) →
      exec (.logRead id) s0 = .next (
          let es := s.kilnWritten ++ s.mgr.kiln.map KilnEntry.words
          finishUnits c ((es.filter (fun w => decide ((c.p 0).toNat ≤ (wordAt w 0).toNat))).take n) s)) ∧
  -- KEY_LOAD_BBRAM (R201)
  (∀ (id : CmdId) (s0 : State) (c : Cmd),
      Safety.ready id 0x70 c s0 →
      let s := Safety.begun id s0;
      (s.fuseAuth c && !bit (s.fuse 0 0) 2) →
      exec (.keyLoadBbram id) s0 = .next (
          let iv : BitVec 96 := BitVec.ofNat 96 ((wordBytes (c.params.take 2)).foldl (fun n b => n * 256 + b.toNat) 0 * 2 ^ 32)
          match gcmItem ((s.deviceKey false).getD 0) iv (wordBytes [c.hdr]) (wordBytes ((c.params.drop 2).take 8)) (tagOf (c.params.drop 10)) with
          | none => finish c rcDecryptFail [] s
          | some k => finish c rcOk [] (s.onFuses (fun f => { f with bbram := some (keyOf (bytesWords k)), bbramLost := false })))) ∧
  -- AUTH_CHALLENGE (R414)
  (∀ (id : CmdId) (s0 : State) (c : Cmd),
      Safety.ready id 0x72 c s0 →
      let s := Safety.begun id s0;
      let t := c.id.t.id;
      ((c.p 0).toNat ≤ 1) →
      (!s.debugLocked && s.dbg.failures < 4) →
      exec (.authChallenge id) s0 = .next (
          if c.p 0 = 0 then finish c rcOk [] (s.onDbg (fun d => { d with level := sput 0 d.level t 0 }))
          else
            let r := s.take 256; let nonce := natWords r.1.toNat 8
            finish c rcOk nonce (r.2.onDbg (fun d => { d with challenge := sput none d.challenge t (some (1, nonce)) })))) ∧
  -- AUTH_RESPOND (R414)
  (∀ (id : CmdId) (late : Bool) (s0 : State) (c : Cmd),
      Safety.ready id 0x73 c s0 →
      let s := Safety.begun id s0;
      exec (.authRespond id late) s0 = .next (
          let t := c.id.t.id
          let open_ := sget none s.dbg.challenge t
          let s := s.onDbg (fun d => { d with challenge := sput none d.challenge t none })
          let good := match open_ with
            | some (l, nonce) => !late && s.authAnswer nonce l.toNat t == BitVec.ofNat 384 (wordsNat c.params)
            | none => false
          let l : BitVec 2 := match open_ with | some (l, _) => l | none => 0
          if good then
            raise 0x0030 (finish c rcOk [wd l.toNat] (s.onDbg (fun d => { d with
              level := sput 0 d.level t (if sget 0 d.level t < l then l else sget 0 d.level t), granted := sput false d.granted t true })))
          else raise 0x0031 (finish c rcAuthFail [] (s.onDbg (fun d => { d with failures := d.failures + 1 }))))) ∧
  -- FUSE_READ (R208)
  (∀ (id : CmdId) (s0 : State) (c : Cmd),
      Safety.ready id 0x74 c s0 →
      let s := Safety.begun id s0;
      let f := (c.p 0).toNat;
      (fuseWidth f != 0) →
      exec (.fuseRead id) s0 = .next (
          finish c rcOk (natWords (if f = 8 ∨ f = 9 then 0 else s.fuseNow f) (ceilDiv (fuseWidth f) 32)) s)) ∧
  -- FUSE_PROGRAM (R209)
  (∀ (id : CmdId) (stuck : Nat) (s0 : State) (c : Cmd),
      Safety.ready id 0x75 c s0 →
      let s := Safety.begun id s0;
      let f := (c.p 0).toNat;
      let n := ceilDiv (fuseWidth f) 32;
      let v := wordsNat (c.params.drop 1);
      (fuseWidth f != 0) →
      s.fuseRefusal f v = none →
      (s.fuseAuth c) →
      exec (.fuseProgram id stuck) s0 = .next (
          let old := s.fuseNow f
          let new := old ||| bytesNat ((List.range (4 * n)).map (fun k => BitVec.ofNat 8 (v >>> (8 * k)) &&& ~~~BitVec.ofNat 8 (stuck >>> (8 * k))))
          let s := s.each (List.range n) (fun i t => t.onFuses (fun x => { x with bits := sput 0 x.bits (f * 128 + i) (wd (new >>> (32 * i))) }))
          finish c (if new = old ||| v then rcOk else rcHwFault) [] s)) ∧
  -- KILN_WRITEBACK (R399)
  (∀ (flashOk : Bool) (s : State),
      ¬(s.mgrStopped) →
      exec (.kilnWriteback flashOk) s = .next (
          match s.mgr.kiln, s.kilnPlace with
          | e :: es, some i =>
            if !s.flash.valid0 then s
            else if !flashOk then flashFail 0 (512 + i / 128) s
            else
              let s := if i % 128 = 0 then flashErase 0 (512 + i / 128) s else s
              let s := flashPut 0 (0x80000 + 8 * i) e.words s
              let s := if i % 128 = 0 then flashErase 0 (512 + (i / 128 + 1) % 1024) s else s
              kilnLostEntry (s.onMgr (fun m => { m with kiln := es, kilnSlot := BitVec.ofNat 17 (i + 1) }))
          | [], _ => kilnLostEntry s
          | _, none => s)) ∧
  -- MGR_ALERT_LATCH_CLEAR (R401)
  (∀ (s : State),
      exec .mgrAlertLatchClear s = .next (s.onMgr (fun m => { m with alertLatch := false }))) ∧
  -- MGR_FATAL_CLR (R404)
  (∀ (s : State),
      exec .mgrFatalClr s = .next (s.onAo (fun o => { o with fatalCause := 0, fatalCount := 0 })))

/-- Memory encryption: regions, keys, re-encryption and counters: each command answers the next state its rule gives. One clause for each command,
under its mnemonic and the rule it follows: the conditions on operands and state under which the command has its effect, then the state that exec
answers. -/
def Obligations.EncryptionCommandsComplete : Prop :=
  -- KEY_SLOT_RETIRE (R370)
  (∀ (id : CmdId) (s0 : State) (c : Cmd),
      Safety.ready id 0x71 c s0 →
      let s := Safety.begun id s0;
      let k := fld (c.p 0) 5 0;
      let rs := (List.range 64).filter (fun r => (s.mregAt r).en && (s.mregAt r).slot.toNat == k);
      (onlyBits (c.p 0) 0x3F) →
      exec (.keySlotRetire id) s0 = .next (
          if rs.isEmpty then
            require (c.p 1 == 0xFF && (s.slotAt k).state != 0 && s.slotPorts k == 0) rcBadParam c (fun s =>
            require (s.mee.reenc.isNone) rcBusy c (fun s => finish c rcOk [] (clearSlot k s)) s) s
          else reencStart c (rs.map (Fin.ofNat 64)) k true s)) ∧
  -- MEE_REGION (R356)
  (∀ (id : CmdId) (s0 : State) (c : Cmd),
      let r := fld (c.p 0) 5 0;
      let rm := bit (c.p 0) 8;
      let base := (c.p 1).toNat + (c.p 2).toNat * 2 ^ 32;
      let size := (c.p 3).toNat + (c.p 4).toNat * 2 ^ 32;
      let g := s0.mregAt r;
      ¬((if rm then s0.rangeBusy g.base.toNat (g.base.toNat + g.size.toNat) else s0.rangeBusy base (base + size))) →
      Safety.ready id 0xA0 c s0 →
      let s := Safety.begun id s0;
      (onlyBits (c.p 0) 0x13F && (rm == g.en)) →
      (!s.reencNames r) →
      exec (.meeRegion id) s0 = .next (
          if rm then finish c rcOk [] (((freshCounters r s).mregAtMod r (fun x => { limitNoticed := x.limitNoticed })).onMee
            (fun e => { e with autoWait := e.autoWait.filter (fun k => k.val != r) }))
          else
            let u := s.ddrN * 4096
            let clash := s.mee.region.any (fun e => e.2.en && decide (e.2.base.toNat < base + size) && decide (base < e.2.base.toNat + e.2.size.toNat))
            let share := s.fitShare (shareBytes (size / u))
            require (s.ddr.isOpen && decide (0 < u) && decide (0 < size) && base % u == 0 && size % u == 0
              && decide (base + size ≤ s.ddrN * s.ddr.usable * 1048576) && !clash && share.isSome) rcBadParam c (fun s =>
            match s.newSlot (c.p 5) with
            | none => finish c rcBadParam [] s
            | some (k, gen) =>
              require (s.bindRoom k gen 1) rcBadParam c (fun s =>
                let s := s.when gen (genSlot k)
                let (b, t, s) := allotBinding k s
                let s := s.mregAtMod r (fun x => {
                  en := true, base := BitVec.ofNat 52 base, size := BitVec.ofNat 52 size, slot := BitVec.ofNat 6 k, binding := b, serial := t
                  share := share.getD 0, limitNoticed := x.limitNoticed })
                finish c rcOk [] (freshCounters r s)) s) s)) ∧
  -- MEE_REKEY (R370)
  (∀ (id : CmdId) (s0 : State) (c : Cmd),
      Safety.ready id 0xA1 c s0 →
      let s := Safety.begun id s0;
      let r := fld (c.p 0) 5 0;
      (onlyBits (c.p 0) 0x3F && (s.mregAt r).en) →
      exec (.meeRekey id) s0 = .next (reencStart c [Fin.ofNat 64 r] (s.mregAt r).slot.toNat false s)) ∧
  -- MEE_FLUSH_COMPLETE (R370)
  (∀ (s : State),
      ∀ e, s.mee.reenc = some e →
      ¬(e.climbing) →
      exec .meeFlushComplete s = .next (
          let s := (cacheEmpty (s.lineIn e.regions) cacheBack s).each (List.range 12) (fun c => drainTo c 0 64 0)
          let s := match e.cmd with | some id => cmdMod id (fun c => { c with committed := true }) s | none => s
          reencClimb s)) ∧
  -- MEE_REENC_COMPLETE (R370)
  (∀ (s : State),
      ∀ e, s.mee.reenc = some e →
      ∀ r rest, e.regions = r :: rest →
      (e.climbing && s.ddrSet.all (fun c => decide (s.regionGroups r.val ≤ sget 0 e.done c))) →
      exec .meeReencComplete s = .next (
          let s := s.mregAtMod r.val (fun x => { x with slot := e.slot, binding := e.binding, serial := e.serial, maxMajor := wd (s.topMajor r.val) })
          if rest.isEmpty then reencEnd e s
          else reencClimb (s.onMee (fun x => { x with reenc := some { e with regions := rest } })))) ∧
  -- MEE_SLOT_LOAD_GO (R354)
  (∀ (slot : BitVec 6) (s : State),
      let k : Nat := slot.toNat;
      exec (.meeSlotLoadGo slot) s = .next (
          let ws := (List.range 14).map (fun i => sget 0 s.mee.load i)
          let done (res : Nat) (s : State) : State := s.onMee (fun e => { e with load := [], ctrlSlot := BitVec.ofNat 6 k, result := BitVec.ofNat 3 res })
          if (s.slotAt k).state ≠ 0 then done 2 s
          else match s.deviceKey false with
            | none => done 3 s
            | some dk =>
              let iv : BitVec 96 := BitVec.ofNat 96 ((wordBytes (ws.take 2)).foldl (fun n b => n * 256 + b.toNat) 0 * 2 ^ 32)
              match gcmItem dk iv (wordBytes [wd k]) (wordBytes ((ws.drop 2).take 8)) (tagOf (ws.drop 10)) with
              | none => done 1 s
              | some pt => done 0 (s.slotAtMod k (fun _ => { state := 2, key := BitVec.ofNat 256 (bytesNat pt), count := 0 })))) ∧
  -- MEE_COUNT (R11)
  (∀ (insp : Bool) (s : State),
      exec (.meeCount insp) s = .next (State.readTo (meeCountRead insp s))) ∧
  -- MEE_REENC_GROUP (R371)
  (∀ (c0 : Fin 12) (m : DimmRead) (s : State),
      let c : Nat := c0.val;
      ∀ e, s.mee.reenc = some e →
      let r := (e.regions.headD 0).val;
      let g := sget 0 e.done c;
      ¬(!e.climbing || s.mode == .held || (s.mee.reencQw && !s.quietWin) || !s.ddr.set.getLsbD c || decide (s.regionGroups r ≤ g) || !s.ddrServes c) →
      exec (.meeReencGroup c0 m) s = .next (
          let la0 := (s.mregAt r).base.toNat / s.ddrN / 64 + g * 64
          let first := ((List.range 64).find? (fun i => sget 0 s.mee.minor (lineKeyOf c (la0 + i)) != 0)).getD 0
          let step (acc : Except Nat State) (i : Nat) : Except Nat State :=
            match acc with
            | .error x => .error x
            | .ok t => reencLine c r (la0 + i) (if i = first then m else {}) t
          match (List.range 64).foldl step (.ok s) with
          | .error x => fatal x s
          | .ok s => s.onMee (fun x => { x with
              major := sput 0 x.major (groupKeyOf c la0) 0, reenc := x.reenc.map (fun e => { e with done := sput 0 e.done c (g + 1) }) })))

/-- Test, repair and manufacturing: each command answers the next state its rule gives. One clause for each command, under its mnemonic and the rule
it follows: the conditions on operands and state under which the command has its effect, then the state that exec answers. -/
def Obligations.TestCommandsComplete : Prop :=
  -- TEL_READ (R480)
  (∀ (id : CmdId) (s0 : State) (c : Cmd),
      Safety.ready id 0x80 c s0 →
      let s := Safety.begun id s0;
      (c.params.all (fun w => decide (w.toNat < 256) && (telGroup w.toNat).isSome)) →
      exec (.telRead id) s0 = .next (
          finish c rcOk (c.params.flatMap (fun w => match sget none s.tst.tel w.toNat with | some (v, p) => [v, p] | none => [0x80000000, 0])) s)) ∧
  -- TEL_THRESH (R481)
  (∀ (id : CmdId) (s0 : State) (c : Cmd),
      Safety.ready id 0x81 c s0 →
      let s := Safety.begun id s0;
      (decide ((c.p 0).toNat < 256) && (telGroup (c.p 0).toNat).isSome) →
      exec (.telThresh id) s0 = .next (finish c rcOk [] (s.limitAtMod (c.p 0).toNat (fun _ => { hi := c.p 1, lo := c.p 2 })))) ∧
  -- BIST_RUN (R474)
  (∀ (id : CmdId) (s0 : State) (c : Cmd),
      Safety.ready id 0x90 c s0 →
      let s := Safety.begun id s0;
      let kind := fld (c.p 0) 31 28;
      let die := fld (c.p 0) 26 24;
      let sec := fld (c.p 0) 7 0;
      let n := (die - 1) * 192 + sec;
      let x := s.secAt n;
      let free := !s.tst.bist.any (fun b => b.die.val + 1 == die);
      let common := 1 ≤ die && die ≤ 4 && (s.dieAt die).dstate == 2 && free;
      let sector := kind == 1 && onlyBits (c.p 0) 0xF70000FF && onlyBits (c.p 1) 0x11F && decide (sec < 192) && x.state != .unavailable
      && x.state != .inRegion && !s.secFrozen n && (x.state != .running || s.pwr.warmHeld || bit (c.p 1) 8);
      let region := (List.range 16).any (fun r => s.regionOpen r && (s.regionAt r).die.toNat == die);
      let sess := match s.cfg.session with | some x => !hPartial x.hdr && (hDies x.hdr).testBit (die - 1) | none => false;
      let whole := kind == 2 && onlyBits (c.p 0) 0xF7000000 && onlyBits (c.p 1) 0x1F && !region && !sess && decide (200 ≤ 16 * fld s.tst.saveHi 31 20);
      let set : BitVec 5 := BitVec.ofNat 5 (c.p 1).toNat;
      (common && (sector || whole)) →
      exec (.bistRun id) s0 = .next ((if kind = 1 then testSector (some id) (die - 1) sec set else testDie id (die - 1) set) s)) ∧
  -- BIST_COMPLETE (R475)
  (∀ (die0 : Fin 4) (failed : BitVec 5) (failRow : List Nat) (duration : BitVec 16) (s : State),
      let die : Nat := die0.val;
      ∀ b, s.tst.bist.find? (fun b => b.die.val == die && b.tested.isNone) = some b →
      exec (.bistComplete die0 failed failRow duration) s = .next (
          let fail := if b.set = 0 then failed else failed &&& b.set
          if b.whole then testDieEnd b fail failRow duration s else testSectorEnd b fail duration s)) ∧
  -- BIST_RESULT (R474)
  (∀ (id : CmdId) (s0 : State) (c : Cmd),
      Safety.ready id 0x91 c s0 →
      let s := Safety.begun id s0;
      let kind := fld (c.p 0) 31 28;
      let die := fld (c.p 0) 26 24;
      let sec := fld (c.p 0) 7 0;
      let ok := 1 ≤ die && die ≤ 4 && ((kind == 1 && onlyBits (c.p 0) 0xF70000FF && decide (sec < 192)) || (kind == 2 && onlyBits (c.p 0) 0xF7000000));
      (ok) →
      exec (.bistResult id) s0 = .next (
          let r := sget (0x80000000, 0) s.tst.result (resultKey (kind == 2) (die - 1) sec)
          finish c rcOk [r.1, r.2] s)) ∧
  -- REPAIR_MAP_READ (R21)
  (∀ (id : CmdId) (s0 : State) (c : Cmd),
      Safety.ready id 0x92 c s0 →
      let s := Safety.begun id s0;
      let d := (c.p 0).toNat;
      (1 ≤ d && d ≤ 4) →
      exec (.repairMapRead id) s0 = .next (
          finish c rcOk (natWords ((List.range 16).foldl (fun n i => n + s.repairEnt (d - 1) i * 16 ^ i) 0) 2) s)) ∧
  -- LANE_TEST (R477)
  (∀ (id : CmdId) (errors : Word) (compared : Word) (s0 : State) (c : Cmd),
      Safety.ready id 0x93 c s0 →
      let s := Safety.begun id s0;
      let b := fld (c.p 0) 6 0;
      let lane := fld (c.p 0) 14 8;
      (onlyBits (c.p 0) 0x7F7F && decide (b < 76) && decide (lane < 78) && onlyBits (c.p 1) 0xFFFF0007 && decide (fld (c.p 1) 2 0 ≤ 4)
      && fld (c.p 1) 31 16 != 0) →
      ((s.bundleAt b).state == .full && decide (ones (s.bundleAt b).failed + b2n (s.bundleAt b).rxOut.isSome < 4)) →
      exec (.laneTest id errors compared) s0 = .next (finish c rcOk [errors, compared] (s.when (errors != 0) (failLane b lane)))) ∧
  -- SCAN_ENTER (R478)
  (∀ (id : CmdId) (s0 : State) (c : Cmd),
      Safety.ready id 0x94 c s0 →
      let s := Safety.begun id s0;
      (!bit (s.fuse 5 0) 0 && decide (2 ≤ s.levelOf c.id.t)) →
      (onlyBits (c.p 0) 0x1F) →
      exec (.scanEnter id) s0 = .next (
          let dies := ([1, 2, 3, 4] : List Nat).filter (fun d => bit (c.p 0) d)
          let s := s.each dies (fun d t => (fenceDie d 4 t).dieAtMod d (fun x => { x with gaveUp := true }))
          let s := (zeroSecrets s).onTst (fun t => { t with scan := true, scanDies := BitVec.ofNat 5 (c.p 0).toNat })
          finish c rcOk [] s)) ∧
  -- TEL_SAMPLE (R480)
  (∀ (group : Byte) (values : List (Byte × Word)) (s : State),
      ¬(s.mgrStopped) →
      ∀ e, s.clk.toMgr.find? (fun e => e.1 == 4) = some e →
      ¬(e.2.toNat ≠ group.toNat) →
      exec (.telSample group values) s = .next (telSample group.toNat values (s.onClk (fun c => { c with toMgr := c.toMgr.erase e })))) ∧
  -- COOLING_COMPLETE (R468)
  (∀ (bridgeFails : Nat) (lanePass : List (BitVec 7 × BitVec 7)) (flashOk : Bool) (s : State),
      ∀ k, s.tst.cooling = some k →
      ¬(!k.skip && !s.rowsDone k) →
      exec (.coolingComplete bridgeFails lanePass flashOk) s = .next (
          let fails := (k.rows.filter (fun r => r.2.2.2)).length
          let tested := lanePass.filter (fun p => s.tst.lanes.contains p || s.tst.record.entries.contains (laneEntry p.1.toNat p.2.toNat))
          let s := if k.skip then s else s.each tested (fun p => entryDel (laneEntry p.1.toNat p.2.toNat))
          let s := s.when (!k.skip) (recordWrite [])
          let s := s.when (!k.skip) (raiseD 0 0x02C0 (wd bridgeFails) (wd fails))
          let s := kilnFlush 1026 flashOk s
          (greenware (if k.reset then 3 else 4) s).onBoot (fun b => { b with restart := k.reset, stay := !k.reset }))) ∧
  -- SECTOR_TEST_ROW (R469)
  (∀ (die0 : Fin 4) (col0 : Fin 16) (row0 : Fin 13) (pass : Bool) (deepRows : List (BitVec 9)) (s : State),
      let die : Nat := die0.val;
      let col : Nat := col0.val;
      let row : Nat := row0.val;
      ∀ k, s.tst.cooling = some k →
      ¬(k.skip || (s.dieAt (die + 1)).dstate != 2 || k.rows.any (fun r => r.1.val == die && r.2.1.val == col && r.2.2.1.val == row)) →
      exec (.sectorTestRow die0 col0 row0 pass deepRows) s = .next (
          let fail := !pass || decide (4 < deepRows.length)
          let s := s.onTst (fun t => { t with cooling := some { k with rows := (Fin.ofNat 4 die, Fin.ofNat 16 col, Fin.ofNat 13 row, fail) :: k.rows } })
          let s := if fail then s else s.each deepRows (fun d => entryAdd (deepEntry (die + 1) col row d.toNat))
          if fail then entryAdd (rowEntry (die + 1) col row) s else entryDel (rowEntry (die + 1) col row) s)) ∧
  -- REPAIR_RECORD_WRITE (R473)
  (∀ (failSlots : List Nat) (s : State),
      ¬(s.mgrStopped || s.mode == .cooling || (s.tst.add.isEmpty && s.tst.del.isEmpty)) →
      exec (.repairRecordWrite failSlots) s = .next (recordWrite failSlots s)) ∧
  -- BG_BIST_TIMER (R479)
  (∀ (s : State),
      ¬(s.mgrStopped || !bit s.tst.bgCfg 31 || (bit s.tst.bgCfg 30 && !s.quietWin) || !(s.mode == .bisque || s.mode == .glazed || s.mode == .refiring)) →
      exec .bgBistTimer s = .next (
          s.each (List.range 4) (fun d t =>
          let at_ := sget 0 t.tst.bgNext d
          match ((List.range 192).map (fun i => (at_ + i) % 192)).find? (fun i => t.bgSector (d * 192 + i)) with
          | none => t
          | some i =>
            if (t.dieAt (d + 1)).dstate != 2 || t.tst.bist.any (fun b => b.die.val == d) then t
            else testSector none d i 0 (t.onTst (fun x => { x with bgNext := sput 0 x.bgNext d ((i + 1) % 192) }))))) ∧
  -- TEL_SAMPLE_TIMER (R480)
  (∀ (values : List (Byte × Word)) (s : State),
      ¬(s.mgrStopped || s.tst.telPeriod == 0) →
      exec (.telSampleTimer values) s = .next (telSample 0xFF values s))

/-- DRAM controller: channels, training, refresh, patrol, errors: each command answers the next state its rule gives. One clause for each command,
under its mnemonic and the rule it follows: the conditions on operands and state under which the command has its effect, then the state that exec
answers. -/
def Obligations.DramCommandsComplete : Prop :=
  -- DDR_REMAP (R348)
  (∀ (id : CmdId) (m : DimmRead) (s0 : State) (cmd : Cmd),
      Safety.ready id 0xA2 cmd s0 →
      let s := Safety.begun id s0;
      let c := (cmd.p 0).toNat;
      let ca := (cmd.p 1).toNat + (cmd.p 2).toNat * 2 ^ 32;
      (decide (c < 12) && ca % 64 == 0) →
      (s.ddrServes c) →
      (decide (ca < ((s.ddrAt c).sizeMib - 1) * 1048576)) →
      exec (.ddrRemap id m) s0 = .next (
          match (List.range 16).find? (fun i => let e := sget {} (s.ddrAt c).remap i; e.active && e.ca.toNat == ca) with
          | some i => finish cmd rcOk [wd i] s
          | none => match remapLine c (ca / 64) 2 m s with
            | none => finish cmd rcHwFault [] s
            | some (i, s) => finish cmd rcOk [wd i] s)) ∧
  -- DDR_TRAIN_COMPLETE (R335)
  (∀ (c0 : Fin 12) (r : TrainResult) (s : State),
      let c : Nat := c0.val;
      let x := s.ddrAt c;
      ¬(x.state != .training) →
      exec (.ddrTrainComplete c0 r) s = .next (
          if !r.ok then
            if x.retried ∨ fld (s.setting 24) 14 12 = 0 then trainFail c s else s.ddrAtMod c (fun x => { x with retried := true })
          else
            let s := s.ddrAtMod c (fun x => restoreRecord c s.tst.record.entries { x with
              state := .inService, rate := s.trainRate c r.rate, ranks := r.ranks, dens := r.dens, slot1Unused := r.slot1Unused, sizeMib := r.sizeMib
              serial0 := r.serial0, serial1 := r.serial1, masks := defaultMasks r.ranks.toNat })
            let s := s.when (decide ((s.trainRate c r.rate).toNat < fld (s.setting 24) 14 12)) (raise 0x2E08)
            trainEnd (s.when r.slot1Unused (raise 0x0E30)))) ∧
  -- DDR_TRAIN_TIMEOUT (R335)
  (∀ (c0 : Fin 12) (s : State),
      let c : Nat := c0.val;
      ((s.ddrAt c).state == .training) →
      exec (.ddrTrainTimeout c0) s = .next (trainFail c s)) ∧
  -- DDR_RANGE_OPEN (R334)
  (∀ (bySoftware : Bool) (s : State),
      (s.ddr.trained && !s.ddr.isOpen && (bySoftware || !bit (s.setting 24) 15)) →
      exec (.ddrRangeOpen bySoftware) s = .next (
          let (k, s) := s.take 256
          (s.onDdr (fun d => { d with isOpen := true })).onMee (fun e => { e with kt := if e.kt = 0 then k else e.kt }))) ∧
  -- DDR_MAP_WRITE (R334)
  (∀ (c0 : Fin 12) (m0 : Fin 6) (v : Word) (s : State),
      let c : Nat := c0.val;
      let m : Nat := m0.val;
      exec (.ddrMapWrite c0 m0 v) s = .next (
          s.ddrAtMod c (fun x => if !s.ddr.isOpen && maskOk x m v then { x with masks := setNth x.masks m v } else { x with wrIgn := true }))) ∧
  -- DRAM_READ (R342)
  (∀ (c0 : Fin 12) (m : DimmRead) (s : State),
      let c : Nat := c0.val;
      ∀ r, (if s.ddrServes c then s.nextReq c 0 else none) = some r →
      exec (.dramRead c0 m) s = .next (
          let ca := s.reqCa r; let n := r.len.toNat + 1
          match readLines c 0x4F10 (reqLines ca r.len.toNat) m s with
          | .error e => fatal e s
          | .ok (vs, s) =>
            let s := bufWord c ((s.ddrAt c).phys (ca / 64)) m.rdBuf (dequeue c r s)
            let data := placeBytes ca (((linesBytes vs).drop (ca % 64)).take n)
            let bad := (List.range data.length).map (fun j => m.rdBuf == 2 || (vs.getD ((ca / 32 + j) / 2 - ca / 64) (0, 0)).2 != 0)
            sendRsp (ddrPort c) (rspFor r (if bad.any id then stPoison else stOk) data bad) s)) ∧
  -- DRAM_WRITE (R338)
  (∀ (c0 : Fin 12) (m : DimmRead) (s : State),
      let c : Nat := c0.val;
      ∀ r, (if s.ddrServes c then s.nextReq c 1 else none) = some r →
      let ca := s.reqCa r;
      let n := r.len.toNat + 1;
      let ls := reqLines ca r.len.toNat;
      let fresh := ls.filter (fun l => !(s.ddrAt c).wb.any (fun w => w.la == l));
      ¬(64 < (s.ddrAt c).wb.length + fresh.length) →
      exec (.dramWrite c0 m) s = .next (
          if ls.any (fun l => (s.meeRegion c l).isSome && s.majorEnds c l) then raise 0x3F05 (ddrAnswer c r stTargetErr s)
          else
            let part := ls.filter (fun l => decide (l * 64 < ca) || decide (ca + n < l * 64 + 64))
            match readLines c 0x4F11 part m s with
            | .error e => fatal e s
            | .ok (vs, s) =>
              if vs.any (fun v => v.2 == 2) then raise 0x3E05 (ddrAnswer c r stTargetErr s)
              else if vs.any (fun v => v.2 == 1) then ddrAnswer c r stPoison s
              else
                let old (l : Nat) : BitVec 512 := ((part.zip vs).find? (fun p => p.1 == l)).map (·.2.1) |>.getD 0
                match writeLines c r ca old (m.wrBuf == 2) ls s with
                | .error e => fatal e s
                | .ok s =>
                  let s := bufWord c ((s.ddrAt c).phys (ca / 64)) m.wrBuf s
                  ddrAnswer c r (if m.wrBuf = 2 then stTargetErr else stOk) s)) ∧
  -- DRAM_ATOMIC (R346)
  (∀ (c0 : Fin 12) (m : DimmRead) (s : State),
      let c : Nat := c0.val;
      ∀ r, (if s.ddrServes c then s.nextReq c 2 else none) = some r →
      let ca := s.reqCa r;
      let n := r.len.toNat + 1;
      let la := ca / 64;
      let d := r.data.headD 0;
      ¬(64 ≤ (s.ddrAt c).wb.length ∧ !(s.ddrAt c).wb.any (fun w => w.la == la)) →
      exec (.dramAtomic c0 m) s = .next (
          if r.bad.any id then ddrAnswer c r stPoison s
          else if (s.meeRegion c la).isSome ∧ s.majorEnds c la then raise 0x3F05 (ddrAnswer c r stTargetErr s)
          else match lineRead c la m 0x4F11 s with
            | .error e => fatal e s
            | .ok (v, code, s) =>
              if code = 2 then raise 0x3E05 (ddrAnswer c r stTargetErr s)
              else if code = 1 then ddrAnswer c r stPoison s
              else
                let lo := 8 * (ca % 64); let fl := 8 * (ca % 32)
                let old := fld v (lo + 8 * n - 1) lo
                let cl := 8 * ((ca % 32 + 16) % 32)
                match atomNew r.aop.toNat (8 * n) old (fld d (fl + 8 * n - 1) fl) (fld d (cl + 8 * n - 1) cl) with
                | none => ddrAnswer c r stUnsupported s
                | some x =>
                  if m.wrBuf = 2 then
                    match lineWrite c la v true s with
                    | .error e => fatal e s
                    | .ok s => ddrAnswer c r stTargetErr (bufWord c ((s.ddrAt c).phys la) 2 s)
                  else match lineWrite c la (setFld v (lo + 8 * n - 1) lo x) false s with
                    | .error e => fatal e s
                    | .ok s =>
                      sendRsp (ddrPort c) (rspFor r stOk (placeBytes ca (natBytes old n)) [false]) (dequeue c r (bufWord c ((s.ddrAt c).phys la) m.wrBuf s)))) ∧
  -- DDR_ALERT (R337)
  (∀ (c0 : Fin 12) (progress : Bool) (s : State),
      let c : Nat := c0.val;
      let x := s.ddrAt c;
      ¬(x.state != .inService) →
      exec (.ddrAlert c0 progress) s = .next (
          let n := if progress then 1 else x.alertRun + 1
          if 4 ≤ n then channelDown c (s.ddrAtMod c (fun x => { x with alertRun := n }))
          else s.ddrAtMod c (fun x => { x with alertRun := n, alerts := satInc x.alerts }))) ∧
  -- DDR_UPKEEP_TIMER (R336)
  (∀ (c0 : Fin 12) (s : State),
      let c : Nat := c0.val;
      let w := s.reg 0 (blkDdr + c * 0x10000 + 4);
      (s.ddrServes c && (!bit w 3 || s.quietWin)) →
      exec (.ddrUpkeepTimer c0) s = .next (s.ddrAtMod c (fun x => { x with upkeep := x.upkeep + 1 }))) ∧
  -- DDR_REFRESH (R336)
  (∀ (c0 : Fin 12) (bank0 : Fin 4) (s : State),
      let c : Nat := c0.val;
      let bank : Nat := bank0.val;
      (s.ddrServes c) →
      exec (.ddrRefresh c0 bank0) s = .next (
          s.ddrAtMod c (fun x => { x with
          refreshed := smod 0 x.refreshed bank (· + 1), bank := smap {} x.bank (fun k b => if k % 4 = bank then { b with row := none } else b) }))) ∧
  -- DDR_WB_DRAIN (R338)
  (∀ (c0 : Fin 12) (m : DimmRead) (s : State),
      let c : Nat := c0.val;
      let x := s.ddrAt c;
      ¬(!s.ddrServes c) →
      exec (.ddrWbDrain c0 m) s = .next (
          if 48 ≤ x.wb.length then drainTo c 16 64 m.wrBuf s
          else if x.q.any (fun r => r.typ == 0) then s
          else drainTo c 0 64 m.wrBuf s)) ∧
  -- DDR_IDLE_CLOSE (R339)
  (∀ (c0 : Fin 12) (bank0 : Fin 128) (s : State),
      let c : Nat := c0.val;
      let bank : Nat := bank0.val;
      exec (.ddrIdleClose c0 bank0) s = .next (
          s.ddrAtMod c (fun x => if (sget {} x.bank bank).ctr.toNat ≤ 1 then { x with bank := smod {} x.bank bank (fun b => { b with row := none }) } else x))) ∧
  -- DDR_PATROL_STEP (R350)
  (∀ (c0 : Fin 12) (m : DimmRead) (s : State),
      let c : Nat := c0.val;
      let w := s.reg 0 (blkDdr + c * 0x10000 + 4);
      ¬(!s.ddrServes c || !bit w 0 || s.mode == .held || (bit w 1 && !s.quietWin) || !s.ddr.set.getLsbD c) →
      exec (.ddrPatrolStep c0 m) s = .next (
          let i := (s.ddrAt c).scrubPos
          let s := match s.patrolLine c i with
            | none => s
            | some line =>
              let p := (s.ddrAt c).pos line
              let d := decodeLine (sget {} (s.ddrAt c).mark (2 * p.rank + p.sc)) ((m.errs.map Fin.val).eraseDups)
              let (v, code, s) := dimmLine c line m true s
              let s := patrolRewrite c line d v code s
              match d with
              | .corrected (_ :: _) =>
                let again := (s.ddrAt c).cePrev.contains i
                let s := s.ddrAtMod c (fun x => { x with ceLines := x.ceLines ++ [i] })
                if again && bit w 2 && s.patrolHome c i == some line then autoRemap c line {} s else s
              | _ => s
          if s.patrolLines ≤ i + 1 then
            let (k, s) := s.take 1
            s.ddrAtMod c (fun x => { patrolEnd x with late := x.late || k == 1 })
          else s.ddrAtMod c (fun x => { x with scrubPos := i + 1 }))) ∧
  -- DDR_RETRAIN (R11)
  (∀ (c : Fin 12) (insp : Bool) (s : State),
      exec (.ddrRetrain c insp) s = .next (State.readTo (ddrRetrainRead c.val insp s))) ∧
  -- DDR_ECC (R11)
  (∀ (c : Fin 12) (insp : Bool) (s : State),
      exec (.ddrEcc c insp) s = .next (State.readTo (ddrEccRead c.val insp s))) ∧
  -- DDR_ERRLOG_READ (R129)
  (∀ (c : Fin 12) (insp : Bool) (s : State),
      exec (.ddrErrlogRead c insp) s = .next (State.readTo (ddrErrlogRead c.val insp s)))

/-- Work dispatch: queues, doorbells, takes and completions: each command answers the next state its rule gives. One clause for each command, under
its mnemonic and the rule it follows: the conditions on operands and state under which the command has its effect, then the state that exec answers.
-/
def Obligations.DispatchCommandsComplete : Prop :=
  -- WDS_QUEUE_CFG (R380)
  (∀ (id : CmdId) (s0 : State) (c : Cmd),
      Safety.ready id 0xB0 c s0 →
      let s := Safety.begun id s0;
      let p := c.p 1;
      (onlyBits (c.p 0) 0x3FF && onlyBits p 0x3F && (c.p 2).toNat ≤ 65536) →
      exec (.wdsQueueCfg id) s0 = .next (
          let s := s.queueAtMod (fld (c.p 0) 9 0) (fun x => { x with
            qprio := BitVec.ofNat 3 (fld p 2 0), useIprio := bit p 3, en := bit p 4, spill := bit p 5, ondieMax := BitVec.ofNat 17 (fld (c.p 2) 16 0) })
          finish c rcOk [] (wdsServe s))) ∧
  -- WDS_STATUS (R380)
  (∀ (id : CmdId) (s0 : State) (c : Cmd),
      Safety.ready id 0xB1 c s0 →
      let s := Safety.begun id s0;
      let p := c.p 0;
      (if bit p 31 then onlyBits p 0x800FFFFF else onlyBits p 0x3FF) →
      exec (.wdsStatus id) s0 = .next (
          if bit p 31 then finish c rcOk (wdsFlowWords (fld p 19 0 % 16384) s) s.nextFree
          else finish c rcOk (wdsQueueWords (fld p 9 0) s) (s.queueAtMod (fld p 9 0) (fun x => { x with refused := 0 })))) ∧
  -- WDS_ENQUEUE (R379)
  (∀ (item : BitVec 256) (len : Byte) (poison : Bool) (s : State),
      exec (.wdsEnqueue item len poison) s = .next (
          if !s.wdsOn then wdsAnswer none stOk [] s
          else if len ≠ 31 then wdsAnswer none stUnsupported [] s
          else if poison then wdsAnswer none stPoison [] s
          else
            let q := fld item 9 0; let it := itemOf item none
            if s.enqueueOk q it then wdsServe (wdsAnswer none stOk [] (enqueueItem q it s))
            else wdsAnswer none stTargetErr [] (s.queueAtMod q (fun x => { x with refused := x.refused + 1 })))) ∧
  -- WDS_TAKE (R384)
  (∀ (ctx : Fin 256) (len : Byte) (insp : Bool) (bad : Bool) (s : State),
      exec (.wdsTake ctx len insp bad) s = .next (wdsTakeOf none ctx.val len insp bad s)) ∧
  -- WDS_TAKE_TIMEOUT (R384)
  (∀ (ctx : Fin 256) (s : State),
      ∀ r rest, (if s.mode == .resting then [] else (s.ctxAt ctx.val).held) = r :: rest →
      exec (.wdsTakeTimeout ctx) s = .next (wdsAnswer r stOk [emptyItem] (s.ctxAtMod ctx.val (fun x => { x with held := rest })))) ∧
  -- WDS_CTX_RELEASE (R385)
  (∀ (ctx : Fin 256) (ticket : BitVec 16) (s : State),
      (s.wdsOn) →
      exec (.wdsCtxRelease ctx ticket) s = .next (
          match (s.ctxAt ctx.val).inService.find? (fun i => i.ticket == ticket) with
          | none => s.onWds (fun w => { w with stale := satInc w.stale })
          | some i =>
            let s := unlockItem i.item (s.ctxAtMod ctx.val (fun x => { x with inService := x.inService.filter (fun j => j.ticket != ticket) }))
            let s := match i.item.origin with
              | some (dev, octx, ot) => sendItem dev.toNat 2 octx.toNat 0 false ot.toNat 0 s
              | none => s
            wdsServe s)) ∧
  -- WDS_SERVICE_TIMEOUT (R386)
  (∀ (ctx : Fin 256) (ticket : BitVec 16) (s : State),
      let x := s.ctxAt ctx.val;
      (s.wdsOn && !s.svcFrozen ctx.val && x.kind != 2 && fld x.timer 31 16 != 0 && x.inService.any (fun i => i.ticket == ticket)) →
      exec (.wdsServiceTimeout ctx ticket) s = .next (ctxDead ctx.val 0x2101 s)) ∧
  -- WDS_CTX_REVIVE (R386)
  (∀ (ctx : Fin 256) (s : State),
      (s.wdsOn) →
      exec (.wdsCtxRevive ctx) s = .next (wdsServe (s.ctxAtMod ctx.val (fun x => { x with dead := false })))) ∧
  -- WDS_SPILL_TIMER (R381)
  (∀ (q : BitVec 10) (s : State),
      (s.wdsOn) →
      ∀ b, (s.queueAt q.toNat).ring.find? (fun b => !b.sent && (true || b.items.length == 8)) = some b →
      (s.portTakes portWdsI && !(s.queueAt q.toNat).stopped) →
      exec (.wdsSpillTimer q) s = .next (
          wdsIssue q.toNat b.slot true (blockData b)
            (s.queueAtMod q.toNat (fun x => { x with ring := x.ring.map (fun c => if c.slot = b.slot then { c with sent := true } else c) })))) ∧
  -- WDS_SPILL_RETRY (R382)
  (∀ (q : BitVec 10) (s : State),
      let x := s.queueAt q.toNat;
      ∀ b, x.ring.find? (fun b => b.failed && !b.sent) = some b →
      (s.wdsOn && x.stopped && s.portTakes portWdsI) →
      exec (.wdsSpillRetry q) s = .next (
          wdsIssue q.toNat b.slot true (blockData b)
            (s.queueAtMod q.toNat (fun x => { x with ring := x.ring.map (fun c => if c.slot = b.slot then { c with sent := true } else c) })))) ∧
  -- WDS_REFILL (R382)
  (∀ (q : BitVec 10) (s : State),
      exec (.wdsRefill q) s = .next (
          let x := s.queueAt q.toNat
          match x.refill, x.ring with
          | some (some r), b :: rest =>
            let n := min b.items.length (min (65536 - s.wdsOndie) (x.max - x.items.length))
            let got := (List.range n).map (fun k => refillItem r (b.moved + k) (b.items.getD k {}))
            let b' := { b with items := b.items.drop n, moved := b.moved + n }
            wdsServe (s.queueAtMod q.toNat (fun x =>
              if b'.items.isEmpty then { x with items := x.items ++ got, ring := rest, refill := none }
              else { x with items := x.items ++ got, ring := b' :: rest }))
          | _, _ => s)) ∧
  -- WDS_COUNT (R11)
  (∀ (insp : Bool) (s : State),
      exec (.wdsCount insp) s = .next (State.readTo (wdsCountRead insp s)))

/-- CSR accesses and the block and deep memories: each command answers the next state its rule gives. One clause for each command, under its mnemonic
and the rule it follows: the conditions on operands and state under which the command has its effect, then the state that exec answers. -/
def Obligations.MemoryCommandsComplete : Prop :=
  -- REG_WRITE (R11)
  (∀ (die0 : Fin 7) (off0 : BitVec 28) (w : Word) (fwg : BitVec 5) (s : State),
      let die : Nat := die0.val;
      let off : Nat := off0.toNat;
      (s.csrLive die && csrMapped die off && off % 4 == 0) →
      exec (.regWrite die0 off0 w fwg) s = .next (csrWrite die off 15 w fwg s)) ∧
  -- BM_READ (R108)
  (∀ (b : BmId) (portB : Bool) (addr : BitVec 12) (edge : Fin 3) (s0 : State),
      let chk := bit ((asyncHold s0).bmCfg b) 0;
      let s := (asyncHold s0).bmAtMod b (bmAdvance chk edge.val);
      let d := bmDecode (bmWid (s.bmCfg b) portB) addr;
      s0.memRuns (b.die.val * 192 + b.sec.val) = true →
      (s.bmAt b).ctl.takes portB d.1 = true →
      exec (.bmRead b portB addr edge) s0 = .next (
          let m := s.bmAt b
          let (w, first, nb) := d
          let cur := sget {} m.words w
          let (pick, s) := match m.ctl.meets w with
            | some l => if bit (s.bmCfg b) 7 then (l.old, s) else (let (f, s) := s.take 1; (if f = 1 then l.old else cur, s))
            | none => (cur, s)
          let (v, oc) := memRead chk w pick
          let out : PortOut := { data := (v >>> (9 * first)) &&& BitVec.ofNat 72 (2 ^ (9 * nb) - 1), sbe := oc == 1, derr := oc == 2 }
          let acc : MemAcc := { portB := portB, write := false, word := w, old := cur, be := 0, data := 0, rmw := false }
          let enter (k : MemCtl) : MemCtl :=
            let k := ctlErr oc (if portB then 1 else 0) w { k with cur := k.cur ++ [acc] }
            if oc = 1 then k.await (some portB) w else k
          let s := s.bmAtMod b (fun m => BlockMem.onOut portB (fun _ => out) { m with ctl := enter m.ctl })
          s.when (oc == 2) (raiseFrom (b.die.val + 1) 0x3513))) ∧
  -- BM_WRITE (R116)
  (∀ (b : BmId) (portB : Bool) (we : BitVec 8) (addr : BitVec 12) (di : BitVec 72) (edge : Fin 3) (s0 : State),
      let chk := bit (s0.bmCfg b) 0;
      let d := bmDecode (bmWid (s0.bmCfg b) portB) addr;
      let be : BitVec 8 := BitVec.ofNat 8 (we.toNat % 2 ^ d.2.2 * 2 ^ d.2.1);
      let s := (asyncHold s0).bmAtMod b (bmAdvance chk edge.val);
      (be = 0 → exec (.bmWrite b portB we addr di edge) s0 = exec (.bmRead b portB addr edge) s0) ∧
      (be ≠ 0 → s0.memRuns (b.die.val * 192 + b.sec.val) = true → (s.bmAt b).ctl.takes portB d.1 = true →
      exec (.bmWrite b portB we addr di edge) s0 = .next (
          let m := s.bmAt b
          let (w, first, _) := d
          let cur := sget {} m.words w
          let data := di <<< (9 * first)
          let other := m.ctl.meets w
          -- which of two writes at one edge is applied last: port A where the ports share a clock, else a free bit
          let (mineLast, s) := match other with
            | some _ => if bit (s0.bmCfg b) 7 then (!portB, s) else (let (f, s) := s.take 1; (f = 1, s))
            | none => (true, s)
          let base := match other with | some l => l.old | none => cur
          let narrow := chk && be != 0xFF
          let (old, oc) := if narrow then memRead chk w base else (if base.valid then base.data else 0, 0)
          let acc : MemAcc := { portB := portB, write := oc != 2, word := w, old := base, be := be, data := data, rmw := narrow }
          let enter (k : MemCtl) : MemCtl := ctlErr oc (if portB then 1 else 0) w { k with cur := k.cur ++ [acc] }
          if oc = 2 then
            raiseFrom (b.die.val + 1) 0x3513 (s.bmAtMod b (fun m => BlockMem.onOut portB (fun o => { o with derr := true }) { m with ctl := enter m.ctl }))
          else
            let merged := match other with
              | some l => if mineLast then mergeBytes be data (mergeBytes l.be l.data old) else mergeBytes l.be l.data (mergeBytes be data old)
              | none => mergeBytes be data old
            let inj := chk && be == 0xFF && m.ctl.injArm
            s.bmAtMod b (fun m => { m with
              words := sput {} m.words w { data := chkMask chk merged, valid := true, inv := if inj then m.ctl.injMask else 0, addr := BitVec.ofNat 15 w }
              ctl := { (enter m.ctl).drop w with injArm := m.ctl.injArm && !inj } })))) ∧
  -- DM_READ (R111)
  (∀ (c : SecId) (addr : BitVec 15) (edge : Fin 3) (s0 : State),
      let s := (asyncHold s0).dmAtMod c (dmAdvance edge.val);
      let a := addr.toNat;
      s0.memRuns c.key = true →
      (s.dmAt c).ctl.takes false a = true →
      exec (.dmRead c addr edge) s0 = .next (
          let m := s.dmAt c
          let cur := sget {} m.words (dmPhys m a)
          let (pick, s) := match m.ctl.meets a with
            | some l => if s.dmSync c.key then (l.old, s) else (let (f, s) := s.take 1; (if f = 1 then l.old else cur, s))
            | none => (cur, s)
          let (v, oc) := wordRead a pick
          let acc : MemAcc := { portB := false, write := false, word := a, old := cur, be := 0, data := 0, rmw := false }
          let s := s.dmAtMod c (fun m => { m with
            ctl := (let k := ctlErr oc 0 a { m.ctl with cur := m.ctl.cur ++ [acc] }; if oc = 1 then k.await (some true) a else k)
            out := { data := v, sbe := oc == 1, derr := oc == 2 } })
          s.when (oc == 2) (raiseFrom (c.die.val + 1) 0x3514))) ∧
  -- DM_WRITE (R111)
  (∀ (c : SecId) (be : BitVec 8) (addr : BitVec 15) (data : BitVec 64) (edge : Fin 3) (s0 : State),
      let s := (asyncHold s0).dmAtMod c (dmAdvance edge.val);
      let m := s.dmAt c;
      let a := addr.toNat;
      let p := dmPhys m a;
      s0.memRuns c.key = true →
      m.ctl.takes true a = true →
      exec (.dmWrite c be addr data edge) s0 = .next (
          let cur := sget {} m.words p
          let narrow := be != 0xFF
          let (old, oc) := if narrow then wordRead a cur else (0, 0)
          let acc : MemAcc := { portB := true, write := oc != 2, word := a, old := cur, be := be, data := data.setWidth 72, rmw := narrow }
          let enter (k : MemCtl) : MemCtl := ctlErr oc 1 a { k with cur := k.cur ++ [acc] }
          if oc = 2 then
            raiseFrom (c.die.val + 1) 0x3514 (s.dmAtMod c (fun m => { m with ctl := enter m.ctl, wderr := true }))
          else
            let inj := !narrow && m.ctl.injArm
            let w : MemWord := { data := (merge64 be data (old.setWidth 64)).setWidth 72, valid := true, inv := if inj then m.ctl.injMask else 0, addr := addr }
            s.dmAtMod c (fun m => { m with
              words := (let ws := sput {} m.words p w
                match m.copy, dmSpare m with
                | some (row, _), some i => if row.toNat = a / 64 then sput {} ws ((512 + i) * 64 + a % 64) w else ws
                | _, _ => ws)
              ctl := { (enter m.ctl).drop a with injArm := m.ctl.injArm && !inj }
              wderr := false }))) ∧
  -- MEM_INIT (R120)
  (∀ (c : SecId) (m : MemSel) (s : State),
      s.areaOpen c.key = true →
      exec (.memInit c m) s = .next (
          let s := match m with
            | .block i => s.bmAtMod (memBm c i) bmInit
            | .deep => s.dmAtMod c (fun q => { q with words := [], ctl := initCtl q.ctl })
          ctlMod c m (fun k => { k with initBusy := true }) s)) ∧
  -- MEM_INIT_COMPLETE (R120)
  (∀ (c : SecId) (m : MemSel) (s : State),
      exec (.memInitComplete c m) s = .next (ctlMod c m (fun k => { k with initBusy := false }) s)) ∧
  -- MEM_SCRUB_STEP (R124, R139)
  (∀ (c : SecId) (m : ScrubSel) (s : State),
      exec (.memScrubStep c m) s = .next (match m with | .mem m => memIdle c m s | .xy u y => scrubXy { die := c.die, sec := c.sec, unit := u } y s)) ∧
  -- DM_REMAP_REQ (R126)
  (∀ (c : SecId) (row : BitVec 9) (s : State),
      s.areaOpen c.key = true →
      exec (.dmRemapReq c row) s = .next (remapStart c row 2 s)) ∧
  -- ROW_COPY_COMPLETE (R127)
  (∀ (c : SecId) (s : State),
      exec (.rowCopyComplete c) s = .next (
          let m := s.dmAt c
          match m.copy, dmSpare m with
          | some (row, origin), some i =>
            let s := s.each (List.range 64) (copyWord c row.toNat i)
            let s := s.dmAtMod c (fun q => { q with copy := none, remap := setNth q.remap i { origin := origin, active := true, row := row }, ctl := { q.ctl with gap := true } })
            let e := wd (2 * 2 ^ 28 + (c.die.val + 1) * 2 ^ 25 + c.sec.val % 16 * 2 ^ 21 + s.prow c.key * 2 ^ 17 + row.toNat * 256)
            raiseFrom (c.die.val + 1) 0x1511 (s.onTst (fun t => { t with add := t.add ++ [(e, 0, 0, 0)] }))
          | _, _ => s)) ∧
  -- BM_ERRLOG_READ (R129)
  (∀ (b : BmId) (insp : Bool) (s : State),
      exec (.bmErrlogRead b insp) s = .next (State.readTo (memErrlogRead { die := b.die, sec := b.sec } (.block b.mem) insp s))) ∧
  -- DM_ERRLOG_READ (R129)
  (∀ (c : SecId) (insp : Bool) (s : State),
      exec (.dmErrlogRead c insp) s = .next (State.readTo (memErrlogRead c .deep insp s))) ∧
  -- BM_CE_COUNT (R11)
  (∀ (c : SecId) (m : MemSel) (insp : Bool) (s : State),
      exec (.bmCeCount c m insp) s = .next (State.readTo (memCeRead c m insp s))) ∧
  -- BM_UE_COUNT (R11)
  (∀ (c : SecId) (m : MemSel) (insp : Bool) (s : State),
      exec (.bmUeCount c m insp) s = .next (State.readTo (memUeRead c m insp s)))

/-- Fabric and I/O: partial loads of state, pins and banks: each command answers the next state its rule gives. One clause for each command, under its
mnemonic and the rule it follows: the conditions on operands and state under which the command has its effect, then the state that exec answers. -/
def Obligations.FabricAndPinCommandsComplete : Prop :=
  -- BRIDGE_PARITY_MISMATCH (R98)
  (∀ (boundary : Fin 3) (westward : Bool) (group : Fin 288) (s : State),
      let b : Fin 3 := boundary;
      let g : Fin 288 := group;
      let k := groupKey b.val westward g.val;
      let q := s.bridgeAt k;
      let d := if westward then b.val else b.val + 1;
      (s.groupCfg d westward g.val % 2 = 1 ∧ q.spare.isNone ∧ s.pres (b.val + 1) ∧ s.pres (b.val + 2) ∧ !q.berr) →
      exec (.bridgeParityMismatch boundary westward group) s = .next (raiseFrom (d + 1) (0x3431 + b.val) (s.bridgeAtMod k (fun q => { q with berr := true })))) ∧
  -- TILE_CLOCK_EDGE (R82)
  (∀ (t : TileId) (ck1 : Bool) (pad : List Bool) (s0 : State),
      let d := t.die.val;
      let x := t.x.val;
      let y := t.y.val;
      let sec := tileSec d x y;
      s0.clocked sec = true → s0.ckTicks d x y ck1 = true →
      exec (.tileClockEdge t ck1 pad) s0 = .next (
          let s := asyncHold (padSee d x y pad s0)
          let s1 := s.each (List.range 8) (fun c u => u.each [0, 1] (fun n u =>
            if (s.ffCfg d x y c n).getLsbD 4 == ck1 then
              u.onFab (fun f => { f with ffs := sput false f.ffs (ffKey d x y c n) (s.ffNext d x y c n) }) else u))
          let s2 := if ck1 then s1 else if s.tmode d x y = 1 then tileMemWrite s d x y s1 else if s.tmode d x y = 2 then laneShift s d x y s1 else s1
          let s3 := bridgeCapture s d x y ck1 s2
          let s4 := if ck1 then s3 else evSee d x y (cellEdge s d x y pad s3)
          (fdEdges d x y ck1 s4).onFab (fun f =>
            let r := sget (0, 0) f.relClk (relKey d x y ck1); let n := sget 0 f.relSec sec
            if (s.secAt sec).inReset then f
            else { f with relClk := sput (0, 0) f.relClk (relKey d x y ck1) (n, if r.1 = n then min 2 (r.2 + 1) else 1) }))) ∧
  -- VCCIO_LOST (R182)
  (∀ (die : Fin 4) (bank : Fin 6) (s : State),
      let b : Fin 6 := bank;
      let n := die.val * 6 + b.val;
      let q := s.bankAt n;
      let on := q.enabled && s.bankConfigured die.val b.val;
      ¬(q.meas = 7) →
      exec (.vccioLost die bank) s = .next (
          let s := s.bankAtMod n (fun q => { q with meas := 7, vok := false, lost := q.lost || on })
          s.when on (raiseFrom (die.val + 1) 0x3701))) ∧
  -- VCCIO_RESTORED (R182)
  (∀ (die : Fin 4) (bank : Fin 6) (meas : BitVec 3) (tapQ : BitVec 16) (s : State),
      let b : Fin 6 := bank;
      exec (.vccioRestored die bank meas tapQ) s = .next (
          let n := die.val * 6 + b.val
          let s := s.bankAtMod n (fun q => { q with meas := meas })
          if !(s.bankAt n).enabled then s
          else if meas.toNat = (s.bankAt n).vccioCode.toNat then (if (s.bankAt n).vok then s else vokRise n (takeTap die.val b.val tapQ s))
          else
            let bad := s.bankConfigured die.val b.val
            (s.bankAtMod n (fun q => { q with vok := false, mismatch := q.mismatch || bad })).when bad (raiseFrom (die.val + 1) 0x3702))) ∧
  -- ISLIP (R173)
  (∀ (p0 : PinId) (s : State),
      let p : PinId := p0;
      let q : PinId := p;
      let p := s.pinAt q;
      ((p.imode = 3 ∨ p.imode = 4) ∧ !p.isN q.pin.val) →
      exec (.islip p0) s = .next (s.pinAtMod q (fun p => { p with islip := true }))) ∧
  -- IO_TAP_MEASURE (R175)
  (∀ (die : Fin 4) (bank : Fin 6) (tapQ : BitVec 16) (s : State),
      let b : Fin 6 := bank;
      exec (.ioTapMeasure die bank tapQ) s = .next (takeTap die.val b.val tapQ s)) ∧
  -- IO_TAP_MOVE (R176)
  (∀ (p : PinId) (s : State),
      let q : PinId := p;
      exec (.ioTapMove p) s = .next (
          let t := ((s.pinAt q).target (s.bankAt (q.die.val * 6 + q.bank.val)).tapQ).1
          s.pinAtMod q (fun p => { p with taps := if p.taps.toNat < t then p.taps + 1 else if t < p.taps.toNat then p.taps - 1 else p.taps }))) ∧
  -- IO_PIN_DLY_WRITE (R175)
  (∀ (p : PinId) (w : Word) (s : State),
      let q : PinId := p;
      ¬((s.bankAt (q.die.val * 6 + q.bank.val)).frozen) →
      exec (.ioPinDlyWrite p w) s = .next (
          clampCheck q.die.val q.bank.val q.pin.val (s.pinAtMod q (fun p => { p with cal := bit w 31, dly := BitVec.ofNat 11 (fld w 10 0) }))))

/-- Sector DSP unit: control, debug and register commands: each command answers the next state its rule gives. One clause for each command, under its
mnemonic and the rule it follows: the conditions on operands and state under which the command has its effect, then the state that exec answers. -/
def Obligations.SequencerControlCommandsComplete : Prop :=
  -- SDU_RUN (R161)
  (∀ (u : SduId) (s : State),
      (s.areaOpen u.sk) →
      ((s.sduAt u).seq) →
      exec (.sduRun u) s = .next (s.sduAtMod u sduRun)) ∧
  -- SDU_STOP (R161)
  (∀ (u : SduId) (s : State),
      (s.areaOpen u.sk) →
      ((s.sduAt u).seq) →
      exec (.sduStop u) s = .next (s.sduAtMod u sduStop)) ∧
  -- SDU_HALT (R161)
  (∀ (u : SduId) (s : State),
      (s.areaOpen u.sk) →
      ((s.sduAt u).seq) →
      (s.authLevel ≠ 0) →
      exec (.sduHalt u) s = .next (s.sduAtMod u sduHaltUnit)) ∧
  -- SDU_RESUME (R161)
  (∀ (u : SduId) (s : State),
      (s.areaOpen u.sk) →
      ((s.sduAt u).seq) →
      (s.authLevel ≠ 0) →
      exec (.sduResume u) s = .next (s.sduAtMod u sduResume)) ∧
  -- SDU_STEP (R163)
  (∀ (u : SduId) (s : State),
      exec (.sduStep u) s = .next (
          let s := sduCtrl u true id s
          if s.areaOpen u.sk && (s.sduAt u).seq && s.authLevel != 0 then stepUnit u s else s)) ∧
  -- SDU_SWREQ (R158)
  (∀ (u : SduId) (s : State),
      (s.areaOpen u.sk) →
      ((s.sduAt u).seq) →
      (s.authLevel ≠ 0) →
      exec (.sduSwreq u) s = .next (s.sduAtMod u (postSwitch 2))) ∧
  -- SWREQ (R158)
  (∀ (u : SduId) (s : State),
      (s.sduLive u) →
      exec (.swreq u) s = .next (s.sduAtMod u (postSwitch 0))) ∧
  -- SWITCH_SLOT (R159)
  (∀ (u : SduId) (s : State),
      let q := s.sduAt u;
      (s.sduLive u && q.seq && switchOpen q && (q.state == .running || q.state == .stalled || q.state == .sleeping)) →
      exec (.switchSlot u) s = .next (
          if q.haltNext && q.state == .running then s.sduAtMod u (fun q => { q with state := .halted, before := .running, haltNext := false })
                    else s.sduAtMod u (switchSlot (s.nextCyc u)))) ∧
  -- SDU_STREAM_READY (R161)
  (∀ (u : SduId) (sin : Option Word) (soutR : Bool) (s : State),
      ¬(!s.sduLive u || !(s.sduAt u).seq) →
      exec (.sduStreamReady u sin soutR) s = .next (
          let s := s.sduAtMod u (fun q => { q with
            inF := (match sin with | some w => if q.inF.length < 4 then q.inF ++ [w] else q.inF | none => q.inF)
            outF := if soutR then q.outF.tail else q.outF })
          let s := if (s.sduAt u).state == .stalled then dueSlots u s else s
          let q := s.sduAt u
          if q.state == .stalled && !insStalls q (q.ins q.cur.pc.toNat) then sduSlot u false (s.sduAtMod u (fun q => { q with state := .running })) else s)) ∧
  -- SDU_REG_WRITE (R137)
  (∀ (u : SduId) (set : Bool) (code : BitVec 5) (w : Word) (s : State),
      let q := s.sduAt u;
      ¬(!s.areaOpen u.sk) →
      exec (.sduRegWrite u set code w) s = .next (
          if set = q.act ∧ (!(q.seq && (q.state == .stopped || q.state == .halted || q.state == .faulted)) ∨ s.authLevel = 0) then
            s.sduAtMod u (fun q => { q with wrIgn := true })
          else s.sduAtMod u (fun q => q.onSet set (setWrite code.toNat w)))) ∧
  -- SDU_ISTORE_WRITE (R162)
  (∀ (u : SduId) (n : BitVec 9) (hi : Bool) (w : Word) (s : State),
      let q := s.sduAt u;
      let f (i : BitVec 48) : BitVec 48 := if hi then setFld i 47 32 w.toNat else setFld i 31 0 w.toNat;
      ¬(!s.areaOpen u.sk) →
      exec (.sduIstoreWrite u n hi w) s = .next (
          if q.seq ∧ (q.state = .stopped ∨ q.state = .halted) then s.sduAtMod u (fun q => { q with istore := smod 0 q.istore n.toNat f })
          else s.sduAtMod u (fun q => { q with wrIgn := true }))) ∧
  -- SDU_XY_CSR_ACCESS (R140)
  (∀ (u : SduId) (y : Bool) (pair : BitVec 10) (write : Option Word) (be : BitVec 4) (free : Bool) (s : State),
      exec (.sduXyCsrAccess u y pair write be free) s = .next (
          let (r, s) := xyAccess u y pair.toNat write be s
          if write.isNone ∧ !r.2 then { s with readOut := r.1 } else s)) ∧
  -- SDU_ECC (R11)
  (∀ (u : SduId) (insp : Bool) (s : State),
      exec (.sduEcc u insp) s = .next (if s.areaOpen u.sk then State.readTo (sduEccRead u insp s) else { s with readOut := 0 })) ∧
  -- ILLEGAL_INSTRUCTION (R149)
  (∀ (u : SduId) (s : State),
      let q := s.sduAt u;
      ¬(!s.sduLive u || !q.seq || q.state != .running) →
      exec (.illegalInstruction u) s = .next (
          let s := dueSlots u (asyncHold s)
          let q := s.sduAt u
          if q.state == .running && !insLegal q (q.ins q.cur.pc.toNat) q.cur.pc.toNat then sduSlot u false s else s))

/-- Sector DSP unit: every instruction of the sequencer at its issue slot: each command answers the next state its rule gives. One clause for each
command, under its mnemonic and the rule it follows: the conditions on operands and state under which the command has its effect, then the state that
exec answers. -/
def Obligations.SequencerInstructionCommandsComplete : Prop :=
  -- MPY (R132)
  (∀ (u : SduId) (s : State),
      Safety.sduIssues u s →
      (isMop 1 ((s.sduAt u).ins (s.sduAt u).cur.pc.toNat)) →
      exec (.mpy u) s = .next (Safety.sduIssued u s)) ∧
  -- MAC (R132)
  (∀ (u : SduId) (s : State),
      Safety.sduIssues u s →
      (isMop 2 ((s.sduAt u).ins (s.sduAt u).cur.pc.toNat)) →
      exec (.mac u) s = .next (Safety.sduIssued u s)) ∧
  -- MSU (R132)
  (∀ (u : SduId) (s : State),
      Safety.sduIssues u s →
      (isMop 3 ((s.sduAt u).ins (s.sduAt u).cur.pc.toNat)) →
      exec (.msu u) s = .next (Safety.sduIssued u s)) ∧
  -- MPYD (R133)
  (∀ (u : SduId) (s : State),
      Safety.sduIssues u s →
      (isMop 4 ((s.sduAt u).ins (s.sduAt u).cur.pc.toNat)) →
      exec (.mpyd u) s = .next (Safety.sduIssued u s)) ∧
  -- MACD (R133)
  (∀ (u : SduId) (s : State),
      Safety.sduIssues u s →
      (isMop 5 ((s.sduAt u).ins (s.sduAt u).cur.pc.toNat)) →
      exec (.macd u) s = .next (Safety.sduIssued u s)) ∧
  -- MSUD (R133)
  (∀ (u : SduId) (s : State),
      Safety.sduIssues u s →
      (isMop 6 ((s.sduAt u).ins (s.sduAt u).cur.pc.toNat)) →
      exec (.msud u) s = .next (Safety.sduIssued u s)) ∧
  -- LDX (R141)
  (∀ (u : SduId) (s : State),
      Safety.sduIssues u s →
      (isSop 1 ((s.sduAt u).ins (s.sduAt u).cur.pc.toNat)) →
      exec (.ldx u) s = .next (Safety.sduIssued u s)) ∧
  -- LDY (R141)
  (∀ (u : SduId) (s : State),
      Safety.sduIssues u s →
      (isSop 2 ((s.sduAt u).ins (s.sduAt u).cur.pc.toNat)) →
      exec (.ldy u) s = .next (Safety.sduIssued u s)) ∧
  -- STX (R145)
  (∀ (u : SduId) (s : State),
      Safety.sduIssues u s →
      (isSop 3 ((s.sduAt u).ins (s.sduAt u).cur.pc.toNat)) →
      exec (.stx u) s = .next (Safety.sduIssued u s)) ∧
  -- STY (R145)
  (∀ (u : SduId) (s : State),
      Safety.sduIssues u s →
      (isSop 4 ((s.sduAt u).ins (s.sduAt u).cur.pc.toNat)) →
      exec (.sty u) s = .next (Safety.sduIssued u s)) ∧
  -- IN (R148)
  (∀ (u : SduId) (s : State),
      Safety.sduIssues u s →
      (isSop 5 ((s.sduAt u).ins (s.sduAt u).cur.pc.toNat)) →
      exec (.inSlot u) s = .next (Safety.sduIssued u s)) ∧
  -- OUT (R148)
  (∀ (u : SduId) (s : State),
      Safety.sduIssues u s →
      (isSop 6 ((s.sduAt u).ins (s.sduAt u).cur.pc.toNat)) →
      exec (.outSlot u) s = .next (Safety.sduIssued u s)) ∧
  -- ALU_NOP (R147)
  (∀ (u : SduId) (s : State),
      Safety.sduIssues u s →
      (isNop ((s.sduAt u).ins (s.sduAt u).cur.pc.toNat)) →
      exec (.aluNop u) s = .next (Safety.sduIssued u s)) ∧
  -- CLR (R147)
  (∀ (u : SduId) (s : State),
      Safety.sduIssues u s →
      (isAop 1 ((s.sduAt u).ins (s.sduAt u).cur.pc.toNat)) →
      exec (.clr u) s = .next (Safety.sduIssued u s)) ∧
  -- MOVA (R147)
  (∀ (u : SduId) (s : State),
      Safety.sduIssues u s →
      (isAop 2 ((s.sduAt u).ins (s.sduAt u).cur.pc.toNat)) →
      exec (.mova u) s = .next (Safety.sduIssued u s)) ∧
  -- ADDA (R147)
  (∀ (u : SduId) (s : State),
      Safety.sduIssues u s →
      (isAop 3 ((s.sduAt u).ins (s.sduAt u).cur.pc.toNat)) →
      exec (.adda u) s = .next (Safety.sduIssued u s)) ∧
  -- SUBA (R147)
  (∀ (u : SduId) (s : State),
      Safety.sduIssues u s →
      (isAop 4 ((s.sduAt u).ins (s.sduAt u).cur.pc.toNat)) →
      exec (.suba u) s = .next (Safety.sduIssued u s)) ∧
  -- NEGA (R147)
  (∀ (u : SduId) (s : State),
      Safety.sduIssues u s →
      (isAop 5 ((s.sduAt u).ins (s.sduAt u).cur.pc.toNat)) →
      exec (.nega u) s = .next (Safety.sduIssued u s)) ∧
  -- ASH (R147)
  (∀ (u : SduId) (s : State),
      Safety.sduIssues u s →
      (isAop 6 ((s.sduAt u).ins (s.sduAt u).cur.pc.toNat)) →
      exec (.ash u) s = .next (Safety.sduIssued u s)) ∧
  -- LDA (R147)
  (∀ (u : SduId) (s : State),
      Safety.sduIssues u s →
      (isAop 7 ((s.sduAt u).ins (s.sduAt u).cur.pc.toNat)) →
      exec (.lda u) s = .next (Safety.sduIssued u s)) ∧
  -- ADDX (R147)
  (∀ (u : SduId) (s : State),
      Safety.sduIssues u s →
      (isAop 8 ((s.sduAt u).ins (s.sduAt u).cur.pc.toNat)) →
      exec (.addx u) s = .next (Safety.sduIssued u s)) ∧
  -- EXT (R135)
  (∀ (u : SduId) (s : State),
      Safety.sduIssues u s →
      (isAop 9 ((s.sduAt u).ins (s.sduAt u).cur.pc.toNat)) →
      exec (.ext u) s = .next (Safety.sduIssued u s)) ∧
  -- LCOMB (R147)
  (∀ (u : SduId) (s : State),
      Safety.sduIssues u s →
      (isAop 0xA ((s.sduAt u).ins (s.sduAt u).cur.pc.toNat)) →
      exec (.lcomb u) s = .next (Safety.sduIssued u s)) ∧
  -- LCOMBS (R147)
  (∀ (u : SduId) (s : State),
      Safety.sduIssues u s →
      (isAop 0xB ((s.sduAt u).ins (s.sduAt u).cur.pc.toNat)) →
      exec (.lcombs u) s = .next (Safety.sduIssued u s)) ∧
  -- CASCI (R156)
  (∀ (u : SduId) (s : State),
      Safety.sduIssues u s →
      (isAop 0xC ((s.sduAt u).ins (s.sduAt u).cur.pc.toNat)) →
      exec (.casci u) s = .next (Safety.sduIssued u s)) ∧
  -- CASCA (R156)
  (∀ (u : SduId) (s : State),
      Safety.sduIssues u s →
      (isAop 0xD ((s.sduAt u).ins (s.sduAt u).cur.pc.toNat)) →
      exec (.casca u) s = .next (Safety.sduIssued u s)) ∧
  -- CASCO (R156)
  (∀ (u : SduId) (s : State),
      Safety.sduIssues u s →
      (isAop 0xE ((s.sduAt u).ins (s.sduAt u).cur.pc.toNat)) →
      exec (.casco u) s = .next (Safety.sduIssued u s)) ∧
  -- MOVX (R147)
  (∀ (u : SduId) (s : State),
      Safety.sduIssues u s →
      (isAop 0xF ((s.sduAt u).ins (s.sduAt u).cur.pc.toNat)) →
      exec (.movx u) s = .next (Safety.sduIssued u s)) ∧
  -- MOVR (R147)
  (∀ (u : SduId) (s : State),
      Safety.sduIssues u s →
      (isAop 0x10 ((s.sduAt u).ins (s.sduAt u).cur.pc.toNat)) →
      exec (.movr u) s = .next (Safety.sduIssued u s)) ∧
  -- LDI (R147)
  (∀ (u : SduId) (s : State),
      Safety.sduIssues u s →
      (fld ((s.sduAt u).ins (s.sduAt u).cur.pc.toNat) 47 45 == 2) →
      exec (.ldi u) s = .next (Safety.sduIssued u s)) ∧
  -- BR (R152)
  (∀ (u : SduId) (s : State),
      Safety.sduIssues u s →
      (isCop 0 ((s.sduAt u).ins (s.sduAt u).cur.pc.toNat)) →
      exec (.br u) s = .next (Safety.sduIssued u s)) ∧
  -- LOOP (R150)
  (∀ (u : SduId) (s : State),
      Safety.sduIssues u s →
      (isCop 1 ((s.sduAt u).ins (s.sduAt u).cur.pc.toNat)) →
      exec (.loopOp u) s = .next (Safety.sduIssued u s)) ∧
  -- SLEEP (R153)
  (∀ (u : SduId) (s : State),
      Safety.sduIssues u s →
      (isCop 2 ((s.sduAt u).ins (s.sduAt u).cur.pc.toNat)) →
      exec (.sleep u) s = .next (Safety.sduIssued u s)) ∧
  -- HALT (R153)
  (∀ (u : SduId) (s : State),
      Safety.sduIssues u s →
      (isCop 3 ((s.sduAt u).ins (s.sduAt u).cur.pc.toNat)) →
      exec (.halt u) s = .next (Safety.sduIssued u s))

/-- Sector DSP unit: the fabric-driven operations: each command answers the next state its rule gives. One clause for each command, under its mnemonic
and the rule it follows: the conditions on operands and state under which the command has its effect, then the state that exec answers. -/
def Obligations.FabricDrivenVectorCommandsComplete : Prop :=
  -- FD_HOLD (R157)
  (∀ (u : SduId) (fa : BitVec 16) (fb : BitVec 16) (acc : Bool) (sgn : BitVec 2) (s : State),
      let q := s.sduAt u;
      (s.sduLive u && !q.seq) →
      exec (.fdHold u fa fb acc sgn) s = .next (
          let a := if acc then q.fd1 else q.fd0
          let v : BitVec 40 := a
          s.sduAtMod u (fun q => { q with
            fd0 := if acc then q.fd0 else v, fd1 := if acc then v else q.fd1, fp := (q.fdPipe.getD 2 none).getD q.fp, fdPipe := (some v :: q.fdPipe).take 3
            fdNew := true }))) ∧
  -- FD_MPY (R157)
  (∀ (u : SduId) (fa : BitVec 16) (fb : BitVec 16) (acc : Bool) (sgn : BitVec 2) (s : State),
      let q := s.sduAt u;
      (s.sduLive u && !q.seq) →
      exec (.fdMpy u fa fb acc sgn) s = .next (
          let a := if acc then q.fd1 else q.fd0
          let p := product sgn.toNat false fa fb
          let v : BitVec 40 := (mulValue 1 q.fdAsat a p).1
          s.sduAtMod u (fun q => { q with
            fd0 := if acc then q.fd0 else v, fd1 := if acc then v else q.fd1, fp := (q.fdPipe.getD 2 none).getD q.fp, fdPipe := (some v :: q.fdPipe).take 3
            fdNew := true }))) ∧
  -- FD_MAC (R157)
  (∀ (u : SduId) (fa : BitVec 16) (fb : BitVec 16) (acc : Bool) (sgn : BitVec 2) (s : State),
      let q := s.sduAt u;
      (s.sduLive u && !q.seq) →
      exec (.fdMac u fa fb acc sgn) s = .next (
          let a := if acc then q.fd1 else q.fd0
          let p := product sgn.toNat false fa fb
          let v : BitVec 40 := (mulValue 2 q.fdAsat a p).1
          s.sduAtMod u (fun q => { q with
            fd0 := if acc then q.fd0 else v, fd1 := if acc then v else q.fd1, fp := (q.fdPipe.getD 2 none).getD q.fp, fdPipe := (some v :: q.fdPipe).take 3
            fdNew := true }))) ∧
  -- FD_MSU (R157)
  (∀ (u : SduId) (fa : BitVec 16) (fb : BitVec 16) (acc : Bool) (sgn : BitVec 2) (s : State),
      let q := s.sduAt u;
      (s.sduLive u && !q.seq) →
      exec (.fdMsu u fa fb acc sgn) s = .next (
          let a := if acc then q.fd1 else q.fd0
          let p := product sgn.toNat false fa fb
          let v : BitVec 40 := (mulValue 3 q.fdAsat a p).1
          s.sduAtMod u (fun q => { q with
            fd0 := if acc then q.fd0 else v, fd1 := if acc then v else q.fd1, fp := (q.fdPipe.getD 2 none).getD q.fp, fdPipe := (some v :: q.fdPipe).take 3
            fdNew := true }))) ∧
  -- FD_MPYD (R157)
  (∀ (u : SduId) (fa : BitVec 16) (fb : BitVec 16) (acc : Bool) (sgn : BitVec 2) (s : State),
      let q := s.sduAt u;
      (s.sduLive u && !q.seq) →
      exec (.fdMpyd u fa fb acc sgn) s = .next (
          let a := if acc then q.fd1 else q.fd0
          let p := product2 sgn.toNat false fa fb
          let v : BitVec 40 := (mulValue 4 q.fdAsat a p).1
          s.sduAtMod u (fun q => { q with
            fd0 := if acc then q.fd0 else v, fd1 := if acc then v else q.fd1, fp := (q.fdPipe.getD 2 none).getD q.fp, fdPipe := (some v :: q.fdPipe).take 3
            fdNew := true }))) ∧
  -- FD_MACD (R157)
  (∀ (u : SduId) (fa : BitVec 16) (fb : BitVec 16) (acc : Bool) (sgn : BitVec 2) (s : State),
      let q := s.sduAt u;
      (s.sduLive u && !q.seq) →
      exec (.fdMacd u fa fb acc sgn) s = .next (
          let a := if acc then q.fd1 else q.fd0
          let p := product2 sgn.toNat false fa fb
          let v : BitVec 40 := (mulValue 5 q.fdAsat a p).1
          s.sduAtMod u (fun q => { q with
            fd0 := if acc then q.fd0 else v, fd1 := if acc then v else q.fd1, fp := (q.fdPipe.getD 2 none).getD q.fp, fdPipe := (some v :: q.fdPipe).take 3
            fdNew := true }))) ∧
  -- FD_CASCADE_MAC (R157)
  (∀ (u : SduId) (fa : BitVec 16) (fb : BitVec 16) (acc : Bool) (sgn : BitVec 2) (s : State),
      let q := s.sduAt u;
      (s.sduLive u && !q.seq) →
      exec (.fdCascadeMac u fa fb acc sgn) s = .next (
          let p := product sgn.toNat false fa fb
          let v : BitVec 40 := (acc40 q.fdAsat ((s.cascin u (s.nextCyc u)).toInt + p.toInt)).1
          s.sduAtMod u (fun q => { q with
            fd0 := if acc then q.fd0 else v, fd1 := if acc then v else q.fd1, fp := (q.fdPipe.getD 2 none).getD q.fp, fdPipe := (some v :: q.fdPipe).take 3
            fdNew := true }))) ∧
  -- FD_CLEAR (R157)
  (∀ (u : SduId) (fa : BitVec 16) (fb : BitVec 16) (acc : Bool) (sgn : BitVec 2) (s : State),
      let q := s.sduAt u;
      (s.sduLive u && !q.seq) →
      exec (.fdClear u fa fb acc sgn) s = .next (
          let v : BitVec 40 := 0
          s.sduAtMod u (fun q => { q with
            fd0 := if acc then q.fd0 else v, fd1 := if acc then v else q.fd1, fp := (q.fdPipe.getD 2 none).getD q.fp, fdPipe := (some v :: q.fdPipe).take 3
            fdNew := true })))

/-- Die links, part 1 of 3: bundles, boundaries and the sideband: each command answers the next state its rule gives. One clause for each command,
under its mnemonic and the rule it follows: the conditions on operands and state under which the command has its effect, then the state that exec
answers. -/
def Obligations.DieLinkCommandsComplete1 : Prop :=
  -- ADL_PAIR_RECEIVE (R268)
  (∀ (b0 : Fin 76) (slot0 : BitVec 288) (slot1 : BitVec 288) (r : BitVec 16) (s : State),
      let b : Nat := b0.val;
      let s0 : BitVec 288 := slot0;
      let s1 : BitVec 288 := slot1;
      let x := s.bundleAt b;
      x.works = true →
      exec (.adlPairReceive b0 slot0 slot1 r) s = .next (
          if pairCrc x.rxTag s0 s1 = r.toNat then
            let s := s.bundleAtMod b (fun x => { x with rxTag := x.rxTag + 1, nak := false, refused := 0, accepted := x.accepted + 1 })
            let s := rxTurn b (s.each [s0, s1] (fun f t => if isLinkFlit f then adlLinkFlitF b f t else bundleFlit b f t))
            s.when (s.bundleAt b).ackDue (sendAck b)
          else
            let s := s.bundleAtMod b (fun x => { x with crcErr := satInc x.crcErr })
            if x.nak && (List.range 256).any (fun t => pairCrc (BitVec.ofNat 8 t) s0 s1 == r.toNat) then s
            else
              let s := s.bundleAtMod b (fun x => { x with nak := true, refused := x.refused + 1 })
              if 4 ≤ x.refused + 1 then startRecovery b s else sendAck b s)) ∧
  -- ADL_LINK_FLIT (R270)
  (∀ (b0 : Fin 76) (f : BitVec 288) (s : State),
      let b : Nat := b0.val;
      isLinkFlit f = true → fld f 31 28 = 0xF →
      exec (.adlLinkFlit b0 f) s = .next (
          let a := fld f 23 17; let lane := fld f 80 74; let test := bit f 81; let stag : Byte := BitVec.ofNat 8 (fld f 95 88)
          let s := if a < 76 then steerSend a (s.bundleAtMod a (takeAck a (bit f 16) (BitVec.ofNat 8 (fld f 15 8)) (fld f 51 32))) else s
          match fld f 27 24 with
          | 1 => steerOutF b lane test stag s
          | 2 => steerInF b lane stag s
          | 3 => halfF b stag s
          | 4 => reqOutF (bundleRev b) lane test s
          | 5 => reqInF (bundleRev b) lane s
          | _ => s)) ∧
  -- ADL_REPLAY_TIMER (R271)
  (∀ (b0 : Fin 76) (s : State),
      let b : Nat := b0.val;
      let x := s.bundleAt b;
      x.works = true → x.unacked ≠ [] →
      exec (.adlReplayTimer b0) s = .next (
          let s := s.bundleAtMod b (fun x => { x with replays := satAdd x.replays x.unacked.length, expiries := x.expiries + 1, open1 := false })
          s.when (decide (4 ≤ x.expiries + 1)) (startRecovery b))) ∧
  -- ADL_RECOVERY (R272)
  (∀ (b : Fin 76) (s : State),
      (s.bundleAt b.val).works = true →
      exec (.adlRecovery b) s = .next (
          let s := s.bundleAtMod b.val (fun x => { x.settle with
            state := .recovery, wasHalf := x.state == .half, was := x.failed, recoveries := satInc x.recoveries, nak := false, refused := 0, expiries := 0 })
          s.each [true, false] (fun l t => sbSend (bundleBnd b.val) l 0x32 (bundleInBnd b.val) 0 0 t))) ∧
  -- ADL_RECOVERY_COMPLETE (R272)
  (∀ (b0 : Fin 76) (bad : BitVec 78) (third : Bool) (s : State),
      let b : Nat := b0.val;
      let x := s.bundleAt b;
      x.state = .recovery →
      exec (.adlRecoveryComplete b0 bad third) s = .next (
          let new := (List.range 78).filter (fun i => (x.failed ||| bad).getLsbD i && !x.was.getLsbD i)
          let s := s.bundleAtMod b (fun x => { x with failed := x.failed ||| bad })
          let s := s.each new (recordLane b)
          let w := s.widthFor b (x.failed ||| bad)
          let st : BndState := if third then .disabled else if w = .full ∧ x.wasHalf then .half else w
          let s := sendMaps b st s
          if st = .disabled then disableBundle b s
          else
            let s := s.bundleAtMod b (fun x => linkPump x.txLink.length { x with state := st })
            let s := raise 0x1B02 s
            let s := s.when (!new.isEmpty && st == .full) (raise 0x1B01)
            rltBegin b (s.when (st == .half && !x.wasHalf) (raise 0x2B03)))) ∧
  -- ADL_BND_DISABLE (R275)
  (∀ (b : Fin 76) (s : State),
      (s.bundleAt b.val).dead = false →
      exec (.adlBndDisable b) s = .next (disableBundle b.val s)) ∧
  -- ADL_BND_RECOVER (R272)
  (∀ (b : Fin 76) (s : State),
      (s.bundleAt b.val).works = true →
      exec (.adlBndRecover b) s = .next (
          let s := s.bundleAtMod b.val (fun x => { x.settle with
            state := .recovery, wasHalf := x.state == .half, was := x.failed, recoveries := satInc x.recoveries, nak := false, refused := 0, expiries := 0 })
          s.each [true, false] (fun l t => sbSend (bundleBnd b.val) l 0x32 (bundleInBnd b.val) 0 0 t))) ∧
  -- ADL_BND_ERR (R11)
  (∀ (b : Fin 76) (receiver : Bool) (insp : Bool) (s : State),
      exec (.adlBndErr b receiver insp) s = .next (State.readTo (adlBndErrRead b.val receiver insp s)))

/-- Die links, part 2 of 3: bundles, boundaries and the sideband: each command answers the next state its rule gives. One clause for each command,
under its mnemonic and the rule it follows: the conditions on operands and state under which the command has its effect, then the state that exec
answers. -/
def Obligations.DieLinkCommandsComplete2 : Prop :=
  -- KEEPALIVE (R277)
  (∀ (k : Fin 9) (toLeader : Bool) (f : BitVec 64) (s : State),
      ¬(!sbOk f || fld f 63 56 != 0 || !((s.bndAt k.val).sb toLeader).up) →
      exec (.keepalive k toLeader f) s = .next (s)) ∧
  -- ACK (R277)
  (∀ (k : Fin 9) (toLeader : Bool) (f : BitVec 64) (s : State),
      ¬(!sbOk f || fld f 63 56 != 1 || !((s.bndAt k.val).sb toLeader).up) →
      exec (.ack k toLeader f) s = .next (
          (sbEndMod k.val toLeader (fun e => { e with wait := e.wait.filter (fun w => fld w.1 51 48 != fld f 51 48) })) s)) ∧
  -- HELLO (R278)
  (∀ (k0 : Fin 9) (toLeader : Bool) (f : BitVec 64) (s : State),
      let k : Nat := k0.val;
      ¬(!sbOk f || fld f 63 56 != 0x10 || !((s.bndAt k).sb toLeader).up || !toLeader) →
      exec (.hello k0 toLeader f) s = .next (
          let s := sbEndMod k toLeader (fun e => { e with tx := e.tx ++ [sbFrame 1 0xF (fld f 51 48) 0 0] }) s
          (fun s =>
          let d := sbData f; let rate := max (d % 256) (if (sbArg f).testBit 3 then 0 else 1)
          if (s.bndAt k).step = 0 ∨ 2 < (s.bndAt k).step ∨ 2 < rate then s
          else
            let s := s.bndAtMod k (fun b => { b with
              step := 2, kind := BitVec.ofNat 16 (d / 65536), version := BitVec.ofNat 8 (d / 256), topRate := BitVec.ofNat 8 d, features := BitVec.ofNat 8 (sbArg f) })
            if d / 65536 = 3 ∧ 7 ≤ k then s.dieAtMod (bndFollower k) (fun x => { x with terminator := true, settled := true, dstate := 0 })
            else sendBootGo k rate s) s)) ∧
  -- BOOT_GO (R278)
  (∀ (k : Fin 9) (toLeader : Bool) (f : BitVec 64) (s : State),
      ¬(!sbOk f || fld f 63 56 != 0x11 || !((s.bndAt k.val).sb toLeader).up || toLeader) →
      exec (.bootGo k toLeader f) s = .next (
          let s := sbEndMod k.val toLeader (fun e => { e with tx := e.tx ++ [sbFrame 1 0xF (fld f 51 48) 0 0] }) s
          (trainStart k.val f) s)) ∧
  -- TRAIN_SYNC (R278)
  (∀ (k0 : Fin 9) (toLeader : Bool) (f : BitVec 64) (s : State),
      let k : Nat := k0.val;
      ¬(!sbOk f || fld f 63 56 != 0x12 || !((s.bndAt k).sb toLeader).up) →
      exec (.trainSync k0 toLeader f) s = .next (
          let s := sbEndMod k toLeader (fun e => { e with tx := e.tx ++ [sbFrame 1 0xF (fld f 51 48) 0 0] }) s
          (fun s =>
          let b := s.bndAt k
          if b.step = sbArg f ∧ 4 ≤ b.step ∧ b.step ≤ 9 ∧ sbData f % 2 = 1 then
            stepPassed k (s.bndAtMod k (fun b => if toLeader then { b with syncF := true } else { b with syncL := true }))
          else s) s)) ∧
  -- LANE_MAP (R278)
  (∀ (k0 : Fin 9) (toLeader : Bool) (f : BitVec 64) (s : State),
      let k : Nat := k0.val;
      ¬(!sbOk f || fld f 63 56 != 0x13 || !((s.bndAt k).sb toLeader).up) →
      exec (.laneMap k0 toLeader f) s = .next (
          let s := sbEndMod k toLeader (fun e => { e with tx := e.tx ++ [sbFrame 1 0xF (fld f 51 48) 0 0] }) s
          (fun s =>
          match sbBundle k f with
          | none => s
          | some b =>
            let m : BitVec 78 := bvOf 78 (fun i => (List.range 4).any (fun j => sbData f / 128 ^ j % 128 == i))
            if (s.bundleAt b).state == .recovery then s.bundleAtMod b (fun x => { x with failed := x.failed ||| m })
            else if (s.bundleAt b).state == .training then
              let s := s.bundleAtMod b (fun x => { x with
                failed := x.failed ||| m, wasHalf := x.wasHalf || (sbData f).testBit 28, state := if (sbData f).testBit 29 then .disabled else x.state })
              s.when ((s.bndAt k).step == 8) (spareWidth b)
            else s) s)) ∧
  -- CAP (R278)
  (∀ (k0 : Fin 9) (toLeader : Bool) (f : BitVec 64) (s : State),
      let k : Nat := k0.val;
      ¬(!sbOk f || fld f 63 56 != 0x14 || !((s.bndAt k).sb toLeader).up) →
      exec (.cap k0 toLeader f) s = .next (
          let s := sbEndMod k toLeader (fun e => { e with tx := e.tx ++ [sbFrame 1 0xF (fld f 51 48) 0 0] }) s
          (fun s =>
          if 4 ≤ sbArg f ∨ (s.bndAt k).step != 9 then s
          else stepPassed k (s.bndAtMod k (fun b => if toLeader then { b with capF := setBit b.capF (sbArg f) true, caps := sput 0 b.caps (sbArg f) (wd (sbData f)) }
            else { b with capL := setBit b.capL (sbArg f) true }))) s)) ∧
  -- JOINED (R278)
  (∀ (k0 : Fin 9) (toLeader : Bool) (f : BitVec 64) (bridgeFails : List (Bool × Fin 288 × Fin 33)) (s : State),
      let k : Nat := k0.val;
      ¬(!sbOk f || fld f 63 56 != 0x15 || !((s.bndAt k).sb toLeader).up || toLeader) →
      exec (.joined k0 toLeader f bridgeFails) s = .next (
          let s := sbEndMod k toLeader (fun e => { e with tx := e.tx ++ [sbFrame 1 0xF (fld f 51 48) 0 0] }) s
          (fun s =>
          if (s.bndAt k).step != 10 then s
          else
            let b := s.bndAt k
            let s := linkStart k (s.bndAtMod k (fun b => { b with step := 11 }))
            let slow := (b.rate != 0 || decide (b.version.toNat < 2)) && !b.slowNoticed
            let s := s.when slow (fun t => raise 0x2B05 (t.bndAtMod k (fun b => { b with slowNoticed := true })))
            let s := s.when (boundaryLost k s) (fun s => s.each (bndBundles k) disableOne)
            if k < 3 then bridgeTest k (bridgeFails.map (fun x => (x.1, x.2.1.val, x.2.2.val))) (bndRoutes k s)
            else if boundaryLost k s || b.rejoin || (s.dieAt (bndFollower k)).dstate == 0 then s
            else
              let d := bndFollower k
              let s := s.dieAtMod d (fun x => { x with dstate := 2, settled := true, joinedOnce := true })
              let s := joinRoutes s
              s.each ((neighbourBnds s d).filter (fun j => (s.bndAt j).step == 0)) (fun j t => endBreak j false t)) s)) ∧
  -- PWR_REQ (R284)
  (∀ (k : Fin 9) (toLeader : Bool) (f : BitVec 64) (s : State),
      ¬(!sbOk f || fld f 63 56 != 0x20 || !((s.bndAt k.val).sb toLeader).up || toLeader) →
      exec (.pwrReq k toLeader f) s = .next (
          let s := sbEndMod k.val toLeader (fun e => { e with tx := e.tx ++ [sbFrame 1 0xF (fld f 51 48) 0 0] }) s
          (fun s => s.when (decide (k.val < 7)) (sbSend k.val false 0x21 0xF 0 (sbArg f))) s)) ∧
  -- PWR_ACK (R284)
  (∀ (k : Fin 9) (toLeader : Bool) (f : BitVec 64) (s : State),
      ¬(!sbOk f || fld f 63 56 != 0x21 || !((s.bndAt k.val).sb toLeader).up || !toLeader) →
      exec (.pwrAck k toLeader f) s = .next (
          let s := sbEndMod k.val toLeader (fun e => { e with tx := e.tx ++ [sbFrame 1 0xF (fld f 51 48) 0 0] }) s
          (State.bndAtMod k.val (fun b => { b with pwrReq := none, pwrVote := none })) s)) ∧
  -- PWR_DENY (R284)
  (∀ (k : Fin 9) (toLeader : Bool) (f : BitVec 64) (s : State),
      ¬(!sbOk f || fld f 63 56 != 0x22 || !((s.bndAt k.val).sb toLeader).up || !toLeader) →
      exec (.pwrDeny k toLeader f) s = .next (
          let s := sbEndMod k.val toLeader (fun e => { e with tx := e.tx ++ [sbFrame 1 0xF (fld f 51 48) 0 0] }) s
          (State.bndAtMod k.val (fun b =>
          if b.pwrReq.isSome then { b with pwrReq := none, pwrVote := some (BitVec.ofNat 4 (sbArg f)) } else b)) s)) ∧
  -- PWR_REQ_TIMEOUT (R284)
  (∀ (k : Fin 9) (s : State),
      exec (.pwrReqTimeout k) s = .next (
          s.bndAtMod k.val (fun b => if b.pwrReq.isSome then { b with pwrReq := none, pwrVote := some 0 } else b))) ∧
  -- SIDEBAND_FENCE (R282)
  (∀ (k : Fin 9) (toLeader : Bool) (f : BitVec 64) (s : State),
      ¬(!sbOk f || fld f 63 56 != 0x30 || !((s.bndAt k.val).sb toLeader).up) →
      exec (.sidebandFence k toLeader f) s = .next (
          let s := sbEndMod k.val toLeader (fun e => { e with tx := e.tx ++ [sbFrame 1 0xF (fld f 51 48) 0 0] }) s
          (fun s => s.when (toLeader && decide (3 ≤ k.val)) (fenceDie (bndFollower k.val) 3)) s)) ∧
  -- REJOIN (R283)
  (∀ (k : Fin 9) (toLeader : Bool) (f : BitVec 64) (s : State),
      ¬(!sbOk f || fld f 63 56 != 0x31 || !((s.bndAt k.val).sb toLeader).up || toLeader) →
      exec (.rejoin k toLeader f) s = .next (
          let s := sbEndMod k.val toLeader (fun e => { e with tx := e.tx ++ [sbFrame 1 0xF (fld f 51 48) 0 0] }) s
          (trainStart k.val f) s))

/-- Die links, part 3 of 3: bundles, boundaries and the sideband: each command answers the next state its rule gives. One clause for each command,
under its mnemonic and the rule it follows: the conditions on operands and state under which the command has its effect, then the state that exec
answers. -/
def Obligations.DieLinkCommandsComplete3 : Prop :=
  -- RECOVER (R272)
  (∀ (k : Fin 9) (toLeader : Bool) (f : BitVec 64) (s : State),
      ¬(!sbOk f || fld f 63 56 != 0x32 || !((s.bndAt k.val).sb toLeader).up) →
      exec (.recover k toLeader f) s = .next (
          let s := sbEndMod k.val toLeader (fun e => { e with tx := e.tx ++ [sbFrame 1 0xF (fld f 51 48) 0 0] }) s
          (fun s => match sbBundle k.val f with | some b => startRecovery b s | none => s) s)) ∧
  -- DISABLE (R275)
  (∀ (k : Fin 9) (toLeader : Bool) (f : BitVec 64) (s : State),
      ¬(!sbOk f || fld f 63 56 != 0x33 || !((s.bndAt k.val).sb toLeader).up) →
      exec (.disable k toLeader f) s = .next (
          let s := sbEndMod k.val toLeader (fun e => { e with tx := e.tx ++ [sbFrame 1 0xF (fld f 51 48) 0 0] }) s
          (fun s => match sbBundle k.val f with
          | some b => if (s.bundleAt b).dead then s else disableBundle b s
          | none => s) s)) ∧
  -- NOTICE (R392)
  (∀ (k : Fin 9) (toLeader : Bool) (f : BitVec 64) (s : State),
      ¬(!sbOk f || fld f 63 56 != 0x40 || !((s.bndAt k.val).sb toLeader).up || !toLeader) →
      exec (.notice k toLeader f) s = .next (
          let s := sbEndMod k.val toLeader (fun e => { e with tx := e.tx ++ [sbFrame 1 0xF (fld f 51 48) 0 0] }) s
          (fun s => s.when (decide (7 ≤ k.val)) (raiseFrom (k.val - 2) (sbData f % 65536))) s)) ∧
  -- SB_RESEND_TIMER (R277)
  (∀ (k0 : Fin 9) (fromLeader : Bool) (s : State),
      let k : Nat := k0.val;
      exec (.sbResendTimer k0 fromLeader) s = .next (
          match ((s.bndAt k).sb fromLeader).wait with
          | [] => s
          | (f, n) :: rest =>
            if 8 ≤ n then sbFail k s
            else sbEndMod k fromLeader (fun e => { e with wait := (f, n + 1) :: rest, resend := satInc e.resend, tx := e.tx ++ [f] }) s)) ∧
  -- SB_KEEPALIVE_TIMER (R277)
  (∀ (k : Fin 9) (fromLeader : Bool) (s : State),
      exec (.sbKeepaliveTimer k fromLeader) s = .next (sbSend k.val fromLeader 0 0xF 0 0 s)) ∧
  -- SB_FAIL (R277)
  (∀ (k : Fin 9) (s : State),
      exec (.sbFail k) s = .next (sbFail k.val s)) ∧
  -- SB_BREAK (R276)
  (∀ (k0 : Fin 9) (cycles : Nat) (s : State),
      let k : Nat := k0.val;
      ¬(cycles < 2000) →
      exec (.sbBreak k0 cycles) s = .next (
          let s := stopBnd k s
          if 3 ≤ k then dieReset (bndFollower k) (s.dieAtMod (bndFollower k) (fun x => { x with dstate := if x.dstate = 3 then 3 else 0 })) else s)) ∧
  -- JOIN_STEP_TIMEOUT (R278)
  (∀ (k0 : Fin 9) (s : State),
      let k : Nat := k0.val;
      let b := s.bndAt k;
      (3 ≤ b.step ∧ b.step ≤ 10) →
      exec (.joinStepTimeout k0) s = .next (
          sendBootGo k (min 2 (b.rate.toNat + 1)) (s.bndAtMod k (fun b => { b with capL := 0, capF := 0, retrain := false })))) ∧
  -- DIE_FENCE (R282)
  (∀ (d : Fin 7) (cause : BitVec 4) (s : State),
      exec (.dieFence d cause) s = .next (fenceDie d.val cause.toNat s)) ∧
  -- DIE_REJOIN (R283)
  (∀ (d0 : Fin 7) (thrice : Bool) (s : State),
      ¬(d0.val = 0) →
      let d : Nat := d0.val;
      exec (.dieRejoin d0 thrice) s = .next (
          let x := s.dieAt d
          if x.dstate = 3 then
            if thrice then s.dieAtMod d (fun x => { x with gaveUp := true })
            else if s.clocksBack d && (decide (4 < d) || s.pwr.good.getLsbD 3) then rejoinStart d (clocksReturn d s) else s
          else if x.dstate = 1 ∧ (s.bndAt (hubBnd d)).rejoin ∧ (s.bndAt (hubBnd d)).step = 11 ∧ !boundaryLost (hubBnd d) s then rejoinEnd d s
          else s)) ∧
  -- ADL_FENCE_DIE (R282)
  (∀ (d0 : BitVec 3) (s : State),
      let d : Nat := d0.toNat;
      (1 ≤ d ∧ d ≤ 6) →
      exec (.adlFenceDie d0) s = .next (fenceDie d 4 s)) ∧
  -- ADL_FENCE_REJOIN (R283, R435)
  (∀ (d0 : BitVec 3) (s : State),
      let d : Nat := d0.toNat;
      (1 ≤ d ∧ d ≤ 6 ∧ (s.dieAt d).dstate = 3) →
      exec (.adlFenceRejoin d0) s = .next (
          let s := s.dieAtMod d (fun x => { x with gaveUp := false })
          if s.clocksBack d && (decide (4 < d) || s.pwr.good.getLsbD 3) then rejoinStart d (clocksReturn d s) else s)) ∧
  -- ADL_SB_STATUS (R11)
  (∀ (die : Fin 5) (k : Fin 9) (insp : Bool) (s : State),
      (bndLeader k.val = die.val ∨ bndFollower k.val = die.val) →
      exec (.adlSbStatus die k insp) s = .next (State.readTo (adlSbStatusRead die.val k.val insp s))) ∧
  -- ADL_ACK_TIMER (R270)
  (∀ (b : Fin 76) (s : State),
      exec (.adlAckTimer b) s = .next (s.when ((s.bundleAt b.val).works && (s.bundleAt b.val).ackPending) (sendAck b.val)))

/-- Transceiver lanes and PCIe, part 1 of 2: each command answers the next state its rule gives. One clause for each command, under its mnemonic and
the rule it follows: the conditions on operands and state under which the command has its effect, then the state that exec answers. -/
def Obligations.LaneCommandsComplete1 : Prop :=
  -- LANE_PORT_ENABLE (R291)
  (∀ (l : LaneId) (s : State),
      (laneExists l) →
      let x := s.laneAt l;
      (x.state == .off && (x.owner == 0 || x.owner == 3)) →
      exec (.lanePortEnable l) s = .next (s.laneAtMod l Lane.enable)) ∧
  -- LANE_PORT_DISABLE (R291)
  (∀ (l : LaneId) (s : State),
      (laneExists l) →
      exec (.lanePortDisable l) s = .next (
          let s' := match s.laneSpan l with | some k => spanDown k s | none => s
          s'.laneAtMod l Lane.idle)) ∧
  -- LANE_DETECT_TIMER (R291)
  (∀ (l : LaneId) (s : State),
      (laneExists l) →
      ((s.laneAt l).state == .detect) →
      exec (.laneDetectTimer l) s = .next (s.laneAtMod l (fun x => { x with stepped := true }))) ∧
  -- LANE_FAR_END_DETECT (R291)
  (∀ (l : LaneId) (s : State),
      (laneExists l) →
      ((s.laneAt l).state == .detect) →
      exec (.laneFarEndDetect l) s = .next (
          s.laneAtMod l (fun x => { x with state := .train, tsRun := 0, ts2Run := 0, stepped := false }))) ∧
  -- TS1 (R290)
  (∀ (l : LaneId) (t : List Byte) (s : State),
      (t.length = 16) →
      (laneExists l) →
      exec (.ts1 l t) s = .next (trainSet l false t s)) ∧
  -- TS2 (R290)
  (∀ (l : LaneId) (t : List Byte) (s : State),
      (t.length = 16) →
      (laneExists l) →
      exec (.ts2 l t) s = .next (trainSet l true t s)) ∧
  -- LANE_TRAIN_TIMEOUT (R291)
  (∀ (l : LaneId) (s : State),
      (laneExists l) →
      ((s.laneAt l).state == .train) →
      exec (.laneTrainTimeout l) s = .next (bringFail l s)) ∧
  -- LANE_EXCHANGE_TIMEOUT (R291)
  (∀ (l : LaneId) (s : State),
      (laneExists l) →
      ((s.laneAt l).state == .exchange) →
      exec (.laneExchangeTimeout l) s = .next (bringFail l s)) ∧
  -- LANE_SYNC_LOSS (R294)
  (∀ (l : LaneId) (errs : Nat) (s : State),
      (laneExists l) →
      ((s.laneAt l).state == .active) →
      exec (.laneSyncLoss l errs) s = .next (
          s.laneAtMod l (fun x => { x with
            state := .realign, lost := true, symLock := false, realigns := satInc x.realigns, codeErr := satAdd x.codeErr errs }))) ∧
  -- LANE_SYMBOL_LOCK (R291)
  (∀ (l : LaneId) (s : State),
      (laneExists l) →
      let x := s.laneAt l;
      ((x.pcsFed || x.pcs == 0) && (x.state == .blind || x.state == .realign || (x.state == .train && x.pcs == 4))) →
      exec (.laneSymbolLock l) s = .next ((s.laneAtMod l Lane.activate).when (x.state == .train) (firTrained l))) ∧
  -- LANE_REALIGN_TIMEOUT (R291)
  (∀ (l : LaneId) (s : State),
      (laneExists l) →
      let x := s.laneAt l;
      (x.state == .realign && x.trained) →
      exec (.laneRealignTimeout l) s = .next (lanePortDown l (s.laneAtMod l Lane.toDetect))) ∧
  -- ETH_FEC_CODEWORD (R296)
  (∀ (l : LaneId) (n : Nat) (s : State),
      (laneExists l) →
      let x := s.laneAt l;
      ¬(x.pcs ≠ 4 ∨ x.state != .active ∨ n = 0) →
      exec (.ethFecCodeword l n) s = .next (
          if n ≤ 15 then s.laneAtMod l (fun x => { x with fecCorr := satInc x.fecCorr })
          else raiseFrom l.die.val 0x3C04 (s.laneAtMod l (fun x => { x with fecUncorr := satInc x.fecUncorr })))) ∧
  -- LN_PRBS_CLR (R303)
  (∀ (l : LaneId) (s : State),
      (laneExists l) →
      exec (.lnPrbsClr l) s = .next (s.laneAtMod l (fun x => { x with prbsErr := 0, prbsBits := 0 }))) ∧
  -- LN_PRBS_TX_EN (R303)
  (∀ (l : LaneId) (on : Bool) (s : State),
      (laneExists l) →
      exec (.lnPrbsTxEn l on) s = .next (
          if s.laneLinked l then s.laneAtMod l (fun x => { x with wrIgn := true })
          else (s.laneAtMod l (fun x => { x with prbsTx := on })).when (on && !(s.laneAt l).prbsTx) (testDown l))) ∧
  -- LN_PRBS_RX_EN (R303)
  (∀ (l : LaneId) (on : Bool) (s : State),
      (laneExists l) →
      exec (.lnPrbsRxEn l on) s = .next (
          if s.laneLinked l then s.laneAtMod l (fun x => { x with wrIgn := true })
          else (s.laneAtMod l (fun x => { x with prbsRx := on, prbsLock := x.prbsLock && on })).when (on && !(s.laneAt l).prbsRx) (testDown l)))

/-- Transceiver lanes and PCIe, part 2 of 2: each command answers the next state its rule gives. One clause for each command, under its mnemonic and
the rule it follows: the conditions on operands and state under which the command has its effect, then the state that exec answers. -/
def Obligations.LaneCommandsComplete2 : Prop :=
  -- LN_LPBK (R306)
  (∀ (l : LaneId) (v : BitVec 2) (s : State),
      (laneExists l) →
      exec (.lnLpbk l v) s = .next (
          if s.laneLinked l then s.laneAtMod l (fun x => { x with wrIgn := true })
          else (s.laneAtMod l (fun x => { x with lpbk := v })).when ((v == 1 || v == 2) && (s.laneAt l).lpbk != v) (testDown l))) ∧
  -- LN_ADAPT_HOLD (R298)
  (∀ (l : LaneId) (on : Bool) (s : State),
      (laneExists l) →
      exec (.lnAdaptHold l on) s = .next (s.laneAtMod l (fun x => { x with adaptHold := on }))) ∧
  -- LN_PRBS_ERR_LO (R304)
  (∀ (l : LaneId) (insp : Bool) (s : State),
      (laneExists l) →
      exec (.lnPrbsErrLo l insp) s = .next (State.readTo (lnPrbsErrLoRead l insp s))) ∧
  -- LN_CODE_ERR (R11)
  (∀ (l : LaneId) (insp : Bool) (s : State),
      (laneExists l) →
      exec (.lnCodeErr l insp) s = .next (State.readTo (lnCodeErrRead l insp s))) ∧
  -- LN_FEC (R11)
  (∀ (l : LaneId) (insp : Bool) (s : State),
      (laneExists l) →
      exec (.lnFec l insp) s = .next (State.readTo (lnFecRead l insp s))) ∧
  -- LN_HELD (R11)
  (∀ (l : LaneId) (insp : Bool) (s : State),
      (laneExists l) →
      exec (.lnHeld l insp) s = .next (State.readTo (lnHeldRead l insp s))) ∧
  -- EYE_SCAN_GO (R305)
  (∀ (l : LaneId) (w : Word) (s : State),
      (laneExists l) →
      exec (.eyeScanGo l w) s = .next (
          let x := s.laneAt l
          s.laneAtMod l (fun y => { y with
            eyeCtrl := w &&& 0x00FFF03F, wrIgn := y.wrIgn || (bit w 31 && x.eyeBusy), eyeBusy := x.eyeBusy || bit w 31
            eyeDone := y.eyeDone && !(bit w 31 && !x.eyeBusy) }))) ∧
  -- EYE_SCAN_DONE (R305)
  (∀ (l : LaneId) (count : BitVec 31) (s : State),
      (laneExists l) →
      ((s.laneAt l).eyeBusy) →
      exec (.eyeScanDone l count) s = .next (s.laneAtMod l (fun x => { x with eyeBusy := false, eyeDone := true, eyeCount := count }))) ∧
  -- PCIE_LINK_UP (R299)
  (∀ (c0 : Fin 2) (width : BitVec 5) (gen : BitVec 3) (s : State),
      let c : Nat := c0.val;
      ((s.pcieAt c).enabled && s.mode != .greenware) →
      exec (.pcieLinkUp c0 width gen) s = .next (
          let s := s.pcieMod c (fun x => { x with up := true, width := width, gen := gen, ltssm := Config.ltssm 1, inL1 := false })
          let s := s.each (linkLanes c width.toNat) (fun l t => firTrained l (t.laneAtMod l (fun x => { x.activate with enabled := true, rate := wd (pcieRate gen.toNat) })))
          s.when (decide (width.toNat < pcieLanes (s.setting 4) (s.setting 20) c) || decide (gen.toNat < fld (s.setting 4) (4 + 16 * c) (2 + 16 * c))) (raise 0x2C02))) ∧
  -- PCIE_LINK_DOWN (R496)
  (∀ (c0 : Fin 2) (s : State),
      let c : Nat := c0.val;
      ((s.pcieAt c).up) →
      exec (.pcieLinkDown c0) s = .next (
          (pcieDown c s).each (linkLanes c 16) (fun l t => if (t.laneAt l).owner = 1 + c then t.laneAtMod l (fun x => { x.idle with lost := x.lost || x.state == .active }) else t))) ∧
  -- PCIE_INBOUND_REQUEST (R301)
  (∀ (c0 : Fin 2) (bar0 : BitVec 3) (off0 : BitVec 40) (len0 : Byte) (write : Bool) (data : List (BitVec 256)) (ep : Bool) (s : State),
      (!write || data.length == dataFlits off0.toNat len0.toNat) →
      let c : Nat := c0.val;
      let bar : Nat := bar0.toNat;
      let off : Nat := off0.toNat;
      let len : Nat := len0.toNat;
      ¬(!(s.pcieAt c).up) →
      exec (.pcieInboundRequest c0 bar0 off0 len0 write data ep) s = .next (
          let s := pcieL1ExitF c s; let x := s.pcieAt c
          let refuse (k : Completion) (s : State) : State := if write then s else pcieComplete c k s
          if s.pcieMode c ≠ 1 then refuse .unsupported s
          else if bar = 0 ∧ c = 0 ∧ off + len + 1 ≤ 0x10000 then
            if write then (if ep then s else mbxWrite off (len + 1) data s) else pcieComplete c (.data (mbxRead off (len + 1) s) false) s
          else if bar = 2 ∧ off + len + 1 ≤ 2 ^ x.lsizeEff.toNat then
            if s.mode == .cooling then refuse .abort s
            else retire (pciePort c) (s.pcieMod c (fun x => { x with waiting := x.waiting ++
              [{ write := write, addr := BitVec.ofNat 64 (x.winBase + off), len := BitVec.ofNat 8 len, data := if write then data else [], ep := ep }] }))
          else refuse .unsupported s)) ∧
  -- PCIE_L1_EXIT (R496)
  (∀ (c0 : Fin 2) (s : State),
      let c : Nat := c0.val;
      ((s.pcieAt c).up && (s.pcieAt c).inL1) →
      exec (.pcieL1Exit c0) s = .next (
          (s.pcieMod c (fun x => { x with inL1 := false, ltssm := Config.ltssm 1 })).when (s.mode == .resting) (wake 4))) ∧
  -- PCIE_CFGDATA (R302)
  (∀ (c0 : Fin 2) (write : Option Word) (completion : Option Word) (insp : Bool) (s : State),
      let c : Nat := c0.val;
      exec (.pcieCfgdata c0 write completion insp) s = .next (
          let r := pcieCfgAccess c write completion insp s
          if write.isSome then r.2 else State.readTo r)) ∧
  -- PCIE_OUTBOUND_ACCESS (R302)
  (∀ (c0 : Fin 2) (off0 : BitVec 18) (write : Option Word) (completion : Option Word) (s : State),
      let c : Nat := c0.val;
      let off : Nat := off0.toNat;
      exec (.pcieOutboundAccess c0 off0 write completion) s = .next (
          let r := pcieOutbound c off write completion s
          if write.isSome then r.2 else State.readTo r))

/-- Span link, part 1 of 2: frames, ports, routes and errors: each command answers the next state its rule gives. One clause for each command, under
its mnemonic and the rule it follows: the conditions on operands and state under which the command has its effect, then the state that exec answers.
-/
def Obligations.SpanLinkCommandsComplete1 : Prop :=
  -- SPAN_PORT_UP (R308)
  (∀ (k0 : Fin 12) (s : State),
      let k : Nat := k0.val;
      let p := s.portAt k;
      let c := s.reg 0 (blkSpn + 0x100 + 0x40 * k);
      let lanes := (List.range 4).all (fun i => (s.laneAt (laneOf 0 (4 * k + i))).state == .active);
      (s.span.portEn.getLsbD k && s.xcvr.spanPorts.getLsbD k && (p.state == .bringUp || p.state == .deskew || p.state == .down) && p.deskewed && lanes) →
      exec (.spanPortUp k0) s = .next (
          if bit c 31 && (s.slotAt (fld c 29 24)).state != 2 then s.portAtMod k (fun p => { p with state := .down }) else
          let bound := bit c 31 && p.boundSlot != some (BitVec.ofNat 6 (fld c 29 24))
          let s := s.portAtMod k (fun p => { p with
            state := .up, txSeq := 0, rxSeq := 0, unacked := [], txQ := [], txU := [], used := [], freed := [], accepted := 0, nak := false, asm := []
            txGroup := [], rxGroup := [], encOn := bit c 31, wasDown := false
            boundSlot := if bit c 31 then some (BitVec.ofNat 6 (fld c 29 24)) else none
            txCtr := if bound then 0 else p.txCtr })
          s.when p.wasDown (raise (0x0D20 + k)))) ∧
  -- SPAN_PROGRESS_TIMEOUT (R321)
  (∀ (k0 : Fin 12) (s : State),
      let k : Nat := k0.val;
      ((s.portAt k).state == .up && (!(s.portAt k).unacked.isEmpty || !(s.portAt k).txQ.isEmpty)) →
      exec (.spanProgressTimeout k0) s = .next (spanDown k s)) ∧
  -- AOS (R310)
  (∀ (k0 : Fin 12) (aligned : Bool) (s : State),
      let k : Nat := k0.val;
      let lanes := (List.range 4).all (fun i => (s.laneAt (laneOf 0 (4 * k + i))).state == .active);
      (lanes) →
      exec (.aos k0 aligned) s = .next (
          s.portAtMod k (fun p => { p with
            deskewed := aligned, state := if p.state == .bringUp || p.state == .down then .deskew else p.state }))) ∧
  -- REQ (R315)
  (∀ (k0 : Fin 12) (f : List Word) (s : State),
      (f.length = 16) →
      let k : Nat := k0.val;
      ((s.portAt k).state = .up) →
      (frGood f && (s.portAt k).deskewed) →
      (frType f = 1) →
      let s1 := frameAck k f s;
      ((s1.portAt k).state = .up) →
      (frSeq f = (s1.portAt k).rxSeq.toNat) →
      exec (.req k0 f) s = .next (
          let s := s1.portAtMod k (fun p => { p with rxSeq := p.rxSeq + 1, nak := false, accepted := p.accepted + 1 })
          let s := if (s.portAt k).encOn then s.portAtMod k (fun p => { p with rxGroup := p.rxGroup ++ [f] })
            else deliverFrame k f (freeBuf k (s.rxVc k f) s)
          if 16 ≤ (s.portAt k).accepted then sendLink k s else s)) ∧
  -- RSP (R315)
  (∀ (k0 : Fin 12) (f : List Word) (s : State),
      (f.length = 16) →
      let k : Nat := k0.val;
      ((s.portAt k).state = .up) →
      (frGood f && (s.portAt k).deskewed) →
      (frType f = 2) →
      let s1 := frameAck k f s;
      ((s1.portAt k).state = .up) →
      (frSeq f = (s1.portAt k).rxSeq.toNat) →
      exec (.rsp k0 f) s = .next (
          let s := s1.portAtMod k (fun p => { p with rxSeq := p.rxSeq + 1, nak := false, accepted := p.accepted + 1 })
          let s := if (s.portAt k).encOn then s.portAtMod k (fun p => { p with rxGroup := p.rxGroup ++ [f] })
            else deliverFrame k f (freeBuf k (s.rxVc k f) s)
          if 16 ≤ (s.portAt k).accepted then sendLink k s else s)) ∧
  -- DATA (R311)
  (∀ (k0 : Fin 12) (f : List Word) (s : State),
      (f.length = 16) →
      let k : Nat := k0.val;
      ((s.portAt k).state = .up) →
      (frGood f && (s.portAt k).deskewed) →
      (frType f = 3) →
      let s1 := frameAck k f s;
      ((s1.portAt k).state = .up) →
      (frSeq f = (s1.portAt k).rxSeq.toNat) →
      exec (.data k0 f) s = .next (
          let s := s1.portAtMod k (fun p => { p with rxSeq := p.rxSeq + 1, nak := false, accepted := p.accepted + 1 })
          let s := if (s.portAt k).encOn then s.portAtMod k (fun p => { p with rxGroup := p.rxGroup ++ [f] })
            else deliverFrame k f (freeBuf k (s.rxVc k f) s)
          if 16 ≤ (s.portAt k).accepted then sendLink k s else s)) ∧
  -- CMD (R319)
  (∀ (k0 : Fin 12) (f : List Word) (s : State),
      (f.length = 16) →
      let k : Nat := k0.val;
      ((s.portAt k).state = .up) →
      (frGood f && (s.portAt k).deskewed) →
      (frType f = 5) →
      let s1 := frameAck k f s;
      ((s1.portAt k).state = .up) →
      (frSeq f = (s1.portAt k).rxSeq.toNat) →
      exec (.cmd k0 f) s = .next (
          let s := s1.portAtMod k (fun p => { p with rxSeq := p.rxSeq + 1, nak := false, accepted := p.accepted + 1 })
          let s := if (s.portAt k).encOn then s.portAtMod k (fun p => { p with rxGroup := p.rxGroup ++ [f] })
            else deliverFrame k f (freeBuf k (s.rxVc k f) s)
          if 16 ≤ (s.portAt k).accepted then sendLink k s else s)) ∧
  -- TRIG (R320)
  (∀ (k0 : Fin 12) (f : List Word) (s : State),
      (f.length = 16) →
      let k : Nat := k0.val;
      ((s.portAt k).state = .up) →
      (frGood f && (s.portAt k).deskewed) →
      (frType f = 6) →
      let s1 := frameAck k f s;
      ((s1.portAt k).state = .up) →
      (frSeq f = (s1.portAt k).rxSeq.toNat) →
      exec (.trig k0 f) s = .next (
          let s := s1.portAtMod k (fun p => { p with rxSeq := p.rxSeq + 1, nak := false, accepted := p.accepted + 1 })
          let s := if (s.portAt k).encOn then s.portAtMod k (fun p => { p with rxGroup := p.rxGroup ++ [f] })
            else deliverFrame k f (freeBuf k (s.rxVc k f) s)
          if 16 ≤ (s.portAt k).accepted then sendLink k s else s)) ∧
  -- ALIGN (R324)
  (∀ (k0 : Fin 12) (f : List Word) (s : State),
      (f.length = 16) →
      let k : Nat := k0.val;
      ((s.portAt k).state = .up) →
      (frGood f && (s.portAt k).deskewed) →
      (frType f = 8) →
      let s1 := frameAck k f s;
      ((s1.portAt k).state = .up) →
      (markOk k f s1) →
      exec (.align k0 f) s = .next (takeMark k f s1)) ∧
  -- PROBE (R323)
  (∀ (k0 : Fin 12) (f : List Word) (turnaround : BitVec 48) (s : State),
      (f.length = 16) →
      let k : Nat := k0.val;
      ((s.portAt k).state = .up) →
      (frGood f && (s.portAt k).deskewed) →
      (frType f = 9) →
      let s1 := frameAck k f s;
      ((s1.portAt k).state = .up) →
      (markOk k f s1) →
      exec (.probe k0 f turnaround) s = .next (
          spanSendU k (mkFrame 0xA (frSdev f) s1.devId (s1.ttlInit k) ([wordAt f 2, wordAt f 3] ++ natWords turnaround.toNat 2)) s1)) ∧
  -- ECHO (R323)
  (∀ (k0 : Fin 12) (f : List Word) (t4 : BitVec 48) (s : State),
      (f.length = 16) →
      let k : Nat := k0.val;
      ((s.portAt k).state = .up) →
      (frGood f && (s.portAt k).deskewed) →
      (frType f = 0xA) →
      let s1 := frameAck k f s;
      ((s1.portAt k).state = .up) →
      (markOk k f s1) →
      exec (.echo k0 f t4) s = .next (
          let t1 : BitVec 48 := BitVec.ofNat 48 (wordsNat ((f.drop 2).take 2)); let ta : BitVec 48 := BitVec.ofNat 48 (wordsNat ((f.drop 4).take 2))
          s1.portAtMod k (fun p => { p with delays := ((t4 - t1 - ta) >>> 1 :: p.delays).take 16 }))) ∧
  -- TAG (R326)
  (∀ (k0 : Fin 12) (f : List Word) (s : State),
      (f.length = 16) →
      let k : Nat := k0.val;
      ((s.portAt k).state = .up) →
      (frGood f && (s.portAt k).deskewed) →
      (frType f = 0xB) →
      let s1 := frameAck k f s;
      ((s1.portAt k).state = .up) →
      (frSeq f = (s1.portAt k).rxSeq.toNat) →
      exec (.tag k0 f) s = .next (
          let s := s1.portAtMod k (fun p => { p with rxSeq := p.rxSeq + 1, nak := false, accepted := p.accepted + 1 })
          let s := takeTag k f s
          if 16 ≤ (s.portAt k).accepted then sendLink k s else s)) ∧
  -- LINK (R312)
  (∀ (k0 : Fin 12) (f : List Word) (s : State),
      (f.length = 16) →
      let k : Nat := k0.val;
      ((s.portAt k).state = .up) →
      (frGood f && (s.portAt k).deskewed) →
      (frType f = 0xF) →
      exec (.link k0 f) s = .next (frameAck k f s))

/-- Span link, part 2 of 2: frames, ports, routes and errors: each command answers the next state its rule gives. One clause for each command, under
its mnemonic and the rule it follows: the conditions on operands and state under which the command has its effect, then the state that exec answers.
-/
def Obligations.SpanLinkCommandsComplete2 : Prop :=
  -- DELIVER (R388)
  (∀ (k0 : Fin 12) (f : List Word) (s : State),
      (f.length = 16) →
      let k : Nat := k0.val;
      ((s.portAt k).state = .up) →
      (frGood f && (s.portAt k).deskewed) →
      (frType f = 4) →
      let s1 := frameAck k f s;
      ((s1.portAt k).state = .up) →
      (frSeq f = (s1.portAt k).rxSeq.toNat) →
      exec (.deliver k0 f) s = .next (
          let s := s1.portAtMod k (fun p => { p with rxSeq := p.rxSeq + 1, nak := false, accepted := p.accepted + 1 })
          let s := if (s.portAt k).encOn then s.portAtMod k (fun p => { p with rxGroup := p.rxGroup ++ [f] })
            else deliverFrame k f (freeBuf k (s.rxVc k f) s)
          if 16 ≤ (s.portAt k).accepted then sendLink k s else s)) ∧
  -- RELEASE (R388)
  (∀ (k0 : Fin 12) (f : List Word) (s : State),
      (f.length = 16) →
      let k : Nat := k0.val;
      ((s.portAt k).state = .up) →
      (frGood f && (s.portAt k).deskewed) →
      (frType f = 4) →
      let s1 := frameAck k f s;
      ((s1.portAt k).state = .up) →
      (frSeq f = (s1.portAt k).rxSeq.toNat) →
      exec (.release k0 f) s = .next (
          let s := s1.portAtMod k (fun p => { p with rxSeq := p.rxSeq + 1, nak := false, accepted := p.accepted + 1 })
          let s := if (s.portAt k).encOn then s.portAtMod k (fun p => { p with rxGroup := p.rxGroup ++ [f] })
            else deliverFrame k f (freeBuf k (s.rxVc k f) s)
          if 16 ≤ (s.portAt k).accepted then sendLink k s else s)) ∧
  -- SPAN_RETRY_TIMER (R312)
  (∀ (k0 : Fin 12) (s : State),
      let k : Nat := k0.val;
      ((s.portAt k).state == .up && !(s.portAt k).unacked.isEmpty) →
      exec (.spanRetryTimer k0) s = .next (resend k s)) ∧
  -- SPAN_ACK_TIMER (R312)
  (∀ (k0 : Fin 12) (s : State),
      let k : Nat := k0.val;
      let p := s.portAt k;
      (p.state == .up && (decide (0 < p.accepted) || [0, 1, 2].any (fun v => decide (0 < sget 0 p.freed v)))) →
      exec (.spanAckTimer k0) s = .next (sendLink k s)) ∧
  -- SPAN_TXN_TIMEOUT (R316)
  (∀ (stid0 : BitVec 10) (s : State),
      let stid : Nat := stid0.toNat;
      ∀ x, sget none s.span.stx stid = some x →
      ¬(fld (s.reg 0 (blkSpn + 0x10)) 31 16 = 0) →
      exec (.spanTxnTimeout stid0) s = .next (
          sendRsp portSpn (rspFor x.req stTimeout [] []) (s.onSpan (fun p => { p with stx := sput none p.stx stid none })))) ∧
  -- SPN_RT_WRITE (R318)
  (∀ (w0 : BitVec 9) (v : Word) (s : State),
      let w : Nat := w0.toNat;
      exec (.spnRtWrite w0 v) s = .next (
          s.each (List.range 8) (fun i t =>
            let dev : BitVec 12 := BitVec.ofNat 12 (8 * w + i); let e : BitVec 4 := BitVec.ofNat 4 (fld v (4 * i + 3) (4 * i))
            let old := fld (sget 0xFFFFFFFF t.span.rt w) (4 * i + 3) (4 * i)
            let ds := t.span.drains.filter (fun d => d.dev != dev)
            if old = e.toNat then t.onSpan (fun p => { p with drains := ds })
            else t.onSpan (fun p => { p with drains := ds ++ [{ dev := dev, entry := e }] })))) ∧
  -- SPAN_ROUTE_DRAIN_END (R318)
  (∀ (d0 : BitVec 12) (s : State),
      let d : Nat := d0.toNat;
      ∀ x, s.span.drains.find? (fun x => x.dev.toNat == d) = some x →
      ¬(s.span.stx.any (fun e => match e.2 with | some y => y.ddev.toNat == d | none => false)) →
      exec (.spanRouteDrainEnd d0) s = .next (
          let fs := s.span.stalled.filter (fun f => frDdev (f.2.headD []) == d)
          let s := s.onSpan (fun p => { p with
            drains := p.drains.filter (fun y => y.dev.toNat != d)
            stalled := p.stalled.filter (fun f => frDdev (f.2.headD []) != d)
            rt := smod 0xFFFFFFFF p.rt (d / 8) (fun w => setFld w (4 * (d % 8) + 3) (4 * (d % 8)) x.entry.toNat) })
          s.each fs (fun f => transit f.1 f.2))) ∧
  -- SPN_CFG_WRITE (R309)
  (∀ (v : Word) (s : State),
      exec (.spnCfgWrite v) s = .next (
          let dev : BitVec 12 := BitVec.ofNat 12 (fld v 11 0); let en : BitVec 12 := BitVec.ofNat 12 (fld v 23 12)
          let old := s.span.portEn
          let s := if dev = s.span.devId then s
            else if old = 0 ∧ en = 0 then s.onSpan (fun p => { p with devId := dev }) else s.onSpan (fun p => { p with wrIgn := true })
          let s := s.onSpan (fun p => { p with portEn := en })
          s.each (List.range 12) (fun k t =>
            if old.getLsbD k && !en.getLsbD k then spanDisable k t else if !old.getLsbD k && en.getLsbD k then spanEnable k t else t))) ∧
  -- SPAN_PROBE_TIMER (R323)
  (∀ (k0 : Fin 12) (t1 : BitVec 48) (s : State),
      let k : Nat := k0.val;
      ((s.portAt k).state == .up) →
      exec (.spanProbeTimer k0 t1) s = .next (spanSendU k (mkFrame 9 0 s.devId (s.ttlInit k) (natWords t1.toNat 2)) s)) ∧
  -- SPAN_GROUP_TIMER (R326)
  (∀ (k0 : Fin 12) (s : State),
      let k : Nat := k0.val;
      ((s.portAt k).state == .up && (s.portAt k).encOn) →
      exec (.spanGroupTimer k0) s = .next (closeGroup k s)) ∧
  -- TB_MARK_LOSS (R324)
  (∀ (s : State),
      (fld (s.reg 0 (blkSpn + 8)) 31 30 = 2) →
      exec .tbMarkLoss s = .next (marksLost s)) ∧
  -- SPN_PERR (R11)
  (∀ (k : Fin 12) (insp : Bool) (s : State),
      exec (.spnPerr k insp) s = .next (State.readTo (spnPerrRead k.val insp s)))

/-- Debug, part 1 of 2: halts, trace, monitors and the probe port: each command answers the next state its rule gives. One clause for each command,
under its mnemonic and the rule it follows: the conditions on operands and state under which the command has its effect, then the state that exec
answers. -/
def Obligations.DebugCommandsComplete1 : Prop :=
  -- CORE_FENCE (R406)
  (∀ (hart : Fin 8) (deviceIo : Bool) (s : State),
      let p := corePort hart;
      (deviceIo && !(s.hartAt hart.val).halted && s.portTakes p && s.mode != .greenware) →
      exec (.coreFence hart deviceIo) s = .next (retire p (issue p { typ := 3, otag := tagUncached hart, hart := hart } s))) ∧
  -- DBG_WDT_KICK (R410)
  (∀ (w : Fin 9) (s : State),
      exec (.dbgWdtKick w) s = .next (
          s.when s.dbgLive (State.wdtAtMod w.val (fun x => { x with left := if x.en then x.full else x.left, expired := false })))) ∧
  -- DBG_WDT_ENABLE (R410)
  (∀ (w : Fin 9) (s : State),
      (s.dbgLive && !(s.wdtAt w.val).en) →
      exec (.dbgWdtEnable w) s = .next (wdtFreeze w.val (s.wdtAtMod w.val (fun x => { x with en := true, left := x.full })))) ∧
  -- WDT_EXPIRY (R410)
  (∀ (w : Fin 9) (s : State),
      let x := s.wdtAt w.val;
      ¬(!x.en || s.wdtFrozen w.val || s.mode == .greenware) →
      exec (.wdtExpiry w) s = .next (
          if !x.expired then
            (s.wdtAtMod w.val (fun x => { x with expired := true, left := x.full })).hartAtMod w.val (fun h => { h with irq16 := true })
          else if w.val = 8 then fatal 0x4018 s
          else raise (0x3010 + w.val) (dbgVotes (hartReset w.val s)))) ∧
  -- HALTREQ (R416)
  (∀ (h : Fin 9) (s : State),
      (s.dbgLive) →
      ¬(s.authLevel < (hartLevel h.val)) →
      exec (.haltreq h) s = .next (hartHaltReq h.val s)) ∧
  -- HART_HALTED (R417)
  (∀ (h : Fin 9) (pc : BitVec 64) (s : State),
      let x := s.hartAt h.val;
      ¬(!x.haltReq || x.halted || s.hartWaits h || s.mode == .greenware) →
      exec (.hartHalted h pc) s = .next (
          let s := (s.hartAtMod h.val (fun x => { x with halted := true, haltReq := false, pc := pc, reservation := false, regs := [], era := s.fresh + 1 })).nextFree
          let s := dbgVotes (wdtFreeze h.val s)
          fireSource 2 (fun _ _ => true) (trace (s.packet 4 0 h.val 0 (wd pc.toNat)) s))) ∧
  -- RESUMEREQ (R416)
  (∀ (h : Fin 9) (s : State),
      (s.dbgLive) →
      ¬(s.authLevel < (hartLevel h.val)) →
      ¬(s.mode == .held) →
      exec (.resumereq h) s = .next (hartResume h.val s)) ∧
  -- ACCESS_REGISTER (R416)
  (∀ (h : Fin 9) (reg : BitVec 16) (write : Option (BitVec 64)) (s : State),
      (s.dbgLive) →
      ¬(s.authLevel < (hartLevel h.val)) →
      exec (.accessRegister h reg write) s = .next (accessRegister h.val reg.toNat write s)) ∧
  -- HART_TRIGGER (R416)
  (∀ (h : Fin 9) (t : Fin 4) (action : Bool) (timing : Bool) (s : State),
      let _t : Fin 4 := t;
      ¬((s.hartAt h.val).halted || s.mode == .greenware) →
      exec (.hartTrigger h t action timing) s = .next (
          let s := if action then hartHaltReq h.val s
            else if timing then s
            else let (v, s) := s.take 64; s.hartAtMod h.val (fun x => { x with fault := some (3, v) })
          s.when (action || timing) (fireSource 3 (fun _ _ => true)))) ∧
  -- DBG_ACC_GO (R418)
  (∀ (w : Word) (s : State),
      (s.dbgLive) →
      ¬(s.authLevel < 1) →
      exec (.dbgAccGo w) s = .next (accCtrl w s)) ∧
  -- JTAG_DBGACC_UPDATE (R412)
  (∀ (dr : BitVec 36) (s : State),
      ¬(s.mode == .greenware || decide (5 ≤ (s.pdomAt 0).rung.toNat)) →
      exec (.jtagDbgaccUpdate dr) s = .next (
          let i := fld dr 33 32
          let s := s.onDbg (fun d => { d with ir := 0x33, jtagRead := none })
          match fld dr 35 34 with
          | 1 => s.onDbg (fun d => { d with jtagRead := some (s.accReg i) })
          | 2 => if s.levelOf .jtag < 1 then s.onDbg (fun d => { d with denied := true }) else accRegPut i (wd dr.toNat) s
          | _ => s))

/-- Debug, part 2 of 2: halts, trace, monitors and the probe port: each command answers the next state its rule gives. One clause for each command,
under its mnemonic and the rule it follows: the conditions on operands and state under which the command has its effect, then the state that exec
answers. -/
def Obligations.DebugCommandsComplete2 : Prop :=
  -- JTAG_TEST_LOGIC_RESET (R412)
  (∀ (s : State),
      exec .jtagTestLogicReset s = .next (s.onDbg (fun d => { d with ir := 2 }))) ∧
  -- EXTEST (R412)
  (∀ (s : State),
      exec .extest s = .next (s.onDbg (fun d => { d with ir := 0 }))) ∧
  -- XTI_EVENT (R419)
  (∀ (die : Fin 4) (line : Fin 16) (s : State),
      exec (.xtiEvent die line) s = .next (fireSource 5 (fun l w => l == line.val && bit w (20 + die.val)) s)) ∧
  -- DBG_XT_PULSE (R419)
  (∀ (w : Word) (s : State),
      (s.dbgLive) →
      ¬(s.authLevel < 1) →
      ¬(fld w 15 0 = 0) →
      exec (.dbgXtPulse w) s = .next (fireLines (fld w 15 0) true s)) ∧
  -- SFRZ_FREEZE (R421)
  (∀ (die : Fin 4) (s : State),
      (s.dbgLive) →
      ¬(s.authLevel < 1) →
      exec (.sfrzFreeze die) s = .next (freezeDie die.val s)) ∧
  -- SFRZ_RELEASE (R421)
  (∀ (die : Fin 4) (s : State),
      (s.dbgLive) →
      ¬(s.authLevel < 1) →
      exec (.sfrzRelease die) s = .next (releaseDie die.val s)) ∧
  -- DBG_HELD_ENTER (R422)
  (∀ (s : State),
      (s.dbgLive) →
      ¬(s.authLevel < 1) →
      exec .dbgHeldEnter s = .next (requestHeld s)) ∧
  -- HELD_ENTRY_COMPLETE (R422)
  (∀ (s : State),
      (s.dbg.entering && (s.mode == .bisque || s.mode == .glazed || s.mode == .refiring) && (List.range 8).all (fun h => (s.hartAt h).halted)) →
      exec .heldEntryComplete s = .next (
          let s := holdPads (fun n => (s.pdomAt (n / 6 + 1)).rung == 0) s
          let s := ({ s with mode := .held }).onDbg (fun d => { d with held := true, entering := false, asked := false })
          let s := s.each (List.range 9) wdtFreeze
          raise 0x0040 (trace (s.packet 6 0 0 1 0) s))) ∧
  -- DBG_HELD_RELEASE (R422)
  (∀ (s : State),
      (s.dbgLive) →
      ¬(s.authLevel < 1) →
      (s.mode == .held) →
      exec .dbgHeldRelease s = .next (retire portPcie1 (retire portPcie0 (heldRelease s)))) ∧
  -- DBG_STIM (R426)
  (∀ (n : Fin 32) (v : Word) (bytes0 : Fin 5) (s : State),
      (bytes0.val = 1 ∨ bytes0.val = 2 ∨ bytes0.val = 4) →
      let bytes : Nat := bytes0.val;
      (s.dbgLive && bit s.dbg.trace.cfg (min n.val 15)) →
      exec (.dbgStim n v bytes0) s = .next (trace (s.packet 1 0 n.val bytes (wd (v.toNat % 2 ^ (8 * bytes)))) s)) ∧
  -- TRACE_FLUSH_TIMER (R425)
  (∀ (s : State),
      exec .traceFlushTimer s = .next (retire portDbg (traceFlush s)))

/-- The rolling lane test and the lane changes of a bundle (R264, R273, R274): each command answers the next state its rule gives. One clause for each
command, under its mnemonic and the rule it follows: the conditions on operands and state under which the command has its effect, then the state that
exec answers: the change made at once when its tag is past, and kept for its tag otherwise; the request answered at once, or kept while the previous
lane change is unacknowledged or the quiet window is shut. -/
def Obligations.LaneChangeCommandsComplete : Prop :=
  -- REQ_OUT (R274)
  (∀ (b : Fin 76) (lane : BitVec 7) (test : Bool) (s : State),
      let x := s.bundleAt b.val;
      let asked := s.bundleAtMod b.val (fun x => { x with ask := some (true, test, lane) });
      let t : Byte := x.txTag + BitVec.ofNat 8 (8 + x.txLink.length);
      lane.toNat < 78 → s.rltMay b.val = true → x.txOut = none → x.txNext = none → x.failed.getLsbD lane.toNat = false →
      exec (.reqOut b lane test) s = .next (
          if x.stag.isNone && s.laneWindow b.val then
            linkSend b.val (linkFlit 1 0x7F false 0 0 t.toNat test lane.toNat)
              (asked.bundleAtMod b.val (fun x => { x with ask := none, stag := some t, txNext := some (t, .out lane test) }))
          else asked)) ∧
  -- STEER_OUT (R273, R274)
  (∀ (b : Fin 76) (lane : BitVec 7) (test : Bool) (stag : Byte) (s : State),
      let x := s.bundleAt b.val;
      let kept := s.bundleAtMod b.val (fun x => { x with rxNext := some (stag, .out lane test) });
      let now := kept.bundleAtMod b.val (fun x => { x with rxNext := none });
      lane.toNat < 78 → x.works = true →
      exec (.steerOut b lane test stag) s = .next (
          if tagPast stag x.rxTag then
            if test then now.bundleAtMod b.val (fun x => { x with rxOut := some lane, rlt := .testing, testLane := lane })
            else failLane b.val lane.toNat now
          else kept)) ∧
  -- REQ_IN (R274)
  (∀ (b : Fin 76) (lane : BitVec 7) (s : State),
      let x := s.bundleAt b.val;
      let asked := s.bundleAtMod b.val (fun x => { x with ask := some (false, true, lane) });
      let t : Byte := x.txTag + BitVec.ofNat 8 (8 + x.txLink.length);
      lane.toNat < 78 → x.txOut = some lane → x.works = true →
      exec (.reqIn b lane) s = .next (
          if x.stag.isNone && s.laneWindow b.val then
            linkSend b.val (linkFlit 2 0x7F false 0 0 t.toNat true lane.toNat)
              (asked.bundleAtMod b.val (fun x => { x with ask := none, stag := some t, txNext := some (t, .back lane) }))
          else asked)) ∧
  -- STEER_IN (R274)
  (∀ (b : Fin 76) (lane : BitVec 7) (stag : Byte) (s : State),
      let x := s.bundleAt b.val;
      let kept := s.bundleAtMod b.val (fun x => { x with rxNext := some (stag, .back lane) });
      let now := kept.bundleAtMod b.val (fun x => { x with rxNext := none });
      lane.toNat < 78 → x.works = true → x.rxOut = some lane →
      exec (.steerIn b lane stag) s = .next (
          if tagPast stag x.rxTag then rltBegin b.val (now.bundleAtMod b.val (fun x => { x with rxOut := none, rlt := .idle })) else kept)) ∧
  -- HALF (R264)
  (∀ (b : Fin 76) (stag : Byte) (s : State),
      let x := s.bundleAt b.val;
      let kept := s.bundleAtMod b.val (fun x => { x with rxNext := some (stag, .half) });
      let now := kept.bundleAtMod b.val (fun x => { x with rxNext := none });
      x.state = .full → s.feature (bundleBnd b.val) 0 = true →
      exec (.half b stag) s = .next (
          if tagPast stag x.rxTag then
            raise 0x2B03 (now.bundleAtMod b.val (fun x => { x with state := .half, rlt := .idle, rxOut := none, txOut := none, txNext := none, ask := none }))
          else kept)) ∧
  -- RLT_DWELL_EXPIRY (R274)
  (∀ (b : Fin 76) (err : Bool) (s : State),
      let x := s.bundleAt b.val;
      x.rlt = .testing →
      exec (.rltDwellExpiry b err) s = .next (
          if err then
            rltBegin b.val ((failLane b.val x.testLane.toNat s).bundleAtMod b.val (fun x => { x with rlt := .idle, txOut := none, rxOut := none }))
          else rltBegin b.val (s.bundleAtMod b.val (fun x => { x with rlt := .due }))))
end

