-- ==== Sys2Proof/Laws/Bits.lean ====
section
/-! SUPPORT. What replacing a field of a word leaves in that field and in every other one. -/

namespace Sys2Proof.Machine

/-- A word is what stands above a field, the field, and what stands below it. -/
theorem fld_split {w : Nat} (v : BitVec w) {hi lo : Nat} (hl : lo ≤ hi) :
    v.toNat = v.toNat / 2 ^ (hi + 1) * 2 ^ (hi + 1) + fld v hi lo * 2 ^ lo + v.toNat % 2 ^ lo := by
  have hp : (2 : Nat) ^ (hi + 1) = 2 ^ lo * 2 ^ (hi + 1 - lo) := by rw [← Nat.pow_add]; congr 1; omega
  unfold fld
  rw [Nat.shiftRight_eq_div_pow, hp, ← Nat.div_div_eq_div_mul, Nat.mul_comm (2 ^ lo), ← Nat.mul_assoc, ← Nat.add_mul]
  have h1 := Nat.div_add_mod (v.toNat / 2 ^ lo) (2 ^ (hi + 1 - lo))
  rw [Nat.mul_comm] at h1
  rw [h1]
  have h2 := Nat.div_add_mod v.toNat (2 ^ lo)
  rw [Nat.mul_comm] at h2
  exact h2.symm

theorem fld_lt {w : Nat} (v : BitVec w) (hi lo : Nat) : fld v hi lo < 2 ^ (hi + 1 - lo) := Nat.mod_lt _ (Nat.two_pow_pos _)

/-- The number of a word with a field replaced. -/
theorem setFld_toNat {w : Nat} (v : BitVec w) {hi lo : Nat} (n : Nat) (hl : lo ≤ hi) (hw : hi < w) :
    (setFld v hi lo n).toNat = v.toNat / 2 ^ (hi + 1) * 2 ^ (hi + 1) + n % 2 ^ (hi + 1 - lo) * 2 ^ lo + v.toNat % 2 ^ lo := by
  have hs := fld_split v hl
  have hp : (2 : Nat) ^ (hi + 1) = 2 ^ (hi + 1 - lo) * 2 ^ lo := by rw [← Nat.pow_add]; congr 1; omega
  have hn : n % 2 ^ (hi + 1 - lo) * 2 ^ lo + v.toNat % 2 ^ lo < 2 ^ (hi + 1) := by
    have a := Nat.mod_lt n (Nat.two_pow_pos (hi + 1 - lo))
    have b := Nat.mod_lt v.toNat (Nat.two_pow_pos lo)
    have c : (n % 2 ^ (hi + 1 - lo) + 1) * 2 ^ lo ≤ 2 ^ (hi + 1 - lo) * 2 ^ lo := Nat.mul_le_mul_right _ a
    rw [Nat.add_mul] at c
    omega
  have hq : v.toNat / 2 ^ (hi + 1) < 2 ^ (w - (hi + 1)) := by
    apply Nat.div_lt_of_lt_mul
    rw [← Nat.pow_add]
    have : hi + 1 + (w - (hi + 1)) = w := by omega
    rw [this]; exact v.isLt
  have hb : v.toNat / 2 ^ (hi + 1) * 2 ^ (hi + 1) + 2 ^ (hi + 1) ≤ 2 ^ w := by
    have : (v.toNat / 2 ^ (hi + 1) + 1) * 2 ^ (hi + 1) ≤ 2 ^ (w - (hi + 1)) * 2 ^ (hi + 1) := Nat.mul_le_mul_right _ hq
    rw [← Nat.pow_add, Nat.add_mul] at this
    have e : w - (hi + 1) + (hi + 1) = w := by omega
    rw [e] at this
    omega
  unfold setFld
  rw [BitVec.toNat_ofNat, Nat.mod_eq_of_lt]
  · omega
  · omega

theorem fld_setFld_self {w : Nat} (v : BitVec w) {hi lo : Nat} (n : Nat) (hl : lo ≤ hi) (hw : hi < w) :
    fld (setFld v hi lo n) hi lo = n % 2 ^ (hi + 1 - lo) := by
  have hp : (2 : Nat) ^ (hi + 1) = 2 ^ (hi + 1 - lo) * 2 ^ lo := by rw [← Nat.pow_add]; congr 1; omega
  unfold fld
  rw [Nat.shiftRight_eq_div_pow, setFld_toNat v n hl hw, hp, ← Nat.mul_assoc, ← Nat.add_mul, Nat.add_comm,
    Nat.add_mul_div_right _ _ (Nat.two_pow_pos _), Nat.div_eq_of_lt (Nat.mod_lt _ (Nat.two_pow_pos _)), Nat.zero_add, Nat.add_comm,
    Nat.add_mul_mod_self_right, Nat.mod_mod]

/-- Every bit of a word with a field replaced. -/
theorem setFld_getLsbD {w : Nat} (v : BitVec w) {hi lo : Nat} (n i : Nat) (hl : lo ≤ hi) (hw : hi < w) :
    (setFld v hi lo n).getLsbD i = if lo ≤ i ∧ i ≤ hi then n.testBit (i - lo) else v.getLsbD i := by
  have hp : (2 : Nat) ^ (hi + 1) = 2 ^ (hi + 1 - lo) * 2 ^ lo := by rw [← Nat.pow_add]; congr 1; omega
  rw [BitVec.getLsbD, setFld_toNat v n hl hw]
  have e : v.toNat / 2 ^ (hi + 1) * 2 ^ (hi + 1) + n % 2 ^ (hi + 1 - lo) * 2 ^ lo + v.toNat % 2 ^ lo
      = 2 ^ lo * (2 ^ (hi + 1 - lo) * (v.toNat / 2 ^ (hi + 1)) + n % 2 ^ (hi + 1 - lo)) + v.toNat % 2 ^ lo := by
    rw [Nat.mul_add, Nat.mul_comm (2 ^ lo) (n % _), ← Nat.mul_assoc, Nat.mul_comm (2 ^ lo) (2 ^ (hi + 1 - lo)), ← hp, Nat.mul_comm (2 ^ (hi + 1))]
  rw [e, Nat.testBit_two_pow_mul_add _ (Nat.mod_lt _ (Nat.two_pow_pos _)), Nat.testBit_two_pow_mul_add _ (Nat.mod_lt _ (Nat.two_pow_pos _))]
  by_cases h1 : i < lo
  · rw [if_pos h1, if_neg (by omega), Nat.testBit_mod_two_pow]
    simp [h1, BitVec.getLsbD]
  · rw [if_neg h1]
    by_cases h2 : i ≤ hi
    · rw [if_pos (by omega), if_pos (by omega), Nat.testBit_mod_two_pow]
      have : i - lo < hi + 1 - lo := by omega
      simp [this]
    · rw [if_neg (by omega), if_neg (by omega), Nat.testBit_div_two_pow, BitVec.getLsbD]
      congr 1
      omega

/-- A field is told by its bits. -/
theorem fld_testBit {w : Nat} (v : BitVec w) (hi lo i : Nat) : (fld v hi lo).testBit i = (decide (i < hi + 1 - lo) && v.getLsbD (lo + i)) := by
  unfold fld
  rw [Nat.testBit_mod_two_pow, Nat.testBit_shiftRight, BitVec.getLsbD]

/-- A field that does not meet the replaced one keeps its value. -/
theorem fld_setFld_other {w : Nat} (v : BitVec w) {hi lo h l : Nat} (n : Nat) (hl : lo ≤ hi) (hw : hi < w) (hd : h < lo ∨ hi < l) :
    fld (setFld v hi lo n) h l = fld v h l := by
  apply Nat.eq_of_testBit_eq
  intro i
  rw [fld_testBit, fld_testBit, setFld_getLsbD v n _ hl hw]
  by_cases hi' : i < h + 1 - l
  · rw [if_neg (by omega)]
  · simp [hi']

theorem bit_setBit_self {w : Nat} (v : BitVec w) {n : Nat} (b : Bool) (h : n < w) : bit (setBit v n b) n = b := by
  unfold bit setBit
  rw [setFld_getLsbD v _ _ (Nat.le_refl _) h]
  cases b <;> simp [b2n]

/-- The number of the bytes of a number. -/
theorem bytesNat_natBytes (n k : Nat) : bytesNat (natBytes n k) = n % 256 ^ k := by
  induction k generalizing n with
  | zero => simp [natBytes, bytesNat, Nat.mod_one]
  | succ k ih =>
    have e : natBytes n (k + 1) = BitVec.ofNat 8 n :: natBytes (n / 256) k := by
      unfold natBytes
      rw [List.range_succ_eq_map, List.map_cons, List.map_map]
      congr 1
      apply List.map_congr_left
      intro i _
      simp only [Function.comp]
      congr 1
      rw [Nat.shiftRight_eq_div_pow, Nat.shiftRight_eq_div_pow, Nat.div_div_eq_div_mul]
      congr 1
      rw [show 8 * (i + 1) = 8 + 8 * i by omega, Nat.pow_add]
    have e8 : (2 : Nat) ^ 8 = 256 := rfl
    rw [e, bytesNat, ih, BitVec.toNat_ofNat, e8, show (256 : Nat) ^ (k + 1) = 256 * 256 ^ k from Nat.pow_succ', Nat.mod_mul]

end Sys2Proof.Machine
end

