-- ==== Sys2Proof/Laws/Commands.lean ====
section
/-! SUPPORT. What starting a command packet and checking its parameters do, once for all packets, and what a step does with the queue. -/

namespace Sys2Proof.Machine

variable {s : State} {id : CmdId} {op : Nat} {c : Cmd}

theorem startCmdOr_ready {bad body : Cmd → State → State} (h : Safety.ready id op c s) :
    startCmdOr bad id op body s = body c (Safety.begun id s) := by
  obtain ⟨⟨hf, ho, hs, hm, ht⟩, hk⟩ := h
  unfold Safety.begun at hk
  simp [startCmdOr, Safety.begun, hf, ho, hs, hm, ht, hk]

theorem startCmd_ready {body : Cmd → State → State} (h : Safety.ready id op c s) :
    startCmd id op body s = body c (Safety.begun id s) := startCmdOr_ready h

theorem startCmdOr_wrongMode {bad body : Cmd → State → State} (h : Safety.queued id op c s) (hk : (Safety.begun id s).modeOk c = false) :
    startCmdOr bad id op body s = bad c (Safety.begun id s) := by
  obtain ⟨hf, ho, hs, hm, ht⟩ := h
  unfold Safety.begun at hk
  simp [startCmdOr, Safety.begun, hf, ho, hs, hm, ht, hk]

theorem startCmd_wrongMode {body : Cmd → State → State} (h : Safety.queued id op c s) (hk : (Safety.begun id s).modeOk c = false) :
    startCmd id op body s = finish c rcWrongMode [] (Safety.begun id s) := startCmdOr_wrongMode h hk

theorem startCmdOr_absent {bad body : Cmd → State → State} (h : s.findCmd id = none) : startCmdOr bad id op body s = s := by
  simp [startCmdOr, h]

theorem startCmdOr_waits {bad body : Cmd → State → State} (h : s.findCmd id = some c)
    (hw : c.op ≠ op ∨ c.started = true ∨ s.mgrServes = false ∨ s.turn c = false) : startCmdOr bad id op body s = s := by
  rcases hw with hw | hw | hw | hw <;> simp [startCmdOr, h, hw]

theorem startSess_ready {x : Session} {body : Session → Cmd → State → State} (h : Safety.readySession id op x c s) :
    startSess id op body s = body x c (Safety.begun id s) := by
  obtain ⟨hr, hx, ho, hv, hp⟩ := h
  rw [startSess, startCmdOr_ready hr]
  have : (Safety.begun id s).cfg.session = some x := hx
  simp [this, ho, hv, hp]

theorem require_ok {ok : Bool} {st : Nat} {k : State → State} (h : ok = true) : require ok st c k s = k s := by simp [require, h]

theorem require_bad {ok : Bool} {st : Nat} {k : State → State} (h : ok = false) : require ok st c k s = finish c st [] s := by simp [require, h]

theorem sessCheck_ok {ok : Bool} {st : Nat} {k : State → State} (h : ok = true) : sessCheck ok st c k s = k s := by simp [sessCheck, h]

/-- A fold of updates that each leave a part of the state alone leaves it alone. -/
theorem State.each_field {α β : Type} {l : List α} {f : α → State → State} (g : State → β) (hf : ∀ a t, g (f a t) = g t) : g (s.each l f) = g s := by
  unfold State.each
  induction l generalizing s with
  | nil => rfl
  | cons a l ih => exact (ih (s := f a s)).trans (hf a s)

/-- Flip-flops that take `srval` change no unit. -/
@[simp] theorem asyncHold_sduAt (u : SduId) : (asyncHold s).sduAt u = s.sduAt u :=
  State.each_field (fun t => t.sduAt u) (fun _ _ => State.each_field (fun t => t.sduAt u) (fun _ _ => by dsimp only; split <;> rfl))

theorem Sdu.noHalt {q : Sdu} (h : q.haltNext = false) : { q with haltNext := false } = q := by cases q; simp_all

/-- A command that names an operation runs the issue slot of the instruction that holds it. -/
theorem issueIf_issues {u : SduId} {p : BitVec 48 → Bool} (h : Safety.sduIssues u s) (hp : p ((s.sduAt u).ins (s.sduAt u).cur.pc.toNat) = true) :
    issueIf u p s = Safety.sduIssued u s := by
  unfold Safety.sduIssues at h
  obtain ⟨hl, hs, hr, hb, hn, hc, hg, ht, hw⟩ := h
  have hcm : (if (s.sduAt u).skipCmp || (s.sduAt u).bubble then (s.sduAt u, false, false)
      else (s.sduAt u).compare 0 0 (s.sduAt u).cur.pc.toNat) = (s.sduAt u, false, false) := by
    rcases hc with hc | hc
    · simp [hc]
    · by_cases h1 : (s.sduAt u).skipCmp = true
      · simp [h1]
      · simp [h1, hb, hc]
  have hd : sduSlot u false (asyncHold s) = Safety.sduIssued u s := by
    unfold sduSlot Safety.sduIssued
    dsimp only
    simp only [asyncHold_sduAt]
    rw [hcm]
    dsimp only
    rw [if_neg (by simp [hn])]
    simp only [Sdu.noHalt hn]
    rw [if_neg (by simp [hb]), if_neg (by simp [hg]), if_neg (by simp [ht])]
    simp only [State.when, Bool.false_eq_true, if_false, hn]
  have hdue : dueSlots u (asyncHold s) = asyncHold s := by
    unfold dueSlots
    simp only [asyncHold_sduAt, hb, Bool.and_false, Bool.false_eq_true, if_false]
    rw [if_neg (by rw [Bool.and_assoc, hw]; simp)]
  unfold issueIf
  simp only [hl, hs, hr, hg, hp, hdue, hd, asyncHold_sduAt, Bool.not_true, Bool.false_or, bne_self_eq_false, Bool.false_eq_true, if_false, beq_self_eq_true, Bool.and_self, if_true]

/-- A sideband message that is taken: acknowledged when it needs it, then acted on. -/
theorem sbTake_takes {msg : Nat} {fl ff : Bool} {k : Nat} {toLeader : Bool} {f : BitVec 64} {body : State → State}
    (h : (!sbOk f || fld f 63 56 != msg || !((s.bndAt k).sb toLeader).up || !(if toLeader then ff else fl)) = false) :
    sbTake msg fl ff k toLeader f body s
      = body (if 2 ≤ msg then sbEndMod k toLeader (fun e => { e with tx := e.tx ++ [sbFrame 1 0xF (fld f 51 48) 0 0] }) s else s) := by
  unfold sbTake
  rw [h]
  rfl

/-- A sequenced frame that is next in order is taken. -/
theorem seqFrame_takes {k ty : Nat} {f : List Word} (hu : (s.portAt k).state = .up) (hg : (frGood f && (s.portAt k).deskewed) = true) (ht : frType f = ty)
    (hu1 : ((frameAck k f s).portAt k).state = .up) (hq : frSeq f = ((frameAck k f s).portAt k).rxSeq.toNat) :
    seqFrame k ty f s =
      (let s := (frameAck k f s).portAtMod k (fun p => { p with rxSeq := p.rxSeq + 1, nak := false, accepted := p.accepted + 1 })
       let s := if ty = 0xB then takeTag k f s
         else if (s.portAt k).encOn then s.portAtMod k (fun p => { p with rxGroup := p.rxGroup ++ [f] })
         else deliverFrame k f (freeBuf k (s.rxVc k f) s)
       if 16 ≤ (s.portAt k).accepted then sendLink k s else s) := by
  rw [Bool.and_eq_true] at hg
  unfold seqFrame
  rw [if_neg (by simp [hu]), if_neg (by simp [hg.1, hg.2]), if_neg (by simp [ht])]
  dsimp only
  rw [if_neg (by simp [hu1]), if_neg (by simp [hq])]

/-- An unsequenced frame that arrives well is taken. -/
theorem unseqFrame_takes {k ty : Nat} {f : List Word} {body : State → State} (hu : (s.portAt k).state = .up)
    (hg : (frGood f && (s.portAt k).deskewed) = true) (ht : frType f = ty) (hy : ty ≠ 0xF) (hu1 : ((frameAck k f s).portAt k).state = .up)
    (hm : markOk k f (frameAck k f s) = true) :
    unseqFrame k ty f body s =
      body (frameAck k f s) := by
  rw [Bool.and_eq_true] at hg
  unfold unseqFrame
  rw [if_neg (by simp [hu]), if_neg (by simp [hg.1, hg.2]), if_neg (by simp [ht])]
  dsimp only
  rw [if_neg (by simp [hu1, hy]), if_pos hm]

end Sys2Proof.Machine
end

