-- ==== Sys2Proof/Laws/Store.lean ====
section
/-! SUPPORT. Laws of the sparse store: a read after a write, and that every operation keeps the canonical form. -/

namespace Sys2Proof

variable {α : Type}

theorem risingFrom_mono {m : Store α} : ∀ {a b : Nat}, a ≤ b → risingFrom b m = true → risingFrom a m = true := by
  intro a b hab h
  cases m with
  | nil => rfl
  | cons e m => simp only [risingFrom, Bool.and_eq_true, decide_eq_true_eq] at h ⊢; exact ⟨by omega, h.2⟩

theorem risingFrom_cons {b k : Nat} {v : α} {m : Store α} : risingFrom b ((k, v) :: m) = true ↔ b ≤ k ∧ risingFrom (k + 1) m = true := by
  simp [risingFrom]

theorem sget_below {d : α} {m : Store α} {b k : Nat} (h : risingFrom b m = true) (hk : k < b) : sget d m k = d := by
  induction m generalizing b with
  | nil => rfl
  | cons e m ih =>
    obtain ⟨a, v⟩ := e
    rw [risingFrom_cons] at h
    rw [sget, if_neg (by omega)]
    exact ih h.2 (by omega)

/-- Reading the key just written gives the value written. -/
theorem sget_sinsert_self {d v : α} {m : Store α} {k : Nat} : sget d (sinsert m k v) k = v := by
  induction m with
  | nil => simp [sinsert, sget]
  | cons e m ih =>
    obtain ⟨a, w⟩ := e
    rw [sinsert]
    split
    · simp [sget]
    · split
      · simp [sget]
      · rename_i h
        rw [sget, if_neg h]; exact ih

/-- Reading another key gives what it gave before. -/
theorem sget_sinsert_ne {d v : α} {m : Store α} {j k : Nat} (h : j ≠ k) : sget d (sinsert m k v) j = sget d m j := by
  induction m with
  | nil => simp [sinsert, sget, h]
  | cons e m ih =>
    obtain ⟨a, w⟩ := e
    rw [sinsert]
    split
    · simp [sget, h]
    · split
      · rename_i hk; subst hk; simp [sget, h]
      · rw [sget, sget, ih]

theorem sget_serase_ne {d : α} {m : Store α} {j k : Nat} (h : j ≠ k) : sget d (serase m k) j = sget d m j := by
  induction m with
  | nil => rfl
  | cons e m ih =>
    obtain ⟨a, w⟩ := e
    rw [serase]
    split
    · rename_i hk; subst hk; rw [sget, if_neg h]
    · rw [sget, sget, ih]

theorem sget_serase_self {d : α} {m : Store α} {b k : Nat} (h : risingFrom b m = true) : sget d (serase m k) k = d := by
  induction m generalizing b with
  | nil => rfl
  | cons e m ih =>
    obtain ⟨a, w⟩ := e
    rw [risingFrom_cons] at h
    rw [serase]
    split
    · rename_i hk; subst hk; exact sget_below h.2 (by omega)
    · rename_i hk; rw [sget, if_neg hk]; exact ih h.2

/-- A write leaves every other key alone. -/
theorem sget_sput_ne [DecidableEq α] {d v : α} {m : Store α} {j k : Nat} (h : j ≠ k) : sget d (sput d m k v) j = sget d m j := by
  unfold sput
  split
  · exact sget_serase_ne h
  · exact sget_sinsert_ne h

/-- A read after a write to the same key of a canonical store gives the value written. -/
theorem sget_sput_self [DecidableEq α] {d v : α} {m : Store α} {k : Nat} (h : Store.wf d m = true) : sget d (sput d m k v) k = v := by
  simp only [Store.wf, Bool.and_eq_true] at h
  unfold sput
  split
  · rename_i e; subst e; exact sget_serase_self h.1
  · exact sget_sinsert_self

theorem sget_smod_ne [DecidableEq α] {d : α} {m : Store α} {f : α → α} {j k : Nat} (h : j ≠ k) : sget d (smod d m k f) j = sget d m j :=
  sget_sput_ne h

theorem sget_smod_self [DecidableEq α] {d : α} {m : Store α} {f : α → α} {k : Nat} (h : Store.wf d m = true) :
    sget d (smod d m k f) k = f (sget d m k) := sget_sput_self h

theorem risingFrom_serase {m : Store α} {b k : Nat} (h : risingFrom b m = true) : risingFrom b (serase m k) = true := by
  induction m generalizing b with
  | nil => rfl
  | cons e m ih =>
    obtain ⟨a, w⟩ := e
    rw [risingFrom_cons] at h
    rw [serase]
    split
    · exact risingFrom_mono (by omega) h.2
    · rw [risingFrom_cons]; exact ⟨h.1, ih h.2⟩

theorem risingFrom_sinsert {m : Store α} {b k : Nat} {v : α} (h : risingFrom b m = true) (hb : b ≤ k) : risingFrom b (sinsert m k v) = true := by
  induction m generalizing b with
  | nil => simp [sinsert, risingFrom, hb]
  | cons e m ih =>
    obtain ⟨a, w⟩ := e
    rw [risingFrom_cons] at h
    rw [sinsert]
    split
    · rw [risingFrom_cons, risingFrom_cons]; exact ⟨hb, by omega, h.2⟩
    · split
      · rename_i hk; subst hk; rw [risingFrom_cons]; exact ⟨hb, h.2⟩
      · rw [risingFrom_cons]; exact ⟨h.1, ih h.2 (by omega)⟩

theorem mem_serase {m : Store α} {k : Nat} {e : Nat × α} (h : e ∈ serase m k) : e ∈ m := by
  induction m with
  | nil => exact h
  | cons x m ih =>
    obtain ⟨a, w⟩ := x
    rw [serase] at h
    split at h
    · exact List.mem_cons_of_mem _ h
    · rcases List.mem_cons.mp h with h | h
      · exact h ▸ List.mem_cons_self
      · exact List.mem_cons_of_mem _ (ih h)

theorem mem_sinsert {m : Store α} {k : Nat} {v : α} {e : Nat × α} (h : e ∈ sinsert m k v) : e = (k, v) ∨ e ∈ m := by
  induction m with
  | nil => simpa [sinsert] using h
  | cons x m ih =>
    obtain ⟨a, w⟩ := x
    rw [sinsert] at h
    split at h
    · simpa using h
    · split at h
      · rcases List.mem_cons.mp h with h | h
        · exact .inl h
        · exact .inr (List.mem_cons_of_mem _ h)
      · rcases List.mem_cons.mp h with h | h
        · exact .inr (h ▸ List.mem_cons_self)
        · rcases ih h with h | h
          · exact .inl h
          · exact .inr (List.mem_cons_of_mem _ h)

theorem wf_iff [DecidableEq α] {d : α} {m : Store α} : Store.wf d m = true ↔ risingFrom 0 m = true ∧ ∀ e ∈ m, e.2 ≠ d := by
  simp [Store.wf]

/-- A write keeps the canonical form. -/
theorem wf_sput [DecidableEq α] {d v : α} {m : Store α} {k : Nat} (h : Store.wf d m = true) : Store.wf d (sput d m k v) = true := by
  rw [wf_iff] at h ⊢
  unfold sput
  split
  · exact ⟨risingFrom_serase h.1, fun e he => h.2 e (mem_serase he)⟩
  · rename_i hv
    refine ⟨risingFrom_sinsert h.1 (Nat.zero_le _), fun e he => ?_⟩
    rcases mem_sinsert he with he | he
    · subst he; exact hv
    · exact h.2 e he

theorem wf_smod [DecidableEq α] {d : α} {m : Store α} {k : Nat} {f : α → α} (h : Store.wf d m = true) : Store.wf d (smod d m k f) = true :=
  wf_sput h

theorem wf_nil [DecidableEq α] {d : α} : Store.wf d ([] : Store α) = true := rfl

/-- A fold of writes keeps the canonical form. -/
theorem wf_foldl [DecidableEq α] {β : Type} {d : α} {l : List β} {key : β → Nat} {val : β → α} {m : Store α} (h : Store.wf d m = true) :
    Store.wf d (l.foldl (fun m b => sput d m (key b) (val b)) m) = true := by
  induction l generalizing m with
  | nil => exact h
  | cons b l ih => exact ih (wf_sput h)

theorem risingFrom_sdrop {m : Store α} {p : Nat → Bool} {b : Nat} (h : risingFrom b m = true) : risingFrom b (sdrop m p) = true := by
  induction m generalizing b with
  | nil => rfl
  | cons e m ih =>
    obtain ⟨a, w⟩ := e
    rw [risingFrom_cons] at h
    rw [sdrop, List.filter]
    split
    · rw [risingFrom_cons]; exact ⟨h.1, ih h.2⟩
    · exact risingFrom_mono (by omega) (ih h.2)

/-- Dropping keys keeps the canonical form. -/
theorem wf_sdrop [DecidableEq α] {d : α} {m : Store α} {p : Nat → Bool} (h : Store.wf d m = true) : Store.wf d (sdrop m p) = true := by
  rw [wf_iff] at h ⊢
  exact ⟨risingFrom_sdrop h.1, fun e he => h.2 e (List.mem_filter.mp he).1⟩

/-- Mapping the values keeps the canonical form. -/
theorem wf_smap [DecidableEq α] {d : α} {m : Store α} {f : Nat → α → α} (h : Store.wf d m = true) : Store.wf d (smap d m f) = true := by
  rw [wf_iff] at h ⊢
  have key : ∀ b, risingFrom b m = true → risingFrom b (smap d m f) = true := by
    have h1 := h.1
    clear h h1
    induction m with
    | nil => intro _ _; rfl
    | cons e m ih =>
      obtain ⟨a, w⟩ := e
      intro b hb
      rw [risingFrom_cons] at hb
      rw [smap, List.foldr]
      split
      · exact risingFrom_mono (by omega) (ih _ hb.2)
      · rw [risingFrom_cons]; exact ⟨hb.1, ih _ hb.2⟩
  refine ⟨key 0 h.1, fun e he => ?_⟩
  clear key h
  induction m with
  | nil => simp [smap] at he
  | cons x m ih =>
    rw [smap, List.foldr] at he
    split at he
    · exact ih he
    · rename_i hn
      rcases List.mem_cons.mp he with he | he
      · subst he; exact hn
      · exact ih he

end Sys2Proof
end

