-- ==== Sys2Proof/Laws/Keeps.lean ====
section
/-! SUPPORT. What no command undoes, as one relation between two states, and how it passes through the ways a meaning is put together. -/

namespace Sys2Proof.Machine

/-- What every meaning keeps from `s` to `t`: the queue of waiting commands, every programmed fuse bit (R209), the canonical form of DRAM, and
the order of the free values. -/
structure Keeps (s t : State) : Prop where
  pending : t.pending = s.pending
  fresh : s.fresh ≤ t.fresh
  fuses : ∀ k i, (sget 0 s.fuses.bits k).getLsbD i = true → (sget 0 t.fuses.bits k).getLsbD i = true
  mem : Safety.memoryCanonical s → Safety.memoryCanonical t

theorem Keeps.refl (s : State) : Keeps s s := ⟨rfl, Nat.le_refl _, fun _ _ h => h, fun h => h⟩

theorem Keeps.trans {s t u : State} (h : Keeps s t) (k : Keeps t u) : Keeps s u :=
  ⟨k.pending.trans h.pending, Nat.le_trans h.fresh k.fresh, fun a i x => k.fuses a i (h.fuses a i x), fun x => k.mem (h.mem x)⟩

/-- A change of any part but the queue, the free values, the programmed fuses and the DRAM bytes. -/
theorem Keeps.upd {s0 t : State} {readOut mode mgr boot flash settings fuses ao cfg fab bm dm sdu bank pin noc adl xcvr span ddr mee wds dbg clk pwr tst regs} (h : Keeps s0 t)
    (hm : Ddr.mem ddr = t.ddr.mem) (hf : Fuses.bits fuses = t.fuses.bits) :
    Keeps s0 ⟨t.pending, t.fresh, readOut, mode, mgr, boot, flash, settings, fuses, ao, cfg, fab, bm, dm, sdu, bank, pin, noc, adl, xcvr, span, ddr, mee, wds, dbg, clk, pwr, tst, regs⟩ :=
  ⟨h.pending, h.fresh, fun k i x => by rw [hf]; exact h.fuses k i x,
    fun x => by have := h.mem x; unfold Safety.memoryCanonical at *; rw [hm]; exact this⟩

theorem Keeps.ite {s0 a b : State} {c : Prop} [Decidable c] (ha : Keeps s0 a) (hb : Keeps s0 b) : Keeps s0 (if c then a else b) := by
  split <;> assumption

theorem Keeps.ite2 {s0 : State} {α : Type} {a b : α × State} {c : Prop} [Decidable c] (ha : Keeps s0 a.2) (hb : Keeps s0 b.2) :
    Keeps s0 (if c then a else b).2 := by split <;> assumption

theorem Keeps.ite22 {s0 : State} {α β : Type} {a b : α × β × State} {c : Prop} [Decidable c] (ha : Keeps s0 a.2.2) (hb : Keeps s0 b.2.2) :
    Keeps s0 (if c then a else b).2.2 := by split <;> assumption

theorem Keeps.tup {s0 t : State} {α : Type} {a : α} (h : Keeps s0 t) : Keeps s0 (a, t).2 := h

theorem Keeps.of2 {s0 t : State} {α : Type} {a : α} {p : α × State} (he : p = (a, t)) (h : Keeps s0 p.2) : Keeps s0 t := by subst he; exact h

theorem Keeps.of22 {s0 t : State} {α β : Type} {a : α} {b : β} {p : α × β × State} (he : p = (a, b, t)) (h : Keeps s0 p.2.2) : Keeps s0 t := by
  subst he; exact h

theorem Keeps.getD {s0 s : State} {o : Option State} (h : ∀ t, o = some t → Keeps s0 t) (hs : Keeps s0 s) : Keeps s0 (o.getD s) := by
  cases o with
  | none => exact hs
  | some t => exact h t rfl

/-- A fold that may stop with an error keeps what each of its steps keeps. -/
theorem Keeps.foldOk {s0 : State} {α ε : Type} {f : Except ε State → α → Except ε State}
    (hf : ∀ r a, (∀ t, r = .ok t → Keeps s0 t) → ∀ t, f r a = .ok t → Keeps s0 t) (l : List α) :
    ∀ r, (∀ t, r = .ok t → Keeps s0 t) → ∀ t, l.foldl f r = .ok t → Keeps s0 t := by
  induction l with
  | nil => exact fun _ h => h
  | cons a l ih => exact fun r h => ih (f r a) (hf r a h)

theorem State.onDdr_keeps {s0 : State} {f : Ddr → Ddr} {s : State} (hs : Keeps s0 s) (hf : (f s.ddr).mem = s.ddr.mem) : Keeps s0 (State.onDdr f s) :=
  Keeps.upd hs hf rfl

theorem State.onFuses_keeps {s0 : State} {f : Fuses → Fuses} {s : State} (hs : Keeps s0 s) (hf : (f s.fuses).bits = s.fuses.bits) :
    Keeps s0 (State.onFuses f s) := Keeps.upd hs rfl hf

theorem State.each_keeps {s0 : State} {α : Type} {l : List α} {f : α → State → State} {s : State}
    (hf : ∀ a0 a1, Keeps s0 a1 → Keeps s0 (f a0 a1)) (hs : Keeps s0 s) : Keeps s0 (State.each l f s) := by
  unfold State.each
  induction l generalizing s with
  | nil => exact hs
  | cons a l ih => exact ih (hf a s hs)

theorem State.take_keeps {s0 s : State} {w : Nat} (hs : Keeps s0 s) : Keeps s0 (State.take s w).2 :=
  ⟨hs.pending, Nat.le_trans hs.fresh (Nat.le_succ _), hs.fuses, hs.mem⟩

theorem State.nextFree_keeps {s0 s : State} (hs : Keeps s0 s) : Keeps s0 (State.nextFree s) :=
  ⟨hs.pending, Nat.le_trans hs.fresh (Nat.le_succ _), hs.fuses, hs.mem⟩

/-- DRAM that has lost its contents is canonical. -/
theorem Keeps.ddrLost {s0 s : State} (hs : Keeps s0 s) : Keeps s0 { s with ddr := {} } := ⟨hs.pending, hs.fresh, hs.fuses, fun _ => rfl⟩

end Sys2Proof.Machine
end

