-- ==== Sys2Proof/Laws/KeepsOps.lean ====
section
/-! SUPPORT. What each function of Machine/Ops.lean keeps. -/

namespace Sys2Proof.Machine

theorem State.onMgr_keeps {s0 : State} {f : Mgr → Mgr} {s : State} (hs : Keeps s0 s) : Keeps s0 (State.onMgr f s) := by
  unfold State.onMgr
  exact Keeps.upd hs rfl rfl

theorem State.onBoot_keeps {s0 : State} {f : Boot → Boot} {s : State} (hs : Keeps s0 s) : Keeps s0 (State.onBoot f s) := by
  unfold State.onBoot
  exact Keeps.upd hs rfl rfl

theorem State.onFlash_keeps {s0 : State} {f : Flash → Flash} {s : State} (hs : Keeps s0 s) : Keeps s0 (State.onFlash f s) := by
  unfold State.onFlash
  exact Keeps.upd hs rfl rfl

theorem State.onSettings_keeps {s0 : State} {f : Settings → Settings} {s : State} (hs : Keeps s0 s) : Keeps s0 (State.onSettings f s) := by
  unfold State.onSettings
  exact Keeps.upd hs rfl rfl

theorem State.onAo_keeps {s0 : State} {f : AlwaysOn → AlwaysOn} {s : State} (hs : Keeps s0 s) : Keeps s0 (State.onAo f s) := by
  unfold State.onAo
  exact Keeps.upd hs rfl rfl

theorem State.onCfg_keeps {s0 : State} {f : Cfg → Cfg} {s : State} (hs : Keeps s0 s) : Keeps s0 (State.onCfg f s) := by
  unfold State.onCfg
  exact Keeps.upd hs rfl rfl

theorem State.onFab_keeps {s0 : State} {f : Fabric → Fabric} {s : State} (hs : Keeps s0 s) : Keeps s0 (State.onFab f s) := by
  unfold State.onFab
  exact Keeps.upd hs rfl rfl

theorem State.onNoc_keeps {s0 : State} {f : Noc → Noc} {s : State} (hs : Keeps s0 s) : Keeps s0 (State.onNoc f s) := by
  unfold State.onNoc
  exact Keeps.upd hs rfl rfl

theorem State.onAdl_keeps {s0 : State} {f : Adl → Adl} {s : State} (hs : Keeps s0 s) : Keeps s0 (State.onAdl f s) := by
  unfold State.onAdl
  exact Keeps.upd hs rfl rfl

theorem State.onXcvr_keeps {s0 : State} {f : Xcvr → Xcvr} {s : State} (hs : Keeps s0 s) : Keeps s0 (State.onXcvr f s) := by
  unfold State.onXcvr
  exact Keeps.upd hs rfl rfl

theorem State.onSpan_keeps {s0 : State} {f : Span → Span} {s : State} (hs : Keeps s0 s) : Keeps s0 (State.onSpan f s) := by
  unfold State.onSpan
  exact Keeps.upd hs rfl rfl

theorem State.onMee_keeps {s0 : State} {f : Mee → Mee} {s : State} (hs : Keeps s0 s) : Keeps s0 (State.onMee f s) := by
  unfold State.onMee
  exact Keeps.upd hs rfl rfl

theorem State.onWds_keeps {s0 : State} {f : Wds → Wds} {s : State} (hs : Keeps s0 s) : Keeps s0 (State.onWds f s) := by
  unfold State.onWds
  exact Keeps.upd hs rfl rfl

theorem State.onDbg_keeps {s0 : State} {f : Dbg → Dbg} {s : State} (hs : Keeps s0 s) : Keeps s0 (State.onDbg f s) := by
  unfold State.onDbg
  exact Keeps.upd hs rfl rfl

theorem State.onClk_keeps {s0 : State} {f : Clk → Clk} {s : State} (hs : Keeps s0 s) : Keeps s0 (State.onClk f s) := by
  unfold State.onClk
  exact Keeps.upd hs rfl rfl

theorem State.onPwr_keeps {s0 : State} {f : Pwr → Pwr} {s : State} (hs : Keeps s0 s) : Keeps s0 (State.onPwr f s) := by
  unfold State.onPwr
  exact Keeps.upd hs rfl rfl

theorem State.onTst_keeps {s0 : State} {f : Tst → Tst} {s : State} (hs : Keeps s0 s) : Keeps s0 (State.onTst f s) := by
  unfold State.onTst
  exact Keeps.upd hs rfl rfl

theorem State.when_keeps {s0 : State} {b : Bool} {f : State → State} {s : State} (hf : ∀ a0, Keeps s0 a0 → Keeps s0 (f a0)) (hs : Keeps s0 s) : Keeps s0 (State.when b f s) := by
  unfold State.when
  exact Keeps.ite (hf _ hs) hs

theorem State.readTo_keeps {s0 : State} {r : Word × State} (hr : Keeps s0 r.2) : Keeps s0 (State.readTo r) := by
  unfold State.readTo
  extract_lets -merge -underBinder +onlyGivenNames u0
  have h60 : Keeps s0 u0 := hr
  exact Keeps.upd h60 rfl rfl

theorem State.bmAtMod_keeps {s0 : State} {b : BmId} {f : BlockMem → BlockMem} {s : State} (hs : Keeps s0 s) : Keeps s0 (State.bmAtMod b f s) := by
  unfold State.bmAtMod
  exact Keeps.upd hs rfl rfl

theorem State.dmAtMod_keeps {s0 : State} {c : SecId} {f : DeepMem → DeepMem} {s : State} (hs : Keeps s0 s) : Keeps s0 (State.dmAtMod c f s) := by
  unfold State.dmAtMod
  exact Keeps.upd hs rfl rfl

theorem State.sduAtMod_keeps {s0 : State} {u : SduId} {f : Sdu → Sdu} {s : State} (hs : Keeps s0 s) : Keeps s0 (State.sduAtMod u f s) := by
  unfold State.sduAtMod
  exact Keeps.upd hs rfl rfl

theorem State.bankAtMod_keeps {s0 : State} {n : Nat} {f : Bank → Bank} {s : State} (hs : Keeps s0 s) : Keeps s0 (State.bankAtMod n f s) := by
  unfold State.bankAtMod
  exact Keeps.upd hs rfl rfl

theorem State.pinAtMod_keeps {s0 : State} {q : PinId} {f : Pin → Pin} {s : State} (hs : Keeps s0 s) : Keeps s0 (State.pinAtMod q f s) := by
  unfold State.pinAtMod
  exact Keeps.upd hs rfl rfl

theorem State.secAtMod_keeps {s0 : State} {n : Nat} {f : Sector → Sector} {s : State} (hs : Keeps s0 s) : Keeps s0 (State.secAtMod n f s) := by
  unfold State.secAtMod
  exact State.onCfg_keeps hs

theorem State.regionAtMod_keeps {s0 : State} {n : Nat} {f : Region → Region} {s : State} (hs : Keeps s0 s) : Keeps s0 (State.regionAtMod n f s) := by
  unfold State.regionAtMod
  exact State.onCfg_keeps hs

theorem State.bridgeAtMod_keeps {s0 : State} {n : Nat} {f : BridgeGroup → BridgeGroup} {s : State} (hs : Keeps s0 s) : Keeps s0 (State.bridgeAtMod n f s) := by
  unfold State.bridgeAtMod
  exact State.onFab_keeps hs

theorem State.chanAtMod_keeps {s0 : State} {n : Nat} {f : Channel → Channel} {s : State} (hs : Keeps s0 s) : Keeps s0 (State.chanAtMod n f s) := by
  unfold State.chanAtMod
  exact State.onNoc_keeps hs

theorem State.iportAtMod_keeps {s0 : State} {n : Nat} {f : IPort → IPort} {s : State} (hs : Keeps s0 s) : Keeps s0 (State.iportAtMod n f s) := by
  unfold State.iportAtMod
  exact State.onNoc_keeps hs

theorem State.tportAtMod_keeps {s0 : State} {n : Nat} {f : TPort → TPort} {s : State} (hs : Keeps s0 s) : Keeps s0 (State.tportAtMod n f s) := by
  unfold State.tportAtMod
  exact State.onNoc_keeps hs

theorem State.nocDieAtMod_keeps {s0 : State} {n : Nat} {f : NocDie → NocDie} {s : State} (hs : Keeps s0 s) : Keeps s0 (State.nocDieAtMod n f s) := by
  unfold State.nocDieAtMod
  exact State.onNoc_keeps hs

theorem State.bundleAtMod_keeps {s0 : State} {n : Nat} {f : Bundle → Bundle} {s : State} (hs : Keeps s0 s) : Keeps s0 (State.bundleAtMod n f s) := by
  unfold State.bundleAtMod
  exact State.onAdl_keeps hs

theorem State.bndAtMod_keeps {s0 : State} {n : Nat} {f : Boundary → Boundary} {s : State} (hs : Keeps s0 s) : Keeps s0 (State.bndAtMod n f s) := by
  unfold State.bndAtMod
  exact State.onAdl_keeps hs

theorem State.dieAtMod_keeps {s0 : State} {n : Nat} {f : DieLink → DieLink} {s : State} (hs : Keeps s0 s) : Keeps s0 (State.dieAtMod n f s) := by
  unfold State.dieAtMod
  exact State.onAdl_keeps hs

theorem State.laneAtMod_keeps {s0 : State} {l : LaneId} {f : Lane → Lane} {s : State} (hs : Keeps s0 s) : Keeps s0 (State.laneAtMod l f s) := by
  unfold State.laneAtMod
  exact State.onXcvr_keeps hs

theorem State.portAtMod_keeps {s0 : State} {n : Nat} {f : SpPort → SpPort} {s : State} (hs : Keeps s0 s) : Keeps s0 (State.portAtMod n f s) := by
  unfold State.portAtMod
  exact State.onSpan_keeps hs

theorem State.ddrAtMod_keeps {s0 : State} {n : Nat} {f : Chan → Chan} {s : State} (hs : Keeps s0 s) : Keeps s0 (State.ddrAtMod n f s) := by
  unfold State.ddrAtMod
  exact State.onDdr_keeps hs rfl

theorem State.slotAtMod_keeps {s0 : State} {n : Nat} {f : Slot → Slot} {s : State} (hs : Keeps s0 s) : Keeps s0 (State.slotAtMod n f s) := by
  unfold State.slotAtMod
  exact State.onMee_keeps hs

theorem State.mregAtMod_keeps {s0 : State} {n : Nat} {f : MRegion → MRegion} {s : State} (hs : Keeps s0 s) : Keeps s0 (State.mregAtMod n f s) := by
  unfold State.mregAtMod
  exact State.onMee_keeps hs

theorem State.queueAtMod_keeps {s0 : State} {n : Nat} {f : WQueue → WQueue} {s : State} (hs : Keeps s0 s) : Keeps s0 (State.queueAtMod n f s) := by
  unfold State.queueAtMod
  exact State.onWds_keeps hs

theorem State.ctxAtMod_keeps {s0 : State} {n : Nat} {f : WCtx → WCtx} {s : State} (hs : Keeps s0 s) : Keeps s0 (State.ctxAtMod n f s) := by
  unfold State.ctxAtMod
  exact State.onWds_keeps hs

theorem State.hartAtMod_keeps {s0 : State} {n : Nat} {f : Hart → Hart} {s : State} (hs : Keeps s0 s) : Keeps s0 (State.hartAtMod n f s) := by
  unfold State.hartAtMod
  exact State.onDbg_keeps hs

theorem State.wdtAtMod_keeps {s0 : State} {n : Nat} {f : Watchdog → Watchdog} {s : State} (hs : Keeps s0 s) : Keeps s0 (State.wdtAtMod n f s) := by
  unfold State.wdtAtMod
  exact State.onDbg_keeps hs

theorem State.domAtMod_keeps {s0 : State} {n : Nat} {f : ClkDom → ClkDom} {s : State} (hs : Keeps s0 s) : Keeps s0 (State.domAtMod n f s) := by
  unfold State.domAtMod
  exact State.onClk_keeps hs

theorem State.calAtMod_keeps {s0 : State} {n : Nat} {f : CalEnt → CalEnt} {s : State} (hs : Keeps s0 s) : Keeps s0 (State.calAtMod n f s) := by
  unfold State.calAtMod
  exact State.onClk_keeps hs

theorem State.pdomAtMod_keeps {s0 : State} {n : Nat} {f : PDom → PDom} {s : State} (hs : Keeps s0 s) : Keeps s0 (State.pdomAtMod n f s) := by
  unfold State.pdomAtMod
  exact State.onPwr_keeps hs

theorem State.limitAtMod_keeps {s0 : State} {n : Nat} {f : TelLimit → TelLimit} {s : State} (hs : Keeps s0 s) : Keeps s0 (State.limitAtMod n f s) := by
  unfold State.limitAtMod
  exact State.onTst_keeps hs

theorem State.setReg_keeps {s0 : State} {die : Nat} {off : Nat} {v : Word} {s : State} (hs : Keeps s0 s) : Keeps s0 (State.setReg die off v s) := by
  unfold State.setReg
  exact Keeps.upd hs rfl rfl

end Sys2Proof.Machine
end

