-- ==== Sys2Proof/Laws/KeepsNocCore.lean ====
section
/-! SUPPORT. What each function of Machine/NocCore.lean keeps. -/

namespace Sys2Proof.Machine

theorem injectFlits_keeps {s0 : State} {r : Nat} {vc : Nat} {fs : List (BitVec 288)} {s : State} (hs : Keeps s0 s) : Keeps s0 (injectFlits r vc fs s) := by
  unfold injectFlits
  exact State.chanAtMod_keeps hs

theorem sendRsp_keeps {s0 : State} {tp : Nat} {r : NRsp} {s : State} (hs : Keeps s0 s) : Keeps s0 (sendRsp tp r s) := by
  unfold sendRsp
  exact injectFlits_keeps hs

theorem issueAs_keeps {s0 : State} {p : Nat} {r : NocReq} {qos : BitVec 2} {fwg : BitVec 5} {sdev : BitVec 12} {hp : Bool} {s : State} (hs : Keeps s0 s) : Keeps s0 (issueAs p r qos fwg sdev hp s) := by
  unfold issueAs
  extract_lets -merge -underBinder +onlyGivenNames u0 u1 u2
  refine Keeps.ite (State.iportAtMod_keeps (State.iportAtMod_keeps hs)) (Keeps.ite (State.iportAtMod_keeps hs) (Keeps.ite (State.iportAtMod_keeps hs) ?_))
  split
  · exact State.iportAtMod_keeps hs
  · extract_lets -merge -underBinder +onlyGivenNames u9
    exact Keeps.ite (State.iportAtMod_keeps hs) (injectFlits_keeps (State.iportAtMod_keeps hs))

theorem issue_keeps {s0 : State} {p : Nat} {r : NocReq} {s : State} (hs : Keeps s0 s) : Keeps s0 (issue p r s) := by
  unfold issue
  exact issueAs_keeps hs

end Sys2Proof.Machine
end

