-- ==== Sys2Proof/Laws/KeepsSpanCore.lean ====
section
/-! SUPPORT. What each function of Machine/SpanCore.lean keeps. -/

namespace Sys2Proof.Machine

theorem closeGroup_keeps {s0 : State} {k : Nat} {s : State} (hs : Keeps s0 s) : Keeps s0 (closeGroup k s) := by
  unfold closeGroup
  extract_lets -merge -underBinder +onlyGivenNames u0 u1 u2 u3 u4 u5
  exact Keeps.ite hs (State.portAtMod_keeps hs)

theorem putFrame_keeps {s0 : State} {k : Nat} {vc : Nat} {f : List Word} {s : State} (hs : Keeps s0 s) : Keeps s0 (putFrame k vc f s) := by
  unfold putFrame
  extract_lets -merge -underBinder +onlyGivenNames u0 u1 u2 u3 u4 u5 u6 u7 u8
  have h10 : Keeps s0 u0 := State.portAtMod_keeps hs
  have h11 : Keeps s0 u8 := State.portAtMod_keeps h10
  exact Keeps.ite (closeGroup_keeps h11) h11

theorem spanPump_keeps {s0 : State} {k n : Nat} {s : State} (hs : Keeps s0 s) : Keeps s0 (spanPump k n s) := by
  induction n generalizing s with
  | zero => exact hs
  | succ n ih =>
    unfold spanPump
    dsimp only
    split
    · exact hs
    · split
      · exact hs
      · exact ih (putFrame_keeps (State.portAtMod_keeps hs))

theorem spanQueue_keeps {s0 : State} {k : Nat} {fs : List (Nat × List Word)} {s : State} (hs : Keeps s0 s) : Keeps s0 (spanQueue k fs s) := by
  unfold spanQueue
  extract_lets -merge -underBinder +onlyGivenNames u0
  have h2 : Keeps s0 u0 := State.portAtMod_keeps hs
  exact spanPump_keeps h2

theorem spanSend_keeps {s0 : State} {k : Nat} {fs : List (List Word)} {s : State} (hs : Keeps s0 s) : Keeps s0 (spanSend k fs s) := by
  unfold spanSend
  exact spanQueue_keeps hs

theorem spanSendU_keeps {s0 : State} {k : Nat} {f : List Word} {s : State} (hs : Keeps s0 s) : Keeps s0 (spanSendU k f s) := by
  unfold spanSendU
  extract_lets -merge -underBinder +onlyGivenNames u0 u1 u2 u3 u4
  have h60 : Keeps s0 u2 := State.portAtMod_keeps hs
  exact Keeps.ite (State.portAtMod_keeps h60) (State.portAtMod_keeps h60)

theorem sendTrig_keeps {s0 : State} {except : Option Nat} {sdev : Nat} {lines : Nat} {pos : Nat} {phase : Nat} {s : State} (hs : Keeps s0 s) : Keeps s0 (sendTrig except sdev lines pos phase s) := by
  unfold sendTrig
  extract_lets -merge -underBinder +onlyGivenNames u0
  exact State.each_keeps (fun _ _ h60 => spanSend_keeps h60) hs

theorem sendAlign_keeps {s0 : State} {hops : Nat} {root : Nat} {phase : Nat} {s : State} (hs : Keeps s0 s) : Keeps s0 (sendAlign hops root phase s) := by
  unfold sendAlign
  exact State.each_keeps (fun _ _ h0 => spanSendU_keeps h0) hs

end Sys2Proof.Machine
end

