-- ==== Sys2Proof/Laws/KeepsNotice.lean ====
section
/-! SUPPORT. What each function of Machine/Notice.lean keeps. -/

namespace Sys2Proof.Machine

theorem traceRetire_keeps {s0 : State} {s : State} (hs : Keeps s0 s) : Keeps s0 (traceRetire s) := by
  unfold traceRetire
  exact State.iportAtMod_keeps hs

theorem traceFlush_keeps {s0 : State} {s : State} (hs : Keeps s0 s) : Keeps s0 (traceFlush s) := by
  unfold traceFlush
  extract_lets -merge -underBinder +onlyGivenNames u0 u1 u2 u3 u4 u5 u6 u7
  have h60 : Keeps s0 u0 := traceRetire_keeps hs
  have h61 : Keeps s0 u7 := issue_keeps h60
  exact Keeps.ite h60 (Keeps.ite (State.onDbg_keeps h61) (State.onDbg_keeps h60))

theorem tracePush_keeps {s0 : State} {p : List Word} {s : State} (hs : Keeps s0 s) : Keeps s0 (tracePush p s) := by
  unfold tracePush
  refine Keeps.ite (State.onDbg_keeps hs) ?_
  extract_lets -merge -underBinder +onlyGivenNames u0
  have h60 : Keeps s0 u0 := State.onDbg_keeps hs
  exact Keeps.ite (traceFlush_keeps h60) h60

theorem trace_keeps {s0 : State} {p : List Word} {s : State} (hs : Keeps s0 s) : Keeps s0 (trace p s) := by
  unfold trace
  refine Keeps.ite hs ?_
  extract_lets -merge -underBinder +onlyGivenNames u0 u1 u2 u3 u4
  have h60 : Keeps s0 u1 := Keeps.ite (tracePush_keeps (State.onDbg_keeps hs)) hs
  have h61 : Keeps s0 u2 := tracePush_keeps h60
  have h62 : Keeps s0 u3 := Keeps.ite (State.onDbg_keeps (tracePush_keeps h61)) h61
  have h63 : Keeps s0 u4 := State.nextFree_keeps h62
  split
  · exact h63
  · exact State.onDbg_keeps h63

theorem dbgVotes_keeps {s0 : State} {s : State} (hs : Keeps s0 s) : Keeps s0 (dbgVotes s) := by
  unfold dbgVotes
  extract_lets -merge -underBinder +onlyGivenNames u0 u1
  refine State.each_keeps (fun _ _ h60 => ?_) hs
  extract_lets -merge -underBinder +onlyGivenNames u61
  exact State.pdomAtMod_keeps h60

theorem heldStart_keeps {s0 : State} {s : State} (hs : Keeps s0 s) : Keeps s0 (heldStart s) := by
  unfold heldStart
  exact State.onDbg_keeps (Keeps.ite hs (State.each_keeps (fun _ _ h0 => State.hartAtMod_keeps h0) hs))

theorem requestHeld_keeps {s0 : State} {s : State} (hs : Keeps s0 s) : Keeps s0 (requestHeld s) := by
  unfold requestHeld
  split
  · exact Keeps.ite hs (heldStart_keeps hs)
  · exact Keeps.ite hs (heldStart_keeps hs)
  · exact Keeps.ite hs (heldStart_keeps hs)
  · exact State.onDbg_keeps hs
  · exact Keeps.ite (dbgVotes_keeps (State.onDbg_keeps hs)) hs
  · exact hs
  · exact hs
  · exact hs

theorem setMode_keeps {s0 : State} {m : Mode} {s : State} (hs : Keeps s0 s) : Keeps s0 (setMode m s) := by
  unfold setMode
  extract_lets -merge -underBinder +onlyGivenNames u0 u1
  have h3 : Keeps s0 u0 := Keeps.upd hs rfl rfl
  have h4 : Keeps s0 u1 := Keeps.ite (State.onDbg_keeps h3) (Keeps.upd h3 rfl rfl)
  exact Keeps.ite (heldStart_keeps h4) h4

theorem freezeDie_keeps {s0 : State} {die : Nat} {s : State} (hs : Keeps s0 s) : Keeps s0 (freezeDie die s) := by
  unfold freezeDie
  extract_lets -merge -underBinder +onlyGivenNames u0
  exact dbgVotes_keeps (State.onDbg_keeps hs)

theorem releaseDie_keeps {s0 : State} {die : Nat} {s : State} (hs : Keeps s0 s) : Keeps s0 (releaseDie die s) := by
  unfold releaseDie
  exact dbgVotes_keeps (State.onDbg_keeps hs)

theorem haltDieSdus_keeps {s0 : State} {die : Nat} {s : State} (hs : Keeps s0 s) : Keeps s0 (haltDieSdus die s) := by
  unfold haltDieSdus
  exact State.each_keeps (fun _ _ h0 => State.each_keeps (fun _ _ h1 => Keeps.upd h1 rfl rfl) h0) hs

theorem lineSinks_keeps {s0 : State} {lines : Nat} {l : Nat} {s : State} (hs : Keeps s0 s) : Keeps s0 (lineSinks lines l s) := by
  unfold lineSinks
  extract_lets -merge -underBinder +onlyGivenNames u0 u1 u2 u3 u4 u5 u6
  have h60 : Keeps s0 u1 := trace_keeps hs
  have h61 : Keeps s0 u2 := by
    subst u2
    refine State.when_keeps (fun _ h63 => ?_) h60
    extract_lets -merge -underBinder +onlyGivenNames u64
    exact State.onDbg_keeps h63
  have h124 : Keeps s0 u3 := State.when_keeps (fun _ h125 => State.each_keeps (fun _ _ h126 => freezeDie_keeps h126) h125) h61
  have h127 : Keeps s0 u4 := State.when_keeps (fun _ h128 => State.each_keeps (fun _ _ h129 => State.hartAtMod_keeps h129) h128) h124
  have h130 : Keeps s0 u5 := State.when_keeps (fun _ h131 => State.each_keeps (fun _ _ h132 => State.onFab_keeps h132) h131) h127
  have h133 : Keeps s0 u6 := State.when_keeps (fun _ h134 => State.each_keeps (fun _ _ h135 => haltDieSdus_keeps h135) h134) h130
  exact State.when_keeps (fun _ h136 => requestHeld_keeps h136) h133

theorem fireLines_keeps {s0 : State} {lines : Nat} {loc : Bool} {s : State} (hs : Keeps s0 s) : Keeps s0 (fireLines lines loc s) := by
  unfold fireLines
  extract_lets -merge -underBinder +onlyGivenNames u0 u1 u2
  have h60 : Keeps s0 u2 := State.each_keeps (fun _ _ h61 => lineSinks_keeps h61) hs
  exact State.when_keeps (fun _ h62 => State.nextFree_keeps (sendTrig_keeps h62)) h60

theorem State.mgrNotice_keeps {s0 : State} {s : State} {origin : Nat} {code : Nat} {pos : BitVec 48} {a : Word} {b : Word} (hs : Keeps s0 s) : Keeps s0 (State.mgrNotice s origin code pos a b) := by
  unfold State.mgrNotice
  exact State.onMgr_keeps hs

theorem record_keeps {s0 : State} {origin : Nat} {code : Nat} {a : Word} {b : Word} {s : State} (hs : Keeps s0 s) : Keeps s0 (record origin code a b s) := by
  unfold record
  exact Keeps.ite (State.onAo_keeps hs) (State.mgrNotice_keeps hs)

theorem wake_keeps {s0 : State} {cause : Nat} {s : State} (hs : Keeps s0 s) : Keeps s0 (wake cause s) := by
  unfold wake
  extract_lets -merge -underBinder +onlyGivenNames u0 u1
  have h60 : Keeps s0 u1 := State.each_keeps (fun _ _ h61 => State.pdomAtMod_keeps h61) hs
  exact record_keeps (State.onPwr_keeps h60)

theorem raiseD_keeps {s0 : State} {origin : Nat} {code : Nat} {a : Word} {b : Word} {s : State} (hs : Keeps s0 s) : Keeps s0 (raiseD origin code a b s) := by
  unfold raiseD
  extract_lets -merge -underBinder +onlyGivenNames u0 u1 u2
  have h60 : Keeps s0 u0 := record_keeps hs
  have h61 : Keeps s0 u1 := trace_keeps h60
  have h62 : Keeps s0 u2 := by
    subst u2
    refine State.when_keeps (fun _ h64 => ?_) h61
    extract_lets -merge -underBinder +onlyGivenNames u65
    exact Keeps.ite h64 (fireLines_keeps h64)
  exact State.when_keeps (fun _ h125 => wake_keeps h125) h62

theorem raiseFrom_keeps {s0 : State} {origin : Nat} {code : Nat} {s : State} (hs : Keeps s0 s) : Keeps s0 (raiseFrom origin code s) := by
  unfold raiseFrom
  exact raiseD_keeps hs

theorem raise_keeps {s0 : State} {code : Nat} {s : State} (hs : Keeps s0 s) : Keeps s0 (raise code s) := by
  unfold raise
  exact raiseD_keeps hs

theorem aoTake_keeps {s0 : State} {s : State} (hs : Keeps s0 s) : Keeps s0 (aoTake s) := by
  unfold aoTake
  extract_lets -merge -underBinder +onlyGivenNames u0 u1 u2 u3 u4
  have h6 : Keeps s0 u3 := State.onAo_keeps hs
  have h7 : Keeps s0 u4 := State.each_keeps (fun _ _ h8 => (State.mgrNotice_keeps h8)) h6
  exact State.onMgr_keeps h7

theorem greenware_keeps {s0 : State} {cause : Nat} {s : State} (hs : Keeps s0 s) : Keeps s0 (greenware cause s) :=  ⟨hs.pending, hs.fresh, hs.fuses, fun _ => rfl⟩

theorem fatal_keeps {s0 : State} {code : Nat} {s : State} (hs : Keeps s0 s) : Keeps s0 (fatal code s) := by
  unfold fatal
  extract_lets -merge -underBinder +onlyGivenNames u0 u1 u2
  have h60 : Keeps s0 u0 := State.onAo_keeps hs
  exact State.onBoot_keeps (greenware_keeps h60)

end Sys2Proof.Machine
end

