-- ==== Sys2Proof/Laws/KeepsMgrOps.lean ====
section
/-! SUPPORT. What each function of Machine/MgrOps.lean keeps. -/

namespace Sys2Proof.Machine

theorem mbxPost_keeps {s0 : State} {s : State} (hs : Keeps s0 s) : Keeps s0 (mbxPost s) := by
  unfold mbxPost
  split
  · exact hs
  · exact Keeps.ite hs (State.onMgr_keeps hs)

theorem spanTo_keeps {s0 : State} {dev : Nat} {fs : Nat → List (List Word)} {s : State} (hs : Keeps s0 s) : Keeps s0 (spanTo dev fs s) := by
  unfold spanTo
  split
  · exact hs
  · exact Keeps.ite (spanSend_keeps hs) hs

theorem deliverReply_keeps {s0 : State} {id : CmdId} {ws : List Word} {s : State} (hs : Keeps s0 s) : Keeps s0 (deliverReply id ws s) := by
  unfold deliverReply
  split
  · exact State.onMgr_keeps hs
  · exact mbxPost_keeps (State.onMgr_keeps hs)
  · exact State.onMgr_keeps hs
  · exact hs
  · exact spanTo_keeps hs

theorem sendReply_keeps {s0 : State} {c : Cmd} {status : Nat} {final : Bool} {data : List Word} {s : State} (hs : Keeps s0 s) : Keeps s0 (sendReply c status final data s) := by
  unfold sendReply
  exact deliverReply_keeps hs

theorem wakeCmdDone_keeps {s0 : State} {s : State} (hs : Keeps s0 s) : Keeps s0 (wakeCmdDone s) := by
  unfold wakeCmdDone
  exact Keeps.ite (State.pdomAtMod_keeps hs) hs

theorem finish_keeps {s0 : State} {c : Cmd} {status : Nat} {data : List Word} {s : State} (hs : Keeps s0 s) : Keeps s0 (finish c status data s) := by
  unfold finish
  exact wakeCmdDone_keeps (State.onMgr_keeps (sendReply_keeps hs))

theorem finishUnits_keeps {s0 : State} {c : Cmd} {units : List (List Word)} {s : State} (hs : Keeps s0 s) : Keeps s0 (finishUnits c units s) := by
  unfold finishUnits
  extract_lets -merge -underBinder +onlyGivenNames u0
  exact finish_keeps (State.each_keeps (fun _ _ h60 => sendReply_keeps h60) hs)

theorem finishAfter_keeps {s0 : State} {c : Cmd} {units : List (List Word)} {status : Nat} {last : List Word} {s : State} (hs : Keeps s0 s) : Keeps s0 (finishAfter c units status last s) := by
  unfold finishAfter
  exact finish_keeps (State.each_keeps (fun _ _ h0 => sendReply_keeps h0) hs)

theorem cmdMod_keeps {s0 : State} {id : CmdId} {f : Cmd → Cmd} {s : State} (hs : Keeps s0 s) : Keeps s0 (cmdMod id f s) := by
  unfold cmdMod
  exact State.onMgr_keeps hs

theorem startCmdOr_keeps {s0 : State} {bad : Cmd → State → State} {id : CmdId} {op : Nat} {body : Cmd → State → State} {s : State} (hbad : ∀ a0 a1, Keeps s0 a1 → Keeps s0 (bad a0 a1)) (hbody : ∀ a0 a1, Keeps s0 a1 → Keeps s0 (body a0 a1)) (hs : Keeps s0 s) : Keeps s0 (startCmdOr bad id op body s) := by
  unfold startCmdOr
  split
  · exact hs
  · refine Keeps.ite hs ?_
    extract_lets -merge -underBinder +onlyGivenNames u0
    have h60 : Keeps s0 u0 := cmdMod_keeps hs
    exact Keeps.ite (hbody _ _ h60) (hbad _ _ h60)

theorem startCmd_keeps {s0 : State} {id : CmdId} {op : Nat} {body : Cmd → State → State} {s : State} (hbody : ∀ a0 a1, Keeps s0 a1 → Keeps s0 (body a0 a1)) (hs : Keeps s0 s) : Keeps s0 (startCmd id op body s) := by
  unfold startCmd
  exact startCmdOr_keeps (fun _ _ h0 => finish_keeps h0) (fun _ _ h1 => hbody _ _ h1) hs

theorem require_keeps {s0 : State} {ok : Bool} {status : Nat} {c : Cmd} {k : State → State} {s : State} (hk : ∀ a0, Keeps s0 a0 → Keeps s0 (k a0)) (hs : Keeps s0 s) : Keeps s0 (require ok status c k s) := by
  unfold require
  exact Keeps.ite (hk _ hs) (finish_keeps hs)

theorem wakeHub_keeps {s0 : State} {t : Transport} {s : State} (hs : Keeps s0 s) : Keeps s0 (wakeHub t s) := by
  unfold wakeHub
  refine Keeps.ite hs (Keeps.ite ?_ (State.onPwr_keeps (State.pdomAtMod_keeps hs)))
  extract_lets -merge -underBinder +onlyGivenNames u0
  have h2 : Keeps s0 u0 := State.onXcvr_keeps hs
  exact Keeps.ite h2 (wake_keeps h2)

theorem refuse_keeps {s0 : State} {id : CmdId} {h : Word} {status : Nat} {s : State} (hs : Keeps s0 s) : Keeps s0 (refuse id h status s) := by
  unfold refuse
  exact deliverReply_keeps hs

theorem accept_keeps {s0 : State} {id : CmdId} {ws : List Word} {s : State} (hs : Keeps s0 s) : Keeps s0 (accept id ws s) := by
  unfold accept
  extract_lets -merge -underBinder +onlyGivenNames u0 u1 u2
  have h60 : Keeps s0 u2 := State.onMgr_keeps hs
  exact Keeps.ite (sendReply_keeps h60) h60

end Sys2Proof.Machine
end

