-- ==== Sys2Proof/Laws/KeepsWdsCore.lean ====
section
/-! SUPPORT. What each function of Machine/WdsCore.lean keeps. -/

namespace Sys2Proof.Machine

theorem wdsIssue_keeps {s0 : State} {q : Nat} {slot : Nat} {write : Bool} {data : List (BitVec 256)} {s : State} (hs : Keeps s0 s) : Keeps s0 (wdsIssue q slot write data s) := by
  unfold wdsIssue
  extract_lets -merge -underBinder +onlyGivenNames u0 u1
  have h60 : Keeps s0 u1 := State.onWds_keeps hs
  exact issue_keeps h60

theorem spillWrite_keeps {s0 : State} {q : Nat} {part : Bool} {s : State} (hs : Keeps s0 s) : Keeps s0 (spillWrite q part s) := by
  unfold spillWrite
  split
  · exact hs
  · exact Keeps.ite (wdsIssue_keeps (State.queueAtMod_keeps hs)) hs

theorem refillStart_keeps {s0 : State} {q : Nat} {s : State} (hs : Keeps s0 s) : Keeps s0 (refillStart q s) := by
  unfold refillStart
  extract_lets -merge -underBinder +onlyGivenNames u0
  split
  · exact Keeps.ite (wdsIssue_keeps (State.queueAtMod_keeps hs)) hs
  · exact hs

theorem wdsSpillWork_keeps {s0 : State} {s : State} (hs : Keeps s0 s) : Keeps s0 (wdsSpillWork s) := by
  unfold wdsSpillWork
  exact State.each_keeps (fun _ _ h0 => refillStart_keeps (spillWrite_keeps h0)) hs

theorem ringAdd_keeps {s0 : State} {q : Nat} {it : WItem} {s : State} (hs : Keeps s0 s) : Keeps s0 (ringAdd q it s) := by
  unfold ringAdd
  extract_lets -merge -underBinder +onlyGivenNames u0 u1
  have h60 : Keeps s0 u1 := by
    subst u1
    split
    · exact Keeps.ite (State.queueAtMod_keeps hs) (State.queueAtMod_keeps hs)
    · exact State.queueAtMod_keeps hs
  exact spillWrite_keeps h60

theorem enqueueItem_keeps {s0 : State} {q : Nat} {it : WItem} {s : State} (hs : Keeps s0 s) : Keeps s0 (enqueueItem q it s) := by
  unfold enqueueItem
  exact Keeps.ite (ringAdd_keeps hs) (State.queueAtMod_keeps hs)

theorem dispatchItem_keeps {s0 : State} {c : Nat} {a : Nat × Option Nat × WItem} {s : State} (hs : Keeps s0 s) : Keeps s0 (dispatchItem c a s) := by
  unfold dispatchItem
  extract_lets -merge -underBinder +onlyGivenNames u0 u1 u2 u3
  have h60 : Keeps s0 u1 := by
    subst u1
    split
    · exact State.queueAtMod_keeps hs
    · exact State.onWds_keeps hs
  have h61 : Keeps s0 u2 := State.ctxAtMod_keeps h60
  have h62 : Keeps s0 u3 := State.onWds_keeps h61
  exact State.when_keeps (fun _ h63 => raise_keeps h63) h62

theorem wdsAnswer_keeps {s0 : State} {r : Option NReq} {st : BitVec 4} {data : List (BitVec 256)} {s : State} (hs : Keeps s0 s) : Keeps s0 (wdsAnswer r st data s) := by
  unfold wdsAnswer
  split
  · exact sendRsp_keeps hs
  · exact State.onWds_keeps hs

theorem sendItem_keeps {s0 : State} {dev : Nat} {iop : Nat} {octx : Nat} {rqueue : Nat} {refused : Bool} {ticket : Nat} {item : BitVec 256} {s : State} (hs : Keeps s0 s) : Keeps s0 (sendItem dev iop octx rqueue refused ticket item s) := by
  unfold sendItem
  exact spanTo_keeps hs

theorem serveCtx_keeps {s0 : State} {c : Nat} {s : State} (hs : Keeps s0 s) : Keeps s0 (serveCtx c s) := by
  unfold serveCtx
  split
  · exact hs
  · extract_lets -merge -underBinder +onlyGivenNames u0 u1 u2
    have h60 : Keeps s0 u2 := dispatchItem_keeps hs
    exact Keeps.ite (sendItem_keeps h60) (wdsAnswer_keeps (State.ctxAtMod_keeps h60))

theorem serveN_keeps {s0 : State} {n : Nat} {s : State} (hs : Keeps s0 s) : Keeps s0 (serveN n s) := by
  induction n generalizing s with
  | zero => exact hs
  | succ n ih =>
    unfold serveN
    extract_lets -merge +onlyGivenNames cs
    refine Keeps.ite ?_ hs
    split
    rename_i he
    have h := Keeps.of2 he (State.take_keeps hs)
    extract_lets -merge +onlyGivenNames order
    split
    · exact ih (serveCtx_keeps h)
    · exact h

theorem wdsServe_keeps {s0 : State} {s : State} (hs : Keeps s0 s) : Keeps s0 (wdsServe s) := by
  unfold wdsServe
  exact Keeps.ite (wdsSpillWork_keeps (serveN_keeps hs)) hs

theorem unlockItem_keeps {s0 : State} {it : WItem} {s : State} (hs : Keeps s0 s) : Keeps s0 (unlockItem it s) := by
  unfold unlockItem
  split
  · exact State.onWds_keeps hs
  · exact hs

theorem wdsRelease_keeps {s0 : State} {c : Nat} {ticket : BitVec 16} {s : State} (hs : Keeps s0 s) : Keeps s0 (wdsRelease c ticket s) := by
  unfold wdsRelease
  split
  · exact State.onWds_keeps hs
  · extract_lets -merge -underBinder +onlyGivenNames u0 u1
    have h60 : Keeps s0 u0 := unlockItem_keeps (State.ctxAtMod_keeps hs)
    have h61 : Keeps s0 u1 := by
      subst u1
      split
      · exact sendItem_keeps h60
      · exact h60
    exact wdsServe_keeps h61

theorem redispatch_keeps {s0 : State} {c : Nat} {p : InService → Bool} {except : Option (Fin 256)} {s : State} (hs : Keeps s0 s) : Keeps s0 (redispatch c p except s) := by
  unfold redispatch
  extract_lets -merge -underBinder +onlyGivenNames u0 u1
  have h60 : Keeps s0 u1 := State.ctxAtMod_keeps hs
  exact State.onWds_keeps h60

theorem ctxDead_keeps {s0 : State} {c : Nat} {code : Nat} {s : State} (hs : Keeps s0 s) : Keeps s0 (ctxDead c code s) := by
  unfold ctxDead
  refine Keeps.ite hs ?_
  extract_lets -merge -underBinder +onlyGivenNames u0 u1 u2
  have h60 : Keeps s0 u0 := redispatch_keeps hs
  have h61 : Keeps s0 u2 := State.ctxAtMod_keeps h60
  exact wdsServe_keeps (raise_keeps (State.each_keeps (fun _ _ h62 => wdsAnswer_keeps h62) h61))

theorem wdsRegionOpen_keeps {s0 : State} {die : Nat} {mask : BitVec 192} {s : State} (hs : Keeps s0 s) : Keeps s0 (wdsRegionOpen die mask s) := by
  unfold wdsRegionOpen
  exact State.each_keeps (fun _ _ h0 => ctxDead_keeps h0) hs

theorem wdsPortDown_keeps {s0 : State} {k : Nat} {s : State} (hs : Keeps s0 s) : Keeps s0 (wdsPortDown k s) := by
  unfold wdsPortDown
  exact State.each_keeps (fun _ _ h0 => ctxDead_keeps h0) hs

theorem wdsRsp_keeps {s0 : State} {txid : BitVec 16} {r : NRsp} {s : State} (hs : Keeps s0 s) : Keeps s0 (wdsRsp txid r s) := by
  unfold wdsRsp
  split
  · exact hs
  · extract_lets -merge -underBinder +onlyGivenNames u0 u1
    have h60 : Keeps s0 u0 := State.onWds_keeps hs
    exact Keeps.ite (Keeps.ite (wdsServe_keeps (State.queueAtMod_keeps h60)) (raise_keeps (State.onWds_keeps (State.queueAtMod_keeps h60)))) (State.queueAtMod_keeps h60)

end Sys2Proof.Machine
end

