-- ==== Sys2Proof/Laws/KeepsLaneCore.lean ====
section
/-! SUPPORT. What each function of Machine/LaneCore.lean keeps. -/

namespace Sys2Proof.Machine

theorem xmAllot_keeps {s0 : State} {s : State} (hs : Keeps s0 s) : Keeps s0 (xmAllot s) := by
  unfold xmAllot
  exact State.each_keeps (fun _ _ h0 => State.laneAtMod_keeps h0) hs

theorem stxUnreach_keeps {s0 : State} {k : Nat} {s : State} (hs : Keeps s0 s) : Keeps s0 (stxUnreach k s) := by
  unfold stxUnreach
  extract_lets -merge -underBinder +onlyGivenNames u0 u1
  have h60 : Keeps s0 u1 := State.onSpan_keeps hs
  exact State.each_keeps (fun _ _ h61 => sendRsp_keeps h61) h60

theorem marksLost_keeps {s0 : State} {s : State} (hs : Keeps s0 s) : Keeps s0 (marksLost s) := by
  unfold marksLost
  exact Keeps.ite hs (raise_keeps (State.onSpan_keeps hs))

theorem spanDown_keeps {s0 : State} {k : Nat} {s : State} (hs : Keeps s0 s) : Keeps s0 (spanDown k s) := by
  unfold spanDown
  extract_lets -merge -underBinder +onlyGivenNames u0 u1 u2 u3 u4
  have h60 : Keeps s0 u1 := State.portAtMod_keeps hs
  have h61 : Keeps s0 u2 := State.onSpan_keeps h60
  have h62 : Keeps s0 u3 := wdsPortDown_keeps (raise_keeps (stxUnreach_keeps h61))
  exact Keeps.ite (State.when_keeps (fun _ h63 => marksLost_keeps h63) h62) (State.portAtMod_keeps hs)

theorem spanEnable_keeps {s0 : State} {k : Nat} {s : State} (hs : Keeps s0 s) : Keeps s0 (spanEnable k s) := by
  unfold spanEnable
  exact Keeps.ite (State.each_keeps (fun _ _ h0 => State.laneAtMod_keeps h0) (State.portAtMod_keeps hs)) hs

theorem spanDisable_keeps {s0 : State} {k : Nat} {s : State} (hs : Keeps s0 s) : Keeps s0 (spanDisable k s) := by
  unfold spanDisable
  extract_lets -merge -underBinder +onlyGivenNames u0
  have h60 : Keeps s0 u0 := State.portAtMod_keeps (spanDown_keeps hs)
  exact Keeps.ite (State.each_keeps (fun _ _ h61 => State.laneAtMod_keeps h61) h60) h60

theorem lanePortDown_keeps {s0 : State} {l : LaneId} {s : State} (hs : Keeps s0 s) : Keeps s0 (lanePortDown l s) := by
  unfold lanePortDown
  extract_lets -merge -underBinder +onlyGivenNames u0
  have h60 : Keeps s0 u0 := raiseFrom_keeps hs
  split
  · exact spanDown_keeps h60
  · exact h60

theorem quadIdle_keeps {s0 : State} {n : Nat} {q : Nat} {s : State} (hs : Keeps s0 s) : Keeps s0 (quadIdle n q s) := by
  unfold quadIdle
  exact State.each_keeps (fun _ _ h => raiseFrom_keeps h) (State.each_keeps (fun _ _ h => State.laneAtMod_keeps h) hs)

theorem enableQuad_keeps {s0 : State} {n : Nat} {q : Nat} {s : State} (hs : Keeps s0 s) : Keeps s0 (enableQuad n q s) := by
  unfold enableQuad
  exact State.each_keeps (fun _ _ h0 => State.laneAtMod_keeps h0) hs

theorem pcieDown_keeps {s0 : State} {c : Nat} {s : State} (hs : Keeps s0 s) : Keeps s0 (pcieDown c s) := by
  unfold pcieDown
  extract_lets -merge -underBinder +onlyGivenNames u0 u1 u2
  have h60 : Keeps s0 u2 := State.onXcvr_keeps hs
  exact State.when_keeps (fun _ h61 => State.iportAtMod_keeps h61) h60

end Sys2Proof.Machine
end

