-- ==== Sys2Proof/Laws/KeepsAdlCore.lean ====
section
/-! SUPPORT. What each function of Machine/AdlCore.lean keeps. -/

namespace Sys2Proof.Machine

theorem linkSend_keeps {s0 : State} {c : Nat} {f : BitVec 288} {s : State} (hs : Keeps s0 s) : Keeps s0 (linkSend c f s) := by
  unfold linkSend
  exact State.bundleAtMod_keeps hs

theorem linkBack_keeps {s0 : State} {b : Nat} {f : BitVec 288} {s : State} (hs : Keeps s0 s) : Keeps s0 (linkBack b f s) := by
  unfold linkBack
  split
  · exact linkSend_keeps hs
  · exact hs

theorem sendAck_keeps {s0 : State} {b : Nat} {s : State} (hs : Keeps s0 s) : Keeps s0 (sendAck b s) := by
  unfold sendAck
  split
  · exact hs
  · extract_lets -merge -underBinder +onlyGivenNames u6 u7 u8 u9
    have h11 : Keeps s0 u9 := State.bundleAtMod_keeps hs
    exact linkSend_keeps h11

theorem recordLane_keeps {s0 : State} {b : Nat} {lane : Nat} {s : State} (hs : Keeps s0 s) : Keeps s0 (recordLane b lane s) := by
  unfold recordLane
  extract_lets -merge -underBinder +onlyGivenNames u0
  exact Keeps.ite hs (State.onTst_keeps hs)

theorem failLane_keeps {s0 : State} {b : Nat} {lane : Nat} {s : State} (hs : Keeps s0 s) : Keeps s0 (failLane b lane s) := by
  unfold failLane
  refine Keeps.ite hs ?_
  extract_lets -merge -underBinder +onlyGivenNames u0
  have h2 : Keeps s0 u0 := State.onTst_keeps hs
  exact raise_keeps (recordLane_keeps (State.bundleAtMod_keeps h2))

theorem rltBegin_keeps {s0 : State} {b : Nat} {s : State} (hs : Keeps s0 s) : Keeps s0 (rltBegin b s) := by
  unfold rltBegin
  extract_lets -merge -underBinder +onlyGivenNames u0
  exact Keeps.ite hs (Keeps.ite (linkBack_keeps (State.bundleAtMod_keeps hs)) (Keeps.ite (linkBack_keeps (State.bundleAtMod_keeps hs)) hs))

theorem steerSend_keeps {s0 : State} {b : Nat} {s : State} (hs : Keeps s0 s) : Keeps s0 (steerSend b s) := by
  unfold steerSend
  extract_lets -merge -underBinder +onlyGivenNames u0
  split
  · exact hs
  · refine Keeps.ite ?_ hs
    extract_lets -merge -underBinder +onlyGivenNames u2
    exact linkSend_keeps (State.bundleAtMod_keeps hs)

theorem rltResume_keeps {s0 : State} {s : State} (hs : Keeps s0 s) : Keeps s0 (rltResume s) := by
  unfold rltResume
  exact State.each_keeps (fun _ _ h2 => (steerSend_keeps (rltBegin_keeps h2))) hs

theorem rxTurn_keeps {s0 : State} {b : Nat} {s : State} (hs : Keeps s0 s) : Keeps s0 (rxTurn b s) := by
  unfold rxTurn
  extract_lets -merge -underBinder +onlyGivenNames u0
  split
  · exact hs
  · refine Keeps.ite hs ?_
    extract_lets -merge -underBinder +onlyGivenNames u6
    have h8 : Keeps s0 u6 := State.bundleAtMod_keeps hs
    split
    · exact State.bundleAtMod_keeps h8
    · exact failLane_keeps h8
    · exact rltBegin_keeps (State.bundleAtMod_keeps h8)
    · exact raise_keeps (State.bundleAtMod_keeps h8)

theorem rxChange_keeps {s0 : State} {b : Nat} {stag : Byte} {c : LaneChange} {s : State} (hs : Keeps s0 s) : Keeps s0 (rxChange b stag c s) := by
  unfold rxChange
  exact Keeps.ite (rxTurn_keeps (State.bundleAtMod_keeps hs)) hs

theorem completePacket_keeps {s0 : State} {b : Nat} {s : State} (hs : Keeps s0 s) : Keeps s0 (completePacket b s) := by
  unfold completePacket
  split
  · exact hs
  · extract_lets -merge -underBinder +onlyGivenNames u8 u9
    have h11 : Keeps s0 u9 := State.bundleAtMod_keeps hs
    exact State.chanAtMod_keeps h11

theorem stopBundle_keeps {s0 : State} {st : BndState} {b : Nat} {s : State} (hs : Keeps s0 s) : Keeps s0 (stopBundle st b s) := by
  unfold stopBundle
  exact State.bundleAtMod_keeps (completePacket_keeps hs)

theorem sbEndMod_keeps {s0 : State} {k : Nat} {leader : Bool} {f : SbEnd → SbEnd} {s : State} (hs : Keeps s0 s) : Keeps s0 (sbEndMod k leader f s) := by
  unfold sbEndMod
  exact State.bndAtMod_keeps hs

theorem sbSend_keeps {s0 : State} {k : Nat} {leader : Bool} {msg : Nat} {bnd : Nat} {data : Nat} {arg : Nat} {s : State} (hs : Keeps s0 s) : Keeps s0 (sbSend k leader msg bnd data arg s) := by
  unfold sbSend
  exact Keeps.ite hs (sbEndMod_keeps hs)

theorem endBreak_keeps {s0 : State} {k : Nat} {rejoin : Bool} {s : State} (hs : Keeps s0 s) : Keeps s0 (endBreak k rejoin s) := by
  unfold endBreak
  extract_lets -merge -underBinder +onlyGivenNames u2
  have h4 : Keeps s0 u2 := State.bndAtMod_keeps hs
  exact State.when_keeps (fun _ h12 => (sbSend_keeps h12)) h4

theorem stopBnd_keeps {s0 : State} {k : Nat} {s : State} (hs : Keeps s0 s) : Keeps s0 (stopBnd k s) := by
  unfold stopBnd
  exact State.bndAtMod_keeps (State.each_keeps (fun _ _ h1 => (stopBundle_keeps h1)) hs)

theorem stepReport_keeps {s0 : State} {k : Nat} {s : State} (hs : Keeps s0 s) : Keeps s0 (stepReport k s) := by
  unfold stepReport
  extract_lets -merge -underBinder +onlyGivenNames u0 u1 u2
  have h6 : Keeps s0 u1 := State.when_keeps (fun _ h7 => (State.each_keeps (fun _ _ h8 => (State.each_keeps (fun _ _ h9 => (sbSend_keeps h9)) h8)) h7)) hs
  have h10 : Keeps s0 u2 := State.each_keeps (fun _ _ h11 => (sbSend_keeps h11)) h6
  exact State.when_keeps (fun _ h12 => (State.bndAtMod_keeps h12)) h10

end Sys2Proof.Machine
end

