-- ==== Sys2Proof/Laws/KeepsStart.lean ====
section
/-! SUPPORT. What each function of Machine/Start.lean keeps. -/

namespace Sys2Proof.Machine

theorem startHub_keeps {s0 : State} {s : State} (hs : Keeps s0 s) : Keeps s0 (startHub s) := by
  unfold startHub
  exact State.onBoot_keeps (State.onPwr_keeps hs)

theorem hubPowerGoodF_keeps {s0 : State} {s : State} (hs : Keeps s0 s) : Keeps s0 (hubPowerGoodF s) := by
  unfold hubPowerGoodF
  exact Keeps.ite (startHub_keeps hs) hs

theorem execHubPowerGood_keeps {s : State} {t' : State} (he : execHubPowerGood s = .next t') : Keeps s t' := by
  unfold execHubPowerGood at he
  cases he
  exact hubPowerGoodF_keeps ((Keeps.refl s))

theorem ioscQualifiedF_keeps {s0 : State} {straps : BitVec 3} {s : State} (hs : Keeps s0 s) : Keeps s0 (ioscQualifiedF straps s) := by
  unfold ioscQualifiedF
  refine Keeps.ite ?_ hs
  extract_lets -merge -underBinder +onlyGivenNames u0 u1 u2 u3 u4 u5
  have h60 : Keeps s0 u1 := Keeps.upd hs rfl rfl
  have h61 : Keeps s0 u2 := State.onBoot_keeps h60
  have h62 : Keeps s0 u3 := State.onDbg_keeps h61
  have h63 : Keeps s0 u4 := State.onCfg_keeps h62
  exact State.when_keeps (fun _ h64 => raise_keeps h64) (State.onMgr_keeps h63)

theorem execIoscQualified_keeps {straps : BitVec 3} {s : State} {t' : State} (he : execIoscQualified straps s = .next t') : Keeps s t' := by
  unfold execIoscQualified at he
  cases he
  exact ioscQualifiedF_keeps ((Keeps.refl s))

theorem refclkHQualTimeoutF_keeps {s0 : State} {s : State} (hs : Keeps s0 s) : Keeps s0 (refclkHQualTimeoutF s) := by
  unfold refclkHQualTimeoutF
  exact Keeps.ite (raise_keeps (State.onXcvr_keeps (State.onBoot_keeps hs))) hs

theorem execRefclkHQualTimeout_keeps {s : State} {t' : State} (he : execRefclkHQualTimeout s = .next t') : Keeps s t' := by
  unfold execRefclkHQualTimeout at he
  cases he
  exact refclkHQualTimeoutF_keeps ((Keeps.refl s))

theorem flashDiscoveryF_keeps {s0 : State} {valid0 : Bool} {size0 : Nat} {valid1 : Bool} {size1 : Nat} {s : State} (hs : Keeps s0 s) : Keeps s0 (flashDiscoveryF valid0 size0 valid1 size1 s) := by
  unfold flashDiscoveryF
  refine Keeps.ite ?_ hs
  extract_lets -merge -underBinder +onlyGivenNames u0 u1 u2 u3 u4 u5
  have h60 : Keeps s0 u0 := State.onBoot_keeps hs
  have h61 : Keeps s0 u1 := State.onFlash_keeps h60
  have hu5 : ∀ a0 a1, Keeps s0 a1 → Keeps s0 (u5 a0 a1) := fun _ _ h62 => State.onFlash_keeps h62
  clear_value u5
  exact Keeps.ite (Keeps.ite (hu5 _ _ h61) (hu5 _ _ h61)) (Keeps.ite (raise_keeps (hu5 _ _ h61)) (Keeps.ite (raise_keeps (hu5 _ _ h61)) (raise_keeps (State.onFlash_keeps h61))))

theorem execFlashDiscovery_keeps {valid0 : Bool} {size0 : Nat} {valid1 : Bool} {size1 : Nat} {s : State} {t' : State} (he : execFlashDiscovery valid0 size0 valid1 size1 s = .next t') : Keeps s t' := by
  unfold execFlashDiscovery at he
  cases he
  exact flashDiscoveryF_keeps ((Keeps.refl s))

theorem recordSelect_keeps {s0 : State} {s : State} (hs : Keeps s0 s) : Keeps s0 (recordSelect s) := by
  unfold recordSelect
  extract_lets -merge -underBinder +onlyGivenNames u0 u1
  split
  · exact State.onTst_keeps hs
  · exact State.when_keeps (fun _ h60 => raise_keeps h60) hs

theorem settingsTakeEffect_keeps {s0 : State} {s : State} (hs : Keeps s0 s) : Keeps s0 (settingsTakeEffect s) := by
  unfold settingsTakeEffect
  extract_lets -merge -underBinder +onlyGivenNames u0
  exact xmAllot_keeps (State.onXcvr_keeps hs)

theorem settingsSelectF_keeps {s0 : State} {s : State} (hs : Keeps s0 s) : Keeps s0 (settingsSelectF s) := by
  unfold settingsSelectF
  refine Keeps.ite ?_ hs
  extract_lets -merge -underBinder +onlyGivenNames u0 u1 u2 u3
  have h60 : Keeps s0 u2 := State.onBoot_keeps hs
  have h61 : Keeps s0 u3 := by
    subst u3
    split
    · extract_lets -merge -underBinder +onlyGivenNames u62 u63
      have h122 : Keeps s0 u63 := Keeps.upd h60 rfl rfl
      exact State.when_keeps (fun _ h123 => raise_keeps h123) h122
    · extract_lets -merge -underBinder +onlyGivenNames u124
      have h184 : Keeps s0 u124 := Keeps.upd h60 rfl rfl
      exact raise_keeps h184
  exact settingsTakeEffect_keeps (recordSelect_keeps h61)

theorem execSettingsSelect_keeps {s : State} {t' : State} (he : execSettingsSelect s = .next t') : Keeps s t' := by
  unfold execSettingsSelect at he
  cases he
  exact settingsSelectF_keeps ((Keeps.refl s))

theorem kilnResume_keeps {s0 : State} {s : State} (hs : Keeps s0 s) : Keeps s0 (kilnResume s) := by
  unfold kilnResume
  split
  · exact hs
  · exact State.onMgr_keeps hs

theorem fatalNotice_keeps {s0 : State} {s : State} (hs : Keeps s0 s) : Keeps s0 (fatalNotice s) :=  State.when_keeps (fun _ h => raiseD_keeps h) hs

theorem firmwareStart_keeps {s0 : State} {copy : Bool} {s : State} (hs : Keeps s0 s) : Keeps s0 (firmwareStart copy s) := by
  unfold firmwareStart
  extract_lets -merge -underBinder +onlyGivenNames u0 u1 u2 u3 u4 u5 u6
  have h60 : Keeps s0 u0 := kilnResume_keeps (State.onBoot_keeps hs)
  have h61 : Keeps s0 u1 := State.onMgr_keeps h60
  have h62 : Keeps s0 u2 := State.onSpan_keeps h61
  have h63 : Keeps s0 u3 := State.each_keeps (fun _ _ h64 => spanEnable_keeps h64) h62
  have h65 : Keeps s0 u4 := State.onClk_keeps h63
  have h66 : Keeps s0 u5 := State.onNoc_keeps h65
  have h67 : Keeps s0 u6 := State.each_keeps (fun _ _ h68 => State.ddrAtMod_keeps h68) h66
  exact fatalNotice_keeps (aoTake_keeps h67)

theorem firmwareVerifyF_keeps {s0 : State} {s : State} (hs : Keeps s0 s) : Keeps s0 (firmwareVerifyF s) := by
  unfold firmwareVerifyF
  refine Keeps.ite ?_ hs
  extract_lets -merge -underBinder +onlyGivenNames u0
  exact Keeps.ite (firmwareStart_keeps hs) (Keeps.ite (firmwareStart_keeps (raise_keeps hs)) (fatalNotice_keeps (raise_keeps (State.onMgr_keeps (State.onBoot_keeps hs)))))

theorem execFirmwareVerify_keeps {s : State} {t' : State} (he : execFirmwareVerify s = .next t') : Keeps s t' := by
  unfold execFirmwareVerify at he
  cases he
  exact firmwareVerifyF_keeps ((Keeps.refl s))

theorem dieReleaseF_keeps {s0 : State} {s : State} (hs : Keeps s0 s) : Keeps s0 (dieReleaseF s) := by
  unfold dieReleaseF
  extract_lets -merge -underBinder +onlyGivenNames u0
  refine Keeps.ite ?_ hs
  extract_lets -merge -underBinder +onlyGivenNames u1 u2
  have h4 : Keeps s0 u1 := State.onBoot_keeps hs
  have h5 : Keeps s0 u2 := State.dieAtMod_keeps h4
  exact endBreak_keeps h5

theorem execDieRelease_keeps {s : State} {t' : State} (he : execDieRelease s = .next t') : Keeps s t' := by
  unfold execDieRelease at he
  cases he
  exact dieReleaseF_keeps ((Keeps.refl s))

theorem joinFailed_keeps {s0 : State} {d : Nat} {s : State} (hs : Keeps s0 s) : Keeps s0 (joinFailed d s) := by
  unfold joinFailed
  exact raise_keeps (State.dieAtMod_keeps (stopBnd_keeps hs))

theorem vccCGoodTimeoutF_keeps {s0 : State} {s : State} (hs : Keeps s0 s) : Keeps s0 (vccCGoodTimeoutF s) := by
  unfold vccCGoodTimeoutF
  refine Keeps.ite ?_ hs
  extract_lets -merge -underBinder +onlyGivenNames u0
  have h60 : Keeps s0 u0 := State.onBoot_keeps hs
  exact State.each_keeps (fun _ _ h61 => Keeps.ite h61 (joinFailed_keeps h61)) h60

theorem execVccCGoodTimeout_keeps {s : State} {t' : State} (he : execVccCGoodTimeout s = .next t') : Keeps s t' := by
  unfold execVccCGoodTimeout at he
  cases he
  exact vccCGoodTimeoutF_keeps ((Keeps.refl s))

theorem dieJoinTimeoutF_keeps {s0 : State} {d : Fin 7} {s : State} (hs : Keeps s0 s) : Keeps s0 (dieJoinTimeoutF d s) := by
  unfold dieJoinTimeoutF
  exact Keeps.ite (joinFailed_keeps hs) hs

theorem execDieJoinTimeout_keeps {d : Fin 7} {s : State} {t' : State} (he : execDieJoinTimeout d s = .next t') : Keeps s t' := by
  unfold execDieJoinTimeout at he
  cases he
  exact dieJoinTimeoutF_keeps ((Keeps.refl s))

theorem flashLoadStartF_keeps {s0 : State} {s : State} (hs : Keeps s0 s) : Keeps s0 (flashLoadStartF s) := by
  unfold flashLoadStartF
  refine Keeps.ite ?_ hs
  extract_lets -merge -underBinder +onlyGivenNames u0
  have h60 : Keeps s0 u0 := State.onBoot_keeps hs
  exact Keeps.ite (State.onCfg_keeps (Keeps.upd h60 rfl rfl)) h60

theorem execFlashLoadStart_keeps {s : State} {t' : State} (he : execFlashLoadStart s = .next t') : Keeps s t' := by
  unfold execFlashLoadStart at he
  cases he
  exact flashLoadStartF_keeps ((Keeps.refl s))

theorem porstAssertF_keeps {s0 : State} {ns : Nat} {s : State} (hs : Keeps s0 s) : Keeps s0 (porstAssertF ns s) := by
  unfold porstAssertF
  extract_lets -merge -underBinder +onlyGivenNames u0
  have hu0 : ∀ a0, Keeps s0 a0 → Keeps s0 (u0 a0) := fun _ h60 => State.onBoot_keeps (greenware_keeps h60)
  clear_value u0
  refine Keeps.ite (hu0 _ hs) (Keeps.ite hs ?_)
  split
  · rename_i he
    have h61 := Keeps.of2 he (State.take_keeps hs)
    exact Keeps.ite (hu0 _ h61) h61

theorem execPorstAssert_keeps {ns : Nat} {s : State} {t' : State} (he : execPorstAssert ns s = .next t') : Keeps s t' := by
  unfold execPorstAssert at he
  cases he
  exact porstAssertF_keeps ((Keeps.refl s))

theorem autoRestartF_keeps {s0 : State} {s : State} (hs : Keeps s0 s) : Keeps s0 (autoRestartF s) := by
  unfold autoRestartF
  exact Keeps.ite (startHub_keeps hs) hs

theorem execAutoRestart_keeps {s : State} {t' : State} (he : execAutoRestart s = .next t') : Keeps s t' := by
  unfold execAutoRestart at he
  cases he
  exact autoRestartF_keeps ((Keeps.refl s))

theorem fatalAutoRestartF_keeps {s0 : State} {s : State} (hs : Keeps s0 s) : Keeps s0 (fatalAutoRestartF s) := by
  unfold fatalAutoRestartF
  exact Keeps.ite (startHub_keeps hs) hs

theorem execFatalAutoRestart_keeps {s : State} {t' : State} (he : execFatalAutoRestart s = .next t') : Keeps s t' := by
  unfold execFatalAutoRestart at he
  cases he
  exact fatalAutoRestartF_keeps ((Keeps.refl s))

theorem mgrLockstepMismatchF_keeps {s0 : State} {s : State} (hs : Keeps s0 s) : Keeps s0 (mgrLockstepMismatchF s) := by
  unfold mgrLockstepMismatchF
  exact Keeps.ite hs (fatal_keeps hs)

theorem execMgrLockstepMismatch_keeps {s : State} {t' : State} (he : execMgrLockstepMismatch s = .next t') : Keeps s t' := by
  unfold execMgrLockstepMismatch at he
  cases he
  exact mgrLockstepMismatchF_keeps ((Keeps.refl s))

end Sys2Proof.Machine
end

