-- ==== Sys2Proof/Laws/KeepsFabric.lean ====
section
/-! SUPPORT. What each function of Machine/Fabric.lean keeps. -/

namespace Sys2Proof.Machine

theorem setPlaneBit_keeps {s0 : State} {sec : Nat} {f : Nat} {i : Nat} {b : Nat} {v : Bool} {s : State} (hs : Keeps s0 s) : Keeps s0 (setPlaneBit sec f i b v s) := by
  unfold setPlaneBit
  extract_lets -merge -underBinder +onlyGivenNames u0
  exact State.onFab_keeps hs

theorem tileMemWrite_keeps {s0 : State} {sa : State} {d : Nat} {x2 : Nat} {y : Nat} {s : State} (hsa : Keeps s0 sa) (hs : Keeps s0 s) : Keeps s0 (tileMemWrite sa d x2 y s) := by
  unfold tileMemWrite
  exact Keeps.ite (State.each_keeps (fun _ _ h0 => Keeps.ite (setPlaneBit_keeps h0) h0) hs) hs

theorem laneShift_keeps {s0 : State} {sa : State} {d : Nat} {x2 : Nat} {y : Nat} {s : State} (hsa : Keeps s0 sa) (hs : Keeps s0 s) : Keeps s0 (laneShift sa d x2 y s) := by
  unfold laneShift
  exact Keeps.ite (State.each_keeps (fun _ _ h0 => State.each_keeps (fun _ _ h1 => setPlaneBit_keeps h1) h0) hs) hs

theorem bridgeCapture_keeps {s0 : State} {sa : State} {d : Nat} {x2 : Nat} {y : Nat} {ck1 : Bool} {s : State} (hsa : Keeps s0 sa) (hs : Keeps s0 s) : Keeps s0 (bridgeCapture sa d x2 y ck1 s) := by
  unfold bridgeCapture
  extract_lets -merge -underBinder +onlyGivenNames u0 u1 u2
  refine Keeps.ite hs (State.each_keeps (fun _ _ h60 => ?_) hs)
  extract_lets -merge -underBinder +onlyGivenNames u61
  exact Keeps.ite (State.bridgeAtMod_keeps h60) h60

theorem padSee_keeps {s0 : State} {d : Nat} {x : Nat} {y : Nat} {pad : List Bool} {s : State} (hs : Keeps s0 s) : Keeps s0 (padSee d x y pad s) := by
  unfold padSee
  split
  · exact Keeps.upd hs rfl rfl
  · exact hs

theorem cellEdge_keeps {s0 : State} {sa : State} {d : Nat} {x2 : Nat} {y : Nat} {pad : List Bool} {s : State} (hsa : Keeps s0 sa) (hs : Keeps s0 s) : Keeps s0 (cellEdge sa d x2 y pad s) := by
  unfold cellEdge
  split
  · exact hs
  · extract_lets -merge -underBinder +onlyGivenNames u16 u17
    refine Keeps.ite hs (Keeps.ite (Keeps.upd hs rfl rfl) ?_)
    extract_lets -merge -underBinder +onlyGivenNames u21
    split
    rename_i x26 x27 x28 x29
    have h30 := Keeps.of2 x29 (State.take_keeps hs)
    extract_lets -merge -underBinder +onlyGivenNames u30 u31 u32 u33
    exact Keeps.upd h30 rfl rfl

theorem asyncHold_keeps {s0 : State} {s : State} (hs : Keeps s0 s) : Keeps s0 (asyncHold s) := by
  unfold asyncHold
  refine State.each_keeps (fun _ _ h1 => (State.each_keeps (fun _ _ h2 => ?_) h1)) hs
  extract_lets -merge -underBinder +onlyGivenNames u2 u3 u4 u5 u6 u7 u8
  exact Keeps.ite (State.onFab_keeps h2) h2

theorem evSee_keeps {s0 : State} {d : Nat} {x : Nat} {y : Nat} {s : State} (hs : Keeps s0 s) : Keeps s0 (evSee d x y s) := by
  unfold evSee
  exact Keeps.ite hs (State.onFab_keeps hs)

theorem fdEdges_keeps {s0 : State} {d : Nat} {x : Nat} {y : Nat} {ck1 : Bool} {s : State} (hs : Keeps s0 s) : Keeps s0 (fdEdges d x y ck1 s) := by
  unfold fdEdges
  exact State.each_keeps (fun _ _ h1 => (Keeps.upd h1 rfl rfl)) hs

theorem tileClockEdgeF_keeps {s0 : State} {t : TileId} {ck1 : Bool} {pad : List Bool} {s : State} (hs : Keeps s0 s) : Keeps s0 (tileClockEdgeF t ck1 pad s) := by
  unfold tileClockEdgeF
  extract_lets -merge -underBinder +onlyGivenNames u0 u1 u2 u3
  refine Keeps.ite hs ?_
  extract_lets -merge -underBinder +onlyGivenNames u4 u5 u6 u7 u8
  have h10 : Keeps s0 u4 := asyncHold_keeps (padSee_keeps hs)
  have h19 : Keeps s0 u5 := State.each_keeps (fun _ _ h20 => (State.each_keeps (fun _ _ h21 => (Keeps.ite (State.onFab_keeps h21) h21)) h20)) h10
  have h23 : Keeps s0 u6 := Keeps.ite h19 (Keeps.ite (tileMemWrite_keeps h10 h19) (Keeps.ite (laneShift_keeps h10 h19) h19))
  have h24 : Keeps s0 u7 := bridgeCapture_keeps h10 h23
  have h25 : Keeps s0 u8 := Keeps.ite h24 (evSee_keeps (cellEdge_keeps h10 h24))
  exact State.onFab_keeps (fdEdges_keeps h25)

theorem execTileClockEdge_keeps {t : TileId} {ck1 : Bool} {pad : List Bool} {s : State} {t' : State} (he : execTileClockEdge t ck1 pad s = .next t') : Keeps s t' := by
  unfold execTileClockEdge at he
  cases he
  exact tileClockEdgeF_keeps ((Keeps.refl s))

theorem bridgeParityMismatchF_keeps {s0 : State} {b : Fin 3} {westward : Bool} {g : Fin 288} {s : State} (hs : Keeps s0 s) : Keeps s0 (bridgeParityMismatchF b westward g s) := by
  unfold bridgeParityMismatchF
  extract_lets -merge -underBinder +onlyGivenNames u0 u1 u2
  exact Keeps.ite (raiseFrom_keeps (State.bridgeAtMod_keeps hs)) hs

theorem execBridgeParityMismatch_keeps {boundary : Fin 3} {westward : Bool} {group : Fin 288} {s : State} {t' : State} (he : execBridgeParityMismatch boundary westward group s = .next t') : Keeps s t' := by
  unfold execBridgeParityMismatch at he
  cases he
  exact bridgeParityMismatchF_keeps ((Keeps.refl s))

theorem bridgeTest_keeps {s0 : State} {b : Nat} {found : List (Bool × Nat × Nat)} {s : State} (hs : Keeps s0 s) : Keeps s0 (bridgeTest b found s) := by
  unfold bridgeTest
  extract_lets -merge -underBinder +onlyGivenNames u0 u1 u2 u3 u4
  have h60 : Keeps s0 u2 := by
    subst u2
    refine State.each_keeps (fun _ _ h62 => ?_) hs
    extract_lets -merge -underBinder +onlyGivenNames u63
    exact State.bridgeAtMod_keeps h62
  have h123 : Keeps s0 u4 := Keeps.ite h60 (raise_keeps (State.onFab_keeps h60))
  exact State.when_keeps (fun _ h124 => raise_keeps h124) h123

theorem engageHold_keeps {s0 : State} {secs : List Nat} {s : State} (hs : Keeps s0 s) : Keeps s0 (engageHold secs s) := by
  unfold engageHold
  extract_lets -merge -underBinder +onlyGivenNames u0
  exact State.onCfg_keeps (State.each_keeps (fun _ _ h60 => State.secAtMod_keeps h60) hs)

theorem releaseHold_keeps {s0 : State} {sec : Nat} {s : State} (hs : Keeps s0 s) : Keeps s0 (releaseHold sec s) := by
  unfold releaseHold
  extract_lets -merge -underBinder +onlyGivenNames u0 u1 u2 u3
  exact State.onCfg_keeps (State.secAtMod_keeps hs)

theorem holdBridge_keeps {s0 : State} {d : Nat} {s : State} (hs : Keeps s0 s) : Keeps s0 (holdBridge d s) := by
  unfold holdBridge
  exact Keeps.ite hs (State.each_keeps (fun _ _ h => State.each_keeps (fun _ _ h1 => Keeps.ite (State.bridgeAtMod_keeps h1) h1) h) hs)

theorem holdPads_keeps {s0 : State} {sel : Nat → Bool} {s : State} (hs : Keeps s0 s) : Keeps s0 (holdPads sel s) := by
  unfold holdPads
  exact Keeps.upd hs rfl rfl

end Sys2Proof.Machine
end

