-- ==== Sys2Proof/Laws/KeepsRepair.lean ====
section
/-! SUPPORT. What each function of Machine/Repair.lean keeps. -/

namespace Sys2Proof.Machine

theorem formRepair_keeps {s0 : State} {s : State} (hs : Keeps s0 s) : Keeps s0 (formRepair s) := by
  unfold formRepair
  extract_lets -merge -underBinder +onlyGivenNames u0 u1 u2 u3
  have h60 : Keeps s0 u3 := State.onCfg_keeps hs
  exact State.each_keeps (fun _ _ h61 => State.when_keeps (fun _ h62 => raiseFrom_keeps h62) h61) h60

theorem formRemaps_keeps {s0 : State} {s : State} (hs : Keeps s0 s) : Keeps s0 (formRemaps s) := by
  unfold formRemaps
  extract_lets -merge -underBinder +onlyGivenNames u0
  have h60 : Keeps s0 u0 := Keeps.upd hs rfl rfl
  refine State.each_keeps (fun _ _ h61 => ?_) h60
  extract_lets -merge -underBinder +onlyGivenNames u62
  split
  · exact Keeps.upd h61 rfl rfl
  · exact h61

theorem initMems_keeps {s0 : State} {p : Nat → Bool} {s : State} (hs : Keeps s0 s) : Keeps s0 (initMems p s) := by
  unfold initMems
  exact Keeps.upd hs rfl rfl

theorem loseSdus_keeps {s0 : State} {p : Nat → Bool} {s : State} (hs : Keeps s0 s) : Keeps s0 (loseSdus p s) := by
  unfold loseSdus
  exact Keeps.upd hs rfl rfl

theorem resetSdus_keeps {s0 : State} {p : Nat → Bool} {s : State} (hs : Keeps s0 s) : Keeps s0 (resetSdus p s) := by
  unfold resetSdus
  exact Keeps.upd hs rfl rfl

theorem clearFrames_keeps {s0 : State} {p : Nat → Bool} {s : State} (hs : Keeps s0 s) : Keeps s0 (clearFrames p s) := by
  unfold clearFrames
  extract_lets -merge -underBinder +onlyGivenNames u0
  have h60 : Keeps s0 u0 := State.onFab_keeps hs
  exact Keeps.upd h60 rfl rfl

theorem blankSectors_keeps {s0 : State} {p : Nat → Bool} {s : State} (hs : Keeps s0 s) : Keeps s0 (blankSectors p s) := by
  unfold blankSectors
  exact resetSdus_keeps (initMems_keeps (clearFrames_keeps hs))

theorem dropCapture_keeps {s0 : State} {p : Nat → Bool} {s : State} (hs : Keeps s0 s) : Keeps s0 (dropCapture p s) := by
  unfold dropCapture
  exact State.onCfg_keeps hs

theorem clampCheck_keeps {s0 : State} {die : Nat} {b : Nat} {n : Nat} {s : State} (hs : Keeps s0 s) : Keeps s0 (clampCheck die b n s) := by
  unfold clampCheck
  extract_lets -merge -underBinder +onlyGivenNames u0 u1
  exact Keeps.ite (raiseFrom_keeps (Keeps.upd hs rfl rfl)) hs

theorem bankApply_keeps {s0 : State} {die : Nat} {b : Nat} {s : State} (hs : Keeps s0 s) : Keeps s0 (bankApply die b s) := by
  unfold bankApply
  extract_lets -merge -underBinder +onlyGivenNames u0
  split
  refine Keeps.ite (State.bankAtMod_keeps hs) ?_
  extract_lets -merge -underBinder +onlyGivenNames u5 u6 u7 u8 u9
  have h11 : Keeps s0 u5 := State.each_keeps (fun _ _ h12 => (Keeps.upd h12 rfl rfl)) hs
  have h13 : Keeps s0 u9 := State.bankAtMod_keeps h11
  exact State.each_keeps (fun _ _ h14 => (clampCheck_keeps h14)) (State.when_keeps (fun _ h15 => (raiseFrom_keeps h15)) h13)

theorem quadApply_keeps {s0 : State} {die : Nat} {q : Nat} {s : State} (hs : Keeps s0 s) : Keeps s0 (quadApply die q s) := by
  unfold quadApply
  split
  · refine Keeps.ite (quadIdle_keeps hs) ?_
    extract_lets -merge -underBinder +onlyGivenNames u0 u1
    have h60 : Keeps s0 u1 := State.each_keeps (fun _ _ h61 => State.laneAtMod_keeps h61) hs
    exact enableQuad_keeps h60

end Sys2Proof.Machine
end

