-- ==== Sys2Proof/Laws/KeepsCfgOps.lean ====
section
/-! SUPPORT. What each function of Machine/CfgOps.lean keeps. -/

namespace Sys2Proof.Machine

theorem sessMod_keeps {s0 : State} {f : Session → Session} {s : State} (hs : Keeps s0 s) : Keeps s0 (sessMod f s) := by
  unfold sessMod
  exact State.onCfg_keeps hs

theorem closeMode_keeps {s0 : State} {s : State} (hs : Keeps s0 s) : Keeps s0 (closeMode s) := by
  unfold closeMode
  exact Keeps.ite (setMode_keeps hs) hs

theorem regionForget_keeps {s0 : State} {r : Nat} {s : State} (hs : Keeps s0 s) : Keeps s0 (regionForget r s) := by
  unfold regionForget
  exact State.onCfg_keeps hs

theorem closeBlank_keeps {s0 : State} {r : Nat} {s : State} (hs : Keeps s0 s) : Keeps s0 (closeBlank r s) := by
  unfold closeBlank
  extract_lets -merge -underBinder +onlyGivenNames u0 u1 u2 u3
  have h5 : Keeps s0 u1 := blankSectors_keeps hs
  have h6 : Keeps s0 u2 := State.each_keeps (fun _ _ h7 => (State.secAtMod_keeps h7)) h5
  have h8 : Keeps s0 u3 := State.each_keeps (fun _ _ h9 => (State.bankAtMod_keeps h9)) h6
  exact closeMode_keeps (regionForget_keeps (State.regionAtMod_keeps h8))

theorem blankAll_keeps {s0 : State} {s : State} (hs : Keeps s0 s) : Keeps s0 (blankAll s) := by
  unfold blankAll
  extract_lets -merge -underBinder +onlyGivenNames u0 u1
  have h60 : Keeps s0 u0 := blankSectors_keeps hs
  have h61 : Keeps s0 u1 := State.onCfg_keeps h60
  exact Keeps.upd h61 rfl rfl

theorem streamResult_keeps {s0 : State} {status : Nat} {s : State} (hs : Keeps s0 s) : Keeps s0 (streamResult status s) := by
  unfold streamResult
  exact State.onCfg_keeps hs

theorem abortQueued_keeps {s0 : State} {owner : CmdId} {all : Bool} {s : State} (hs : Keeps s0 s) : Keeps s0 (abortQueued owner all s) := by
  unfold abortQueued
  extract_lets -merge -underBinder +onlyGivenNames u0
  exact State.each_keeps (fun _ _ h2 => (finish_keeps h2)) hs

theorem endSession_keeps {s0 : State} {status : Nat} {s : State} (hs : Keeps s0 s) : Keeps s0 (endSession status s) := by
  unfold endSession
  split
  · exact hs
  · extract_lets -merge -underBinder +onlyGivenNames u0 u1
    have h60 : Keeps s0 u0 := State.onCfg_keeps hs
    have h61 : Keeps s0 u1 := by
      subst u1
      split
      · exact finish_keeps h60
      · exact h60
    exact State.when_keeps (fun _ h62 => streamResult_keeps h62) h61

theorem flashFailed_keeps {s0 : State} {img : Image} {status : Nat} {build : Word} {s : State} (hs : Keeps s0 s) : Keeps s0 (flashFailed img status build s) := by
  unfold flashFailed
  extract_lets -merge -underBinder +onlyGivenNames u0 u1 u2
  have h60 : Keeps s0 u0 := State.onMgr_keeps (blankAll_keeps hs)
  have h61 : Keeps s0 u1 := raise_keeps h60
  have h62 : Keeps s0 u2 := State.onCfg_keeps h60
  exact Keeps.ite (raiseD_keeps (State.onCfg_keeps h60)) (Keeps.ite (Keeps.ite (State.onCfg_keeps h61) (setMode_keeps (State.onCfg_keeps h61))) (raiseD_keeps (setMode_keeps (State.onMgr_keeps h62))))

theorem loadFail_keeps {s0 : State} {status : Nat} {s : State} (hs : Keeps s0 s) : Keeps s0 (loadFail status s) := by
  unfold loadFail
  split
  · exact hs
  · extract_lets -merge -underBinder +onlyGivenNames u0 u1
    have h60 : Keeps s0 u1 := endSession_keeps (abortQueued_keeps hs)
    split
    · exact flashFailed_keeps h60
    · refine Keeps.ite ?_ (Keeps.ite (raiseD_keeps (setMode_keeps (blankAll_keeps h60))) (raiseD_keeps h60))
      extract_lets -merge -underBinder +onlyGivenNames u61
      have h121 : Keeps s0 u61 := by
        subst u61
        split
        · exact closeBlank_keeps h60
        · exact h60
      exact raiseD_keeps h121

theorem flashLoadFail_keeps {s0 : State} {status : Nat} {s : State} (hs : Keeps s0 s) : Keeps s0 (flashLoadFail status s) := by
  unfold flashLoadFail
  refine Keeps.ite (loadFail_keeps hs) ?_
  split
  · exact flashFailed_keeps (streamResult_keeps hs)
  · exact hs

theorem sessFail_keeps {s0 : State} {status : Nat} {c : Cmd} {s : State} (hs : Keeps s0 s) : Keeps s0 (sessFail status c s) := by
  unfold sessFail
  extract_lets -merge -underBinder +onlyGivenNames u0
  have h60 : Keeps s0 u0 := finish_keeps hs
  split
  · exact Keeps.ite (loadFail_keeps h60) h60
  · exact h60

theorem sessCheck_keeps {s0 : State} {ok : Bool} {status : Nat} {c : Cmd} {k : State → State} {s : State} (hk : ∀ a0, Keeps s0 a0 → Keeps s0 (k a0)) (hs : Keeps s0 s) : Keeps s0 (sessCheck ok status c k s) := by
  unfold sessCheck
  exact Keeps.ite (hk _ hs) (sessFail_keeps hs)

theorem startSess_keeps {s0 : State} {id : CmdId} {op : Nat} {body : Session → Cmd → State → State} {s : State} (hbody : ∀ a0 a1 a2, Keeps s0 a2 → Keeps s0 (body a0 a1 a2)) (hs : Keeps s0 s) : Keeps s0 (startSess id op body s) := by
  unfold startSess
  refine startCmdOr_keeps (fun _ _ h0 => sessFail_keeps h0) (fun _ _ h1 => ?_) hs
  split
  · exact finish_keeps h1
  · exact Keeps.ite (finish_keeps h1) (Keeps.ite (finish_keeps h1) (Keeps.ite (cmdMod_keeps h1) (hbody _ _ _ h1)))

theorem istoreByte_keeps {s0 : State} {sec : Nat} {unit : Nat} {pos : Nat} {v : Byte} {s : State} (hs : Keeps s0 s) : Keeps s0 (istoreByte sec unit pos v s) := by
  unfold istoreByte
  extract_lets -merge -underBinder +onlyGivenNames u0
  exact Keeps.upd hs rfl rfl

theorem bmInitByte_keeps {s0 : State} {sec : Nat} {pos : Nat} {v : Byte} {s : State} (hs : Keeps s0 s) : Keeps s0 (bmInitByte sec pos v s) := by
  unfold bmInitByte
  refine Keeps.ite hs ?_
  extract_lets -merge -underBinder +onlyGivenNames u3 u4 u5 u6 u7 u8 u9
  have h11 : Keeps s0 u8 := State.onCfg_keeps hs
  exact Keeps.upd h11 rfl rfl

theorem writeFrame_keeps {s0 : State} {sec : Nat} {f : Nat} {ws : List Word} {s : State} (hs : Keeps s0 s) : Keeps s0 (writeFrame sec f ws s) := by
  unfold writeFrame
  refine Keeps.ite hs ?_
  extract_lets -merge -underBinder +onlyGivenNames u0
  have h2 : Keeps s0 u0 := State.secAtMod_keeps hs
  refine Keeps.ite (State.onFab_keeps h2) ?_
  extract_lets -merge -underBinder +onlyGivenNames u0
  exact Keeps.ite (State.each_keeps (fun _ _ h2 => (istoreByte_keeps h2)) h2) (State.each_keeps (fun _ _ h3 => (bmInitByte_keeps h3)) h2)

theorem takeFrame_keeps {s0 : State} {die : Nat} {sec : Nat} {f : Nat} {ws : List Word} {s : State} (hs : Keeps s0 s) : Keeps s0 (takeFrame die sec f ws s) := by
  unfold takeFrame
  extract_lets -merge -underBinder +onlyGivenNames u0
  exact writeFrame_keeps (sessMod_keeps hs)

theorem warmWrite_keeps {s0 : State} {n : Nat} {s : State} (hs : Keeps s0 s) : Keeps s0 (warmWrite n s) := by
  unfold warmWrite
  exact State.each_keeps (fun _ _ h1 => (writeFrame_keeps h1)) hs

theorem markUnusable_keeps {s0 : State} {secs : List Nat} {s : State} (hs : Keeps s0 s) : Keeps s0 (markUnusable secs s) := by
  unfold markUnusable
  exact State.each_keeps (fun _ _ h0 => Keeps.ite (raiseFrom_keeps (State.secAtMod_keeps h0)) h0) hs

theorem bgStop_keeps {s0 : State} {ns : List Nat} {s : State} (hs : Keeps s0 s) : Keeps s0 (bgStop ns s) := by
  unfold bgStop
  extract_lets -merge -underBinder +onlyGivenNames u0 u1
  exact State.each_keeps (fun _ _ h60 => State.secAtMod_keeps h60) (State.onTst_keeps hs)

theorem testsAbort_keeps {s0 : State} {s : State} (hs : Keeps s0 s) : Keeps s0 (testsAbort s) := by
  unfold testsAbort
  extract_lets -merge -underBinder +onlyGivenNames u0
  refine State.each_keeps (fun _ _ h60 => ?_) (State.onTst_keeps hs)
  split
  · exact finish_keeps h60
  · exact h60

theorem fullBegin_keeps {s0 : State} {dies : Nat} {s : State} (hs : Keeps s0 s) : Keeps s0 (fullBegin dies s) := by
  unfold fullBegin
  extract_lets -merge -underBinder +onlyGivenNames u0 u1 u2 u3 u4 u5
  have h60 : Keeps s0 u0 := testsAbort_keeps (setMode_keeps hs)
  have h61 : Keeps s0 u1 := formRepair_keeps (blankAll_keeps h60)
  have h62 : Keeps s0 u2 := State.onCfg_keeps h61
  have h63 : Keeps s0 u3 := formRemaps_keeps h62
  have h64 : Keeps s0 u4 := Keeps.upd h63 rfl rfl
  have h65 : Keeps s0 u5 := State.onFab_keeps h64
  exact State.each_keeps (fun _ _ h66 => raiseFrom_keeps h66) h65

theorem startupPins_keeps {s0 : State} {s : State} (hs : Keeps s0 s) : Keeps s0 (startupPins s) := by
  unfold startupPins
  split
  · exact hs
  · extract_lets -merge -underBinder +onlyGivenNames u0
    have h60 : Keeps s0 u0 := sessMod_keeps hs
    exact State.each_keeps (fun _ _ h61 => State.each_keeps (fun _ _ h62 => quadApply_keeps h62) (State.each_keeps (fun _ _ h63 => bankApply_keeps h63) h61)) h60

theorem startSdus_keeps {s0 : State} {sec : Nat} {s : State} (hs : Keeps s0 s) : Keeps s0 (startSdus sec s) := by
  unfold startSdus
  exact State.each_keeps (fun _ _ h0 => Keeps.upd h0 rfl rfl) hs

theorem releaseSec_keeps {s0 : State} {sec : Nat} {s : State} (hs : Keeps s0 s) : Keeps s0 (releaseSec sec s) := by
  unfold releaseSec
  extract_lets -merge -underBinder +onlyGivenNames u0 u1
  have h60 : Keeps s0 u0 := startSdus_keeps (releaseHold_keeps hs)
  have h61 : Keeps s0 u1 := State.onFab_keeps h60
  exact State.secAtMod_keeps h61

theorem warmStore_keeps {s0 : State} {full : Bool} {wrote : Store Word} {frames : Store Bool} {s : State} (hs : Keeps s0 s) : Keeps s0 (warmStore full wrote frames s) := by
  unfold warmStore
  refine Keeps.ite hs ?_
  extract_lets -merge -underBinder +onlyGivenNames u0 u1 u2 u3 u4
  exact State.onPwr_keeps hs

theorem startupDone_keeps {s0 : State} {s : State} (hs : Keeps s0 s) : Keeps s0 (startupDone s) := by
  unfold startupDone
  split
  · exact hs
  · extract_lets -merge -underBinder +onlyGivenNames u0 u1 u2 u3 u4
    have h60 : Keeps s0 u0 := State.each_keeps (fun _ _ h61 => State.secAtMod_keeps h61) hs
    have h62 : Keeps s0 u1 := State.each_keeps (fun _ _ h63 => releaseSec_keeps h63) h60
    have h64 : Keeps s0 u2 := State.onCfg_keeps h62
    have h65 : Keeps s0 u3 := State.onMgr_keeps h64
    have h66 : Keeps s0 u4 := warmStore_keeps h65
    exact endSession_keeps (setMode_keeps h66)

theorem releaseBegin_keeps {s0 : State} {r : Nat} {s : State} (hs : Keeps s0 s) : Keeps s0 (releaseBegin r s) := by
  unfold releaseBegin
  extract_lets -merge -underBinder +onlyGivenNames u0 u1 u2 u3 u4 u5 u6
  have h60 : Keeps s0 u2 := State.regionAtMod_keeps hs
  have h61 : Keeps s0 u3 := by
    subst u3
    split
    · exact cmdMod_keeps h60
    · exact h60
  have h62 : Keeps s0 u4 := sessMod_keeps h61
  have h63 : Keeps s0 u5 := State.each_keeps (fun _ _ h64 => bankApply_keeps h64) h62
  have h65 : Keeps s0 u6 := State.each_keeps (fun _ _ h66 => quadApply_keeps h66) h63
  exact State.when_keeps (fun _ h67 => raiseFrom_keeps h67) h65

theorem commitFalls_keeps {s0 : State} {t : BitVec 48} {r : Nat} {s : State} (hs : Keeps s0 s) : Keeps s0 (commitFalls t r s) := by
  unfold commitFalls
  extract_lets -merge -underBinder +onlyGivenNames u0 u1
  exact Keeps.ite hs (Keeps.ite (releaseBegin_keeps hs) (State.regionAtMod_keeps hs))

theorem releaseDeferred_keeps {s0 : State} {s : State} (hs : Keeps s0 s) : Keeps s0 (releaseDeferred s) := by
  unfold releaseDeferred
  refine State.each_keeps (fun _ _ h0 => ?_) hs
  extract_lets -merge -underBinder +onlyGivenNames u1
  exact Keeps.ite (releaseBegin_keeps h0) h0

theorem regionHold_keeps {s0 : State} {r : Nat} {s : State} (hs : Keeps s0 s) : Keeps s0 (regionHold r s) := by
  unfold regionHold
  extract_lets -merge -underBinder +onlyGivenNames u0 u1 u2 u3 u4
  have h60 : Keeps s0 u1 := engageHold_keeps (holdPads_keeps hs)
  have h61 : Keeps s0 u2 := State.each_keeps (fun _ _ h62 => State.bankAtMod_keeps h62) h60
  have h63 : Keeps s0 u3 := State.each_keeps (fun _ _ h64 => State.secAtMod_keeps h64) h61
  have h65 : Keeps s0 u4 := dropCapture_keeps (resetSdus_keeps h63)
  exact State.regionAtMod_keeps h65

theorem sessionRollback_keeps {s0 : State} {s : State} (hs : Keeps s0 s) : Keeps s0 (sessionRollback s) := by
  unfold sessionRollback
  split
  · exact hs
  · extract_lets -merge -underBinder +onlyGivenNames u5 u6
    have h8 : Keeps s0 u6 := endSession_keeps (abortQueued_keeps hs)
    refine Keeps.ite h8 (Keeps.ite ?_ (setMode_keeps (blankAll_keeps (State.onCfg_keeps h8))))
    split
    · exact closeBlank_keeps h8
    · exact h8

end Sys2Proof.Machine
end

