-- ==== Sys2Proof/Laws/KeepsMemory.lean ====
section
/-! SUPPORT. What each function of Machine/Memory.lean keeps. -/

namespace Sys2Proof.Machine

theorem bmReadF_keeps {s0 : State} {b : BmId} {portB : Bool} {addr : BitVec 12} {edge : Fin 3} {s : State} (hs : Keeps s0 s) : Keeps s0 (bmReadF b portB addr edge s) := by
  unfold bmReadF
  refine Keeps.ite hs ?_
  extract_lets -merge +onlyGivenNames s1 cfg chk
  split
  extract_lets -merge +onlyGivenNames s2 m
  have hb : Keeps s0 s2 := State.bmAtMod_keeps (asyncHold_keeps hs)
  refine Keeps.ite (State.bmAtMod_keeps hb) ?_
  extract_lets -merge +onlyGivenNames cur
  split
  rename_i he
  have h := Keeps.of2 (s0 := s0) he (by
    split
    · split
      · exact hb
      · exact State.take_keeps (w := 1) hb
    · exact hb)
  split
  exact State.when_keeps (fun _ h9 => raiseFrom_keeps h9) (State.bmAtMod_keeps h)

theorem execBmRead_keeps {b : BmId} {portB : Bool} {addr : BitVec 12} {edge : Fin 3} {s : State} {t' : State} (he : execBmRead b portB addr edge s = .next t') : Keeps s t' := by
  unfold execBmRead at he
  cases he
  exact bmReadF_keeps ((Keeps.refl s))

theorem bmWriteF_keeps {s0 : State} {b : BmId} {portB : Bool} {we : BitVec 8} {addr : BitVec 12} {di : BitVec 72} {edge : Fin 3} {s : State} (hs : Keeps s0 s) : Keeps s0 (bmWriteF b portB we addr di edge s) := by
  unfold bmWriteF
  extract_lets -merge +onlyGivenNames sec cfg chk
  split
  extract_lets -merge +onlyGivenNames be
  refine Keeps.ite (bmReadF_keeps hs) (Keeps.ite hs ?_)
  extract_lets -merge +onlyGivenNames s2 m
  have hb : Keeps s0 s2 := State.bmAtMod_keeps (asyncHold_keeps hs)
  refine Keeps.ite (State.bmAtMod_keeps hb) ?_
  extract_lets -merge +onlyGivenNames cur data other
  clear_value other
  split
  rename_i he
  have h := Keeps.of2 (s0 := s0) he (by
    split
    · split
      · exact hb
      · exact State.take_keeps (w := 1) hb
    · exact hb)
  extract_lets -merge +onlyGivenNames base narrow
  split
  exact Keeps.ite (raiseFrom_keeps (State.bmAtMod_keeps h)) (State.bmAtMod_keeps h)

theorem execBmWrite_keeps {b : BmId} {portB : Bool} {we : BitVec 8} {addr : BitVec 12} {di : BitVec 72} {edge : Fin 3} {s : State} {t' : State} (he : execBmWrite b portB we addr di edge s = .next t') : Keeps s t' := by
  unfold execBmWrite at he
  cases he
  exact bmWriteF_keeps ((Keeps.refl s))

theorem dmReadF_keeps {s0 : State} {c : SecId} {addr : BitVec 15} {edge : Fin 3} {s : State} (hs : Keeps s0 s) : Keeps s0 (dmReadF c addr edge s) := by
  unfold dmReadF
  refine Keeps.ite hs ?_
  extract_lets -merge +onlyGivenNames s2 m a
  have hb : Keeps s0 s2 := State.dmAtMod_keeps (asyncHold_keeps hs)
  refine Keeps.ite (State.dmAtMod_keeps hb) ?_
  extract_lets -merge +onlyGivenNames cur
  split
  rename_i he
  have h := Keeps.of2 (s0 := s0) he (by
    split
    · split
      · exact hb
      · exact State.take_keeps (w := 1) hb
    · exact hb)
  split
  exact State.when_keeps (fun _ h9 => raiseFrom_keeps h9) (State.dmAtMod_keeps h)

theorem execDmRead_keeps {c : SecId} {addr : BitVec 15} {edge : Fin 3} {s : State} {t' : State} (he : execDmRead c addr edge s = .next t') : Keeps s t' := by
  unfold execDmRead at he
  cases he
  exact dmReadF_keeps ((Keeps.refl s))

theorem dmWriteF_keeps {s0 : State} {c : SecId} {be : BitVec 8} {addr : BitVec 15} {data : BitVec 64} {edge : Fin 3} {s : State} (hs : Keeps s0 s) : Keeps s0 (dmWriteF c be addr data edge s) := by
  unfold dmWriteF
  refine Keeps.ite hs ?_
  extract_lets -merge -underBinder +onlyGivenNames u0 u1 u2 u3
  have h5 : Keeps s0 u0 := State.dmAtMod_keeps (asyncHold_keeps hs)
  refine Keeps.ite (State.dmAtMod_keeps h5) ?_
  extract_lets -merge -underBinder +onlyGivenNames u10 u11
  split
  extract_lets -merge -underBinder +onlyGivenNames u3 u4
  refine Keeps.ite (raiseFrom_keeps (State.dmAtMod_keeps h5)) ?_
  extract_lets -merge -underBinder +onlyGivenNames u9 u10
  exact State.dmAtMod_keeps h5

theorem execDmWrite_keeps {c : SecId} {be : BitVec 8} {addr : BitVec 15} {data : BitVec 64} {edge : Fin 3} {s : State} {t' : State} (he : execDmWrite c be addr data edge s = .next t') : Keeps s t' := by
  unfold execDmWrite at he
  cases he
  exact dmWriteF_keeps ((Keeps.refl s))

theorem ctlMod_keeps {s0 : State} {c : SecId} {m : MemSel} {f : MemCtl → MemCtl} {s : State} (hs : Keeps s0 s) : Keeps s0 (ctlMod c m f s) := by
  unfold ctlMod
  split
  · exact State.bmAtMod_keeps hs
  · exact State.dmAtMod_keeps hs

theorem memInitF_keeps {s0 : State} {c : SecId} {m : MemSel} {s : State} (hs : Keeps s0 s) : Keeps s0 (memInitF c m s) := by
  unfold memInitF
  refine Keeps.ite hs ?_
  extract_lets -merge -underBinder +onlyGivenNames u0
  have h2 : Keeps s0 u0 := by
    unfold u0
    split
    · exact State.bmAtMod_keeps hs
    · exact State.dmAtMod_keeps hs
  exact ctlMod_keeps h2

theorem execMemInit_keeps {c : SecId} {m : MemSel} {s : State} {t' : State} (he : execMemInit c m s = .next t') : Keeps s t' := by
  unfold execMemInit at he
  cases he
  exact memInitF_keeps ((Keeps.refl s))

theorem memInitCompleteF_keeps {s0 : State} {c : SecId} {m : MemSel} {s : State} (hs : Keeps s0 s) : Keeps s0 (memInitCompleteF c m s) := by
  unfold memInitCompleteF
  exact ctlMod_keeps hs

theorem execMemInitComplete_keeps {c : SecId} {m : MemSel} {s : State} {t' : State} (he : execMemInitComplete c m s = .next t') : Keeps s t' := by
  unfold execMemInitComplete at he
  cases he
  exact memInitCompleteF_keeps ((Keeps.refl s))

theorem remapStart_keeps {s0 : State} {c : SecId} {row : BitVec 9} {origin : BitVec 2} {s : State} (hs : Keeps s0 s) : Keeps s0 (remapStart c row origin s) := by
  unfold remapStart
  extract_lets -merge -underBinder +onlyGivenNames u0
  refine Keeps.ite hs ?_
  split
  · exact State.dmAtMod_keeps hs
  · exact Keeps.ite hs (raiseFrom_keeps (State.dmAtMod_keeps hs))

theorem dmRemapReqF_keeps {s0 : State} {c : SecId} {row : BitVec 9} {s : State} (hs : Keeps s0 s) : Keeps s0 (dmRemapReqF c row s) := by
  unfold dmRemapReqF
  exact Keeps.ite (remapStart_keeps hs) hs

theorem execDmRemapReq_keeps {c : SecId} {row : BitVec 9} {s : State} {t' : State} (he : execDmRemapReq c row s = .next t') : Keeps s t' := by
  unfold execDmRemapReq at he
  cases he
  exact dmRemapReqF_keeps ((Keeps.refl s))

theorem copyWord_keeps {s0 : State} {c : SecId} {row : Nat} {spare : Nat} {k : Nat} {s : State} (hs : Keeps s0 s) : Keeps s0 (copyWord c row spare k s) := by
  unfold copyWord
  extract_lets -merge -underBinder +onlyGivenNames u0 u1 u2
  split
  extract_lets -merge -underBinder +onlyGivenNames u13 u14
  have h16 : Keeps s0 u14 := State.dmAtMod_keeps hs
  exact State.when_keeps (fun _ h17 => (raiseFrom_keeps h17)) h16

theorem rowCopyCompleteF_keeps {s0 : State} {c : SecId} {s : State} (hs : Keeps s0 s) : Keeps s0 (rowCopyCompleteF c s) := by
  unfold rowCopyCompleteF
  extract_lets -merge -underBinder +onlyGivenNames u0
  split
  · extract_lets -merge -underBinder +onlyGivenNames u60 u61 u62
    have h120 : Keeps s0 u60 := State.each_keeps (fun _ _ h121 => copyWord_keeps h121) hs
    have h122 : Keeps s0 u61 := State.dmAtMod_keeps h120
    exact raiseFrom_keeps (State.onTst_keeps h122)
  · exact hs

theorem execRowCopyComplete_keeps {c : SecId} {s : State} {t' : State} (he : execRowCopyComplete c s = .next t') : Keeps s t' := by
  unfold execRowCopyComplete at he
  cases he
  exact rowCopyCompleteF_keeps ((Keeps.refl s))

theorem scrubBm_keeps {s0 : State} {b : BmId} {s : State} (hs : Keeps s0 s) : Keeps s0 (scrubBm b s) := by
  unfold scrubBm
  extract_lets -merge -underBinder +onlyGivenNames u0 u1
  refine Keeps.ite hs ?_
  split
  · exact State.bmAtMod_keeps hs
  · extract_lets -merge -underBinder +onlyGivenNames u60 u61 u62
    have h120 : Keeps s0 u62 := State.bmAtMod_keeps hs
    exact State.when_keeps (fun _ h121 => raiseFrom_keeps h121) h120

theorem scrubDm_keeps {s0 : State} {c : SecId} {s : State} (hs : Keeps s0 s) : Keeps s0 (scrubDm c s) := by
  unfold scrubDm
  extract_lets -merge -underBinder +onlyGivenNames u0
  refine Keeps.ite hs ?_
  extract_lets -merge -underBinder +onlyGivenNames u1 u2 u3 u4
  split
  · exact State.dmAtMod_keeps hs
  · extract_lets -merge -underBinder +onlyGivenNames u10 u11 u12 u13 u14 u15
    have h17 : Keeps s0 u13 := State.dmAtMod_keeps hs
    have h18 : Keeps s0 u14 := State.when_keeps (fun _ h19 => (raiseFrom_keeps h19)) h17
    have h20 : Keeps s0 u15 := State.when_keeps (fun _ h21 => (remapStart_keeps h21)) h18
    exact State.when_keeps (fun _ h22 => (State.dmAtMod_keeps h22)) h20

theorem memIdle_keeps {s0 : State} {c : SecId} {m : MemSel} {s : State} (hs : Keeps s0 s) : Keeps s0 (memIdle c m s) := by
  unfold memIdle
  refine Keeps.ite hs ?_
  split
  · exact scrubBm_keeps (State.bmAtMod_keeps hs)
  · exact scrubDm_keeps (State.dmAtMod_keeps hs)

theorem memErrlogRead_keeps {s0 : State} {c : SecId} {m : MemSel} {insp : Bool} {s : State} (hs : Keeps s0 s) : Keeps s0 (memErrlogRead c m insp s).2 := by
  unfold memErrlogRead
  exact Keeps.ite2 hs (Keeps.ite hs (ctlMod_keeps hs))

theorem execBmErrlogRead_keeps {b : BmId} {insp : Bool} {s : State} {t' : State} (he : execBmErrlogRead b insp s = .next t') : Keeps s t' := by
  unfold execBmErrlogRead at he
  cases he
  exact State.readTo_keeps (memErrlogRead_keeps ((Keeps.refl s)))

theorem execDmErrlogRead_keeps {c : SecId} {insp : Bool} {s : State} {t' : State} (he : execDmErrlogRead c insp s = .next t') : Keeps s t' := by
  unfold execDmErrlogRead at he
  cases he
  exact State.readTo_keeps (memErrlogRead_keeps ((Keeps.refl s)))

theorem memCeRead_keeps {s0 : State} {c : SecId} {m : MemSel} {insp : Bool} {s : State} (hs : Keeps s0 s) : Keeps s0 (memCeRead c m insp s).2 := by
  unfold memCeRead
  exact Keeps.ite2 hs (Keeps.ite hs (ctlMod_keeps hs))

theorem memUeRead_keeps {s0 : State} {c : SecId} {m : MemSel} {insp : Bool} {s : State} (hs : Keeps s0 s) : Keeps s0 (memUeRead c m insp s).2 := by
  unfold memUeRead
  exact Keeps.ite2 hs (Keeps.ite hs (ctlMod_keeps hs))

theorem execBmCeCount_keeps {c : SecId} {m : MemSel} {insp : Bool} {s : State} {t' : State} (he : execBmCeCount c m insp s = .next t') : Keeps s t' := by
  unfold execBmCeCount at he
  cases he
  exact State.readTo_keeps (memCeRead_keeps ((Keeps.refl s)))

theorem execBmUeCount_keeps {c : SecId} {m : MemSel} {insp : Bool} {s : State} {t' : State} (he : execBmUeCount c m insp s = .next t') : Keeps s t' := by
  unfold execBmUeCount at he
  cases he
  exact State.readTo_keeps (memUeRead_keeps ((Keeps.refl s)))

end Sys2Proof.Machine
end

