-- ==== Sys2Proof/Laws/KeepsConfig.lean ====
section
/-! SUPPORT. What each function of Machine/Config.lean keeps. -/

namespace Sys2Proof.Machine

theorem beginWrongMode_keeps {s0 : State} {c : Cmd} {s : State} (hs : Keeps s0 s) : Keeps s0 (beginWrongMode c s) := by
  unfold beginWrongMode
  exact Keeps.ite (Keeps.ite (flashLoadFail_keeps hs) (streamResult_keeps (finish_keeps hs))) (finish_keeps hs)

theorem cfgBeginF_keeps {s0 : State} {id : CmdId} {s : State} (hs : Keeps s0 s) : Keeps s0 (cfgBeginF id s) := by
  unfold cfgBeginF
  refine startCmdOr_keeps (fun _ _ h => beginWrongMode_keeps h) (fun _ _ h0 => ?_) hs
  extract_lets -merge -underBinder +onlyGivenNames u1 u2 u3 u4 u5 u6 u7 u8
  have h61 : Keeps s0 u8 := State.onCfg_keeps h0
  clear_value u5
  split
  · exact loadFail_keeps h61
  · refine Keeps.ite (loadFail_keeps h61) (Keeps.ite (loadFail_keeps h61) ?_)
    extract_lets -merge -underBinder +onlyGivenNames u62
    have h122 : Keeps s0 u62 := sessMod_keeps h61
    clear_value u7
    split
    · exact State.regionAtMod_keeps h122
    · exact fullBegin_keeps h122

theorem execCfgBegin_keeps {c : CmdId} {s : State} {t' : State} (he : execCfgBegin c s = .next t') : Keeps s t' := by
  unfold execCfgBegin at he
  cases he
  exact cfgBeginF_keeps ((Keeps.refl s))

theorem cfgFramesF_keeps {s0 : State} {id : CmdId} {s : State} (hs : Keeps s0 s) : Keeps s0 (cfgFramesF id s) := by
  unfold cfgFramesF
  refine startSess_keeps (fun _ _ _ h0 => ?_) hs
  extract_lets -merge -underBinder +onlyGivenNames u1 u2 u3 u4 u5 u6 u7 u8 u9
  refine sessCheck_keeps (fun _ h61 => sessCheck_keeps (fun _ h62 => ?_) h61) h0
  extract_lets -merge -underBinder +onlyGivenNames u63
  refine Keeps.ite (sessFail_keeps (raise_keeps h62)) ?_
  split
  · exact sessFail_keeps h62
  · split
    · exact sessFail_keeps h62
    · extract_lets -merge -underBinder +onlyGivenNames u123 u124 u125
      have h183 : Keeps s0 u124 := sessMod_keeps h62
      have h184 : Keeps s0 u125 := State.each_keeps (fun _ _ h185 => takeFrame_keeps h185) h183
      exact finish_keeps h184

theorem execCfgFrames_keeps {c : CmdId} {s : State} {t' : State} (he : execCfgFrames c s = .next t') : Keeps s t' := by
  unfold execCfgFrames at he
  cases he
  exact cfgFramesF_keeps ((Keeps.refl s))

theorem cfgKeyRollF_keeps {s0 : State} {id : CmdId} {s : State} (hs : Keeps s0 s) : Keeps s0 (cfgKeyRollF id s) := by
  unfold cfgKeyRollF
  refine startSess_keeps (fun _ _ _ h0 => sessCheck_keeps (fun _ h1 => Keeps.ite (sessFail_keeps (raise_keeps h1)) ?_) h0) hs
  split
  · exact sessFail_keeps h1
  · exact finish_keeps (sessMod_keeps h1)

theorem execCfgKeyRoll_keeps {c : CmdId} {s : State} {t' : State} (he : execCfgKeyRoll c s = .next t') : Keeps s t' := by
  unfold execCfgKeyRoll at he
  cases he
  exact cfgKeyRollF_keeps ((Keeps.refl s))

theorem cfgSignatureF_keeps {s0 : State} {id : CmdId} {s : State} (hs : Keeps s0 s) : Keeps s0 (cfgSignatureF id s) := by
  unfold cfgSignatureF
  exact startSess_keeps (fun _ _ _ h0 => sessCheck_keeps (fun _ h1 => finish_keeps (sessMod_keeps h1)) h0) hs

theorem execCfgSignature_keeps {c : CmdId} {s : State} {t' : State} (he : execCfgSignature c s = .next t') : Keeps s t' := by
  unfold execCfgSignature at he
  cases he
  exact cfgSignatureF_keeps ((Keeps.refl s))

theorem cfgInitBlock_keeps {s0 : State} {sec : Nat} {s : State} (hs : Keeps s0 s) : Keeps s0 (cfgInitBlock sec s) := by
  unfold cfgInitBlock
  extract_lets -merge -underBinder +onlyGivenNames u0
  have h2 : Keeps s0 u0 := State.onCfg_keeps hs
  exact Keeps.upd h2 rfl rfl

theorem cfgInitDeep_keeps {s0 : State} {sec : Nat} {s : State} (hs : Keeps s0 s) : Keeps s0 (cfgInitDeep sec s) := by
  unfold cfgInitDeep
  exact Keeps.upd hs rfl rfl

theorem cfgMeminitF_keeps {s0 : State} {id : CmdId} {s : State} (hs : Keeps s0 s) : Keeps s0 (cfgMeminitF id s) := by
  unfold cfgMeminitF
  refine startSess_keeps (fun _ _ _ h0 => ?_) hs
  extract_lets -merge -underBinder +onlyGivenNames u1 u2 u3 u4
  refine sessCheck_keeps (fun _ h61 => ?_) h0
  extract_lets -merge -underBinder +onlyGivenNames u62 u63
  have h122 : Keeps s0 u62 := sessMod_keeps h61
  have h123 : Keeps s0 u63 := by
    subst u63
    refine State.each_keeps (fun _ _ h125 => Keeps.ite h125 ?_) h122
    extract_lets -merge -underBinder +onlyGivenNames u126
    have h186 : Keeps s0 u126 := Keeps.ite (cfgInitBlock_keeps h125) h125
    exact Keeps.ite (cfgInitDeep_keeps h186) h186
  exact finish_keeps h123

theorem execCfgMeminit_keeps {c : CmdId} {s : State} {t' : State} (he : execCfgMeminit c s = .next t') : Keeps s t' := by
  unfold execCfgMeminit at he
  cases he
  exact cfgMeminitF_keeps ((Keeps.refl s))

theorem sessVerified_keeps {s0 : State} {s : State} (hs : Keeps s0 s) : Keeps s0 (sessVerified s) := by
  unfold sessVerified
  split
  · exact hs
  · extract_lets -merge -underBinder +onlyGivenNames u0 u1
    have h60 : Keeps s0 u0 := sessMod_keeps hs
    have h61 : Keeps s0 u1 := markUnusable_keeps (cmdMod_keeps h60)
    refine Keeps.ite ?_ (Keeps.ite (sessMod_keeps (State.onCfg_keeps h61)) (startupPins_keeps h61))
    split
    · exact releaseDeferred_keeps (markUnusable_keeps h60)
    · exact h60

theorem cfgEndF_keeps {s0 : State} {id : CmdId} {s : State} (hs : Keeps s0 s) : Keeps s0 (cfgEndF id s) := by
  unfold cfgEndF
  refine startSess_keeps (fun _ _ _ h0 => ?_) hs
  extract_lets -merge -underBinder +onlyGivenNames u1
  refine sessCheck_keeps (fun _ h61 => ?_) h0
  extract_lets -merge -underBinder +onlyGivenNames u62
  exact Keeps.ite (sessFail_keeps h61) (Keeps.ite (sessFail_keeps h61) (Keeps.ite (sessFail_keeps h61) (sessVerified_keeps (finish_keeps h61))))

theorem execCfgEnd_keeps {c : CmdId} {s : State} {t' : State} (he : execCfgEnd c s = .next t') : Keeps s t' := by
  unfold execCfgEnd at he
  cases he
  exact cfgEndF_keeps ((Keeps.refl s))

theorem cfgCommitF_keeps {s0 : State} {id : CmdId} {s : State} (hs : Keeps s0 s) : Keeps s0 (cfgCommitF id s) := by
  unfold cfgCommitF
  refine startCmd_keeps (fun _ _ h0 => ?_) hs
  extract_lets -merge -underBinder +onlyGivenNames u1 u2
  refine require_keeps (fun _ h61 => ?_) h0
  extract_lets -merge -underBinder +onlyGivenNames u62 u63 u64
  have h122 : Keeps s0 u64 := finish_keeps h61
  exact Keeps.ite (commitFalls_keeps h122) (Keeps.ite h122 (Keeps.ite (commitFalls_keeps h122) (State.regionAtMod_keeps h122)))

theorem execCfgCommit_keeps {c : CmdId} {s : State} {t' : State} (he : execCfgCommit c s = .next t') : Keeps s t' := by
  unfold execCfgCommit at he
  cases he
  exact cfgCommitF_keeps ((Keeps.refl s))

theorem commitDueF_keeps {s0 : State} {r : Fin 16} {s : State} (hs : Keeps s0 s) : Keeps s0 (commitDueF r s) := by
  unfold commitDueF
  split
  · exact Keeps.ite (commitFalls_keeps hs) hs
  · exact hs

theorem execCommitDue_keeps {r : Fin 16} {s : State} {t' : State} (he : execCommitDue r s = .next t') : Keeps s t' := by
  unfold execCommitDue at he
  cases he
  exact commitDueF_keeps ((Keeps.refl s))

theorem cfgRegionOpenF_keeps {s0 : State} {id : CmdId} {s : State} (hs : Keeps s0 s) : Keeps s0 (cfgRegionOpenF id s) := by
  unfold cfgRegionOpenF
  refine startCmd_keeps (fun _ _ h1 => ?_) hs
  extract_lets -merge -underBinder +onlyGivenNames u1 u2 u3 u4
  refine require_keeps (fun _ h6 => (require_keeps (fun _ h7 => ?_) h6)) h1
  extract_lets -merge -underBinder +onlyGivenNames u7 u8 u9 u10 u11 u12 u13 u14
  have h16 : Keeps s0 u7 := bgStop_keeps h7
  have h17 : Keeps s0 u8 := State.onDbg_keeps h16
  have h18 : Keeps s0 u9 := dbgVotes_keeps h17
  have h19 : Keeps s0 u11 := State.regionAtMod_keeps h18
  have h20 : Keeps s0 u12 := State.each_keeps (fun _ _ h21 => (State.tportAtMod_keeps h21)) h19
  have h22 : Keeps s0 u13 := State.each_keeps (fun _ _ h23 => (State.secAtMod_keeps h23)) h20
  have h24 : Keeps s0 u14 := State.onCfg_keeps h22
  exact wdsRegionOpen_keeps (State.each_keeps (fun _ _ h25 => (quadIdle_keeps h25)) h24)

theorem execCfgRegionOpen_keeps {c : CmdId} {s : State} {t' : State} (he : execCfgRegionOpen c s = .next t') : Keeps s t' := by
  unfold execCfgRegionOpen at he
  cases he
  exact cfgRegionOpenF_keeps ((Keeps.refl s))

theorem cfgRegionClearF_keeps {s0 : State} {id : CmdId} {s : State} (hs : Keeps s0 s) : Keeps s0 (cfgRegionClearF id s) := by
  unfold cfgRegionClearF
  refine startCmd_keeps (fun _ _ h0 => ?_) hs
  extract_lets -merge -underBinder +onlyGivenNames u1
  exact require_keeps (fun _ h61 => cmdMod_keeps (State.regionAtMod_keeps h61)) h0

theorem execCfgRegionClear_keeps {c : CmdId} {s : State} {t' : State} (he : execCfgRegionClear c s = .next t') : Keeps s t' := by
  unfold execCfgRegionClear at he
  cases he
  exact cfgRegionClearF_keeps ((Keeps.refl s))

theorem regionDrainCompleteF_keeps {s0 : State} {r : Fin 16} {s : State} (hs : Keeps s0 s) : Keeps s0 (regionDrainCompleteF r s) := by
  unfold regionDrainCompleteF
  extract_lets -merge -underBinder +onlyGivenNames u0
  exact Keeps.ite (regionHold_keeps hs) hs

theorem execRegionDrainComplete_keeps {r : Fin 16} {s : State} {t' : State} (he : execRegionDrainComplete r s = .next t') : Keeps s t' := by
  unfold execRegionDrainComplete at he
  cases he
  exact regionDrainCompleteF_keeps ((Keeps.refl s))

theorem poisonAll_keeps {s0 : State} {p : Nat} {s : State} (hs : Keeps s0 s) : Keeps s0 (poisonAll p s) := by
  unfold poisonAll
  extract_lets -merge -underBinder +onlyGivenNames u0 u1
  have h60 : Keeps s0 u1 := by
    subst u1
    refine State.each_keeps (fun _ _ h62 => ?_) hs
    extract_lets -merge -underBinder +onlyGivenNames u63
    exact sendRsp_keeps h62
  exact State.tportAtMod_keeps h60

theorem abandonAll_keeps {s0 : State} {p : Nat} {s : State} (hs : Keeps s0 s) : Keeps s0 (abandonAll p s) := by
  unfold abandonAll
  exact State.iportAtMod_keeps hs

theorem regionDrainTimeoutF_keeps {s0 : State} {r : Fin 16} {s : State} (hs : Keeps s0 s) : Keeps s0 (regionDrainTimeoutF r s) := by
  unfold regionDrainTimeoutF
  extract_lets -merge -underBinder +onlyGivenNames u0 u1
  have h60 : Keeps s0 u1 := State.each_keeps (fun _ _ h61 => abandonAll_keeps (poisonAll_keeps h61)) hs
  exact Keeps.ite (regionHold_keeps (raiseFrom_keeps h60)) hs

theorem execRegionDrainTimeout_keeps {r : Fin 16} {s : State} {t' : State} (he : execRegionDrainTimeout r s = .next t') : Keeps s t' := by
  unfold execRegionDrainTimeout at he
  cases he
  exact regionDrainTimeoutF_keeps ((Keeps.refl s))

theorem regionReply_keeps {s0 : State} {r : Nat} {data : List Word} {s : State} (hs : Keeps s0 s) : Keeps s0 (regionReply r data s) := by
  unfold regionReply
  split
  · exact finish_keeps (State.regionAtMod_keeps hs)
  · exact hs

theorem regionBlankCompleteF_keeps {s0 : State} {r : Fin 16} {s : State} (hs : Keeps s0 s) : Keeps s0 (regionBlankCompleteF r s) := by
  unfold regionBlankCompleteF
  extract_lets -merge -underBinder +onlyGivenNames u0 u1 u2
  have h60 : Keeps s0 u1 := blankSectors_keeps hs
  have h61 : Keeps s0 u2 := State.regionAtMod_keeps h60
  exact Keeps.ite hs (Keeps.ite (closeBlank_keeps (regionReply_keeps h60)) (setMode_keeps (regionReply_keeps h61)))

theorem execRegionBlankComplete_keeps {r : Fin 16} {s : State} {t' : State} (he : execRegionBlankComplete r s = .next t') : Keeps s t' := by
  unfold execRegionBlankComplete at he
  cases he
  exact regionBlankCompleteF_keeps ((Keeps.refl s))

theorem regionReleaseCompleteF_keeps {s0 : State} {r : Fin 16} {us : Nat} {s : State} (hs : Keeps s0 s) : Keeps s0 (regionReleaseCompleteF r us s) := by
  unfold regionReleaseCompleteF
  extract_lets -merge -underBinder +onlyGivenNames u0
  refine Keeps.ite hs ?_
  extract_lets -merge -underBinder +onlyGivenNames u1 u2 u3 u4 u5 u6
  have h8 : Keeps s0 u3 := State.each_keeps (fun _ _ h9 => (releaseSec_keeps h9)) hs
  have h10 : Keeps s0 u4 := State.each_keeps (fun _ _ h11 => (State.secAtMod_keeps h11)) h8
  have h12 : Keeps s0 u6 := State.regionAtMod_keeps h10
  exact closeMode_keeps (regionForget_keeps (endSession_keeps (warmStore_keeps h12)))

theorem execRegionReleaseComplete_keeps {r : Fin 16} {us : Nat} {s : State} {t' : State} (he : execRegionReleaseComplete r us s = .next t') : Keeps s t' := by
  unfold execRegionReleaseComplete at he
  cases he
  exact regionReleaseCompleteF_keeps ((Keeps.refl s))

theorem doneLineHighF_keeps {s0 : State} {s : State} (hs : Keeps s0 s) : Keeps s0 (doneLineHighF s) := by
  unfold doneLineHighF
  refine Keeps.ite hs ?_
  extract_lets -merge -underBinder +onlyGivenNames u0
  have h60 : Keeps s0 u0 := State.onCfg_keeps hs
  split
  · exact Keeps.ite (startupPins_keeps h60) h60
  · exact h60

theorem execDoneLineHigh_keeps {s : State} {t' : State} (he : execDoneLineHigh s = .next t') : Keeps s t' := by
  unfold execDoneLineHigh at he
  cases he
  exact doneLineHighF_keeps ((Keeps.refl s))

theorem doneWaitTimeoutF_keeps {s0 : State} {s : State} (hs : Keeps s0 s) : Keeps s0 (doneWaitTimeoutF s) := by
  unfold doneWaitTimeoutF
  split
  · exact Keeps.ite (startupPins_keeps (raise_keeps hs)) hs
  · exact hs

theorem execDoneWaitTimeout_keeps {s : State} {t' : State} (he : execDoneWaitTimeout s = .next t') : Keeps s t' := by
  unfold execDoneWaitTimeout at he
  cases he
  exact doneWaitTimeoutF_keeps ((Keeps.refl s))

theorem startupCompleteF_keeps {s0 : State} {s : State} (hs : Keeps s0 s) : Keeps s0 (startupCompleteF s) := by
  unfold startupCompleteF
  split
  · exact Keeps.ite (startupDone_keeps hs) hs
  · exact hs

theorem execStartupComplete_keeps {s : State} {t' : State} (he : execStartupComplete s = .next t') : Keeps s t' := by
  unfold execStartupComplete at he
  cases he
  exact startupCompleteF_keeps ((Keeps.refl s))

theorem streamInactivityTimeoutF_keeps {s0 : State} {s : State} (hs : Keeps s0 s) : Keeps s0 (streamInactivityTimeoutF s) := by
  unfold streamInactivityTimeoutF
  split
  · extract_lets -merge -underBinder +onlyGivenNames u0
    exact Keeps.ite hs (loadFail_keeps hs)
  · exact hs

theorem execStreamInactivityTimeout_keeps {s : State} {t' : State} (he : execStreamInactivityTimeout s = .next t') : Keeps s t' := by
  unfold execStreamInactivityTimeout at he
  cases he
  exact streamInactivityTimeoutF_keeps ((Keeps.refl s))

theorem loadFallbackDecisionF_keeps {s0 : State} {s : State} (hs : Keeps s0 s) : Keeps s0 (loadFallbackDecisionF s) := by
  unfold loadFallbackDecisionF
  split
  · exact Keeps.ite hs (Keeps.ite (raise_keeps (sessMod_keeps (State.onCfg_keeps hs))) (loadFail_keeps hs))
  · exact hs

theorem execLoadFallbackDecision_keeps {s : State} {t' : State} (he : execLoadFallbackDecision s = .next t') : Keeps s t' := by
  unfold execLoadFallbackDecision at he
  cases he
  exact loadFallbackDecisionF_keeps ((Keeps.refl s))

theorem cfgStreamDataF_keeps {s0 : State} {w : Word} {s : State} (hs : Keeps s0 s) : Keeps s0 (cfgStreamDataF w s) := by
  unfold cfgStreamDataF
  extract_lets -merge -underBinder +onlyGivenNames u0 u1
  have h60 : Keeps s0 u1 := State.onCfg_keeps hs
  refine Keeps.ite hs (Keeps.ite (State.onCfg_keeps hs) ?_)
  split
  · exact Keeps.ite (loadFail_keeps h60) h60
  · exact h60

theorem execCfgStreamData_keeps {w : Word} {s : State} {t' : State} (he : execCfgStreamData w s = .next t') : Keeps s t' := by
  unfold execCfgStreamData at he
  cases he
  exact cfgStreamDataF_keeps ((Keeps.refl s))

theorem cfgStreamAbortF_keeps {s0 : State} {s : State} (hs : Keeps s0 s) : Keeps s0 (cfgStreamAbortF s) := by
  unfold cfgStreamAbortF
  extract_lets -merge -underBinder +onlyGivenNames u0
  have h60 : Keeps s0 u0 := State.onMgr_keeps (State.onCfg_keeps hs)
  split
  · exact Keeps.ite (sessionRollback_keeps h60) h60
  · exact h60

theorem execCfgStreamAbort_keeps {s : State} {t' : State} (he : execCfgStreamAbort s = .next t') : Keeps s t' := by
  unfold execCfgStreamAbort at he
  cases he
  exact cfgStreamAbortF_keeps ((Keeps.refl s))

theorem snapshot_keeps {s0 : State} {secs : List Nat} {trig : Nat} {s : State} (hs : Keeps s0 s) : Keeps s0 (snapshot secs trig s) := by
  unfold snapshot
  extract_lets -merge -underBinder +onlyGivenNames u0 u1
  have h60 : Keeps s0 u1 := State.onCfg_keeps hs
  exact State.each_keeps (fun _ _ h61 => State.secAtMod_keeps h61) h60

theorem captureTake_keeps {s0 : State} {k : Capture} {s : State} (hs : Keeps s0 s) : Keeps s0 (captureTake k s) := by
  unfold captureTake
  extract_lets -merge -underBinder +onlyGivenNames u0 u1
  have h60 : Keeps s0 u0 := State.onCfg_keeps hs
  have h61 : Keeps s0 u1 := snapshot_keeps h60
  split
  · exact finish_keeps h61
  · exact h61

theorem captureF_keeps {s0 : State} {id : CmdId} {s : State} (hs : Keeps s0 s) : Keeps s0 (captureF id s) := by
  unfold captureF
  refine startCmd_keeps (fun _ _ h0 => ?_) hs
  extract_lets -merge -underBinder +onlyGivenNames u1 u2 u3 u4 u5
  refine require_keeps (fun _ h61 => require_keeps (fun _ h62 => require_keeps (fun _ h63 => ?_) h62) h61) h0
  extract_lets -merge -underBinder +onlyGivenNames u64
  exact Keeps.ite (captureTake_keeps h63) (State.onCfg_keeps h63)

theorem execCapture_keeps {c : CmdId} {s : State} {t' : State} (he : execCapture c s = .next t') : Keeps s t' := by
  unfold execCapture at he
  cases he
  exact captureF_keeps ((Keeps.refl s))

theorem captureSnapshotF_keeps {s0 : State} {s : State} (hs : Keeps s0 s) : Keeps s0 (captureSnapshotF s) := by
  unfold captureSnapshotF
  split
  · exact captureTake_keeps hs
  · exact hs

theorem execCaptureSnapshot_keeps {s : State} {t' : State} (he : execCaptureSnapshot s = .next t') : Keeps s t' := by
  unfold execCaptureSnapshot at he
  cases he
  exact captureSnapshotF_keeps ((Keeps.refl s))

theorem rbTouch_keeps {s0 : State} {c : SecId} {m : MemSel} {w : Nat} {s : State} (hs : Keeps s0 s) : Keeps s0 (rbTouch c m w s) := by
  unfold rbTouch
  split
  · refine Keeps.ite hs ?_
    extract_lets -merge -underBinder +onlyGivenNames u0 u1 u2
    have h60 : Keeps s0 u0 := ctlMod_keeps hs
    have h61 : Keeps s0 u2 := by
      subst u2
      split
      · exact State.bmAtMod_keeps h60
      · exact State.dmAtMod_keeps h60
    exact State.when_keeps (fun _ h62 => raiseFrom_keeps h62) h61

theorem readUnits_keeps {s0 : State} {c : SecId} {kind : Nat} {us : List Nat} {acc : List (List Word)} {s : State} (hs : Keeps s0 s) : Keeps s0 (readUnits c kind us acc s).2.2 := by
  induction us generalizing acc s with
  | nil => exact hs
  | cons u us ih =>
    unfold readUnits
    extract_lets -merge +onlyGivenNames rs bad data t
    have h : Keeps s0 t := State.each_keeps (fun _ _ h => rbTouch_keeps h) hs
    clear_value bad
    split
    · exact h
    · exact ih h

theorem readbackStart_keeps {s0 : State} {id : CmdId} {k : Cmd → SecId → Nat → State → State} {s : State} (hk : ∀ a0 a1 a2 a3, Keeps s0 a3 → Keeps s0 (k a0 a1 a2 a3)) (hs : Keeps s0 s) : Keeps s0 (readbackStart id k s) := by
  unfold readbackStart
  refine startCmd_keeps (fun _ _ h0 => ?_) hs
  extract_lets -merge -underBinder +onlyGivenNames u1 u2 u3 u4
  exact require_keeps (fun _ h61 => require_keeps (fun _ h62 => require_keeps (fun _ h63 => hk _ _ _ _ h63) h62) h61) h0

theorem readbackF_keeps {s0 : State} {id : CmdId} {s : State} (hs : Keeps s0 s) : Keeps s0 (readbackF id s) := by
  unfold readbackF
  refine readbackStart_keeps (fun _ _ _ _ h0 => ?_) hs
  extract_lets -merge -underBinder +onlyGivenNames u1
  split
  · rename_i he
    have h61 := Keeps.of22 he (readUnits_keeps h0)
    split
    · exact finishAfter_keeps h61
    · exact finishUnits_keeps h61

theorem execReadback_keeps {c : CmdId} {s : State} {t' : State} (he : execReadback c s = .next t') : Keeps s t' := by
  unfold execReadback at he
  cases he
  exact readbackF_keeps ((Keeps.refl s))

theorem readbackTimeoutF_keeps {s0 : State} {id : CmdId} {units : Nat} {s : State} (hs : Keeps s0 s) : Keeps s0 (readbackTimeoutF id units s) := by
  unfold readbackTimeoutF
  refine readbackStart_keeps (fun _ _ _ _ h1 => ?_) hs
  extract_lets -merge -underBinder +onlyGivenNames u1 u2
  split
  rename_i x4 x5 x6 x7 x8
  have h9 := Keeps.of22 x8 (readUnits_keeps h1)
  split
  · exact finishAfter_keeps h9
  · exact Keeps.ite (finishAfter_keeps h9) (finishUnits_keeps h9)

theorem execReadbackTimeout_keeps {c : LateReadback} {s : State} {t' : State} (he : execReadbackTimeout c s = .next t') : Keeps s t' := by
  unfold execReadbackTimeout at he
  cases he
  exact readbackTimeoutF_keeps (Keeps.refl _)

end Sys2Proof.Machine
end

