-- ==== Sys2Proof/Laws/KeepsMgr.lean ====
section
/-! SUPPORT. What each function of Machine/Mgr.lean keeps. -/

namespace Sys2Proof.Machine

theorem refusalActs_keeps {s0 : State} {id : CmdId} {h : Word} {status : Nat} {s : State} (hs : Keeps s0 s) : Keeps s0 (refusalActs id h status s) := by
  unfold refusalActs
  split
  · exact hs
  · extract_lets -merge -underBinder +onlyGivenNames u0
    exact Keeps.ite (loadFail_keeps hs) hs

theorem packetIn_keeps {s0 : State} {id : CmdId} {count : Nat} {ws : List Word} {s : State} (hs : Keeps s0 s) : Keeps s0 (packetIn id count ws s) := by
  unfold packetIn
  refine Keeps.ite hs ?_
  extract_lets -merge -underBinder +onlyGivenNames u0
  have h60 : Keeps s0 u0 := wakeHub_keeps hs
  split
  · exact accept_keeps h60
  · exact refusalActs_keeps (refuse_keeps h60)

theorem drainRx_keeps {s0 : State} {t : Transport} {get : State → List Word} {set : List Word → State → State} {n : Nat} {s : State} (hset : ∀ a0 a1, Keeps s0 a1 → Keeps s0 (set a0 a1)) (hs : Keeps s0 s) : Keeps s0 (drainRx t get set n s) := by
  induction n generalizing s with
  | zero => exact hs
  | succ n ih =>
    unfold drainRx
    split
    · exact hs
    · exact Keeps.ite hs (ih (packetIn_keeps (hset _ _ hs)))

theorem flashPacket_keeps {s0 : State} {img : Image} {s : State} (hs : Keeps s0 s) : Keeps s0 (flashPacket img s) := by
  unfold flashPacket
  split
  extract_lets -merge -underBinder +onlyGivenNames u5 u6 u7 u8 u9 u10
  refine Keeps.ite hs (Keeps.ite (flashLoadFail_keeps hs) (Keeps.ite (State.onCfg_keeps hs) (Keeps.ite (flashLoadFail_keeps hs) (Keeps.ite hs ?_))))
  extract_lets -merge -underBinder +onlyGivenNames u11 u12
  split
  · exact State.onCfg_keeps (accept_keeps hs)
  · exact flashLoadFail_keeps hs

theorem portPacket_keeps {s0 : State} {s : State} (hs : Keeps s0 s) : Keeps s0 (portPacket s) := by
  unfold portPacket
  extract_lets -merge -underBinder +onlyGivenNames u0
  have h60 : Keeps s0 u0 := State.onCfg_keeps (State.onMgr_keeps hs)
  split
  · exact h60
  · extract_lets -merge -underBinder +onlyGivenNames u61 u62 u63 u64
    have h121 : Keeps s0 u63 := State.onMgr_keeps h60
    refine Keeps.ite h60 ?_
    split
    · exact accept_keeps h121
    · split
      · exact Keeps.ite (loadFail_keeps h121) h121
      · exact h121

theorem packetArrivalF_keeps {s0 : State} {t : Transport} {dev : BitVec 12} {words : List Word} {s : State} (hs : Keeps s0 s) : Keeps s0 (packetArrivalF t dev words s) := by
  unfold packetArrivalF
  refine Keeps.ite (Keeps.ite hs ?_) (packetIn_keeps hs)
  split
  · exact hs
  · exact flashPacket_keeps hs
  · exact portPacket_keeps hs

theorem execPacketArrival_keeps {t : Transport} {dev : BitVec 12} {words : List Word} {s : State} {t' : State} (he : execPacketArrival t dev words s = .next t') : Keeps s t' := by
  unfold execPacketArrival at he
  cases he
  exact packetArrivalF_keeps ((Keeps.refl s))

theorem packetTimeoutF_keeps {s0 : State} {t : Transport} {s : State} (hs : Keeps s0 s) : Keeps s0 (packetTimeoutF t s) := by
  unfold packetTimeoutF
  extract_lets -merge -underBinder +onlyGivenNames u0
  clear_value u0
  split
  · exact hs
  · extract_lets -merge -underBinder +onlyGivenNames u60
    have h120 : Keeps s0 u60 := State.onMgr_keeps hs
    exact refuse_keeps h120

theorem execPacketTimeout_keeps {t : Transport} {s : State} {t' : State} (he : execPacketTimeout t s = .next t') : Keeps s t' := by
  unfold execPacketTimeout at he
  cases he
  exact packetTimeoutF_keeps ((Keeps.refl s))

theorem mgrcmdUpdateDrF_keeps {s0 : State} {dr : BitVec 34} {s : State} (hs : Keeps s0 s) : Keeps s0 (mgrcmdUpdateDrF dr s) := by
  unfold mgrcmdUpdateDrF
  exact Keeps.ite hs (drainRx_keeps (fun _ _ h1 => (State.onMgr_keeps h1)) (State.onDbg_keeps (State.onMgr_keeps hs)))

theorem execMgrcmdUpdateDr_keeps {dr : BitVec 34} {s : State} {t' : State} (he : execMgrcmdUpdateDr dr s = .next t') : Keeps s t' := by
  unfold execMgrcmdUpdateDr at he
  cases he
  exact mgrcmdUpdateDrF_keeps ((Keeps.refl s))

theorem mgrcmdCaptureDrF_keeps {s0 : State} {s : State} (hs : Keeps s0 s) : Keeps s0 (mgrcmdCaptureDrF s) := by
  unfold mgrcmdCaptureDrF
  refine Keeps.ite (State.onMgr_keeps hs) ?_
  extract_lets -merge -underBinder +onlyGivenNames u0
  split
  · exact State.onMgr_keeps hs
  · exact State.onMgr_keeps hs

theorem execMgrcmdCaptureDr_keeps {s : State} {t' : State} (he : execMgrcmdCaptureDr s = .next t') : Keeps s t' := by
  unfold execMgrcmdCaptureDr at he
  cases he
  exact mgrcmdCaptureDrF_keeps ((Keeps.refl s))

theorem smbusBlockWriteF_keeps {s0 : State} {count : Nat} {words : List Word} {pecOk : Bool} {s : State} (hs : Keeps s0 s) : Keeps s0 (smbusBlockWriteF count words pecOk s) := by
  unfold smbusBlockWriteF
  extract_lets -merge -underBinder +onlyGivenNames u0 u1
  have h3 : Keeps s0 u1 := State.onMgr_keeps hs
  exact Keeps.ite h3 (drainRx_keeps (fun _ _ h4 => (State.onMgr_keeps h4)) (State.onMgr_keeps h3))

theorem execSmbusBlockWrite_keeps {count : Nat} {words : List Word} {pecOk : Bool} {s : State} {t' : State} (he : execSmbusBlockWrite count words pecOk s = .next t') : Keeps s t' := by
  unfold execSmbusBlockWrite at he
  cases he
  exact smbusBlockWriteF_keeps ((Keeps.refl s))

theorem smbusBlockReadF_keeps {s0 : State} {s : State} (hs : Keeps s0 s) : Keeps s0 (smbusBlockReadF s) := by
  unfold smbusBlockReadF
  refine Keeps.ite hs ?_
  split
  · exact State.onMgr_keeps hs
  · exact State.onMgr_keeps hs

theorem execSmbusBlockRead_keeps {s : State} {t' : State} (he : execSmbusBlockRead s = .next t') : Keeps s t' := by
  unfold execSmbusBlockRead at he
  cases he
  exact smbusBlockReadF_keeps ((Keeps.refl s))

theorem smbusReadByteF_keeps {s0 : State} {s : State} (hs : Keeps s0 s) : Keeps s0 (smbusReadByteF s) := by
  unfold smbusReadByteF
  exact Keeps.ite hs (State.onMgr_keeps hs)

theorem execSmbusReadByte_keeps {s : State} {t' : State} (he : execSmbusReadByte s = .next t') : Keeps s t' := by
  unfold execSmbusReadByte at he
  cases he
  exact smbusReadByteF_keeps ((Keeps.refl s))

theorem mbxForward_keeps {s0 : State} {dest : BitVec 12} {count : Nat} {ws : List Word} {s : State} (hs : Keeps s0 s) : Keeps s0 (mbxForward dest count ws s) := by
  unfold mbxForward
  extract_lets -merge -underBinder +onlyGivenNames h id bad
  clear_value bad
  split
  · exact refuse_keeps hs
  · extract_lets -merge -underBinder +onlyGivenNames u2
    exact spanTo_keeps (State.onMgr_keeps hs)

theorem mbxSubmitF_keeps {s0 : State} {v : Word} {s : State} (hs : Keeps s0 s) : Keeps s0 (mbxSubmitF v s) := by
  unfold mbxSubmitF
  refine Keeps.ite (State.onMgr_keeps hs) (Keeps.ite hs ?_)
  extract_lets -merge -underBinder +onlyGivenNames u0 u1 u2 u3 u4
  have h6 : Keeps s0 u0 := wakeHub_keeps hs
  have h7 : Keeps s0 u4 := Keeps.ite (refusalActs_keeps (refuse_keeps h6)) (Keeps.ite (mbxForward_keeps h6) (packetIn_keeps h6))
  exact State.onMgr_keeps h7

theorem execMbxSubmit_keeps {v : Word} {s : State} {t' : State} (he : execMbxSubmit v s = .next t') : Keeps s t' := by
  unfold execMbxSubmit at he
  cases he
  exact mbxSubmitF_keeps ((Keeps.refl s))

theorem mbxFlushF_keeps {s0 : State} {s : State} (hs : Keeps s0 s) : Keeps s0 (mbxFlushF s) := by
  unfold mbxFlushF
  exact State.onMgr_keeps hs

theorem execMbxFlush_keeps {s : State} {t' : State} (he : execMbxFlush s = .next t') : Keeps s t' := by
  unfold execMbxFlush at he
  cases he
  exact mbxFlushF_keeps ((Keeps.refl s))

theorem mbxRspDoneF_keeps {s0 : State} {s : State} (hs : Keeps s0 s) : Keeps s0 (mbxRspDoneF s) := by
  unfold mbxRspDoneF
  exact mbxPost_keeps (State.onMgr_keeps hs)

theorem execMbxRspDone_keeps {s : State} {t' : State} (he : execMbxRspDone s = .next t') : Keeps s t' := by
  unfold execMbxRspDone at he
  cases he
  exact mbxRspDoneF_keeps ((Keeps.refl s))

theorem nopF_keeps {s0 : State} {id : CmdId} {s : State} (hs : Keeps s0 s) : Keeps s0 (nopF id s) := by
  unfold nopF
  exact startCmd_keeps (fun _ _ h0 => finish_keeps h0) hs

theorem execNop_keeps {c : CmdId} {s : State} {t' : State} (he : execNop c s = .next t') : Keeps s t' := by
  unfold execNop at he
  cases he
  exact nopF_keeps ((Keeps.refl s))

theorem getStatusF_keeps {s0 : State} {id : CmdId} {s : State} (hs : Keeps s0 s) : Keeps s0 (getStatusF id s) := by
  unfold getStatusF
  exact startCmd_keeps (fun _ _ h0 => finish_keeps h0) hs

theorem execGetStatus_keeps {c : CmdId} {s : State} {t' : State} (he : execGetStatus c s = .next t') : Keeps s t' := by
  unfold execGetStatus at he
  cases he
  exact getStatusF_keeps ((Keeps.refl s))

theorem getIdF_keeps {s0 : State} {id : CmdId} {s : State} (hs : Keeps s0 s) : Keeps s0 (getIdF id s) := by
  unfold getIdF
  exact startCmd_keeps (fun _ _ h0 => finish_keeps h0) hs

theorem execGetId_keeps {c : CmdId} {s : State} {t' : State} (he : execGetId c s = .next t') : Keeps s t' := by
  unfold execGetId at he
  cases he
  exact getIdF_keeps ((Keeps.refl s))

theorem getNoticesF_keeps {s0 : State} {id : CmdId} {s : State} (hs : Keeps s0 s) : Keeps s0 (getNoticesF id s) := by
  unfold getNoticesF
  refine startCmd_keeps (fun _ _ h0 => ?_) hs
  extract_lets -merge -underBinder +onlyGivenNames u1
  refine require_keeps (fun _ h61 => ?_) h0
  extract_lets -merge -underBinder +onlyGivenNames u62 u63 u64 u65 u66
  have h122 : Keeps s0 u66 := State.onMgr_keeps h61
  exact finish_keeps h122

theorem execGetNotices_keeps {c : CmdId} {s : State} {t' : State} (he : execGetNotices c s = .next t') : Keeps s t' := by
  unfold execGetNotices at he
  cases he
  exact getNoticesF_keeps ((Keeps.refl s))

end Sys2Proof.Machine
end

