-- ==== Sys2Proof/Laws/KeepsSdu.lean ====
section
/-! SUPPORT. What each function of Machine/Sdu.lean keeps. -/

namespace Sys2Proof.Machine

theorem cmpEvent_keeps {s0 : State} {die : Nat} {s : State} (hs : Keeps s0 s) : Keeps s0 (cmpEvent die s) := by
  unfold cmpEvent
  extract_lets -merge -underBinder +onlyGivenNames u0
  exact Keeps.ite hs (fireLines_keeps hs)

theorem sduSlot_keeps {s0 : State} {u : SduId} {stepping : Bool} {s : State} (hs : Keeps s0 s) : Keeps s0 (sduSlot u stepping s) := by
  unfold sduSlot
  extract_lets -merge -underBinder +onlyGivenNames u0 u1
  split
  extract_lets -merge -underBinder +onlyGivenNames u7
  have h9 : Keeps s0 u7 := State.when_keeps (fun _ h10 => (cmpEvent_keeps h10)) hs
  refine Keeps.ite (State.sduAtMod_keeps h9) ?_
  extract_lets -merge -underBinder +onlyGivenNames u10 u11
  refine Keeps.ite (State.sduAtMod_keeps h9) (Keeps.ite (raiseFrom_keeps (State.sduAtMod_keeps h9)) (Keeps.ite (State.sduAtMod_keeps h9) ?_))
  split
  extract_lets -merge -underBinder +onlyGivenNames u16 u17
  have h19 : Keeps s0 u16 := State.sduAtMod_keeps h9
  have h20 : Keeps s0 u17 := State.when_keeps (fun _ h21 => (cmpEvent_keeps h21)) h19
  exact State.when_keeps (fun _ h22 => (raiseFrom_keeps h22)) h20

theorem takeSwitch_keeps {s0 : State} {u : SduId} {s : State} (hs : Keeps s0 s) : Keeps s0 (takeSwitch u s) := by
  unfold takeSwitch
  extract_lets -merge -underBinder +onlyGivenNames u0
  exact Keeps.ite (State.sduAtMod_keeps hs) (State.sduAtMod_keeps hs)

theorem dueSlots_keeps {s0 : State} {u : SduId} {s : State} (hs : Keeps s0 s) : Keeps s0 (dueSlots u s) := by
  unfold dueSlots
  extract_lets -merge -underBinder +onlyGivenNames u0 u1
  have h3 : Keeps s0 u0 := Keeps.ite (sduSlot_keeps hs) hs
  exact Keeps.ite (takeSwitch_keeps h3) h3

theorem issueIf_keeps {s0 : State} {u : SduId} {p : BitVec 48 → Bool} {s : State} (hs : Keeps s0 s) : Keeps s0 (issueIf u p s) := by
  unfold issueIf
  extract_lets -merge -underBinder +onlyGivenNames u0
  refine Keeps.ite hs ?_
  extract_lets -merge -underBinder +onlyGivenNames u1 u2 u3
  have h5 : Keeps s0 u1 := dueSlots_keeps (asyncHold_keeps hs)
  exact Keeps.ite (sduSlot_keeps h5) h5

theorem execMpy_keeps {u : SduId} {s : State} {t' : State} (he : execMpy u s = .next t') : Keeps s t' := by
  unfold execMpy at he
  cases he
  exact issueIf_keeps ((Keeps.refl s))

theorem execMac_keeps {u : SduId} {s : State} {t' : State} (he : execMac u s = .next t') : Keeps s t' := by
  unfold execMac at he
  cases he
  exact issueIf_keeps ((Keeps.refl s))

theorem execMsu_keeps {u : SduId} {s : State} {t' : State} (he : execMsu u s = .next t') : Keeps s t' := by
  unfold execMsu at he
  cases he
  exact issueIf_keeps ((Keeps.refl s))

theorem execMpyd_keeps {u : SduId} {s : State} {t' : State} (he : execMpyd u s = .next t') : Keeps s t' := by
  unfold execMpyd at he
  cases he
  exact issueIf_keeps ((Keeps.refl s))

theorem execMacd_keeps {u : SduId} {s : State} {t' : State} (he : execMacd u s = .next t') : Keeps s t' := by
  unfold execMacd at he
  cases he
  exact issueIf_keeps ((Keeps.refl s))

theorem execMsud_keeps {u : SduId} {s : State} {t' : State} (he : execMsud u s = .next t') : Keeps s t' := by
  unfold execMsud at he
  cases he
  exact issueIf_keeps ((Keeps.refl s))

theorem execLdx_keeps {u : SduId} {s : State} {t' : State} (he : execLdx u s = .next t') : Keeps s t' := by
  unfold execLdx at he
  cases he
  exact issueIf_keeps ((Keeps.refl s))

theorem execLdy_keeps {u : SduId} {s : State} {t' : State} (he : execLdy u s = .next t') : Keeps s t' := by
  unfold execLdy at he
  cases he
  exact issueIf_keeps ((Keeps.refl s))

theorem execStx_keeps {u : SduId} {s : State} {t' : State} (he : execStx u s = .next t') : Keeps s t' := by
  unfold execStx at he
  cases he
  exact issueIf_keeps ((Keeps.refl s))

theorem execSty_keeps {u : SduId} {s : State} {t' : State} (he : execSty u s = .next t') : Keeps s t' := by
  unfold execSty at he
  cases he
  exact issueIf_keeps ((Keeps.refl s))

theorem execInSlot_keeps {u : SduId} {s : State} {t' : State} (he : execInSlot u s = .next t') : Keeps s t' := by
  unfold execInSlot at he
  cases he
  exact issueIf_keeps ((Keeps.refl s))

theorem execOutSlot_keeps {u : SduId} {s : State} {t' : State} (he : execOutSlot u s = .next t') : Keeps s t' := by
  unfold execOutSlot at he
  cases he
  exact issueIf_keeps ((Keeps.refl s))

theorem execAluNop_keeps {u : SduId} {s : State} {t' : State} (he : execAluNop u s = .next t') : Keeps s t' := by
  unfold execAluNop at he
  cases he
  exact issueIf_keeps ((Keeps.refl s))

theorem execClr_keeps {u : SduId} {s : State} {t' : State} (he : execClr u s = .next t') : Keeps s t' := by
  unfold execClr at he
  cases he
  exact issueIf_keeps ((Keeps.refl s))

theorem execMova_keeps {u : SduId} {s : State} {t' : State} (he : execMova u s = .next t') : Keeps s t' := by
  unfold execMova at he
  cases he
  exact issueIf_keeps ((Keeps.refl s))

theorem execAdda_keeps {u : SduId} {s : State} {t' : State} (he : execAdda u s = .next t') : Keeps s t' := by
  unfold execAdda at he
  cases he
  exact issueIf_keeps ((Keeps.refl s))

theorem execSuba_keeps {u : SduId} {s : State} {t' : State} (he : execSuba u s = .next t') : Keeps s t' := by
  unfold execSuba at he
  cases he
  exact issueIf_keeps ((Keeps.refl s))

theorem execNega_keeps {u : SduId} {s : State} {t' : State} (he : execNega u s = .next t') : Keeps s t' := by
  unfold execNega at he
  cases he
  exact issueIf_keeps ((Keeps.refl s))

theorem execAsh_keeps {u : SduId} {s : State} {t' : State} (he : execAsh u s = .next t') : Keeps s t' := by
  unfold execAsh at he
  cases he
  exact issueIf_keeps ((Keeps.refl s))

theorem execLda_keeps {u : SduId} {s : State} {t' : State} (he : execLda u s = .next t') : Keeps s t' := by
  unfold execLda at he
  cases he
  exact issueIf_keeps ((Keeps.refl s))

theorem execAddx_keeps {u : SduId} {s : State} {t' : State} (he : execAddx u s = .next t') : Keeps s t' := by
  unfold execAddx at he
  cases he
  exact issueIf_keeps ((Keeps.refl s))

theorem execExt_keeps {u : SduId} {s : State} {t' : State} (he : execExt u s = .next t') : Keeps s t' := by
  unfold execExt at he
  cases he
  exact issueIf_keeps ((Keeps.refl s))

theorem execLcomb_keeps {u : SduId} {s : State} {t' : State} (he : execLcomb u s = .next t') : Keeps s t' := by
  unfold execLcomb at he
  cases he
  exact issueIf_keeps ((Keeps.refl s))

theorem execLcombs_keeps {u : SduId} {s : State} {t' : State} (he : execLcombs u s = .next t') : Keeps s t' := by
  unfold execLcombs at he
  cases he
  exact issueIf_keeps ((Keeps.refl s))

theorem execCasci_keeps {u : SduId} {s : State} {t' : State} (he : execCasci u s = .next t') : Keeps s t' := by
  unfold execCasci at he
  cases he
  exact issueIf_keeps ((Keeps.refl s))

theorem execCasca_keeps {u : SduId} {s : State} {t' : State} (he : execCasca u s = .next t') : Keeps s t' := by
  unfold execCasca at he
  cases he
  exact issueIf_keeps ((Keeps.refl s))

theorem execCasco_keeps {u : SduId} {s : State} {t' : State} (he : execCasco u s = .next t') : Keeps s t' := by
  unfold execCasco at he
  cases he
  exact issueIf_keeps ((Keeps.refl s))

theorem execMovx_keeps {u : SduId} {s : State} {t' : State} (he : execMovx u s = .next t') : Keeps s t' := by
  unfold execMovx at he
  cases he
  exact issueIf_keeps ((Keeps.refl s))

theorem execMovr_keeps {u : SduId} {s : State} {t' : State} (he : execMovr u s = .next t') : Keeps s t' := by
  unfold execMovr at he
  cases he
  exact issueIf_keeps ((Keeps.refl s))

theorem execLdi_keeps {u : SduId} {s : State} {t' : State} (he : execLdi u s = .next t') : Keeps s t' := by
  unfold execLdi at he
  cases he
  exact issueIf_keeps ((Keeps.refl s))

theorem execBr_keeps {u : SduId} {s : State} {t' : State} (he : execBr u s = .next t') : Keeps s t' := by
  unfold execBr at he
  cases he
  exact issueIf_keeps ((Keeps.refl s))

theorem execLoopOp_keeps {u : SduId} {s : State} {t' : State} (he : execLoopOp u s = .next t') : Keeps s t' := by
  unfold execLoopOp at he
  cases he
  exact issueIf_keeps ((Keeps.refl s))

theorem execSleep_keeps {u : SduId} {s : State} {t' : State} (he : execSleep u s = .next t') : Keeps s t' := by
  unfold execSleep at he
  cases he
  exact issueIf_keeps ((Keeps.refl s))

theorem execHalt_keeps {u : SduId} {s : State} {t' : State} (he : execHalt u s = .next t') : Keeps s t' := by
  unfold execHalt at he
  cases he
  exact issueIf_keeps ((Keeps.refl s))

theorem illegalInstructionF_keeps {s0 : State} {u : SduId} {s : State} (hs : Keeps s0 s) : Keeps s0 (illegalInstructionF u s) := by
  unfold illegalInstructionF
  extract_lets -merge -underBinder +onlyGivenNames u0
  refine Keeps.ite hs ?_
  extract_lets -merge -underBinder +onlyGivenNames u1 u2
  have h4 : Keeps s0 u1 := dueSlots_keeps (asyncHold_keeps hs)
  exact Keeps.ite (sduSlot_keeps h4) h4

theorem execIllegalInstruction_keeps {u : SduId} {s : State} {t' : State} (he : execIllegalInstruction u s = .next t') : Keeps s t' := by
  unfold execIllegalInstruction at he
  cases he
  exact illegalInstructionF_keeps ((Keeps.refl s))

theorem switchSlotF_keeps {s0 : State} {u : SduId} {s : State} (hs : Keeps s0 s) : Keeps s0 (switchSlotF u s) := by
  unfold switchSlotF
  extract_lets -merge -underBinder +onlyGivenNames u0
  exact Keeps.ite (takeSwitch_keeps hs) hs

theorem execSwitchSlot_keeps {u : SduId} {s : State} {t' : State} (he : execSwitchSlot u s = .next t') : Keeps s t' := by
  unfold execSwitchSlot at he
  cases he
  exact switchSlotF_keeps ((Keeps.refl s))

theorem swreqF_keeps {s0 : State} {u : SduId} {s : State} (hs : Keeps s0 s) : Keeps s0 (swreqF u s) := by
  unfold swreqF
  exact Keeps.ite (State.sduAtMod_keeps hs) hs

theorem execSwreq_keeps {u : SduId} {s : State} {t' : State} (he : execSwreq u s = .next t') : Keeps s t' := by
  unfold execSwreq at he
  cases he
  exact swreqF_keeps ((Keeps.refl s))

theorem sduStreamReadyF_keeps {s0 : State} {u : SduId} {sin : Option Word} {soutR : Bool} {s : State} (hs : Keeps s0 s) : Keeps s0 (sduStreamReadyF u sin soutR s) := by
  unfold sduStreamReadyF
  refine Keeps.ite hs ?_
  extract_lets -merge -underBinder +onlyGivenNames u0 u1 u2
  have h4 : Keeps s0 u0 := State.sduAtMod_keeps hs
  have h5 : Keeps s0 u1 := Keeps.ite (dueSlots_keeps h4) h4
  exact Keeps.ite (sduSlot_keeps (State.sduAtMod_keeps h5)) h5

theorem execSduStreamReady_keeps {u : SduId} {sin : Option Word} {soutR : Bool} {s : State} {t' : State} (he : execSduStreamReady u sin soutR s = .next t') : Keeps s t' := by
  unfold execSduStreamReady at he
  cases he
  exact sduStreamReadyF_keeps ((Keeps.refl s))

theorem sduCtrl_keeps {s0 : State} {u : SduId} {debug : Bool} {f : Sdu → Sdu} {s : State} (hs : Keeps s0 s) : Keeps s0 (sduCtrl u debug f s) := by
  unfold sduCtrl
  exact Keeps.ite hs (Keeps.ite (State.sduAtMod_keeps hs) (State.sduAtMod_keeps hs))

theorem sduRunF_keeps {s0 : State} {u : SduId} {s : State} (hs : Keeps s0 s) : Keeps s0 (sduRunF u s) := by
  unfold sduRunF
  exact sduCtrl_keeps hs

theorem execSduRun_keeps {u : SduId} {s : State} {t' : State} (he : execSduRun u s = .next t') : Keeps s t' := by
  unfold execSduRun at he
  cases he
  exact sduRunF_keeps ((Keeps.refl s))

theorem sduStopF_keeps {s0 : State} {u : SduId} {s : State} (hs : Keeps s0 s) : Keeps s0 (sduStopF u s) := by
  unfold sduStopF
  exact sduCtrl_keeps hs

theorem execSduStop_keeps {u : SduId} {s : State} {t' : State} (he : execSduStop u s = .next t') : Keeps s t' := by
  unfold execSduStop at he
  cases he
  exact sduStopF_keeps ((Keeps.refl s))

theorem sduHaltF_keeps {s0 : State} {u : SduId} {s : State} (hs : Keeps s0 s) : Keeps s0 (sduHaltF u s) := by
  unfold sduHaltF
  exact sduCtrl_keeps hs

theorem execSduHalt_keeps {u : SduId} {s : State} {t' : State} (he : execSduHalt u s = .next t') : Keeps s t' := by
  unfold execSduHalt at he
  cases he
  exact sduHaltF_keeps ((Keeps.refl s))

theorem sduResumeF_keeps {s0 : State} {u : SduId} {s : State} (hs : Keeps s0 s) : Keeps s0 (sduResumeF u s) := by
  unfold sduResumeF
  exact sduCtrl_keeps hs

theorem execSduResume_keeps {u : SduId} {s : State} {t' : State} (he : execSduResume u s = .next t') : Keeps s t' := by
  unfold execSduResume at he
  cases he
  exact sduResumeF_keeps ((Keeps.refl s))

theorem stepUnit_keeps {s0 : State} {u : SduId} {s : State} (hs : Keeps s0 s) : Keeps s0 (stepUnit u s) := by
  unfold stepUnit
  extract_lets -merge -underBinder +onlyGivenNames u0
  refine Keeps.ite hs (Keeps.ite (State.sduAtMod_keeps hs) (Keeps.ite hs ?_))
  extract_lets -merge -underBinder +onlyGivenNames u1
  have h3 : Keeps s0 u1 := State.sduAtMod_keeps (sduSlot_keeps (State.sduAtMod_keeps hs))
  exact State.sduAtMod_keeps h3

theorem sduStepF_keeps {s0 : State} {u : SduId} {s : State} (hs : Keeps s0 s) : Keeps s0 (sduStepF u s) := by
  unfold sduStepF
  extract_lets -merge -underBinder +onlyGivenNames u0
  have h60 : Keeps s0 u0 := sduCtrl_keeps hs
  exact Keeps.ite (stepUnit_keeps h60) h60

theorem execSduStep_keeps {u : SduId} {s : State} {t' : State} (he : execSduStep u s = .next t') : Keeps s t' := by
  unfold execSduStep at he
  cases he
  exact sduStepF_keeps ((Keeps.refl s))

theorem sduSwreqF_keeps {s0 : State} {u : SduId} {s : State} (hs : Keeps s0 s) : Keeps s0 (sduSwreqF u s) := by
  unfold sduSwreqF
  exact sduCtrl_keeps hs

theorem execSduSwreq_keeps {u : SduId} {s : State} {t' : State} (he : execSduSwreq u s = .next t') : Keeps s t' := by
  unfold execSduSwreq at he
  cases he
  exact sduSwreqF_keeps ((Keeps.refl s))

theorem sduRegWriteF_keeps {s0 : State} {u : SduId} {set : Bool} {code : BitVec 5} {w : Word} {s : State} (hs : Keeps s0 s) : Keeps s0 (sduRegWriteF u set code w s) := by
  unfold sduRegWriteF
  extract_lets -merge -underBinder +onlyGivenNames u0
  exact Keeps.ite hs (Keeps.ite (State.sduAtMod_keeps hs) (State.sduAtMod_keeps hs))

theorem execSduRegWrite_keeps {u : SduId} {set : Bool} {code : BitVec 5} {w : Word} {s : State} {t' : State} (he : execSduRegWrite u set code w s = .next t') : Keeps s t' := by
  unfold execSduRegWrite at he
  cases he
  exact sduRegWriteF_keeps ((Keeps.refl s))

theorem sduIstoreWriteF_keeps {s0 : State} {u : SduId} {n : BitVec 9} {hi : Bool} {w : Word} {s : State} (hs : Keeps s0 s) : Keeps s0 (sduIstoreWriteF u n hi w s) := by
  unfold sduIstoreWriteF
  extract_lets -merge -underBinder +onlyGivenNames u0 u1
  exact Keeps.ite hs (Keeps.ite (State.sduAtMod_keeps hs) (State.sduAtMod_keeps hs))

theorem execSduIstoreWrite_keeps {u : SduId} {n : BitVec 9} {hi : Bool} {w : Word} {s : State} {t' : State} (he : execSduIstoreWrite u n hi w s = .next t') : Keeps s t' := by
  unfold execSduIstoreWrite at he
  cases he
  exact sduIstoreWriteF_keeps ((Keeps.refl s))

theorem xyAccess_keeps {s0 : State} {u : SduId} {y : Bool} {pair : Nat} {write : Option Word} {be : BitVec 4} {s : State} (hs : Keeps s0 s) : Keeps s0 (xyAccess u y pair write be s).2 := by
  unfold xyAccess
  refine Keeps.ite2 hs ?_
  extract_lets -merge -underBinder +onlyGivenNames u0
  split
  · split
    · split
      · exact State.when_keeps (fun _ h60 => raiseFrom_keeps h60) (State.sduAtMod_keeps hs)
  · split
    · split
      · extract_lets -merge -underBinder +onlyGivenNames u61
        exact State.when_keeps (fun _ h121 => raiseFrom_keeps h121) (State.sduAtMod_keeps hs)

theorem sduXyCsrAccessF_keeps {s0 : State} {u : SduId} {y : Bool} {pair : BitVec 10} {write : Option Word} {be : BitVec 4} {s : State} (hs : Keeps s0 s) : Keeps s0 (sduXyCsrAccessF u y pair write be s) := by
  unfold sduXyCsrAccessF
  split
  · rename_i he
    have h0 := Keeps.of2 he (xyAccess_keeps hs)
    exact Keeps.ite (Keeps.upd h0 rfl rfl) h0

theorem execSduXyCsrAccess_keeps {u : SduId} {y : Bool} {pair : BitVec 10} {write : Option Word} {be : BitVec 4} {free : Bool} {s : State} {t' : State} (he : execSduXyCsrAccess u y pair write be free s = .next t') : Keeps s t' := by
  unfold execSduXyCsrAccess at he
  cases he
  exact Keeps.ite (sduXyCsrAccessF_keeps ((Keeps.refl s))) (sduXyCsrAccessF_keeps ((Keeps.refl s)))

theorem scrubXy_keeps {s0 : State} {u : SduId} {y : Bool} {s : State} (hs : Keeps s0 s) : Keeps s0 (scrubXy u y s) := by
  unfold scrubXy
  refine Keeps.ite hs ?_
  extract_lets -merge -underBinder +onlyGivenNames u0 u1 u2 u3
  split
  · exact hs
  · split
    exact State.when_keeps (fun _ h15 => (raiseFrom_keeps h15)) (State.sduAtMod_keeps hs)

theorem memScrubStepF_keeps {s0 : State} {c : SecId} {m : ScrubSel} {s : State} (hs : Keeps s0 s) : Keeps s0 (memScrubStepF c m s) := by
  unfold memScrubStepF
  split
  · exact memIdle_keeps hs
  · exact scrubXy_keeps hs

theorem execMemScrubStep_keeps {c : SecId} {m : ScrubSel} {s : State} {t' : State} (he : execMemScrubStep c m s = .next t') : Keeps s t' := by
  unfold execMemScrubStep at he
  cases he
  exact memScrubStepF_keeps (Keeps.refl _)

theorem sduEccRead_keeps {s0 : State} {u : SduId} {insp : Bool} {s : State} (hs : Keeps s0 s) : Keeps s0 (sduEccRead u insp s).2 := by
  unfold sduEccRead
  extract_lets -merge -underBinder +onlyGivenNames u0
  exact Keeps.ite hs (State.sduAtMod_keeps hs)

theorem execSduEcc_keeps {u : SduId} {insp : Bool} {s : State} {t' : State} (he : execSduEcc u insp s = .next t') : Keeps s t' := by
  unfold execSduEcc at he
  cases he
  exact Keeps.ite (State.readTo_keeps (sduEccRead_keeps ((Keeps.refl s)))) (Keeps.upd ((Keeps.refl s)) rfl rfl)

theorem fdOp_keeps {s0 : State} {u : SduId} {fop : Nat} {fa : BitVec 16} {fb : BitVec 16} {acc : Bool} {sgn : BitVec 2} {s : State} (hs : Keeps s0 s) : Keeps s0 (fdOp u fop fa fb acc sgn s) := by
  unfold fdOp
  extract_lets -merge -underBinder +onlyGivenNames u0 u1 u2 u3
  exact Keeps.ite hs (State.sduAtMod_keeps hs)

theorem execFdHold_keeps {u : SduId} {fa : BitVec 16} {fb : BitVec 16} {acc : Bool} {sgn : BitVec 2} {s : State} {t' : State} (he : execFdHold u fa fb acc sgn s = .next t') : Keeps s t' := by
  unfold execFdHold at he
  cases he
  exact fdOp_keeps ((Keeps.refl s))

theorem execFdMpy_keeps {u : SduId} {fa : BitVec 16} {fb : BitVec 16} {acc : Bool} {sgn : BitVec 2} {s : State} {t' : State} (he : execFdMpy u fa fb acc sgn s = .next t') : Keeps s t' := by
  unfold execFdMpy at he
  cases he
  exact fdOp_keeps ((Keeps.refl s))

theorem execFdMac_keeps {u : SduId} {fa : BitVec 16} {fb : BitVec 16} {acc : Bool} {sgn : BitVec 2} {s : State} {t' : State} (he : execFdMac u fa fb acc sgn s = .next t') : Keeps s t' := by
  unfold execFdMac at he
  cases he
  exact fdOp_keeps ((Keeps.refl s))

theorem execFdMsu_keeps {u : SduId} {fa : BitVec 16} {fb : BitVec 16} {acc : Bool} {sgn : BitVec 2} {s : State} {t' : State} (he : execFdMsu u fa fb acc sgn s = .next t') : Keeps s t' := by
  unfold execFdMsu at he
  cases he
  exact fdOp_keeps ((Keeps.refl s))

theorem execFdMpyd_keeps {u : SduId} {fa : BitVec 16} {fb : BitVec 16} {acc : Bool} {sgn : BitVec 2} {s : State} {t' : State} (he : execFdMpyd u fa fb acc sgn s = .next t') : Keeps s t' := by
  unfold execFdMpyd at he
  cases he
  exact fdOp_keeps ((Keeps.refl s))

theorem execFdMacd_keeps {u : SduId} {fa : BitVec 16} {fb : BitVec 16} {acc : Bool} {sgn : BitVec 2} {s : State} {t' : State} (he : execFdMacd u fa fb acc sgn s = .next t') : Keeps s t' := by
  unfold execFdMacd at he
  cases he
  exact fdOp_keeps ((Keeps.refl s))

theorem execFdCascadeMac_keeps {u : SduId} {fa : BitVec 16} {fb : BitVec 16} {acc : Bool} {sgn : BitVec 2} {s : State} {t' : State} (he : execFdCascadeMac u fa fb acc sgn s = .next t') : Keeps s t' := by
  unfold execFdCascadeMac at he
  cases he
  exact fdOp_keeps ((Keeps.refl s))

theorem execFdClear_keeps {u : SduId} {fa : BitVec 16} {fb : BitVec 16} {acc : Bool} {sgn : BitVec 2} {s : State} {t' : State} (he : execFdClear u fa fb acc sgn s = .next t') : Keeps s t' := by
  unfold execFdClear at he
  cases he
  exact fdOp_keeps ((Keeps.refl s))

end Sys2Proof.Machine
end

