-- ==== Sys2Proof/Laws/KeepsIo.lean ====
section
/-! SUPPORT. What each function of Machine/Io.lean keeps. -/

namespace Sys2Proof.Machine

theorem takeTap_keeps {s0 : State} {die : Nat} {b : Nat} {q : BitVec 16} {s : State} (hs : Keeps s0 s) : Keeps s0 (takeTap die b q s) := by
  unfold takeTap
  exact Keeps.ite (State.each_keeps (fun _ _ h0 => clampCheck_keeps h0) (State.bankAtMod_keeps hs)) hs

theorem ioTapMeasureF_keeps {s0 : State} {die : Fin 4} {b : Fin 6} {tapQ : BitVec 16} {s : State} (hs : Keeps s0 s) : Keeps s0 (ioTapMeasureF die b tapQ s) := by
  unfold ioTapMeasureF
  exact takeTap_keeps hs

theorem execIoTapMeasure_keeps {die : Fin 4} {bank : Fin 6} {tapQ : BitVec 16} {s : State} {t' : State} (he : execIoTapMeasure die bank tapQ s = .next t') : Keeps s t' := by
  unfold execIoTapMeasure at he
  cases he
  exact ioTapMeasureF_keeps ((Keeps.refl s))

theorem ioTapMoveF_keeps {s0 : State} {q : PinId} {s : State} (hs : Keeps s0 s) : Keeps s0 (ioTapMoveF q s) := by
  unfold ioTapMoveF
  extract_lets -merge -underBinder +onlyGivenNames u0
  exact State.pinAtMod_keeps hs

theorem execIoTapMove_keeps {p : PinId} {s : State} {t' : State} (he : execIoTapMove p s = .next t') : Keeps s t' := by
  unfold execIoTapMove at he
  cases he
  exact ioTapMoveF_keeps ((Keeps.refl s))

theorem ioPinDlyWriteF_keeps {s0 : State} {q : PinId} {w : Word} {s : State} (hs : Keeps s0 s) : Keeps s0 (ioPinDlyWriteF q w s) := by
  unfold ioPinDlyWriteF
  exact Keeps.ite hs (clampCheck_keeps (State.pinAtMod_keeps hs))

theorem execIoPinDlyWrite_keeps {p : PinId} {w : Word} {s : State} {t' : State} (he : execIoPinDlyWrite p w s = .next t') : Keeps s t' := by
  unfold execIoPinDlyWrite at he
  cases he
  exact ioPinDlyWriteF_keeps ((Keeps.refl s))

theorem vccioLostF_keeps {s0 : State} {die : Fin 4} {b : Fin 6} {s : State} (hs : Keeps s0 s) : Keeps s0 (vccioLostF die b s) := by
  unfold vccioLostF
  extract_lets -merge -underBinder +onlyGivenNames u0 u1
  refine Keeps.ite hs ?_
  extract_lets -merge -underBinder +onlyGivenNames u3 u4
  have h6 : Keeps s0 u4 := State.bankAtMod_keeps hs
  exact State.when_keeps (fun _ h7 => (raiseFrom_keeps h7)) h6

theorem execVccioLost_keeps {die : Fin 4} {bank : Fin 6} {s : State} {t' : State} (he : execVccioLost die bank s = .next t') : Keeps s t' := by
  unfold execVccioLost at he
  cases he
  exact vccioLostF_keeps ((Keeps.refl s))

theorem vokRise_keeps {s0 : State} {n : Nat} {s : State} (hs : Keeps s0 s) : Keeps s0 (vokRise n s) := by
  unfold vokRise
  exact State.each_keeps (fun _ _ h3 => (Keeps.upd h3 rfl rfl)) (State.bankAtMod_keeps hs)

theorem vccioRestoredF_keeps {s0 : State} {die : Fin 4} {b : Fin 6} {meas : BitVec 3} {tapQ : BitVec 16} {s : State} (hs : Keeps s0 s) : Keeps s0 (vccioRestoredF die b meas tapQ s) := by
  unfold vccioRestoredF
  extract_lets -merge -underBinder +onlyGivenNames u0 u1
  have h3 : Keeps s0 u1 := State.bankAtMod_keeps hs
  refine Keeps.ite h3 (Keeps.ite (Keeps.ite h3 (vokRise_keeps (takeTap_keeps h3))) ?_)
  extract_lets -merge -underBinder +onlyGivenNames u3
  exact State.when_keeps (fun _ h5 => (raiseFrom_keeps h5)) (State.bankAtMod_keeps h3)

theorem execVccioRestored_keeps {die : Fin 4} {bank : Fin 6} {meas : BitVec 3} {tapQ : BitVec 16} {s : State} {t' : State} (he : execVccioRestored die bank meas tapQ s = .next t') : Keeps s t' := by
  unfold execVccioRestored at he
  cases he
  exact vccioRestoredF_keeps ((Keeps.refl s))

theorem islipF_keeps {s0 : State} {q : PinId} {s : State} (hs : Keeps s0 s) : Keeps s0 (islipF q s) := by
  unfold islipF
  extract_lets -merge -underBinder +onlyGivenNames u0
  exact Keeps.ite (State.pinAtMod_keeps hs) hs

theorem execIslip_keeps {p : PinId} {s : State} {t' : State} (he : execIslip p s = .next t') : Keeps s t' := by
  unfold execIslip at he
  cases he
  exact islipF_keeps ((Keeps.refl s))

end Sys2Proof.Machine
end

