-- ==== Sys2Proof/Laws/KeepsCalCore.lean ====
section
/-! SUPPORT. What each function of Machine/CalCore.lean keeps. -/

namespace Sys2Proof.Machine

theorem fireSource_keeps {s0 : State} {b : Nat} {p : Nat → Word → Bool} {s : State} (hs : Keeps s0 s) : Keeps s0 (fireSource b p s) := by
  unfold fireSource
  extract_lets -merge -underBinder +onlyGivenNames u0
  exact Keeps.ite hs (fireLines_keeps hs)

theorem calSkip_keeps {s0 : State} {s : State} (hs : Keeps s0 s) : Keeps s0 (calSkip s) := by
  unfold calSkip
  exact raise_keeps hs

theorem fabEvent_keeps {s0 : State} {arg : Nat} {s : State} (hs : Keeps s0 s) : Keeps s0 (fabEvent arg s) := by
  unfold fabEvent
  extract_lets -merge -underBinder +onlyGivenNames u0 u1
  have h60 : Keeps s0 u1 := State.onFab_keeps hs
  exact fireSource_keeps h60

theorem sduSwitch_keeps {s0 : State} {arg : Nat} {s : State} (hs : Keeps s0 s) : Keeps s0 (sduSwitch arg s) := by
  unfold sduSwitch
  extract_lets -merge -underBinder +onlyGivenNames u0 u1
  exact Keeps.ite (calSkip_keeps hs) (State.each_keeps (fun _ _ h60 => Keeps.upd h60 rfl rfl) hs)

theorem calAct_keeps {s0 : State} {t : BitVec 48} {code : Byte} {arg : BitVec 24} {s : State} (hs : Keeps s0 s) : Keeps s0 (calAct t code arg s) := by
  unfold calAct
  split
  · exact Keeps.ite (commitFalls_keeps hs) (calSkip_keeps hs)
  · exact rltResume_keeps (State.onClk_keeps hs)
  · exact State.onClk_keeps hs
  · exact State.onClk_keeps hs
  · exact State.onClk_keeps hs
  · exact fabEvent_keeps hs
  · exact sduSwitch_keeps hs
  · exact State.nextFree_keeps (sendAlign_keeps hs)
  · exact hs

theorem calRun_keeps {s0 : State} {t : BitVec 48} {code : Byte} {arg : BitVec 24} {s : State} (hs : Keeps s0 s) : Keeps s0 (calRun t code arg s) := by
  unfold calRun
  exact Keeps.ite (State.onClk_keeps hs) (calAct_keeps hs)

theorem calDeferred_keeps {s0 : State} {s : State} (hs : Keeps s0 s) : Keeps s0 (calDeferred s) := by
  unfold calDeferred
  extract_lets -merge -underBinder +onlyGivenNames u0
  exact State.each_keeps (fun _ _ h60 => calAct_keeps h60) (State.onClk_keeps hs)

theorem captureEntry_keeps {s0 : State} {e : Nat} {s : State} (hs : Keeps s0 s) : Keeps s0 (captureEntry e s) := by
  unfold captureEntry
  exact State.each_keeps (fun _ _ h1 => (captureTake_keeps h1)) hs

theorem calFire_keeps {s0 : State} {e : Nat} {s : State} (hs : Keeps s0 s) : Keeps s0 (calFire e s) := by
  unfold calFire
  refine Keeps.ite ?_ hs
  extract_lets -merge -underBinder +onlyGivenNames u0 u1 u2
  have h4 : Keeps s0 u2 := State.calAtMod_keeps hs
  exact calRun_keeps (captureEntry_keeps (State.when_keeps (fun _ h5 => (raise_keeps h5)) h4))

theorem calFireAll_keeps {s0 : State} {s : State} (hs : Keeps s0 s) : Keeps s0 (calFireAll s) := by
  unfold calFireAll
  exact State.each_keeps (fun _ _ h0 => calFire_keeps h0) hs

theorem calFireStep_keeps {s0 : State} {n : Nat} {s : State} (hs : Keeps s0 s) : Keeps s0 (calFireStep n s) := by
  unfold calFireStep
  extract_lets -merge -underBinder +onlyGivenNames u0
  exact State.each_keeps (fun _ _ h60 => calFire_keeps h60) hs

end Sys2Proof.Machine
end

