-- ==== Sys2Proof/Laws/KeepsCache.lean ====
section
/-! SUPPORT. What each function of Machine/Cache.lean keeps. -/

namespace Sys2Proof.Machine

theorem cachePut_keeps {s0 : State} {l : Nat} {c : Option CacheLine} {s : State} (hs : Keeps s0 s) : Keeps s0 (cachePut l c s) := by
  unfold cachePut
  exact State.onDbg_keeps hs

theorem coreFault_keeps {s0 : State} {h : Fin 8} {cause : Nat} {pa : BitVec 64} {s : State} (hs : Keeps s0 s) : Keeps s0 (coreFault h cause pa s) := by
  unfold coreFault
  exact State.hartAtMod_keeps hs

theorem tagLast_keeps {s0 : State} {p : Nat} {pa : BitVec 64} {a : Option NocReq} {s : State} (hs : Keeps s0 s) : Keeps s0 (tagLast p pa a s) := by
  unfold tagLast
  exact State.iportAtMod_keeps hs

theorem lineFill_keeps {s0 : State} {l : Nat} {a : NocReq} {s : State} (hs : Keeps s0 s) : Keeps s0 (lineFill l a s) := by
  unfold lineFill
  extract_lets -merge -underBinder +onlyGivenNames u0
  exact tagLast_keeps (issue_keeps hs)

theorem lineBack_keeps {s0 : State} {l : Nat} {c : CacheLine} {s : State} (hs : Keeps s0 s) : Keeps s0 (lineBack l c s) := by
  unfold lineBack
  exact issue_keeps hs

theorem cacheAnswer_keeps {s0 : State} {a : NocReq} {c : CacheLine} {s : State} (hs : Keeps s0 s) : Keeps s0 (cacheAnswer a c s) := by
  unfold cacheAnswer
  extract_lets -merge -underBinder +onlyGivenNames u0 u1
  exact State.iportAtMod_keeps hs

theorem cacheServe_keeps {s0 : State} {l : Nat} {a : NocReq} {c : CacheLine} {s : State} (hs : Keeps s0 s) : Keeps s0 (cacheServe l a c s) := by
  unfold cacheServe
  exact Keeps.ite (Keeps.ite (State.hartAtMod_keeps (State.when_keeps (fun _ h1 => (cachePut_keeps h1)) hs)) (cachePut_keeps hs)) (Keeps.ite (raise_keeps (coreFault_keeps hs)) (Keeps.ite (cachePut_keeps (cacheAnswer_keeps hs)) (State.when_keeps (fun _ h1 => (State.hartAtMod_keeps h1)) (cacheAnswer_keeps hs))))

theorem fillTakes_keeps {s0 : State} {a : NocReq} {r : NRsp} {line : Option Nat} {s : State} (hs : Keeps s0 s) : Keeps s0 (fillTakes a r line s) := by
  unfold fillTakes
  split
  · exact hs
  · exact Keeps.ite (cacheServe_keeps (cachePut_keeps hs)) (coreFault_keeps hs)

theorem coreTakes_keeps {s0 : State} {o : Outst} {r : NRsp} {s : State} (hs : Keeps s0 s) : Keeps s0 (coreTakes o r s) := by
  unfold coreTakes
  split
  · exact fillTakes_keeps hs
  · refine Keeps.ite (State.when_keeps (fun _ h9 => (State.hartAtMod_keeps h9)) hs) ?_
    split
    · exact coreFault_keeps (State.when_keeps (fun _ h31 => (raise_keeps h31)) hs)
    · exact coreFault_keeps (State.when_keeps (fun _ h34 => (raise_keeps h34)) hs)
    · exact coreFault_keeps (State.when_keeps (fun _ h37 => (raise_keeps h37)) hs)
    · exact coreFault_keeps hs
    · exact coreFault_keeps hs
    · extract_lets -merge -underBinder +onlyGivenNames u43 u44
      have h46 : Keeps s0 u44 := State.when_keeps (fun _ h47 => (cachePut_keeps h47)) hs
      exact raise_keeps (State.hartAtMod_keeps h46)
    · extract_lets -merge -underBinder +onlyGivenNames u49 u50
      have h52 : Keeps s0 u50 := State.when_keeps (fun _ h53 => (cachePut_keeps h53)) hs
      exact raise_keeps (State.hartAtMod_keeps h52)
    · extract_lets -merge -underBinder +onlyGivenNames u55 u56
      have h58 : Keeps s0 u56 := State.when_keeps (fun _ h59 => (cachePut_keeps h59)) hs
      exact raise_keeps (State.hartAtMod_keeps h58)
    · extract_lets -merge -underBinder +onlyGivenNames u61 u62
      have h64 : Keeps s0 u62 := State.when_keeps (fun _ h65 => (cachePut_keeps h65)) hs
      exact raise_keeps (State.hartAtMod_keeps h64)

theorem lineOp_keeps {s0 : State} {acc : CoreAcc} {l : Nat} {s : State} (hs : Keeps s0 s) : Keeps s0 (lineOp acc l s) := by
  unfold lineOp
  split
  · exact hs
  · extract_lets -merge -underBinder +onlyGivenNames u8
    have h1 : Keeps s0 u8 := State.when_keeps (fun _ h2 => (lineBack_keeps h2)) hs
    exact cachePut_keeps h1

theorem cachedAccess_keeps {s0 : State} {l : Nat} {a : NocReq} {s : State} (hs : Keeps s0 s) : Keeps s0 (cachedAccess l a s) := by
  unfold cachedAccess
  refine Keeps.ite hs (Keeps.ite ?_ ?_)
  · extract_lets -merge -underBinder +onlyGivenNames u1
    exact State.when_keeps (fun _ h3 => (lineOp_keeps h3)) hs
  · split
    · exact cacheServe_keeps hs
    · exact State.when_keeps (fun _ h20 => (lineFill_keeps h20)) hs

theorem uncachedAccess_keeps {s0 : State} {a : NocReq} {s : State} (hs : Keeps s0 s) : Keeps s0 (uncachedAccess a s) := by
  unfold uncachedAccess
  extract_lets -merge -underBinder +onlyGivenNames u0 u1
  refine Keeps.ite hs ?_
  extract_lets -merge -underBinder +onlyGivenNames u2 u3
  have h5 : Keeps s0 u3 := State.when_keeps (fun _ h6 => (State.hartAtMod_keeps h6)) hs
  exact State.when_keeps (fun _ h10 => (tagLast_keeps (issue_keeps h10))) h5

theorem coreAccess_keeps {s0 : State} {a : NocReq} {s : State} (hs : Keeps s0 s) : Keeps s0 (coreAccess a s) := by
  unfold coreAccess
  refine Keeps.ite (uncachedAccess_keeps hs) ?_
  split
  · exact State.when_keeps (fun _ h26 => (cachedAccess_keeps h26)) hs
  · exact uncachedAccess_keeps hs

theorem cacheEmpty_keeps {s0 : State} {p : Nat → Bool} {f : Nat → CacheLine → State → State} {s : State} (hf : ∀ a0 a1 a2, Keeps s0 a2 → Keeps s0 (f a0 a1 a2)) (hs : Keeps s0 s) : Keeps s0 (cacheEmpty p f s) := by
  unfold cacheEmpty
  extract_lets -merge -underBinder +onlyGivenNames u0
  refine State.each_keeps (fun _ _ h2 => (cachePut_keeps ?_)) hs
  split
  · exact State.when_keeps (fun _ h14 => (hf _ _ _ h14)) h2
  · exact h2

end Sys2Proof.Machine
end

