-- ==== Sys2Proof/Laws/KeepsNoc.lean ====
section
/-! SUPPORT. What each function of Machine/Noc.lean keeps. -/

namespace Sys2Proof.Machine

theorem State.pcieMod_keeps {s0 : State} {c : Nat} {f : Pcie → Pcie} {s : State} (hs : Keeps s0 s) : Keeps s0 (State.pcieMod c f s) := by
  unfold State.pcieMod
  exact State.onXcvr_keeps hs

theorem accDone_keeps {s0 : State} {o : Outst} {r : NRsp} {s : State} (hs : Keeps s0 s) : Keeps s0 (accDone o r s) := by
  unfold accDone
  extract_lets -merge -underBinder +onlyGivenNames u0
  exact State.onDbg_keeps hs

theorem issuerTakes_keeps {s0 : State} {p : Nat} {o : Outst} {r : NRsp} {s : State} (hs : Keeps s0 s) : Keeps s0 (issuerTakes p o r s) := by
  unfold issuerTakes
  refine Keeps.ite ?_ (Keeps.ite (Keeps.ite (State.pcieMod_keeps hs) hs) (Keeps.ite (wdsRsp_keeps hs) (Keeps.ite (Keeps.ite (accDone_keeps hs) hs) (Keeps.ite (coreTakes_keeps hs) hs))))
  split
  · exact hs
  · exact spanTo_keeps (State.onSpan_keeps hs)

theorem deliver_keeps {s0 : State} {p : Nat} {o : Outst} {r : NRsp} {s : State} (hs : Keeps s0 s) : Keeps s0 (deliver p o r s) := by
  unfold deliver
  exact Keeps.ite hs (issuerTakes_keeps (State.iportAtMod_keeps hs))

theorem retireN_keeps {s0 : State} {p : Nat} {n : Nat} {s : State} (hs : Keeps s0 s) : Keeps s0 (retireN p n s) := by
  induction n generalizing s with
  | zero => exact hs
  | succ n ih =>
    unfold retireN
    split
    · exact hs
    · exact ih (deliver_keeps (State.iportAtMod_keeps hs))

theorem pcieNext_keeps {s0 : State} {c : Nat} {n : Nat} {s : State} (hs : Keeps s0 s) : Keeps s0 (pcieNext c n s) := by
  induction n generalizing s with
  | zero => exact hs
  | succ n ih =>
    unfold pcieNext
    extract_lets -merge +onlyGivenNames p
    split
    · exact hs
    · exact Keeps.ite (ih (retireN_keeps (issue_keeps (State.pcieMod_keeps hs)))) hs

theorem spanNext_keeps {s0 : State} {n : Nat} {s : State} (hs : Keeps s0 s) : Keeps s0 (spanNext n s) := by
  induction n generalizing s with
  | zero => exact hs
  | succ n ih =>
    unfold spanNext
    split
    · exact hs
    · refine Keeps.ite ?_ hs
      extract_lets -merge +onlyGivenNames f w r t
      have h : Keeps s0 t := State.onSpan_keeps hs
      refine Keeps.ite (ih (spanTo_keeps h)) ?_
      exact ih (retireN_keeps (issueAs_keeps (State.onSpan_keeps h)))

theorem dbgNext_keeps {s0 : State} {s : State} (hs : Keeps s0 s) : Keeps s0 (dbgNext s) := by
  unfold dbgNext
  split
  · exact Keeps.ite (retireN_keeps (issue_keeps (State.onDbg_keeps hs))) hs
  · exact hs

theorem retire_keeps {s0 : State} {p : Nat} {s : State} (hs : Keeps s0 s) : Keeps s0 (retire p s) := by
  unfold retire
  extract_lets -merge -underBinder +onlyGivenNames u0
  have h60 : Keeps s0 u0 := retireN_keeps hs
  exact Keeps.ite (spanNext_keeps h60) (Keeps.ite (pcieNext_keeps h60) (Keeps.ite (pcieNext_keeps h60) (Keeps.ite (dbgNext_keeps h60) h60)))

theorem retryPorts_keeps {s0 : State} {s : State} (hs : Keeps s0 s) : Keeps s0 (retryPorts s) :=  State.each_keeps (fun _ _ h => retire_keeps h) hs

theorem initiatorRequestIssueF_keeps {s0 : State} {p : Nat} {r : NocReq} {s : State} (hs : Keeps s0 s) : Keeps s0 (initiatorRequestIssueF p r s) := by
  unfold initiatorRequestIssueF
  exact Keeps.ite hs (Keeps.ite (Keeps.ite (retire_keeps (coreAccess_keeps hs)) hs) (Keeps.ite (retire_keeps (issue_keeps hs)) hs))

theorem execInitiatorRequestIssue_keeps {p : BitVec 10} {r : NocReq} {s : State} {t' : State} (he : execInitiatorRequestIssue p r s = .next t') : Keeps s t' := by
  unfold execInitiatorRequestIssue at he
  cases he
  exact State.when_keeps (fun _ h61 => (initiatorRequestIssueF_keeps h61)) (Keeps.refl _)

theorem fenceF_keeps {s0 : State} {p : Nat} {s : State} (hs : Keeps s0 s) : Keeps s0 (fenceF p s) := by
  unfold fenceF
  extract_lets -merge -underBinder +onlyGivenNames u0
  have h60 : Keeps s0 u0 := retire_keeps hs
  split
  · exact Keeps.ite (retire_keeps (State.iportAtMod_keeps h60)) h60
  · exact h60

theorem execFence_keeps {p : BitVec 10} {s : State} {t' : State} (he : execFence p s = .next t') : Keeps s t' := by
  unfold execFence at he
  cases he
  exact State.when_keeps (fun _ h61 => (fenceF_keeps h61)) (Keeps.refl _)

theorem releaseHold1_keeps {s0 : State} {p : Nat} {t : BitVec 10} {s : State} (hs : Keeps s0 s) : Keeps s0 (releaseHold1 p t s) := by
  unfold releaseHold1
  extract_lets -merge -underBinder +onlyGivenNames u0 u1
  have h60 : Keeps s0 u1 := State.iportAtMod_keeps hs
  exact State.each_keeps (fun _ _ h61 => injectFlits_keeps h61) h60

theorem takeRsp_keeps {s0 : State} {p : Nat} {r : NRsp} {s : State} (hs : Keeps s0 s) : Keeps s0 (takeRsp p r s) := by
  unfold takeRsp
  extract_lets -merge -underBinder +onlyGivenNames u0
  refine Keeps.ite (retire_keeps (State.iportAtMod_keeps hs)) ?_
  split
  · extract_lets -merge -underBinder +onlyGivenNames u60
    have h120 : Keeps s0 u60 := State.iportAtMod_keeps hs
    exact Keeps.ite (releaseHold1_keeps h120) h120
  · exact hs

theorem nocResponseArrivalF_keeps {s0 : State} {p : Nat} {txid : BitVec 16} {s : State} (hs : Keeps s0 s) : Keeps s0 (nocResponseArrivalF p txid s) := by
  unfold nocResponseArrivalF
  extract_lets -merge -underBinder +onlyGivenNames u0
  split
  · split
    · exact hs
    · extract_lets -merge -underBinder +onlyGivenNames u60
      have h120 : Keeps s0 u60 := State.onNoc_keeps hs
      exact takeRsp_keeps h120

theorem execNocResponseArrival_keeps {p : BitVec 10} {txid : BitVec 16} {s : State} {t' : State} (he : execNocResponseArrival p txid s = .next t') : Keeps s t' := by
  unfold execNocResponseArrival at he
  cases he
  exact State.when_keeps (fun _ h61 => (nocResponseArrivalF_keeps h61)) (Keeps.refl _)

theorem endTxn_keeps {s0 : State} {p : Nat} {txid : BitVec 16} {r : NReq → NRsp} {s : State} (hs : Keeps s0 s) : Keeps s0 (endTxn p txid r s) := by
  unfold endTxn
  exact State.iportAtMod_keeps hs

theorem timeoutTxn_keeps {s0 : State} {p : Nat} {o : Outst} {s : State} (hs : Keeps s0 s) : Keeps s0 (timeoutTxn p o s) := by
  unfold timeoutTxn
  extract_lets -merge -underBinder +onlyGivenNames u0 u1
  have h60 : Keeps s0 u0 := endTxn_keeps hs
  have h61 : Keeps s0 u1 := raiseFrom_keeps (State.iportAtMod_keeps h60)
  exact Keeps.ite (raiseFrom_keeps (State.iportAtMod_keeps h61)) h61

theorem rspTimeoutF_keeps {s0 : State} {p : Nat} {txid : BitVec 16} {s : State} (hs : Keeps s0 s) : Keeps s0 (rspTimeoutF p txid s) := by
  unfold rspTimeoutF
  extract_lets -merge -underBinder +onlyGivenNames u0
  split
  · exact hs
  · exact Keeps.ite hs (retire_keeps (timeoutTxn_keeps hs))

theorem execRspTimeout_keeps {p : BitVec 10} {txid : BitVec 16} {s : State} {t' : State} (he : execRspTimeout p txid s = .next t') : Keeps s t' := by
  unfold execRspTimeout at he
  cases he
  exact State.when_keeps (fun _ h61 => (rspTimeoutF_keeps h61)) (Keeps.refl _)

theorem qosChangeApplyF_keeps {s0 : State} {p : Nat} {s : State} (hs : Keeps s0 s) : Keeps s0 (qosChangeApplyF p s) := by
  unfold qosChangeApplyF
  extract_lets -merge -underBinder +onlyGivenNames u0
  split
  · refine Keeps.ite ?_ hs
    extract_lets -merge -underBinder +onlyGivenNames u60
    exact retire_keeps (State.iportAtMod_keeps (State.setReg_keeps hs))
  · exact hs

theorem execQosChangeApply_keeps {p : BitVec 10} {s : State} {t' : State} (he : execQosChangeApply p s = .next t') : Keeps s t' := by
  unfold execQosChangeApply at he
  cases he
  exact State.when_keeps (fun _ h62 => (qosChangeApplyF_keeps h62)) (Keeps.refl _)

theorem qosWrite_keeps {s0 : State} {p : Nat} {v : BitVec 2} {s : State} (hs : Keeps s0 s) : Keeps s0 (qosWrite p v s) := by
  unfold qosWrite
  exact qosChangeApplyF_keeps (State.iportAtMod_keeps hs)

theorem nocIportHoldClrF_keeps {s0 : State} {p : Nat} {s : State} (hs : Keeps s0 s) : Keeps s0 (nocIportHoldClrF p s) := by
  unfold nocIportHoldClrF
  exact State.each_keeps (fun _ _ h0 => releaseHold1_keeps h0) hs

theorem execNocIportHoldClr_keeps {p : BitVec 10} {s : State} {t' : State} (he : execNocIportHoldClr p s = .next t') : Keeps s t' := by
  unfold execNocIportHoldClr at he
  cases he
  exact State.when_keeps (fun _ h61 => (nocIportHoldClrF_keeps h61)) (Keeps.refl _)

theorem nocLog_keeps {s0 : State} {die : Nat} {kind : Nat} {router : Nat} {inport : Nat} {src : Nat} {s : State} (hs : Keeps s0 s) : Keeps s0 (nocLog die kind router inport src s) := by
  unfold nocLog
  exact State.nocDieAtMod_keeps hs

theorem checkFlit_keeps {s0 : State} {r : Nat} {inp : Nat} {hdr : Bool} {f : BitVec 288} {s : State} (hs : Keeps s0 s) : Keeps s0 (checkFlit r inp hdr f s).2 := by
  unfold checkFlit
  extract_lets -merge -underBinder +onlyGivenNames u0 u1
  refine Keeps.ite2 ?_ (Keeps.ite2 (raiseFrom_keeps (nocLog_keeps (State.nocDieAtMod_keeps hs))) hs)
  split
  · extract_lets -merge -underBinder +onlyGivenNames u60 u61 u62
    have h120 : Keeps s0 u60 := State.when_keeps (fun _ h121 => raiseFrom_keeps (nocLog_keeps (State.nocDieAtMod_keeps h121))) hs
    have h122 : Keeps s0 u61 := State.when_keeps (fun _ h123 => Keeps.ite h123 (nocLog_keeps h123)) h120
    exact h122

theorem freeSlot_keeps {s0 : State} {r : Nat} {inp : Nat} {vc : Nat} {s : State} (hs : Keeps s0 s) : Keeps s0 (freeSlot r inp vc s) := by
  unfold freeSlot
  split
  · extract_lets -merge -underBinder +onlyGivenNames u3
    have h5 : Keeps s0 u3 := State.bundleAtMod_keeps hs
    exact State.when_keeps (fun _ h6 => (sendAck_keeps h6)) h5
  · exact hs

theorem outFlit_keeps {s0 : State} {r : Nat} {out : Nat} {vc : Nat} {f : BitVec 288} {s : State} (hs : Keeps s0 s) : Keeps s0 (outFlit r out vc f s) := by
  unfold outFlit
  split
  · split
    rename_i x4 x5 x6 x7
    have h8 := Keeps.of2 x7 (State.take_keeps hs)
    exact State.bundleAtMod_keeps h8
  · split
    · exact State.chanAtMod_keeps hs
    · exact hs

theorem localRequest_keeps {s0 : State} {p : Nat} {q : NReq} {s : State} (hs : Keeps s0 s) : Keeps s0 (localRequest p q s) := by
  unfold localRequest
  exact Keeps.ite hs (Keeps.ite (sendRsp_keeps hs) (State.tportAtMod_keeps hs))

theorem sinkTakes_keeps {s0 : State} {inp : Nat} {f : BitVec 288} {s : State} (hs : Keeps s0 s) : Keeps s0 (sinkTakes inp f s) := by
  unfold sinkTakes
  exact raise_keeps (nocLog_keeps hs)

theorem localFlit_keeps {s0 : State} {inp : Nat} {p : Nat} {vc : Nat} {f : BitVec 288} {s : State} (hs : Keeps s0 s) : Keeps s0 (localFlit inp p vc f s) := by
  unfold localFlit
  extract_lets -merge -underBinder +onlyGivenNames u0 u1
  refine Keeps.ite (State.onNoc_keeps hs) ?_
  extract_lets -merge -underBinder +onlyGivenNames u2
  have h4 : Keeps s0 u2 := State.onNoc_keeps hs
  exact Keeps.ite (sinkTakes_keeps h4) (State.when_keeps (fun _ h1 => (localRequest_keeps h1)) h4)

theorem unreachable_keeps {s0 : State} {r : Nat} {inp : Nat} {f : BitVec 288} {s : State} (hs : Keeps s0 s) : Keeps s0 (unreachable r inp f s) := by
  unfold unreachable
  extract_lets -merge -underBinder +onlyGivenNames u0 u1
  have h60 : Keeps s0 u1 := nocLog_keeps hs
  exact Keeps.ite (injectFlits_keeps h60) h60

theorem arbStep_keeps {s0 : State} {r : Nat} {out : Nat} {lport : Nat} {vc : Nat} {s : State} (hs : Keeps s0 s) : Keeps s0 (arbStep r out lport vc s) := by
  unfold arbStep
  refine Keeps.ite hs ?_
  extract_lets -merge -underBinder +onlyGivenNames u1 u2 u3 u4
  exact State.onNoc_keeps hs

theorem flitRouteF_keeps {s0 : State} {r : Nat} {inp : Nat} {vc : Nat} {s : State} (hs : Keeps s0 s) : Keeps s0 (flitRouteF r inp vc s) := by
  unfold flitRouteF
  split
  · exact hs
  · split
    refine Keeps.ite hs ?_
    extract_lets -merge -underBinder +onlyGivenNames u16 u17 u18
    have h20 : Keeps s0 u16 := checkFlit_keeps (arbStep_keeps hs)
    have h61 : Keeps s0 u17 := State.chanAtMod_keeps h20
    have h62 : Keeps s0 u18 := freeSlot_keeps h61
    exact Keeps.ite (localFlit_keeps h62) (Keeps.ite (outFlit_keeps h62) (Keeps.ite (unreachable_keeps h62) h62))

theorem execFlitRoute_keeps {router : BitVec 8} {inport : Fin 6} {vc : Fin 5} {s : State} {t' : State} (he : execFlitRoute router inport vc s = .next t') : Keeps s t' := by
  unfold execFlitRoute at he
  cases he
  exact State.when_keeps (fun _ h63 => (flitRouteF_keeps h63)) (Keeps.refl _)

theorem fabricTargetResponseF_keeps {s0 : State} {p : Nat} {id : BitVec 6} {status : BitVec 4} {data : List (BitVec 256)} {poison : List Bool} {s : State} (hs : Keeps s0 s) : Keeps s0 (fabricTargetResponseF p id status data poison s) := by
  unfold fabricTargetResponseF
  split
  · exact hs
  · extract_lets -merge -underBinder +onlyGivenNames u12 u13 u14
    have h16 : Keeps s0 u14 := State.tportAtMod_keeps hs
    exact sendRsp_keeps h16

theorem execFabricTargetResponse_keeps {p : BitVec 10} {id : BitVec 6} {status : BitVec 4} {data : List (BitVec 256)} {poison : List Bool} {s : State} {t' : State} (he : execFabricTargetResponse p id status data poison s = .next t') : Keeps s t' := by
  unfold execFabricTargetResponse at he
  cases he
  exact State.when_keeps (fun _ h61 => (fabricTargetResponseF_keeps h61)) (Keeps.refl _)

theorem nocCommitF_keeps {s0 : State} {s : State} (hs : Keeps s0 s) : Keeps s0 (nocCommitF s) := by
  unfold nocCommitF
  refine Keeps.ite hs ?_
  extract_lets -merge -underBinder +onlyGivenNames u0
  exact State.onNoc_keeps hs

theorem execNocCommit_keeps {s : State} {t' : State} (he : execNocCommit s = .next t') : Keeps s t' := by
  unfold execNocCommit at he
  cases he
  exact nocCommitF_keeps ((Keeps.refl s))

theorem shadowWrite_keeps {s0 : State} {win : Bool} {key : Nat} {v : Word} {s : State} (hs : Keeps s0 s) : Keeps s0 (shadowWrite win key v s) := by
  unfold shadowWrite
  exact Keeps.ite (State.onNoc_keeps hs) (Keeps.ite (State.onNoc_keeps hs) (State.onNoc_keeps hs))

theorem nocCommitApplyF_keeps {s0 : State} {s : State} (hs : Keeps s0 s) : Keeps s0 (nocCommitApplyF s) := by
  unfold nocCommitApplyF
  refine Keeps.ite ?_ hs
  extract_lets -merge -underBinder +onlyGivenNames u0 u1
  have h60 : Keeps s0 u1 := State.onNoc_keeps hs
  exact State.each_keeps (fun _ _ h61 => shadowWrite_keeps h61) h60

theorem execNocCommitApply_keeps {s : State} {t' : State} (he : execNocCommitApply s = .next t') : Keeps s t' := by
  unfold execNocCommitApply at he
  cases he
  exact nocCommitApplyF_keeps ((Keeps.refl s))

theorem defaultRoutes_keeps {s0 : State} {s : State} (hs : Keeps s0 s) : Keeps s0 (defaultRoutes s) := by
  unfold defaultRoutes
  exact State.onNoc_keeps hs

theorem pauseFor_keeps {s0 : State} {b : Nat} {s : State} (hs : Keeps s0 s) : Keeps s0 (pauseFor b s) := by
  unfold pauseFor
  exact State.each_keeps (fun _ _ h0 => State.iportAtMod_keeps h0) hs

theorem pathSwitchStart_keeps {s0 : State} {b : Fin 76} {s : State} (hs : Keeps s0 s) : Keeps s0 (pathSwitchStart b s) := by
  unfold pathSwitchStart
  exact Keeps.ite hs (pauseFor_keeps (State.onNoc_keeps hs))

theorem pathSwitchEnd_keeps {s0 : State} {b : Fin 76} {s : State} (hs : Keeps s0 s) : Keeps s0 (pathSwitchEnd b s) := by
  unfold pathSwitchEnd
  extract_lets -merge -underBinder +onlyGivenNames u0 u1 u2 u3 u4 u5
  have h7 : Keeps s0 u1 := State.bundleAtMod_keeps hs
  have h8 : Keeps s0 u2 := State.onNoc_keeps h7
  have h9 : Keeps s0 u3 := State.each_keeps (fun _ _ h10 => (State.iportAtMod_keeps h10)) h8
  have h11 : Keeps s0 u4 := raise_keeps h9
  have h12 : Keeps s0 u5 := State.each_keeps (fun _ _ h13 => (raise_keeps h13)) h11
  exact State.each_keeps (fun _ _ h14 => (pauseFor_keeps h14)) h12

theorem pathSwitchDrainEndF_keeps {s0 : State} {timedOut : Bool} {s : State} (hs : Keeps s0 s) : Keeps s0 (pathSwitchDrainEndF timedOut s) := by
  unfold pathSwitchDrainEndF
  split
  · exact hs
  · extract_lets -merge -underBinder +onlyGivenNames u0 u1
    have h60 : Keeps s0 u1 := State.each_keeps (fun _ _ h61 => retire_keeps (State.each_keeps (fun _ _ h62 => timeoutTxn_keeps h62) h61)) hs
    exact Keeps.ite (retryPorts_keeps (pathSwitchEnd_keeps h60)) (Keeps.ite (retryPorts_keeps (pathSwitchEnd_keeps hs)) hs)

theorem execPathSwitchDrainEnd_keeps {timedOut : Bool} {s : State} {t' : State} (he : execPathSwitchDrainEnd timedOut s = .next t') : Keeps s t' := by
  unfold execPathSwitchDrainEnd at he
  cases he
  exact pathSwitchDrainEndF_keeps ((Keeps.refl s))

theorem nocErrlogRead_keeps {s0 : State} {die : Nat} {insp : Bool} {s : State} (hs : Keeps s0 s) : Keeps s0 (nocErrlogRead die insp s).2 := by
  unfold nocErrlogRead
  extract_lets -merge -underBinder +onlyGivenNames u0
  exact Keeps.ite hs (State.nocDieAtMod_keeps hs)

theorem execNocErrlogRead_keeps {die : Fin 5} {insp : Bool} {s : State} {t' : State} (he : execNocErrlogRead die insp s = .next t') : Keeps s t' := by
  unfold execNocErrlogRead at he
  cases he
  exact State.readTo_keeps (nocErrlogRead_keeps ((Keeps.refl s)))

theorem nocFwLogRead_keeps {s0 : State} {p : Nat} {insp : Bool} {s : State} (hs : Keeps s0 s) : Keeps s0 (nocFwLogRead p insp s).2 := by
  unfold nocFwLogRead
  extract_lets -merge -underBinder +onlyGivenNames u0
  exact Keeps.ite hs (State.tportAtMod_keeps hs)

theorem execNocFwLogRead_keeps {p : BitVec 10} {insp : Bool} {s : State} {t' : State} (he : execNocFwLogRead p insp s = .next t') : Keeps s t' := by
  unfold execNocFwLogRead at he
  cases he
  exact State.readTo_keeps (Keeps.ite2 (nocFwLogRead_keeps (Keeps.refl _)) (Keeps.refl _))

theorem nocPerrRead_keeps {s0 : State} {die : Nat} {insp : Bool} {s : State} (hs : Keeps s0 s) : Keeps s0 (nocPerrRead die insp s).2 := by
  unfold nocPerrRead
  extract_lets -merge -underBinder +onlyGivenNames u0
  exact Keeps.ite hs (State.nocDieAtMod_keeps hs)

theorem execNocPerrCount_keeps {die : Fin 5} {insp : Bool} {s : State} {t' : State} (he : execNocPerrCount die insp s = .next t') : Keeps s t' := by
  unfold execNocPerrCount at he
  cases he
  exact State.readTo_keeps (nocPerrRead_keeps ((Keeps.refl s)))

end Sys2Proof.Machine
end

