-- ==== Sys2Proof/Laws/KeepsAdl.lean ====
section
/-! SUPPORT. What each function of Machine/Adl.lean keeps. -/

namespace Sys2Proof.Machine

theorem sbTake_keeps {s0 : State} {msg : Nat} {fromLeader : Bool} {fromFollower : Bool} {k : Nat} {toLeader : Bool} {f : BitVec 64} {body : State → State} {s : State} (hbody : ∀ a0, Keeps s0 a0 → Keeps s0 (body a0)) (hs : Keeps s0 s) : Keeps s0 (sbTake msg fromLeader fromFollower k toLeader f body s) := by
  unfold sbTake
  refine Keeps.ite hs ?_
  extract_lets -merge -underBinder +onlyGivenNames u0
  have h60 : Keeps s0 u0 := Keeps.ite (sbEndMod_keeps hs) hs
  exact hbody _ h60

theorem poisonPort_keeps {s0 : State} {d : Nat} {p : Nat} {s : State} (hs : Keeps s0 s) : Keeps s0 (poisonPort d p s) := by
  unfold poisonPort
  extract_lets -merge -underBinder +onlyGivenNames u0 u1 u2
  have h60 : Keeps s0 u2 := State.each_keeps (fun _ _ h61 => Keeps.ite (endTxn_keeps h61) (State.iportAtMod_keeps h61)) hs
  exact retire_keeps (State.iportAtMod_keeps h60)

theorem fenceRegions_keeps {s0 : State} {d : Nat} {s : State} (hs : Keeps s0 s) : Keeps s0 (fenceRegions d s) := by
  unfold fenceRegions
  refine State.each_keeps (fun _ _ h0 => ?_) hs
  extract_lets -merge -underBinder +onlyGivenNames u1
  exact Keeps.ite h0 (Keeps.ite (loadFail_keeps h0) (raiseFrom_keeps (closeBlank_keeps h0)))

theorem dieReset_keeps {s0 : State} {d : Nat} {s : State} (hs : Keeps s0 s) : Keeps s0 (dieReset d s) := by
  unfold dieReset
  refine Keeps.ite (State.onNoc_keeps hs) ?_
  extract_lets -merge -underBinder +onlyGivenNames u0 u1 u2 u3 u4 u5 u6
  have h8 : Keeps s0 u1 := dropCapture_keeps (blankSectors_keeps hs)
  have h9 : Keeps s0 u2 := State.each_keeps (fun _ _ h10 => (State.secAtMod_keeps h10)) h8
  have h11 : Keeps s0 u3 := State.each_keeps (fun _ _ h12 => (State.laneAtMod_keeps h12)) h9
  have h13 : Keeps s0 u4 := State.each_keeps (fun _ _ h14 => (State.bankAtMod_keeps h14)) h11
  have h15 : Keeps s0 u5 := State.onDbg_keeps (State.onNoc_keeps h13)
  have h16 : Keeps s0 u6 := State.each_keeps (fun _ _ h17 => (State.domAtMod_keeps h17)) h15
  exact Keeps.upd h16 rfl rfl

theorem fenceCut_keeps {s0 : State} {notice : Bool} {d : Nat} {cause : Nat} {s : State} (hs : Keeps s0 s) : Keeps s0 (fenceCut notice d cause s) := by
  unfold fenceCut
  refine Keeps.ite (fatal_keeps hs) (Keeps.ite hs ?_)
  extract_lets -merge -underBinder +onlyGivenNames u0 u1 u2 u3 u4 u5 u6 u7 u8 u9
  have h11 : Keeps s0 u1 := State.when_keeps (fun _ h12 => (holdBridge_keeps h12)) hs
  have h13 : Keeps s0 u2 := State.dieAtMod_keeps h11
  have h14 : Keeps s0 u4 := State.each_keeps (fun _ _ h15 => (sbSend_keeps h15)) h13
  have h16 : Keeps s0 u5 := State.each_keeps (fun _ _ h17 => (stopBundle_keeps h17)) h14
  have h18 : Keeps s0 u6 := State.when_keeps (fun _ h19 => (raise_keeps h19)) h16
  have h20 : Keeps s0 u7 := State.each_keeps (fun _ _ h21 => (poisonPort_keeps h21)) h18
  have h22 : Keeps s0 u8 := State.when_keeps (fun _ h23 => (State.each_keeps (fun _ _ h24 => (pathSwitchStart_keeps h24)) h23)) h20
  have h25 : Keeps s0 u9 := fenceRegions_keeps h22
  exact dieReset_keeps (State.each_keeps (fun _ _ h26 => (stopBnd_keeps h26)) h25)

theorem fenceDie_keeps {s0 : State} {d : Nat} {cause : Nat} {s : State} (hs : Keeps s0 s) : Keeps s0 (fenceDie d cause s) := by
  unfold fenceDie
  exact fenceCut_keeps hs

theorem execDieFence_keeps {d : Fin 7} {cause : BitVec 4} {s : State} {t' : State} (he : execDieFence d cause s = .next t') : Keeps s t' := by
  unfold execDieFence at he
  cases he
  exact fenceDie_keeps ((Keeps.refl s))

theorem disableOne_keeps {s0 : State} {b : Nat} {s : State} (hs : Keeps s0 s) : Keeps s0 (disableOne b s) := by
  unfold disableOne
  refine Keeps.ite hs ?_
  extract_lets -merge -underBinder +onlyGivenNames u0 u1 u2
  have h60 : Keeps s0 u1 := stopBundle_keeps hs
  have h61 : Keeps s0 u2 := State.each_keeps (fun _ _ h62 => sbSend_keeps h62) h60
  exact pathSwitchStart_keeps (raise_keeps h61)

theorem disableBundle_keeps {s0 : State} {b : Nat} {s : State} (hs : Keeps s0 s) : Keeps s0 (disableBundle b s) := by
  unfold disableBundle
  extract_lets -merge -underBinder +onlyGivenNames u0 u1 u2
  have h60 : Keeps s0 u1 := disableOne_keeps hs
  have h61 : Keeps s0 u2 := State.each_keeps (fun _ _ h62 => disableOne_keeps h62) h60
  exact Keeps.ite (Keeps.ite (fenceDie_keeps h61) h61) h60

theorem startRecovery_keeps {s0 : State} {b : Nat} {s : State} (hs : Keeps s0 s) : Keeps s0 (startRecovery b s) := by
  unfold startRecovery
  refine Keeps.ite ?_ hs
  extract_lets -merge -underBinder +onlyGivenNames u0
  have h60 : Keeps s0 u0 := State.bundleAtMod_keeps hs
  exact State.each_keeps (fun _ _ h61 => sbSend_keeps h61) h60

theorem execAdlRecovery_keeps {b : Fin 76} {s : State} {t' : State} (he : execAdlRecovery b s = .next t') : Keeps s t' := by
  unfold execAdlRecovery at he
  cases he
  exact startRecovery_keeps ((Keeps.refl s))

theorem execAdlBndRecover_keeps {b : Fin 76} {s : State} {t' : State} (he : execAdlBndRecover b s = .next t') : Keeps s t' := by
  unfold execAdlBndRecover at he
  cases he
  exact startRecovery_keeps ((Keeps.refl s))

theorem execAdlBndDisable_keeps {b : Fin 76} {s : State} {t' : State} (he : execAdlBndDisable b s = .next t') : Keeps s t' := by
  unfold execAdlBndDisable at he
  cases he
  exact Keeps.ite ((Keeps.refl s)) (disableBundle_keeps ((Keeps.refl s)))

theorem sendMaps_keeps {s0 : State} {b : Nat} {st : BndState} {s : State} (hs : Keeps s0 s) : Keeps s0 (sendMaps b st s) := by
  unfold sendMaps
  exact State.each_keeps (fun _ _ h0 => State.each_keeps (fun _ _ h1 => sbSend_keeps h1) h0) hs

theorem adlRecoveryCompleteF_keeps {s0 : State} {b : Nat} {bad : BitVec 78} {third : Bool} {s : State} (hs : Keeps s0 s) : Keeps s0 (adlRecoveryCompleteF b bad third s) := by
  unfold adlRecoveryCompleteF
  extract_lets -merge -underBinder +onlyGivenNames u0
  refine Keeps.ite hs ?_
  extract_lets -merge -underBinder +onlyGivenNames u1 u2 u3 u4 u5 u6
  have h8 : Keeps s0 u2 := State.bundleAtMod_keeps hs
  have h9 : Keeps s0 u3 := State.each_keeps (fun _ _ h10 => (recordLane_keeps h10)) h8
  have h11 : Keeps s0 u6 := sendMaps_keeps h9
  refine Keeps.ite (disableBundle_keeps h11) ?_
  extract_lets -merge -underBinder +onlyGivenNames u11 u12 u13
  have h15 : Keeps s0 u11 := State.bundleAtMod_keeps h11
  have h16 : Keeps s0 u12 := raise_keeps h15
  have h17 : Keeps s0 u13 := State.when_keeps (fun _ h18 => (raise_keeps h18)) h16
  exact rltBegin_keeps (State.when_keeps (fun _ h19 => (raise_keeps h19)) h17)

theorem execAdlRecoveryComplete_keeps {b : Fin 76} {bad : BitVec 78} {third : Bool} {s : State} {t' : State} (he : execAdlRecoveryComplete b bad third s = .next t') : Keeps s t' := by
  unfold execAdlRecoveryComplete at he
  cases he
  exact adlRecoveryCompleteF_keeps ((Keeps.refl s))

theorem reqOutF_keeps {s0 : State} {b : Nat} {lane : Nat} {test : Bool} {s : State} (hs : Keeps s0 s) : Keeps s0 (reqOutF b lane test s) := by
  unfold reqOutF
  extract_lets -merge -underBinder +onlyGivenNames u0
  exact Keeps.ite (steerSend_keeps (State.bundleAtMod_keeps hs)) hs

theorem execReqOut_keeps {b : Fin 76} {lane : BitVec 7} {test : Bool} {s : State} {t' : State} (he : execReqOut b lane test s = .next t') : Keeps s t' := by
  unfold execReqOut at he
  cases he
  exact reqOutF_keeps (Keeps.refl _)

theorem steerOutF_keeps {s0 : State} {b : Nat} {lane : Nat} {test : Bool} {stag : Byte} {s : State} (hs : Keeps s0 s) : Keeps s0 (steerOutF b lane test stag s) := by
  unfold steerOutF
  exact Keeps.ite (rxChange_keeps hs) hs

theorem execSteerOut_keeps {b : Fin 76} {lane : BitVec 7} {test : Bool} {stag : Byte} {s : State} {t' : State} (he : execSteerOut b lane test stag s = .next t') : Keeps s t' := by
  unfold execSteerOut at he
  cases he
  exact steerOutF_keeps (Keeps.refl _)

theorem rltDwellExpiryF_keeps {s0 : State} {b : Nat} {err : Bool} {s : State} (hs : Keeps s0 s) : Keeps s0 (rltDwellExpiryF b err s) := by
  unfold rltDwellExpiryF
  extract_lets -merge -underBinder +onlyGivenNames u0
  exact Keeps.ite hs (Keeps.ite (rltBegin_keeps (State.bundleAtMod_keeps (failLane_keeps hs))) (rltBegin_keeps (State.bundleAtMod_keeps hs)))

theorem execRltDwellExpiry_keeps {b : Fin 76} {err : Bool} {s : State} {t' : State} (he : execRltDwellExpiry b err s = .next t') : Keeps s t' := by
  unfold execRltDwellExpiry at he
  cases he
  exact rltDwellExpiryF_keeps ((Keeps.refl s))

theorem reqInF_keeps {s0 : State} {b : Nat} {lane : Nat} {s : State} (hs : Keeps s0 s) : Keeps s0 (reqInF b lane s) := by
  unfold reqInF
  exact Keeps.ite (steerSend_keeps (State.bundleAtMod_keeps hs)) hs

theorem execReqIn_keeps {b : Fin 76} {lane : BitVec 7} {s : State} {t' : State} (he : execReqIn b lane s = .next t') : Keeps s t' := by
  unfold execReqIn at he
  cases he
  exact reqInF_keeps (Keeps.refl _)

theorem steerInF_keeps {s0 : State} {b : Nat} {lane : Nat} {stag : Byte} {s : State} (hs : Keeps s0 s) : Keeps s0 (steerInF b lane stag s) := by
  unfold steerInF
  exact Keeps.ite (rxChange_keeps hs) hs

theorem execSteerIn_keeps {b : Fin 76} {lane : BitVec 7} {stag : Byte} {s : State} {t' : State} (he : execSteerIn b lane stag s = .next t') : Keeps s t' := by
  unfold execSteerIn at he
  cases he
  exact steerInF_keeps (Keeps.refl _)

theorem halfF_keeps {s0 : State} {b : Nat} {stag : Byte} {s : State} (hs : Keeps s0 s) : Keeps s0 (halfF b stag s) := by
  unfold halfF
  exact Keeps.ite (rxChange_keeps hs) hs

theorem execHalf_keeps {b : Fin 76} {stag : Byte} {s : State} {t' : State} (he : execHalf b stag s = .next t') : Keeps s t' := by
  unfold execHalf at he
  cases he
  exact halfF_keeps (Keeps.refl _)

theorem adlLinkFlitF_keeps {s0 : State} {b : Nat} {f : BitVec 288} {s : State} (hs : Keeps s0 s) : Keeps s0 (adlLinkFlitF b f s) := by
  unfold adlLinkFlitF
  refine Keeps.ite hs ?_
  extract_lets -merge -underBinder +onlyGivenNames u0 u1 u2 u3 u4
  have h6 : Keeps s0 u4 := Keeps.ite (steerSend_keeps (State.bundleAtMod_keeps hs)) hs
  split
  · exact steerOutF_keeps h6
  · exact steerInF_keeps h6
  · exact halfF_keeps h6
  · exact reqOutF_keeps h6
  · exact reqInF_keeps h6
  · exact h6

theorem execAdlLinkFlit_keeps {b : Fin 76} {f : BitVec 288} {s : State} {t' : State} (he : execAdlLinkFlit b f s = .next t') : Keeps s t' := by
  unfold execAdlLinkFlit at he
  cases he
  exact adlLinkFlitF_keeps ((Keeps.refl s))

theorem bundleFlit_keeps {s0 : State} {b : Nat} {f : BitVec 288} {s : State} (hs : Keeps s0 s) : Keeps s0 (bundleFlit b f s) := by
  unfold bundleFlit
  extract_lets -merge -underBinder +onlyGivenNames u0 u1
  split
  · extract_lets -merge -underBinder +onlyGivenNames u60
    have h120 : Keeps s0 u60 := State.bundleAtMod_keeps hs
    exact Keeps.ite (State.chanAtMod_keeps h120) h120

theorem adlPairReceiveF_keeps {s0 : State} {b : Nat} {sa : BitVec 288} {s1 : BitVec 288} {r : BitVec 16} {s : State} (hs : Keeps s0 s) : Keeps s0 (adlPairReceiveF b sa s1 r s) := by
  unfold adlPairReceiveF
  extract_lets -merge -underBinder +onlyGivenNames u0
  refine Keeps.ite hs (Keeps.ite ?_ ?_)
  · extract_lets -merge -underBinder +onlyGivenNames u1 u2
    have h61 : Keeps s0 u1 := State.bundleAtMod_keeps hs
    have h62 : Keeps s0 u2 := rxTurn_keeps (State.each_keeps (fun _ _ h63 => (Keeps.ite (adlLinkFlitF_keeps h63) (bundleFlit_keeps h63))) h61)
    exact State.when_keeps (fun _ h10 => (sendAck_keeps h10)) h62
  · extract_lets -merge -underBinder +onlyGivenNames u10
    have h12 : Keeps s0 u10 := State.bundleAtMod_keeps hs
    refine Keeps.ite h12 ?_
    extract_lets -merge -underBinder +onlyGivenNames u12
    have h14 : Keeps s0 u12 := State.bundleAtMod_keeps h12
    exact Keeps.ite (startRecovery_keeps h14) (sendAck_keeps h14)

theorem execAdlPairReceive_keeps {b : Fin 76} {slot0 : BitVec 288} {slot1 : BitVec 288} {r : BitVec 16} {s : State} {t' : State} (he : execAdlPairReceive b slot0 slot1 r s = .next t') : Keeps s t' := by
  unfold execAdlPairReceive at he
  cases he
  exact adlPairReceiveF_keeps ((Keeps.refl s))

theorem execAdlAckTimer_keeps {b : Fin 76} {s : State} {t' : State} (he : execAdlAckTimer b s = .next t') : Keeps s t' := by
  unfold execAdlAckTimer at he
  cases he
  exact State.when_keeps (fun _ h0 => sendAck_keeps h0) ((Keeps.refl s))

theorem adlReplayTimerF_keeps {s0 : State} {b : Nat} {s : State} (hs : Keeps s0 s) : Keeps s0 (adlReplayTimerF b s) := by
  unfold adlReplayTimerF
  extract_lets -merge -underBinder +onlyGivenNames u0 u1
  have h60 : Keeps s0 u1 := State.bundleAtMod_keeps hs
  exact Keeps.ite hs (State.when_keeps (fun _ h61 => startRecovery_keeps h61) h60)

theorem execAdlReplayTimer_keeps {b : Fin 76} {s : State} {t' : State} (he : execAdlReplayTimer b s = .next t') : Keeps s t' := by
  unfold execAdlReplayTimer at he
  cases he
  exact adlReplayTimerF_keeps ((Keeps.refl s))

theorem adlBndErrRead_keeps {s0 : State} {b : Nat} {receiver : Bool} {insp : Bool} {s : State} (hs : Keeps s0 s) : Keeps s0 (adlBndErrRead b receiver insp s).2 := by
  unfold adlBndErrRead
  extract_lets -merge -underBinder +onlyGivenNames u0
  exact Keeps.ite2 (Keeps.ite hs (State.bundleAtMod_keeps hs)) (Keeps.ite hs (State.bundleAtMod_keeps hs))

theorem execAdlBndErr_keeps {b : Fin 76} {receiver : Bool} {insp : Bool} {s : State} {t' : State} (he : execAdlBndErr b receiver insp s = .next t') : Keeps s t' := by
  unfold execAdlBndErr at he
  cases he
  exact State.readTo_keeps (adlBndErrRead_keeps ((Keeps.refl s)))

theorem adlSbStatusRead_keeps {s0 : State} {die : Nat} {k : Nat} {insp : Bool} {s : State} (hs : Keeps s0 s) : Keeps s0 (adlSbStatusRead die k insp s).2 := by
  unfold adlSbStatusRead
  extract_lets -merge -underBinder +onlyGivenNames u0 u1
  exact Keeps.ite hs (sbEndMod_keeps hs)

theorem execAdlSbStatus_keeps {die : Fin 5} {k : Fin 9} {insp : Bool} {s : State} {t' : State} (he : execAdlSbStatus die k insp s = .next t') : Keeps s t' := by
  unfold execAdlSbStatus at he
  cases he
  exact State.readTo_keeps (Keeps.ite2 (adlSbStatusRead_keeps (Keeps.refl _)) (Keeps.refl _))

theorem execKeepalive_keeps {k : Fin 9} {toLeader : Bool} {f : BitVec 64} {s : State} {t' : State} (he : execKeepalive k toLeader f s = .next t') : Keeps s t' := by
  unfold execKeepalive at he
  cases he
  exact sbTake_keeps (fun _ h0 => h0) ((Keeps.refl s))

theorem execAck_keeps {k : Fin 9} {toLeader : Bool} {f : BitVec 64} {s : State} {t' : State} (he : execAck k toLeader f s = .next t') : Keeps s t' := by
  unfold execAck at he
  cases he
  exact sbTake_keeps (fun _ h0 => sbEndMod_keeps h0) ((Keeps.refl s))

theorem sendBootGo_keeps {s0 : State} {k : Nat} {rate : Nat} {s : State} (hs : Keeps s0 s) : Keeps s0 (sendBootGo k rate s) := by
  unfold sendBootGo
  extract_lets -merge -underBinder +onlyGivenNames u0
  exact sbSend_keeps (State.bndAtMod_keeps hs)

theorem helloF_keeps {s0 : State} {k : Nat} {toLeader : Bool} {f : BitVec 64} {s : State} (hs : Keeps s0 s) : Keeps s0 (helloF k toLeader f s) := by
  unfold helloF
  refine sbTake_keeps (fun _ h0 => ?_) hs
  extract_lets -merge -underBinder +onlyGivenNames u1 u2 u3
  have h61 : Keeps s0 u3 := State.bndAtMod_keeps h0
  exact Keeps.ite h0 (Keeps.ite (State.dieAtMod_keeps h61) (sendBootGo_keeps h61))

theorem execHello_keeps {k : Fin 9} {toLeader : Bool} {f : BitVec 64} {s : State} {t' : State} (he : execHello k toLeader f s = .next t') : Keeps s t' := by
  unfold execHello at he
  cases he
  exact helloF_keeps ((Keeps.refl s))

theorem trainStart_keeps {s0 : State} {k : Nat} {f : BitVec 64} {s : State} (hs : Keeps s0 s) : Keeps s0 (trainStart k f s) := by
  unfold trainStart
  refine Keeps.ite hs ?_
  extract_lets -merge -underBinder +onlyGivenNames u0
  have h2 : Keeps s0 u0 := State.bndAtMod_keeps hs
  exact stepReport_keeps (State.each_keeps (fun _ _ h3 => (State.bundleAtMod_keeps h3)) h2)

theorem execBootGo_keeps {k : Fin 9} {toLeader : Bool} {f : BitVec 64} {s : State} {t' : State} (he : execBootGo k toLeader f s = .next t') : Keeps s t' := by
  unfold execBootGo at he
  cases he
  exact sbTake_keeps (fun _ h0 => trainStart_keeps h0) ((Keeps.refl s))

theorem execRejoin_keeps {k : Fin 9} {toLeader : Bool} {f : BitVec 64} {s : State} {t' : State} (he : execRejoin k toLeader f s = .next t') : Keeps s t' := by
  unfold execRejoin at he
  cases he
  exact sbTake_keeps (fun _ h0 => trainStart_keeps h0) ((Keeps.refl s))

theorem spareWidth_keeps {s0 : State} {b : Nat} {s : State} (hs : Keeps s0 s) : Keeps s0 (spareWidth b s) := by
  unfold spareWidth
  extract_lets -merge -underBinder +onlyGivenNames u0
  exact Keeps.ite (State.bundleAtMod_keeps hs) hs

theorem spareChoose_keeps {s0 : State} {k : Nat} {s : State} (hs : Keeps s0 s) : Keeps s0 (spareChoose k s) := by
  unfold spareChoose
  refine State.each_keeps (fun _ _ h1 => ?_) hs
  extract_lets -merge -underBinder +onlyGivenNames u1
  have h3 : Keeps s0 u1 := spareWidth_keeps h1
  exact sendMaps_keeps h3

theorem spareSelect_keeps {s0 : State} {k : Nat} {s : State} (hs : Keeps s0 s) : Keeps s0 (spareSelect k s) := by
  unfold spareSelect
  refine State.each_keeps (fun _ _ h1 => ?_) hs
  extract_lets -merge -underBinder +onlyGivenNames u1
  split
  · exact raise_keeps h1
  · exact raise_keeps h1
  · exact State.when_keeps (fun _ h10 => (raise_keeps h10)) h1

theorem linkStart_keeps {s0 : State} {k : Nat} {s : State} (hs : Keeps s0 s) : Keeps s0 (linkStart k s) := by
  unfold linkStart
  extract_lets -merge -underBinder +onlyGivenNames u0
  have h2 : Keeps s0 u0 := State.each_keeps (fun _ _ h3 => (State.bundleAtMod_keeps h3)) hs
  exact State.each_keeps (fun _ _ h4 => (rltBegin_keeps h4)) h2

theorem stepPassed_keeps {s0 : State} {k : Nat} {s : State} (hs : Keeps s0 s) : Keeps s0 (stepPassed k s) := by
  unfold stepPassed
  extract_lets -merge -underBinder +onlyGivenNames u0
  refine Keeps.ite ?_ hs
  extract_lets -merge -underBinder +onlyGivenNames u1 u2 u3
  have h5 : Keeps s0 u1 := State.bndAtMod_keeps hs
  have h6 : Keeps s0 u2 := State.when_keeps (fun _ h7 => (spareSelect_keeps h7)) h5
  exact Keeps.ite (sbSend_keeps h6) (Keeps.ite (linkStart_keeps h6) (stepReport_keeps (State.when_keeps (fun _ h8 => (spareChoose_keeps h8)) h6)))

theorem trainSyncF_keeps {s0 : State} {k : Nat} {toLeader : Bool} {f : BitVec 64} {s : State} (hs : Keeps s0 s) : Keeps s0 (trainSyncF k toLeader f s) := by
  unfold trainSyncF
  refine sbTake_keeps (fun _ h0 => ?_) hs
  extract_lets -merge -underBinder +onlyGivenNames u1
  exact Keeps.ite (stepPassed_keeps (State.bndAtMod_keeps h0)) h0

theorem execTrainSync_keeps {k : Fin 9} {toLeader : Bool} {f : BitVec 64} {s : State} {t' : State} (he : execTrainSync k toLeader f s = .next t') : Keeps s t' := by
  unfold execTrainSync at he
  cases he
  exact trainSyncF_keeps ((Keeps.refl s))

theorem laneMapF_keeps {s0 : State} {k : Nat} {toLeader : Bool} {f : BitVec 64} {s : State} (hs : Keeps s0 s) : Keeps s0 (laneMapF k toLeader f s) := by
  unfold laneMapF
  refine sbTake_keeps (fun _ h1 => ?_) hs
  split
  · exact h1
  · extract_lets -merge -underBinder +onlyGivenNames u6
    refine Keeps.ite (State.bundleAtMod_keeps h1) (Keeps.ite ?_ h1)
    extract_lets -merge -underBinder +onlyGivenNames u7
    have h9 : Keeps s0 u7 := State.bundleAtMod_keeps h1
    exact State.when_keeps (fun _ h10 => (spareWidth_keeps h10)) h9

theorem execLaneMap_keeps {k : Fin 9} {toLeader : Bool} {f : BitVec 64} {s : State} {t' : State} (he : execLaneMap k toLeader f s = .next t') : Keeps s t' := by
  unfold execLaneMap at he
  cases he
  exact laneMapF_keeps ((Keeps.refl s))

theorem capF_keeps {s0 : State} {k : Nat} {toLeader : Bool} {f : BitVec 64} {s : State} (hs : Keeps s0 s) : Keeps s0 (capF k toLeader f s) := by
  unfold capF
  exact sbTake_keeps (fun _ h0 => Keeps.ite h0 (stepPassed_keeps (State.bndAtMod_keeps h0))) hs

theorem execCap_keeps {k : Fin 9} {toLeader : Bool} {f : BitVec 64} {s : State} {t' : State} (he : execCap k toLeader f s = .next t') : Keeps s t' := by
  unfold execCap at he
  cases he
  exact capF_keeps ((Keeps.refl s))

theorem joinRoutes_keeps {s0 : State} {s : State} (hs : Keeps s0 s) : Keeps s0 (joinRoutes s) := by
  unfold joinRoutes
  extract_lets -merge -underBinder +onlyGivenNames u0
  exact State.onNoc_keeps (defaultRoutes_keeps hs)

theorem bndRoutes_keeps {s0 : State} {k : Nat} {s : State} (hs : Keeps s0 s) : Keeps s0 (bndRoutes k s) := by
  unfold bndRoutes
  extract_lets -merge -underBinder +onlyGivenNames u0
  exact State.onNoc_keeps hs

theorem joinedF_keeps {s0 : State} {k : Nat} {toLeader : Bool} {f : BitVec 64} {bridgeFails : List (Bool × Fin 288 × Fin 33)} {s : State} (hs : Keeps s0 s) : Keeps s0 (joinedF k toLeader f bridgeFails s) := by
  unfold joinedF
  refine sbTake_keeps (fun _ h1 => (Keeps.ite h1 ?_)) hs
  extract_lets -merge -underBinder +onlyGivenNames u1 u2 u3 u4 u5
  have h7 : Keeps s0 u2 := linkStart_keeps (State.bndAtMod_keeps h1)
  have h8 : Keeps s0 u4 := State.when_keeps (fun _ h9 => (raise_keeps (State.bndAtMod_keeps h9))) h7
  have h10 : Keeps s0 u5 := State.when_keeps (fun _ h11 => (State.each_keeps (fun _ _ h12 => (disableOne_keeps h12)) h11)) h8
  refine Keeps.ite (bridgeTest_keeps (bndRoutes_keeps h10)) (Keeps.ite h10 ?_)
  extract_lets -merge -underBinder +onlyGivenNames u12 u13 u14
  have h16 : Keeps s0 u13 := State.dieAtMod_keeps h10
  have h17 : Keeps s0 u14 := joinRoutes_keeps h16
  exact State.each_keeps (fun _ _ h18 => (endBreak_keeps h18)) h17

theorem execJoined_keeps {k : Fin 9} {toLeader : Bool} {f : BitVec 64} {bridgeFails : List (Bool × Fin 288 × Fin 33)} {s : State} {t' : State} (he : execJoined k toLeader f bridgeFails s = .next t') : Keeps s t' := by
  unfold execJoined at he
  cases he
  exact joinedF_keeps ((Keeps.refl s))

theorem execPwrReq_keeps {k : Fin 9} {toLeader : Bool} {f : BitVec 64} {s : State} {t' : State} (he : execPwrReq k toLeader f s = .next t') : Keeps s t' := by
  unfold execPwrReq at he
  cases he
  exact sbTake_keeps (fun _ h0 => State.when_keeps (fun _ h1 => sbSend_keeps h1) h0) ((Keeps.refl s))

theorem execPwrAck_keeps {k : Fin 9} {toLeader : Bool} {f : BitVec 64} {s : State} {t' : State} (he : execPwrAck k toLeader f s = .next t') : Keeps s t' := by
  unfold execPwrAck at he
  cases he
  exact sbTake_keeps (fun _ h0 => State.bndAtMod_keeps h0) ((Keeps.refl s))

theorem execPwrDeny_keeps {k : Fin 9} {toLeader : Bool} {f : BitVec 64} {s : State} {t' : State} (he : execPwrDeny k toLeader f s = .next t') : Keeps s t' := by
  unfold execPwrDeny at he
  cases he
  exact sbTake_keeps (fun _ h0 => State.bndAtMod_keeps h0) ((Keeps.refl s))

theorem execPwrReqTimeout_keeps {k : Fin 9} {s : State} {t' : State} (he : execPwrReqTimeout k s = .next t') : Keeps s t' := by
  unfold execPwrReqTimeout at he
  cases he
  exact State.bndAtMod_keeps ((Keeps.refl s))

theorem execSidebandFence_keeps {k : Fin 9} {toLeader : Bool} {f : BitVec 64} {s : State} {t' : State} (he : execSidebandFence k toLeader f s = .next t') : Keeps s t' := by
  unfold execSidebandFence at he
  cases he
  exact sbTake_keeps (fun _ h0 => State.when_keeps (fun _ h1 => fenceDie_keeps h1) h0) ((Keeps.refl s))

theorem execRecover_keeps {k : Fin 9} {toLeader : Bool} {f : BitVec 64} {s : State} {t' : State} (he : execRecover k toLeader f s = .next t') : Keeps s t' := by
  unfold execRecover at he
  cases he
  refine sbTake_keeps (fun _ h1 => ?_) ((Keeps.refl s))
  split
  · exact startRecovery_keeps h1
  · exact h1

theorem execDisable_keeps {k : Fin 9} {toLeader : Bool} {f : BitVec 64} {s : State} {t' : State} (he : execDisable k toLeader f s = .next t') : Keeps s t' := by
  unfold execDisable at he
  cases he
  refine sbTake_keeps (fun _ h1 => ?_) ((Keeps.refl s))
  split
  · exact Keeps.ite h1 (disableBundle_keeps h1)
  · exact h1

theorem execNotice_keeps {k : Fin 9} {toLeader : Bool} {f : BitVec 64} {s : State} {t' : State} (he : execNotice k toLeader f s = .next t') : Keeps s t' := by
  unfold execNotice at he
  cases he
  exact sbTake_keeps (fun _ h0 => State.when_keeps (fun _ h1 => raiseFrom_keeps h1) h0) ((Keeps.refl s))

theorem sbFail_keeps {s0 : State} {k : Nat} {s : State} (hs : Keeps s0 s) : Keeps s0 (sbFail k s) := by
  unfold sbFail
  refine Keeps.ite hs ?_
  extract_lets -merge -underBinder +onlyGivenNames u0
  have h60 : Keeps s0 u0 := State.bndAtMod_keeps hs
  exact Keeps.ite (fenceDie_keeps h60) (State.each_keeps (fun _ _ h61 => disableOne_keeps h61) h60)

theorem execSbFail_keeps {k : Fin 9} {s : State} {t' : State} (he : execSbFail k s = .next t') : Keeps s t' := by
  unfold execSbFail at he
  cases he
  exact sbFail_keeps ((Keeps.refl s))

theorem sbResendTimerF_keeps {s0 : State} {k : Nat} {fromLeader : Bool} {s : State} (hs : Keeps s0 s) : Keeps s0 (sbResendTimerF k fromLeader s) := by
  unfold sbResendTimerF
  split
  · exact hs
  · exact Keeps.ite (sbFail_keeps hs) (sbEndMod_keeps hs)

theorem execSbResendTimer_keeps {k : Fin 9} {fromLeader : Bool} {s : State} {t' : State} (he : execSbResendTimer k fromLeader s = .next t') : Keeps s t' := by
  unfold execSbResendTimer at he
  cases he
  exact sbResendTimerF_keeps ((Keeps.refl s))

theorem execSbKeepaliveTimer_keeps {k : Fin 9} {fromLeader : Bool} {s : State} {t' : State} (he : execSbKeepaliveTimer k fromLeader s = .next t') : Keeps s t' := by
  unfold execSbKeepaliveTimer at he
  cases he
  exact sbSend_keeps ((Keeps.refl s))

theorem sbBreakF_keeps {s0 : State} {k : Nat} {cycles : Nat} {s : State} (hs : Keeps s0 s) : Keeps s0 (sbBreakF k cycles s) := by
  unfold sbBreakF
  refine Keeps.ite hs ?_
  extract_lets -merge -underBinder +onlyGivenNames u0
  have h2 : Keeps s0 u0 := stopBnd_keeps hs
  exact Keeps.ite (dieReset_keeps (State.dieAtMod_keeps h2)) h2

theorem execSbBreak_keeps {k : Fin 9} {cycles : Nat} {s : State} {t' : State} (he : execSbBreak k cycles s = .next t') : Keeps s t' := by
  unfold execSbBreak at he
  cases he
  exact sbBreakF_keeps ((Keeps.refl s))

theorem joinStepTimeoutF_keeps {s0 : State} {k : Nat} {s : State} (hs : Keeps s0 s) : Keeps s0 (joinStepTimeoutF k s) := by
  unfold joinStepTimeoutF
  extract_lets -merge -underBinder +onlyGivenNames u0
  exact Keeps.ite (sendBootGo_keeps (State.bndAtMod_keeps hs)) hs

theorem execJoinStepTimeout_keeps {k : Fin 9} {s : State} {t' : State} (he : execJoinStepTimeout k s = .next t') : Keeps s t' := by
  unfold execJoinStepTimeout at he
  cases he
  exact joinStepTimeoutF_keeps ((Keeps.refl s))

theorem rejoinStart_keeps {s0 : State} {d : Nat} {s : State} (hs : Keeps s0 s) : Keeps s0 (rejoinStart d s) := by
  unfold rejoinStart
  exact Keeps.ite (endBreak_keeps (State.dieAtMod_keeps hs)) hs

theorem reloadDie_keeps {s0 : State} {d : Nat} {s : State} (hs : Keeps s0 s) : Keeps s0 (reloadDie d s) := by
  unfold reloadDie
  extract_lets -merge -underBinder +onlyGivenNames u0 u1 u2
  have h4 : Keeps s0 u1 := by
    refine State.when_keeps (fun _ h5 => ?_) hs
    extract_lets -merge -underBinder +onlyGivenNames u5 u6
    have h8 : Keeps s0 u5 := State.each_keeps (fun _ _ h9 => (warmWrite_keeps (State.secAtMod_keeps h9))) h5
    have h10 : Keeps s0 u6 := markUnusable_keeps h8
    exact State.each_keeps (fun _ _ h11 => (quadApply_keeps h11)) (State.each_keeps (fun _ _ h12 => (bankApply_keeps h12)) h10)
  have h13 : Keeps s0 u2 := State.each_keeps (fun _ _ h14 => (State.secAtMod_keeps h14)) h4
  exact State.each_keeps (fun _ _ h15 => (releaseSec_keeps h15)) h13

theorem initSaved_keeps {s0 : State} {v : DieSave} {n : Nat} {s : State} (hs : Keeps s0 s) : Keeps s0 (initSaved v n s) := by
  unfold initSaved
  exact State.each_keeps (fun _ _ h1 => (State.each_keeps (fun _ _ h2 => (setPlaneBit_keeps h2)) h1)) hs

theorem saveWrite_keeps {s0 : State} {v : DieSave} {p : Nat → Bool} {s : State} (hs : Keeps s0 s) : Keeps s0 (saveWrite v p s) := by
  unfold saveWrite
  extract_lets -merge -underBinder +onlyGivenNames u0
  have h2 : Keeps s0 u0 := State.onFab_keeps hs
  exact Keeps.upd h2 rfl rfl

theorem sduWrite_keeps {s0 : State} {v : DieSave} {n : Nat} {s : State} (hs : Keeps s0 s) : Keeps s0 (sduWrite v n s) := by
  unfold sduWrite
  exact Keeps.upd hs rfl rfl

theorem testDieBack_keeps {s0 : State} {b : BistRun} {bad : List Nat} {s : State} (hs : Keeps s0 s) : Keeps s0 (testDieBack b bad s) := by
  unfold testDieBack
  extract_lets -merge -underBinder +onlyGivenNames u0 u1 u2 u3 u4 u5 u6
  have h8 : Keeps s0 u2 := saveWrite_keeps hs
  have h9 : Keeps s0 u3 := State.each_keeps (fun _ _ h10 => (quadApply_keeps h10)) (State.each_keeps (fun _ _ h11 => (bankApply_keeps h11)) h8)
  have h12 : Keeps s0 u4 := State.each_keeps (fun _ _ h13 => (Keeps.ite (State.secAtMod_keeps h13) (Keeps.ite (sduWrite_keeps (releaseSec_keeps (initSaved_keeps h13))) (State.secAtMod_keeps h13)))) h9
  have h14 : Keeps s0 u5 := State.onTst_keeps h12
  have h15 : Keeps s0 u6 := by
    unfold u6
    split
    · exact finish_keeps h14
    · exact h14
  exact raiseFrom_keeps (State.when_keeps (fun _ h21 => (raiseFrom_keeps h21)) h15)

theorem rejoinEnd_keeps {s0 : State} {d : Nat} {s : State} (hs : Keeps s0 s) : Keeps s0 (rejoinEnd d s) := by
  unfold rejoinEnd
  extract_lets -merge -underBinder +onlyGivenNames test blank u0 u1 u2 u3 u4 u5
  have h60 : Keeps s0 u0 := by
    subst u0
    split
    · exact State.onNoc_keeps hs
    · exact hs
  have h61 : Keeps s0 u1 := by
    subst u1
    clear_value test
    split
    · exact testDieBack_keeps h60
    · exact State.when_keeps (fun _ h62 => reloadDie_keeps h62) h60
  have h63 : Keeps s0 u2 := State.dieAtMod_keeps h61
  have h64 : Keeps s0 u3 := State.bndAtMod_keeps h63
  have h65 : Keeps s0 u4 := State.each_keeps (fun _ _ h66 => endBreak_keeps h66) h64
  have h67 : Keeps s0 u5 := State.when_keeps (fun _ h68 => raise_keeps h68) h65
  exact raise_keeps h67

theorem clocksReturn_keeps {s0 : State} {d : Nat} {s : State} (hs : Keeps s0 s) : Keeps s0 (clocksReturn d s) := by
  unfold clocksReturn
  exact State.each_keeps (fun _ _ h0 => State.domAtMod_keeps h0) hs

theorem dieRejoinF_keeps {s0 : State} {d : Nat} {thrice : Bool} {s : State} (hs : Keeps s0 s) : Keeps s0 (dieRejoinF d thrice s) := by
  unfold dieRejoinF
  extract_lets -merge -underBinder +onlyGivenNames u0
  exact Keeps.ite (Keeps.ite (State.dieAtMod_keeps hs) (Keeps.ite (rejoinStart_keeps (clocksReturn_keeps hs)) hs)) (Keeps.ite (rejoinEnd_keeps hs) hs)

theorem execDieRejoin_keeps {d : Fin 7} {thrice : Bool} {s : State} {t' : State} (he : execDieRejoin d thrice s = .next t') : Keeps s t' := by
  unfold execDieRejoin at he
  cases he
  exact State.when_keeps (fun _ h61 => (dieRejoinF_keeps h61)) (Keeps.refl _)

theorem adlFenceDieF_keeps {s0 : State} {d : Nat} {s : State} (hs : Keeps s0 s) : Keeps s0 (adlFenceDieF d s) := by
  unfold adlFenceDieF
  exact Keeps.ite (fenceDie_keeps hs) hs

theorem execAdlFenceDie_keeps {d : BitVec 3} {s : State} {t' : State} (he : execAdlFenceDie d s = .next t') : Keeps s t' := by
  unfold execAdlFenceDie at he
  cases he
  exact adlFenceDieF_keeps ((Keeps.refl s))

theorem adlFenceRejoinF_keeps {s0 : State} {d : Nat} {s : State} (hs : Keeps s0 s) : Keeps s0 (adlFenceRejoinF d s) := by
  unfold adlFenceRejoinF
  exact Keeps.ite (dieRejoinF_keeps (State.dieAtMod_keeps hs)) hs

theorem execAdlFenceRejoin_keeps {d : BitVec 3} {s : State} {t' : State} (he : execAdlFenceRejoin d s = .next t') : Keeps s t' := by
  unfold execAdlFenceRejoin at he
  cases he
  exact adlFenceRejoinF_keeps ((Keeps.refl s))

end Sys2Proof.Machine
end

