-- ==== Sys2Proof/Laws/KeepsSpan.lean ====
section
/-! SUPPORT. What each function of Machine/Span.lean keeps. -/

namespace Sys2Proof.Machine

theorem sendLink_keeps {s0 : State} {k : Nat} {s : State} (hs : Keeps s0 s) : Keeps s0 (sendLink k s) := by
  unfold sendLink
  exact spanSendU_keeps hs

theorem resend_keeps {s0 : State} {k : Nat} {s : State} (hs : Keeps s0 s) : Keeps s0 (resend k s) := by
  unfold resend
  extract_lets -merge -underBinder +onlyGivenNames u0 u1
  have h60 : Keeps s0 u1 := State.portAtMod_keeps hs
  exact Keeps.ite (spanDown_keeps h60) h60

theorem frameAck_keeps {s0 : State} {k : Nat} {f : List Word} {s : State} (hs : Keeps s0 s) : Keeps s0 (frameAck k f s) := by
  unfold frameAck
  extract_lets -merge -underBinder +onlyGivenNames u0 u1 u2
  have h60 : Keeps s0 u1 := State.portAtMod_keeps hs
  have h61 : Keeps s0 u2 := Keeps.ite (resend_keeps h60) h60
  exact spanPump_keeps h61

theorem freeBuf_keeps {s0 : State} {k : Nat} {v : Nat} {s : State} (hs : Keeps s0 s) : Keeps s0 (freeBuf k v s) := by
  unfold freeBuf
  exact State.portAtMod_keeps hs

theorem transit_keeps {s0 : State} {v : Nat} {fs : List (List Word)} {s : State} (hs : Keeps s0 s) : Keeps s0 (transit v fs s) := by
  unfold transit
  extract_lets -merge -underBinder +onlyGivenNames u0
  split
  · exact spanQueue_keeps hs
  · refine Keeps.ite ?_ hs
    extract_lets -merge -underBinder +onlyGivenNames u5
    exact raise_keeps (spanTo_keeps hs)

theorem forward_keeps {s0 : State} {v : Nat} {fs : List (List Word)} {s : State} (hs : Keeps s0 s) : Keeps s0 (forward v fs s) := by
  unfold forward
  exact Keeps.ite (State.onSpan_keeps hs) (transit_keeps hs)

theorem takeReq_keeps {s0 : State} {k : Nat} {fs : List (List Word)} {s : State} (hs : Keeps s0 s) : Keeps s0 (takeReq k fs s) := by
  unfold takeReq
  exact retire_keeps (State.onSpan_keeps hs)

theorem takeRspFrames_keeps {s0 : State} {fs : List (List Word)} {s : State} (hs : Keeps s0 s) : Keeps s0 (takeRspFrames fs s) := by
  unfold takeRspFrames
  extract_lets -merge -underBinder +onlyGivenNames u0 u1 u2
  split
  · exact hs
  · extract_lets -merge -underBinder +onlyGivenNames u60 u61 u62
    exact sendRsp_keeps (State.onSpan_keeps hs)

theorem takePacket_keeps {s0 : State} {k : Nat} {fs : List (List Word)} {s : State} (hs : Keeps s0 s) : Keeps s0 (takePacket k fs s) := by
  unfold takePacket
  extract_lets -merge -underBinder +onlyGivenNames u0
  exact Keeps.ite (forward_keeps hs) (Keeps.ite (takeReq_keeps hs) (takeRspFrames_keeps hs))

theorem takeTransaction_keeps {s0 : State} {k : Nat} {f : List Word} {s : State} (hs : Keeps s0 s) : Keeps s0 (takeTransaction k f s) := by
  unfold takeTransaction
  extract_lets -merge -underBinder +onlyGivenNames u0 u1
  refine Keeps.ite hs ?_
  extract_lets -merge -underBinder +onlyGivenNames u1
  split
  · exact Keeps.ite (takePacket_keeps (State.portAtMod_keeps hs)) (State.portAtMod_keeps hs)
  · exact forward_keeps (Keeps.ite hs (State.portAtMod_keeps hs))

theorem takeReply_keeps {s0 : State} {dev : BitVec 12} {tag : Byte} {ws : List Word} {s : State} (hs : Keeps s0 s) : Keeps s0 (takeReply dev tag ws s) := by
  unfold takeReply
  extract_lets -merge -underBinder +onlyGivenNames u0
  exact Keeps.ite (mbxPost_keeps (State.onMgr_keeps hs)) hs

theorem takeCmd_keeps {s0 : State} {f : List Word} {s : State} (hs : Keeps s0 s) : Keeps s0 (takeCmd f s) := by
  unfold takeCmd
  extract_lets -merge -underBinder +onlyGivenNames u0 u1 u2 u3 u4 u5 u6 u7 u8 u9
  have h60 : Keeps s0 u9 := State.onMgr_keeps hs
  clear_value u8
  split
  · exact h60
  · extract_lets -merge -underBinder +onlyGivenNames u61
    exact Keeps.ite (Keeps.ite (takeReply_keeps h60) (packetIn_keeps h60)) (State.onMgr_keeps h60)

theorem takeTrig_keeps {s0 : State} {k : Nat} {f : List Word} {s : State} (hs : Keeps s0 s) : Keeps s0 (takeTrig k f s) := by
  unfold takeTrig
  extract_lets -merge -underBinder +onlyGivenNames u0 u1
  have h60 : Keeps s0 u0 := Keeps.ite hs (State.each_keeps (fun _ _ h61 => spanSend_keeps h61) hs)
  exact Keeps.ite h60 (fireLines_keeps h60)

theorem takeItem_keeps {s0 : State} {f : List Word} {s : State} (hs : Keeps s0 s) : Keeps s0 (takeItem f s) := by
  unfold takeItem
  extract_lets -merge -underBinder +onlyGivenNames u0 u1 u2 u3 u4
  exact Keeps.ite (Keeps.ite (wdsServe_keeps (enqueueItem_keeps hs)) (sendItem_keeps hs)) (Keeps.ite (Keeps.ite (wdsServe_keeps (redispatch_keeps hs)) (wdsRelease_keeps hs)) hs)

theorem deliverFrame_keeps {s0 : State} {k : Nat} {f : List Word} {s : State} (hs : Keeps s0 s) : Keeps s0 (deliverFrame k f s) := by
  unfold deliverFrame
  split
  · exact takeTrig_keeps hs
  · exact Keeps.ite (forward_keeps hs) (takeItem_keeps hs)
  · exact Keeps.ite (forward_keeps hs) (takeCmd_keeps hs)
  · exact takeTransaction_keeps hs

theorem tagFailure_keeps {s0 : State} {k : Nat} {s : State} (hs : Keeps s0 s) : Keeps s0 (tagFailure k s) := by
  unfold tagFailure
  exact Keeps.ite (raise_keeps (spanDown_keeps (State.portAtMod_keeps hs))) (fatal_keeps hs)

theorem takeTag_keeps {s0 : State} {k : Nat} {f : List Word} {s : State} (hs : Keeps s0 s) : Keeps s0 (takeTag k f s) := by
  unfold takeTag
  refine Keeps.ite (Keeps.ite ?_ (tagFailure_keeps hs)) hs
  extract_lets -merge -underBinder +onlyGivenNames u0 u1
  have h60 : Keeps s0 u1 := State.portAtMod_keeps hs
  exact State.each_keeps (fun _ _ h61 => deliverFrame_keeps (freeBuf_keeps h61)) h60

theorem refuseFrame_keeps {s0 : State} {k : Nat} {s : State} (hs : Keeps s0 s) : Keeps s0 (refuseFrame k s) := by
  unfold refuseFrame
  extract_lets -merge -underBinder +onlyGivenNames u0
  exact Keeps.ite hs (sendLink_keeps (State.portAtMod_keeps hs))

theorem seqFrame_keeps {s0 : State} {k : Nat} {ty : Nat} {f : List Word} {s : State} (hs : Keeps s0 s) : Keeps s0 (seqFrame k ty f s) := by
  unfold seqFrame
  refine Keeps.ite hs (Keeps.ite (refuseFrame_keeps hs) (Keeps.ite hs ?_))
  extract_lets -merge -underBinder +onlyGivenNames u0 u1 u2
  have h60 : Keeps s0 u0 := frameAck_keeps hs
  have h61 : Keeps s0 u1 := State.portAtMod_keeps h60
  have h62 : Keeps s0 u2 := Keeps.ite (takeTag_keeps h61) (Keeps.ite (State.portAtMod_keeps h61) (deliverFrame_keeps (freeBuf_keeps h61)))
  exact Keeps.ite h60 (Keeps.ite (refuseFrame_keeps h60) (Keeps.ite (sendLink_keeps h62) h62))

theorem unseqFrame_keeps {s0 : State} {k : Nat} {ty : Nat} {f : List Word} {body : State → State} {s : State} (hbody : ∀ a0, Keeps s0 a0 → Keeps s0 (body a0)) (hs : Keeps s0 s) : Keeps s0 (unseqFrame k ty f body s) := by
  unfold unseqFrame
  refine Keeps.ite hs (Keeps.ite (State.portAtMod_keeps hs) (Keeps.ite hs ?_))
  extract_lets -merge -underBinder +onlyGivenNames u60
  have h62 : Keeps s0 u60 := frameAck_keeps hs
  exact Keeps.ite h62 (Keeps.ite (hbody _ h62) (tagFailure_keeps h62))

theorem reqF_keeps {s0 : State} {k : Nat} {f : List Word} {s : State} (hs : Keeps s0 s) : Keeps s0 (reqF k f s) := by
  unfold reqF
  exact seqFrame_keeps hs

theorem execReq_keeps {k : Fin 12} {f : List Word} {s : State} {t' : State} (he : execReq k f s = .next t') : Keeps s t' := by
  unfold execReq at he
  cases he
  exact State.when_keeps (fun _ h61 => (reqF_keeps h61)) (Keeps.refl _)

theorem rspF_keeps {s0 : State} {k : Nat} {f : List Word} {s : State} (hs : Keeps s0 s) : Keeps s0 (rspF k f s) := by
  unfold rspF
  exact seqFrame_keeps hs

theorem execRsp_keeps {k : Fin 12} {f : List Word} {s : State} {t' : State} (he : execRsp k f s = .next t') : Keeps s t' := by
  unfold execRsp at he
  cases he
  exact State.when_keeps (fun _ h63 => (rspF_keeps h63)) (Keeps.refl _)

theorem dataF_keeps {s0 : State} {k : Nat} {f : List Word} {s : State} (hs : Keeps s0 s) : Keeps s0 (dataF k f s) := by
  unfold dataF
  exact seqFrame_keeps hs

theorem execData_keeps {k : Fin 12} {f : List Word} {s : State} {t' : State} (he : execData k f s = .next t') : Keeps s t' := by
  unfold execData at he
  cases he
  exact State.when_keeps (fun _ h65 => (dataF_keeps h65)) (Keeps.refl _)

theorem cmdF_keeps {s0 : State} {k : Nat} {f : List Word} {s : State} (hs : Keeps s0 s) : Keeps s0 (cmdF k f s) := by
  unfold cmdF
  exact seqFrame_keeps hs

theorem execCmd_keeps {k : Fin 12} {f : List Word} {s : State} {t' : State} (he : execCmd k f s = .next t') : Keeps s t' := by
  unfold execCmd at he
  cases he
  exact State.when_keeps (fun _ h61 => (cmdF_keeps h61)) (Keeps.refl _)

theorem trigF_keeps {s0 : State} {k : Nat} {f : List Word} {s : State} (hs : Keeps s0 s) : Keeps s0 (trigF k f s) := by
  unfold trigF
  exact seqFrame_keeps hs

theorem execTrig_keeps {k : Fin 12} {f : List Word} {s : State} {t' : State} (he : execTrig k f s = .next t') : Keeps s t' := by
  unfold execTrig at he
  cases he
  exact State.when_keeps (fun _ h62 => (trigF_keeps h62)) (Keeps.refl _)

theorem tagF_keeps {s0 : State} {k : Nat} {f : List Word} {s : State} (hs : Keeps s0 s) : Keeps s0 (tagF k f s) := by
  unfold tagF
  exact seqFrame_keeps hs

theorem execTag_keeps {k : Fin 12} {f : List Word} {s : State} {t' : State} (he : execTag k f s = .next t') : Keeps s t' := by
  unfold execTag at he
  cases he
  exact State.when_keeps (fun _ h61 => (tagF_keeps h61)) (Keeps.refl _)

theorem deliverItemF_keeps {s0 : State} {k : Nat} {f : List Word} {s : State} (hs : Keeps s0 s) : Keeps s0 (deliverItemF k f s) := by
  unfold deliverItemF
  exact seqFrame_keeps hs

theorem execDeliver_keeps {k : Fin 12} {f : List Word} {s : State} {t' : State} (he : execDeliver k f s = .next t') : Keeps s t' := by
  unfold execDeliver at he
  cases he
  exact State.when_keeps (fun _ h62 => (deliverItemF_keeps h62)) (Keeps.refl _)

theorem releaseItemF_keeps {s0 : State} {k : Nat} {f : List Word} {s : State} (hs : Keeps s0 s) : Keeps s0 (releaseItemF k f s) := by
  unfold releaseItemF
  exact seqFrame_keeps hs

theorem execRelease_keeps {k : Fin 12} {f : List Word} {s : State} {t' : State} (he : execRelease k f s = .next t') : Keeps s t' := by
  unfold execRelease at he
  cases he
  exact State.when_keeps (fun _ h1 => (releaseItemF_keeps h1)) (Keeps.refl _)

theorem linkF_keeps {s0 : State} {k : Nat} {f : List Word} {s : State} (hs : Keeps s0 s) : Keeps s0 (linkF k f s) := by
  unfold linkF
  exact unseqFrame_keeps (fun _ h0 => h0) hs

theorem execLink_keeps {k : Fin 12} {f : List Word} {s : State} {t' : State} (he : execLink k f s = .next t') : Keeps s t' := by
  unfold execLink at he
  cases he
  exact State.when_keeps (fun _ h63 => (linkF_keeps h63)) (Keeps.refl _)

theorem takeMark_keeps {s0 : State} {k : Nat} {f : List Word} {s : State} (hs : Keeps s0 s) : Keeps s0 (takeMark k f s) := by
  unfold takeMark
  extract_lets -merge -underBinder +onlyGivenNames u0 u1 u2 u3 u4 u5 u6 u7 u8 u9 u10
  have h60 : Keeps s0 u6 := State.nextFree_keeps hs
  have h61 : Keeps s0 u7 := State.onClk_keeps (State.onSpan_keeps h60)
  have h62 : Keeps s0 u8 := State.when_keeps (fun _ h63 => raise_keeps h63) h61
  have h64 : Keeps s0 u9 := Keeps.ite (State.onSpan_keeps h60) (State.when_keeps (fun _ h65 => calFireStep_keeps h65) h62)
  have h66 : Keeps s0 u10 := State.onSpan_keeps h64
  exact Keeps.ite hs (State.nextFree_keeps (sendAlign_keeps h66))

theorem alignF_keeps {s0 : State} {k : Nat} {f : List Word} {s : State} (hs : Keeps s0 s) : Keeps s0 (alignF k f s) := by
  unfold alignF
  exact unseqFrame_keeps (fun _ h0 => takeMark_keeps h0) hs

theorem execAlign_keeps {k : Fin 12} {f : List Word} {s : State} {t' : State} (he : execAlign k f s = .next t') : Keeps s t' := by
  unfold execAlign at he
  cases he
  exact State.when_keeps (fun _ h61 => (alignF_keeps h61)) (Keeps.refl _)

theorem probeF_keeps {s0 : State} {k : Nat} {f : List Word} {turnaround : BitVec 48} {s : State} (hs : Keeps s0 s) : Keeps s0 (probeF k f turnaround s) := by
  unfold probeF
  exact unseqFrame_keeps (fun _ h0 => spanSendU_keeps h0) hs

theorem execProbe_keeps {k : Fin 12} {f : List Word} {turnaround : BitVec 48} {s : State} {t' : State} (he : execProbe k f turnaround s = .next t') : Keeps s t' := by
  unfold execProbe at he
  cases he
  exact State.when_keeps (fun _ h62 => (probeF_keeps h62)) (Keeps.refl _)

theorem echoF_keeps {s0 : State} {k : Nat} {f : List Word} {t4 : BitVec 48} {s : State} (hs : Keeps s0 s) : Keeps s0 (echoF k f t4 s) := by
  unfold echoF
  refine unseqFrame_keeps (fun _ h0 => ?_) hs
  extract_lets -merge -underBinder +onlyGivenNames u1 u2
  exact State.portAtMod_keeps h0

theorem execEcho_keeps {k : Fin 12} {f : List Word} {t4 : BitVec 48} {s : State} {t' : State} (he : execEcho k f t4 s = .next t') : Keeps s t' := by
  unfold execEcho at he
  cases he
  exact State.when_keeps (fun _ h61 => (echoF_keeps h61)) (Keeps.refl _)

theorem spanPortUpF_keeps {s0 : State} {k : Nat} {s : State} (hs : Keeps s0 s) : Keeps s0 (spanPortUpF k s) := by
  unfold spanPortUpF
  extract_lets -merge -underBinder +onlyGivenNames u0 u1 u2 u3 u4
  have h60 : Keeps s0 u4 := State.portAtMod_keeps hs
  exact Keeps.ite (Keeps.ite (State.portAtMod_keeps hs) (State.when_keeps (fun _ h61 => raise_keeps h61) h60)) hs

theorem execSpanPortUp_keeps {k : Fin 12} {s : State} {t' : State} (he : execSpanPortUp k s = .next t') : Keeps s t' := by
  unfold execSpanPortUp at he
  cases he
  exact spanPortUpF_keeps ((Keeps.refl s))

theorem aosF_keeps {s0 : State} {k : Nat} {aligned : Bool} {s : State} (hs : Keeps s0 s) : Keeps s0 (aosF k aligned s) := by
  unfold aosF
  extract_lets -merge -underBinder +onlyGivenNames u0
  exact Keeps.ite (State.portAtMod_keeps hs) hs

theorem execAos_keeps {k : Fin 12} {aligned : Bool} {s : State} {t' : State} (he : execAos k aligned s = .next t') : Keeps s t' := by
  unfold execAos at he
  cases he
  exact aosF_keeps ((Keeps.refl s))

theorem spanProgressTimeoutF_keeps {s0 : State} {k : Nat} {s : State} (hs : Keeps s0 s) : Keeps s0 (spanProgressTimeoutF k s) := by
  unfold spanProgressTimeoutF
  exact Keeps.ite (spanDown_keeps hs) hs

theorem execSpanProgressTimeout_keeps {k : Fin 12} {s : State} {t' : State} (he : execSpanProgressTimeout k s = .next t') : Keeps s t' := by
  unfold execSpanProgressTimeout at he
  cases he
  exact spanProgressTimeoutF_keeps ((Keeps.refl s))

theorem spanRetryTimerF_keeps {s0 : State} {k : Nat} {s : State} (hs : Keeps s0 s) : Keeps s0 (spanRetryTimerF k s) := by
  unfold spanRetryTimerF
  exact Keeps.ite (resend_keeps hs) hs

theorem execSpanRetryTimer_keeps {k : Fin 12} {s : State} {t' : State} (he : execSpanRetryTimer k s = .next t') : Keeps s t' := by
  unfold execSpanRetryTimer at he
  cases he
  exact spanRetryTimerF_keeps ((Keeps.refl s))

theorem spanAckTimerF_keeps {s0 : State} {k : Nat} {s : State} (hs : Keeps s0 s) : Keeps s0 (spanAckTimerF k s) := by
  unfold spanAckTimerF
  extract_lets -merge -underBinder +onlyGivenNames u0
  exact Keeps.ite (sendLink_keeps hs) hs

theorem execSpanAckTimer_keeps {k : Fin 12} {s : State} {t' : State} (he : execSpanAckTimer k s = .next t') : Keeps s t' := by
  unfold execSpanAckTimer at he
  cases he
  exact spanAckTimerF_keeps ((Keeps.refl s))

theorem spanTxnTimeoutF_keeps {s0 : State} {stid : Nat} {s : State} (hs : Keeps s0 s) : Keeps s0 (spanTxnTimeoutF stid s) := by
  unfold spanTxnTimeoutF
  split
  · exact hs
  · exact Keeps.ite hs (sendRsp_keeps (State.onSpan_keeps hs))

theorem execSpanTxnTimeout_keeps {stid : BitVec 10} {s : State} {t' : State} (he : execSpanTxnTimeout stid s = .next t') : Keeps s t' := by
  unfold execSpanTxnTimeout at he
  cases he
  exact spanTxnTimeoutF_keeps ((Keeps.refl s))

theorem spnRtWriteF_keeps {s0 : State} {w : Nat} {v : Word} {s : State} (hs : Keeps s0 s) : Keeps s0 (spnRtWriteF w v s) := by
  unfold spnRtWriteF
  refine State.each_keeps (fun _ _ h0 => ?_) hs
  extract_lets -merge -underBinder +onlyGivenNames u1 u2 u3 u4
  exact Keeps.ite (State.onSpan_keeps h0) (State.onSpan_keeps h0)

theorem execSpnRtWrite_keeps {w : BitVec 9} {v : Word} {s : State} {t' : State} (he : execSpnRtWrite w v s = .next t') : Keeps s t' := by
  unfold execSpnRtWrite at he
  cases he
  exact spnRtWriteF_keeps ((Keeps.refl s))

theorem spanRouteDrainEndF_keeps {s0 : State} {d : Nat} {s : State} (hs : Keeps s0 s) : Keeps s0 (spanRouteDrainEndF d s) := by
  unfold spanRouteDrainEndF
  split
  · exact hs
  · refine Keeps.ite hs ?_
    extract_lets -merge -underBinder +onlyGivenNames u0 u1
    have h60 : Keeps s0 u1 := State.onSpan_keeps hs
    exact State.each_keeps (fun _ _ h61 => transit_keeps h61) h60

theorem execSpanRouteDrainEnd_keeps {d : BitVec 12} {s : State} {t' : State} (he : execSpanRouteDrainEnd d s = .next t') : Keeps s t' := by
  unfold execSpanRouteDrainEnd at he
  cases he
  exact spanRouteDrainEndF_keeps ((Keeps.refl s))

theorem spnCfgWriteF_keeps {s0 : State} {v : Word} {s : State} (hs : Keeps s0 s) : Keeps s0 (spnCfgWriteF v s) := by
  unfold spnCfgWriteF
  extract_lets -merge -underBinder +onlyGivenNames u0 u1 u2 u3 u4
  have h60 : Keeps s0 u3 := Keeps.ite hs (Keeps.ite (State.onSpan_keeps hs) (State.onSpan_keeps hs))
  have h61 : Keeps s0 u4 := State.onSpan_keeps h60
  exact State.each_keeps (fun _ _ h62 => Keeps.ite (spanDisable_keeps h62) (Keeps.ite (spanEnable_keeps h62) h62)) h61

theorem execSpnCfgWrite_keeps {v : Word} {s : State} {t' : State} (he : execSpnCfgWrite v s = .next t') : Keeps s t' := by
  unfold execSpnCfgWrite at he
  cases he
  exact spnCfgWriteF_keeps ((Keeps.refl s))

theorem spanProbeTimerF_keeps {s0 : State} {k : Nat} {t1 : BitVec 48} {s : State} (hs : Keeps s0 s) : Keeps s0 (spanProbeTimerF k t1 s) := by
  unfold spanProbeTimerF
  exact Keeps.ite (spanSendU_keeps hs) hs

theorem execSpanProbeTimer_keeps {k : Fin 12} {t1 : BitVec 48} {s : State} {t' : State} (he : execSpanProbeTimer k t1 s = .next t') : Keeps s t' := by
  unfold execSpanProbeTimer at he
  cases he
  exact spanProbeTimerF_keeps ((Keeps.refl s))

theorem spanGroupTimerF_keeps {s0 : State} {k : Nat} {s : State} (hs : Keeps s0 s) : Keeps s0 (spanGroupTimerF k s) := by
  unfold spanGroupTimerF
  exact Keeps.ite (closeGroup_keeps hs) hs

theorem execSpanGroupTimer_keeps {k : Fin 12} {s : State} {t' : State} (he : execSpanGroupTimer k s = .next t') : Keeps s t' := by
  unfold execSpanGroupTimer at he
  cases he
  exact spanGroupTimerF_keeps ((Keeps.refl s))

theorem tbMarkLossF_keeps {s0 : State} {s : State} (hs : Keeps s0 s) : Keeps s0 (tbMarkLossF s) := by
  unfold tbMarkLossF
  exact Keeps.ite (marksLost_keeps hs) hs

theorem execTbMarkLoss_keeps {s : State} {t' : State} (he : execTbMarkLoss s = .next t') : Keeps s t' := by
  unfold execTbMarkLoss at he
  cases he
  exact tbMarkLossF_keeps ((Keeps.refl s))

theorem spnPerrRead_keeps {s0 : State} {k : Nat} {insp : Bool} {s : State} (hs : Keeps s0 s) : Keeps s0 (spnPerrRead k insp s).2 := by
  unfold spnPerrRead
  extract_lets -merge -underBinder +onlyGivenNames u0
  exact Keeps.ite hs (State.portAtMod_keeps hs)

theorem execSpnPerr_keeps {k : Fin 12} {insp : Bool} {s : State} {t' : State} (he : execSpnPerr k insp s = .next t') : Keeps s t' := by
  unfold execSpnPerr at he
  cases he
  exact State.readTo_keeps (spnPerrRead_keeps ((Keeps.refl s)))

end Sys2Proof.Machine
end

