-- ==== Sys2Proof/Laws/KeepsPcs.lean ====
section
/-! SUPPORT. What each function of Machine/Pcs.lean keeps. -/

namespace Sys2Proof.Machine

theorem lineSeen_keeps {s0 : State} {l : LaneId} {s : State} (hs : Keeps s0 s) : Keeps s0 (lineSeen l s) := by
  unfold lineSeen
  extract_lets -merge -underBinder +onlyGivenNames u0 u1 u2
  have h4 : Keeps s0 u1 := by
    refine State.when_keeps (fun _ h5 => ?_) hs
    split
    rename_i x6 x7 x8 x9
    have h10 := Keeps.of2 x9 (State.take_keeps h5)
    exact State.laneAtMod_keeps h10
  have h11 : Keeps s0 u2 := by
    refine State.when_keeps (fun _ h12 => ?_) h4
    split
    rename_i x13 x14 x15 x16
    have h17 := Keeps.of2 x16 (State.take_keeps h12)
    split
    rename_i x18 x19 x20 x21
    have h22 := Keeps.of2 x21 (State.take_keeps h17)
    split
    rename_i x23 x24 x25 x26
    have h27 := Keeps.of2 x26 (State.take_keeps h22)
    exact State.laneAtMod_keeps h27
  refine State.when_keeps (fun _ h28 => ?_) h11
  split
  rename_i x29 x30 x31 x32
  have h33 := Keeps.of2 x32 (State.take_keeps h28)
  exact State.laneAtMod_keeps h33

end Sys2Proof.Machine
end

