-- ==== Sys2Proof/Laws/KeepsLane.lean ====
section
/-! SUPPORT. What each function of Machine/Lane.lean keeps. -/

namespace Sys2Proof.Machine

theorem laneCmd_keeps {l : LaneId} {f : State → State} {s t : State} (hf : ∀ a, Keeps s a → Keeps s (f a)) (he : laneCmd l f s = .next t) : Keeps s t := by
  unfold laneCmd at he
  cases he
  exact State.when_keeps hf (Keeps.refl s)

theorem bringFail_keeps {s0 : State} {l : LaneId} {s : State} (hs : Keeps s0 s) : Keeps s0 (bringFail l s) := by
  unfold bringFail
  extract_lets -merge -underBinder +onlyGivenNames u0 u1
  have h60 : Keeps s0 u0 := State.laneAtMod_keeps hs
  exact Keeps.ite (raiseFrom_keeps (State.laneAtMod_keeps h60)) h60

theorem lanePortEnableF_keeps {s0 : State} {l : LaneId} {s : State} (hs : Keeps s0 s) : Keeps s0 (lanePortEnableF l s) := by
  unfold lanePortEnableF
  extract_lets -merge -underBinder +onlyGivenNames u0
  exact Keeps.ite (State.laneAtMod_keeps hs) hs

theorem execLanePortEnable_keeps {l : LaneId} {s : State} {t' : State} (he : execLanePortEnable l s = .next t') : Keeps s t' := by
  unfold execLanePortEnable at he
  exact laneCmd_keeps (fun _ h0 => lanePortEnableF_keeps h0) he

theorem lanePortDisableF_keeps {s0 : State} {l : LaneId} {s : State} (hs : Keeps s0 s) : Keeps s0 (lanePortDisableF l s) := by
  unfold lanePortDisableF
  extract_lets -merge -underBinder +onlyGivenNames u0
  have h60 : Keeps s0 u0 := by
    subst u0
    split
    · exact spanDown_keeps hs
    · exact hs
  exact State.laneAtMod_keeps h60

theorem execLanePortDisable_keeps {l : LaneId} {s : State} {t' : State} (he : execLanePortDisable l s = .next t') : Keeps s t' := by
  unfold execLanePortDisable at he
  exact laneCmd_keeps (fun _ h0 => lanePortDisableF_keeps h0) he

theorem laneDetectTimerF_keeps {s0 : State} {l : LaneId} {s : State} (hs : Keeps s0 s) : Keeps s0 (laneDetectTimerF l s) := by
  unfold laneDetectTimerF
  exact Keeps.ite (State.laneAtMod_keeps hs) hs

theorem execLaneDetectTimer_keeps {l : LaneId} {s : State} {t' : State} (he : execLaneDetectTimer l s = .next t') : Keeps s t' := by
  unfold execLaneDetectTimer at he
  exact laneCmd_keeps (fun _ h0 => laneDetectTimerF_keeps h0) he

theorem laneFarEndDetectF_keeps {s0 : State} {l : LaneId} {s : State} (hs : Keeps s0 s) : Keeps s0 (laneFarEndDetectF l s) := by
  unfold laneFarEndDetectF
  exact Keeps.ite (State.laneAtMod_keeps hs) hs

theorem execLaneFarEndDetect_keeps {l : LaneId} {s : State} {t' : State} (he : execLaneFarEndDetect l s = .next t') : Keeps s t' := by
  unfold execLaneFarEndDetect at he
  exact laneCmd_keeps (fun _ h0 => laneFarEndDetectF_keeps h0) he

theorem trainSet_keeps {s0 : State} {l : LaneId} {two : Bool} {t : List Byte} {s : State} (hs : Keeps s0 s) : Keeps s0 (trainSet l two t s) := by
  unfold trainSet
  extract_lets -merge -underBinder +onlyGivenNames u0
  refine Keeps.ite hs ?_
  split
  · exact State.laneAtMod_keeps hs
  · exact Keeps.ite (State.laneAtMod_keeps hs) (Keeps.ite (bringFail_keeps hs) (State.laneAtMod_keeps hs))
  · exact hs
  · exact hs
  · exact hs
  · exact hs
  · exact hs

theorem ts1F_keeps {s0 : State} {l : LaneId} {t : List Byte} {s : State} (hs : Keeps s0 s) : Keeps s0 (ts1F l t s) := by
  unfold ts1F
  exact trainSet_keeps hs

theorem execTs1_keeps {l : LaneId} {t : List Byte} {s : State} {t' : State} (he : execTs1 l t s = .next t') : Keeps s t' := by
  unfold execTs1 at he
  cases he
  exact State.when_keeps (fun _ h61 => (State.when_keeps (fun _ h62 => (ts1F_keeps h62)) h61)) (Keeps.refl _)

theorem ts2F_keeps {s0 : State} {l : LaneId} {t : List Byte} {s : State} (hs : Keeps s0 s) : Keeps s0 (ts2F l t s) := by
  unfold ts2F
  exact trainSet_keeps hs

theorem execTs2_keeps {l : LaneId} {t : List Byte} {s : State} {t' : State} (he : execTs2 l t s = .next t') : Keeps s t' := by
  unfold execTs2 at he
  cases he
  exact State.when_keeps (fun _ h63 => (State.when_keeps (fun _ h64 => (ts2F_keeps h64)) h63)) (Keeps.refl _)

theorem laneTrainTimeoutF_keeps {s0 : State} {l : LaneId} {s : State} (hs : Keeps s0 s) : Keeps s0 (laneTrainTimeoutF l s) := by
  unfold laneTrainTimeoutF
  exact Keeps.ite (bringFail_keeps hs) hs

theorem execLaneTrainTimeout_keeps {l : LaneId} {s : State} {t' : State} (he : execLaneTrainTimeout l s = .next t') : Keeps s t' := by
  unfold execLaneTrainTimeout at he
  exact laneCmd_keeps (fun _ h0 => laneTrainTimeoutF_keeps h0) he

theorem laneExchangeTimeoutF_keeps {s0 : State} {l : LaneId} {s : State} (hs : Keeps s0 s) : Keeps s0 (laneExchangeTimeoutF l s) := by
  unfold laneExchangeTimeoutF
  exact Keeps.ite (bringFail_keeps hs) hs

theorem execLaneExchangeTimeout_keeps {l : LaneId} {s : State} {t' : State} (he : execLaneExchangeTimeout l s = .next t') : Keeps s t' := by
  unfold execLaneExchangeTimeout at he
  exact laneCmd_keeps (fun _ h0 => laneExchangeTimeoutF_keeps h0) he

theorem laneSyncLossF_keeps {s0 : State} {l : LaneId} {errs : Nat} {s : State} (hs : Keeps s0 s) : Keeps s0 (laneSyncLossF l errs s) := by
  unfold laneSyncLossF
  exact Keeps.ite (State.laneAtMod_keeps hs) hs

theorem execLaneSyncLoss_keeps {l : LaneId} {errs : Nat} {s : State} {t' : State} (he : execLaneSyncLoss l errs s = .next t') : Keeps s t' := by
  unfold execLaneSyncLoss at he
  exact laneCmd_keeps (fun _ h0 => laneSyncLossF_keeps h0) he

theorem firTrained_keeps {s0 : State} {l : LaneId} {s : State} (hs : Keeps s0 s) : Keeps s0 (firTrained l s) := by
  unfold firTrained
  split
  rename_i x1 x2 x3 x4
  have h5 := Keeps.of2 x4 (State.take_keeps hs)
  exact State.laneAtMod_keeps h5

theorem laneSymbolLockF_keeps {s0 : State} {l : LaneId} {s : State} (hs : Keeps s0 s) : Keeps s0 (laneSymbolLockF l s) := by
  unfold laneSymbolLockF
  extract_lets -merge -underBinder +onlyGivenNames u0
  exact Keeps.ite (State.when_keeps (fun _ h2 => (firTrained_keeps h2)) (State.laneAtMod_keeps hs)) hs

theorem execLaneSymbolLock_keeps {l : LaneId} {s : State} {t' : State} (he : execLaneSymbolLock l s = .next t') : Keeps s t' := by
  unfold execLaneSymbolLock at he
  exact laneCmd_keeps (fun _ h0 => laneSymbolLockF_keeps h0) he

theorem laneRealignTimeoutF_keeps {s0 : State} {l : LaneId} {s : State} (hs : Keeps s0 s) : Keeps s0 (laneRealignTimeoutF l s) := by
  unfold laneRealignTimeoutF
  extract_lets -merge -underBinder +onlyGivenNames u0
  exact Keeps.ite (lanePortDown_keeps (State.laneAtMod_keeps hs)) hs

theorem execLaneRealignTimeout_keeps {l : LaneId} {s : State} {t' : State} (he : execLaneRealignTimeout l s = .next t') : Keeps s t' := by
  unfold execLaneRealignTimeout at he
  exact laneCmd_keeps (fun _ h0 => laneRealignTimeoutF_keeps h0) he

theorem ethFecCodewordF_keeps {s0 : State} {l : LaneId} {n : Nat} {s : State} (hs : Keeps s0 s) : Keeps s0 (ethFecCodewordF l n s) := by
  unfold ethFecCodewordF
  extract_lets -merge -underBinder +onlyGivenNames u0
  exact Keeps.ite hs (Keeps.ite (State.laneAtMod_keeps hs) (raiseFrom_keeps (State.laneAtMod_keeps hs)))

theorem execEthFecCodeword_keeps {l : LaneId} {n : Nat} {s : State} {t' : State} (he : execEthFecCodeword l n s = .next t') : Keeps s t' := by
  unfold execEthFecCodeword at he
  exact laneCmd_keeps (fun _ h0 => ethFecCodewordF_keeps h0) he

theorem lnPrbsClrF_keeps {s0 : State} {l : LaneId} {s : State} (hs : Keeps s0 s) : Keeps s0 (lnPrbsClrF l s) := by
  unfold lnPrbsClrF
  exact State.laneAtMod_keeps hs

theorem execLnPrbsClr_keeps {l : LaneId} {s : State} {t' : State} (he : execLnPrbsClr l s = .next t') : Keeps s t' := by
  unfold execLnPrbsClr at he
  exact laneCmd_keeps (fun _ h0 => lnPrbsClrF_keeps h0) he

theorem testDown_keeps {s0 : State} {l : LaneId} {s : State} (hs : Keeps s0 s) : Keeps s0 (testDown l s) := by
  unfold testDown
  extract_lets -merge -underBinder +onlyGivenNames u0
  exact Keeps.ite (lanePortDown_keeps (State.laneAtMod_keeps hs)) hs

theorem lnPrbsTxEnF_keeps {s0 : State} {l : LaneId} {on : Bool} {s : State} (hs : Keeps s0 s) : Keeps s0 (lnPrbsTxEnF l on s) := by
  unfold lnPrbsTxEnF
  exact Keeps.ite (State.laneAtMod_keeps hs) (State.when_keeps (fun _ h0 => testDown_keeps h0) (State.laneAtMod_keeps hs))

theorem execLnPrbsTxEn_keeps {l : LaneId} {on : Bool} {s : State} {t' : State} (he : execLnPrbsTxEn l on s = .next t') : Keeps s t' := by
  unfold execLnPrbsTxEn at he
  exact laneCmd_keeps (fun _ h0 => lnPrbsTxEnF_keeps h0) he

theorem lnPrbsRxEnF_keeps {s0 : State} {l : LaneId} {on : Bool} {s : State} (hs : Keeps s0 s) : Keeps s0 (lnPrbsRxEnF l on s) := by
  unfold lnPrbsRxEnF
  exact Keeps.ite (State.laneAtMod_keeps hs) (State.when_keeps (fun _ h0 => testDown_keeps h0) (State.laneAtMod_keeps hs))

theorem execLnPrbsRxEn_keeps {l : LaneId} {on : Bool} {s : State} {t' : State} (he : execLnPrbsRxEn l on s = .next t') : Keeps s t' := by
  unfold execLnPrbsRxEn at he
  exact laneCmd_keeps (fun _ h0 => lnPrbsRxEnF_keeps h0) he

theorem lnLpbkF_keeps {s0 : State} {l : LaneId} {v : BitVec 2} {s : State} (hs : Keeps s0 s) : Keeps s0 (lnLpbkF l v s) := by
  unfold lnLpbkF
  exact Keeps.ite (State.laneAtMod_keeps hs) (State.when_keeps (fun _ h0 => testDown_keeps h0) (State.laneAtMod_keeps hs))

theorem execLnLpbk_keeps {l : LaneId} {v : BitVec 2} {s : State} {t' : State} (he : execLnLpbk l v s = .next t') : Keeps s t' := by
  unfold execLnLpbk at he
  exact laneCmd_keeps (fun _ h0 => lnLpbkF_keeps h0) he

theorem lnAdaptHoldF_keeps {s0 : State} {l : LaneId} {on : Bool} {s : State} (hs : Keeps s0 s) : Keeps s0 (lnAdaptHoldF l on s) := by
  unfold lnAdaptHoldF
  exact State.laneAtMod_keeps hs

theorem execLnAdaptHold_keeps {l : LaneId} {on : Bool} {s : State} {t' : State} (he : execLnAdaptHold l on s = .next t') : Keeps s t' := by
  unfold execLnAdaptHold at he
  exact laneCmd_keeps (fun _ h0 => lnAdaptHoldF_keeps h0) he

theorem lnPrbsErrLoRead_keeps {s0 : State} {l : LaneId} {insp : Bool} {s : State} (hs : Keeps s0 s) : Keeps s0 (lnPrbsErrLoRead l insp s).2 := by
  unfold lnPrbsErrLoRead
  extract_lets -merge -underBinder +onlyGivenNames u0 u1
  have h3 : Keeps s0 u0 := lineSeen_keeps hs
  exact Keeps.ite h3 (State.laneAtMod_keeps h3)

theorem execLnPrbsErrLo_keeps {l : LaneId} {insp : Bool} {s : State} {t' : State} (he : execLnPrbsErrLo l insp s = .next t') : Keeps s t' := by
  unfold execLnPrbsErrLo at he
  cases he
  exact State.readTo_keeps (Keeps.ite2 (lnPrbsErrLoRead_keeps (Keeps.refl _)) (Keeps.refl _))

theorem lnCodeErrRead_keeps {s0 : State} {l : LaneId} {insp : Bool} {s : State} (hs : Keeps s0 s) : Keeps s0 (lnCodeErrRead l insp s).2 := by
  unfold lnCodeErrRead
  extract_lets -merge -underBinder +onlyGivenNames u0
  exact Keeps.ite hs (State.laneAtMod_keeps hs)

theorem execLnCodeErr_keeps {l : LaneId} {insp : Bool} {s : State} {t' : State} (he : execLnCodeErr l insp s = .next t') : Keeps s t' := by
  unfold execLnCodeErr at he
  cases he
  exact State.readTo_keeps (Keeps.ite2 (lnCodeErrRead_keeps (Keeps.refl _)) (Keeps.refl _))

theorem lnFecRead_keeps {s0 : State} {l : LaneId} {insp : Bool} {s : State} (hs : Keeps s0 s) : Keeps s0 (lnFecRead l insp s).2 := by
  unfold lnFecRead
  extract_lets -merge -underBinder +onlyGivenNames u0
  exact Keeps.ite hs (State.laneAtMod_keeps hs)

theorem execLnFec_keeps {l : LaneId} {insp : Bool} {s : State} {t' : State} (he : execLnFec l insp s = .next t') : Keeps s t' := by
  unfold execLnFec at he
  cases he
  exact State.readTo_keeps (Keeps.ite2 (lnFecRead_keeps (Keeps.refl _)) (Keeps.refl _))

theorem lnHeldRead_keeps {s0 : State} {l : LaneId} {insp : Bool} {s : State} (hs : Keeps s0 s) : Keeps s0 (lnHeldRead l insp s).2 := by
  unfold lnHeldRead
  extract_lets -merge -underBinder +onlyGivenNames u0
  have h2 : Keeps s0 u0 := lineSeen_keeps hs
  exact Keeps.ite h2 (State.laneAtMod_keeps h2)

theorem execLnHeld_keeps {l : LaneId} {insp : Bool} {s : State} {t' : State} (he : execLnHeld l insp s = .next t') : Keeps s t' := by
  unfold execLnHeld at he
  cases he
  exact State.readTo_keeps (Keeps.ite2 (lnHeldRead_keeps (Keeps.refl _)) (Keeps.refl _))

theorem eyeScanGoF_keeps {s0 : State} {l : LaneId} {w : Word} {s : State} (hs : Keeps s0 s) : Keeps s0 (eyeScanGoF l w s) := by
  unfold eyeScanGoF
  extract_lets -merge -underBinder +onlyGivenNames u0
  exact State.laneAtMod_keeps hs

theorem execEyeScanGo_keeps {l : LaneId} {w : Word} {s : State} {t' : State} (he : execEyeScanGo l w s = .next t') : Keeps s t' := by
  unfold execEyeScanGo at he
  exact laneCmd_keeps (fun _ h0 => eyeScanGoF_keeps h0) he

theorem eyeScanDoneF_keeps {s0 : State} {l : LaneId} {count : BitVec 31} {s : State} (hs : Keeps s0 s) : Keeps s0 (eyeScanDoneF l count s) := by
  unfold eyeScanDoneF
  exact Keeps.ite (State.laneAtMod_keeps hs) hs

theorem execEyeScanDone_keeps {l : LaneId} {count : BitVec 31} {s : State} {t' : State} (he : execEyeScanDone l count s = .next t') : Keeps s t' := by
  unfold execEyeScanDone at he
  exact laneCmd_keeps (fun _ h0 => eyeScanDoneF_keeps h0) he

theorem pcieLinkUpF_keeps {s0 : State} {c : Nat} {width : BitVec 5} {gen : BitVec 3} {s : State} (hs : Keeps s0 s) : Keeps s0 (pcieLinkUpF c width gen s) := by
  unfold pcieLinkUpF
  refine Keeps.ite ?_ hs
  extract_lets -merge -underBinder +onlyGivenNames u0 u1
  have h61 : Keeps s0 u0 := State.pcieMod_keeps hs
  have h62 : Keeps s0 u1 := State.each_keeps (fun _ _ h63 => (firTrained_keeps (State.laneAtMod_keeps h63))) h61
  exact State.when_keeps (fun _ h64 => (raise_keeps h64)) h62

theorem execPcieLinkUp_keeps {c : Fin 2} {width : BitVec 5} {gen : BitVec 3} {s : State} {t' : State} (he : execPcieLinkUp c width gen s = .next t') : Keeps s t' := by
  unfold execPcieLinkUp at he
  cases he
  exact pcieLinkUpF_keeps ((Keeps.refl s))

theorem pcieLinkDownF_keeps {s0 : State} {c : Nat} {s : State} (hs : Keeps s0 s) : Keeps s0 (pcieLinkDownF c s) := by
  unfold pcieLinkDownF
  exact Keeps.ite (State.each_keeps (fun _ _ h0 => Keeps.ite (State.laneAtMod_keeps h0) h0) (pcieDown_keeps hs)) hs

theorem execPcieLinkDown_keeps {c : Fin 2} {s : State} {t' : State} (he : execPcieLinkDown c s = .next t') : Keeps s t' := by
  unfold execPcieLinkDown at he
  cases he
  exact pcieLinkDownF_keeps ((Keeps.refl s))

theorem pcieL1ExitF_keeps {s0 : State} {c : Nat} {s : State} (hs : Keeps s0 s) : Keeps s0 (pcieL1ExitF c s) := by
  unfold pcieL1ExitF
  exact Keeps.ite (State.when_keeps (fun _ h0 => wake_keeps h0) (State.pcieMod_keeps hs)) hs

theorem execPcieL1Exit_keeps {c : Fin 2} {s : State} {t' : State} (he : execPcieL1Exit c s = .next t') : Keeps s t' := by
  unfold execPcieL1Exit at he
  cases he
  exact pcieL1ExitF_keeps ((Keeps.refl s))

theorem mbxRegWrite_keeps {s0 : State} {off : Nat} {w : Word} {s : State} (hs : Keeps s0 s) : Keeps s0 (mbxRegWrite off w s) := by
  unfold mbxRegWrite
  extract_lets -merge -underBinder +onlyGivenNames u0
  have hu0 : ∀ a0 a1, Keeps s0 a1 → Keeps s0 (u0 a0 a1) := fun _ _ h60 => State.onMgr_keeps h60
  clear_value u0
  split
  · exact State.when_keeps (fun _ h61 => mbxFlushF_keeps h61) (hu0 _ _ hs)
  · exact hu0 _ _ hs
  · exact mbxSubmitF_keeps hs
  · exact State.when_keeps (fun _ h62 => mbxRspDoneF_keeps h62) hs
  · exact hu0 _ _ hs
  · exact hs

theorem mbxWrite_keeps {s0 : State} {off : Nat} {n : Nat} {data : List (BitVec 256)} {s : State} (hs : Keeps s0 s) : Keeps s0 (mbxWrite off n data s) := by
  unfold mbxWrite
  extract_lets -merge -underBinder +onlyGivenNames u0 u1
  have h60 : Keeps s0 u1 := State.onMgr_keeps hs
  exact State.each_keeps (fun _ _ h61 => mbxRegWrite_keeps h61) h60

theorem pcieComplete_keeps {s0 : State} {c : Nat} {k : Completion} {s : State} (hs : Keeps s0 s) : Keeps s0 (pcieComplete c k s) := by
  unfold pcieComplete
  exact State.pcieMod_keeps hs

theorem pcieInboundRequestF_keeps {s0 : State} {c : Nat} {bar : Nat} {off : Nat} {len : Nat} {write : Bool} {data : List (BitVec 256)} {ep : Bool} {s : State} (hs : Keeps s0 s) : Keeps s0 (pcieInboundRequestF c bar off len write data ep s) := by
  unfold pcieInboundRequestF
  refine Keeps.ite hs ?_
  extract_lets -merge -underBinder +onlyGivenNames u0 u1 u2
  have h60 : Keeps s0 u0 := pcieL1ExitF_keeps hs
  have hu2 : ∀ a0 a1, Keeps s0 a1 → Keeps s0 (u2 a0 a1) := fun _ _ h61 => Keeps.ite h61 (pcieComplete_keeps h61)
  clear_value u2
  exact Keeps.ite (hu2 _ _ h60) (Keeps.ite (Keeps.ite (Keeps.ite h60 (mbxWrite_keeps h60)) (pcieComplete_keeps h60)) (Keeps.ite (Keeps.ite (hu2 _ _ h60) (retire_keeps (State.pcieMod_keeps h60))) (hu2 _ _ h60)))

theorem execPcieInboundRequest_keeps {c : Fin 2} {bar : BitVec 3} {off : BitVec 40} {len : Byte} {write : Bool} {data : List (BitVec 256)} {ep : Bool} {s : State} {t' : State} (he : execPcieInboundRequest c bar off len write data ep s = .next t') : Keeps s t' := by
  unfold execPcieInboundRequest at he
  cases he
  exact State.when_keeps (fun _ h61 => (pcieInboundRequestF_keeps h61)) (Keeps.refl _)

theorem pcieCfgAccess_keeps {s0 : State} {c : Nat} {write : Option Word} {completion : Option Word} {insp : Bool} {s : State} (hs : Keeps s0 s) : Keeps s0 (pcieCfgAccess c write completion insp s).2 := by
  unfold pcieCfgAccess
  extract_lets -merge -underBinder +onlyGivenNames u0 u1 u2 u3
  have h60 : Keeps s0 u3 := Keeps.ite hs (Keeps.ite (State.pcieMod_keeps hs) (State.pcieMod_keeps hs))
  exact h60

theorem pcieCfgdataF_keeps {s0 : State} {c : Nat} {write : Option Word} {completion : Option Word} {insp : Bool} {s : State} (hs : Keeps s0 s) : Keeps s0 (pcieCfgdataF c write completion insp s) := by
  unfold pcieCfgdataF
  extract_lets -merge -underBinder +onlyGivenNames u0
  have h60 : Keeps s0 u0.2 := pcieCfgAccess_keeps hs
  exact Keeps.ite h60 (State.readTo_keeps h60)

theorem execPcieCfgdata_keeps {c : Fin 2} {write : Option Word} {completion : Option Word} {insp : Bool} {s : State} {t' : State} (he : execPcieCfgdata c write completion insp s = .next t') : Keeps s t' := by
  unfold execPcieCfgdata at he
  cases he
  exact pcieCfgdataF_keeps ((Keeps.refl s))

theorem pcieOutbound_keeps {s0 : State} {c : Nat} {off : Nat} {write : Option Word} {completion : Option Word} {s : State} (hs : Keeps s0 s) : Keeps s0 (pcieOutbound c off write completion s).2 := by
  unfold pcieOutbound
  extract_lets -merge -underBinder +onlyGivenNames u0 u1 u2
  have h60 : Keeps s0 u2 := Keeps.ite (State.pcieMod_keeps hs) hs
  split
  · exact State.take_keeps h60
  · exact Keeps.ite2 h60 (State.take_keeps h60)
  · exact h60

theorem pcieOutboundAccessF_keeps {s0 : State} {c : Nat} {off : Nat} {write : Option Word} {completion : Option Word} {s : State} (hs : Keeps s0 s) : Keeps s0 (pcieOutboundAccessF c off write completion s) := by
  unfold pcieOutboundAccessF
  extract_lets -merge -underBinder +onlyGivenNames u0
  have h60 : Keeps s0 u0.2 := pcieOutbound_keeps hs
  exact Keeps.ite h60 (State.readTo_keeps h60)

theorem execPcieOutboundAccess_keeps {c : Fin 2} {off : BitVec 18} {write : Option Word} {completion : Option Word} {s : State} {t' : State} (he : execPcieOutboundAccess c off write completion s = .next t') : Keeps s t' := by
  unfold execPcieOutboundAccess at he
  cases he
  exact pcieOutboundAccessF_keeps ((Keeps.refl s))

end Sys2Proof.Machine
end

