-- ==== Sys2Proof/Laws/KeepsDdrCore.lean ====
section
/-! SUPPORT. What each function of Machine/DdrCore.lean keeps. -/

namespace Sys2Proof.Machine

/-- A line written to DRAM keeps the canonical form. -/
theorem dramStore_keeps {s0 : State} {c : Nat} {line : Nat} {v : BitVec 512} {poison : Bool} {s : State} (hs : Keeps s0 s) : Keeps s0 (dramStore c line v poison s) :=  ⟨hs.pending, hs.fresh, hs.fuses, fun x => wf_foldl (hs.mem x)⟩

theorem touchBank_keeps {s0 : State} {c : Nat} {line : Nat} {s : State} (hs : Keeps s0 s) : Keeps s0 (touchBank c line s) := by
  unfold touchBank
  exact State.ddrAtMod_keeps hs

theorem ddrLog_keeps {s0 : State} {c : Nat} {kind : Nat} {scrub : Bool} {device : Nat} {line : Nat} {s : State} (hs : Keeps s0 s) : Keeps s0 (ddrLog c kind scrub device line s) := by
  unfold ddrLog
  exact State.ddrAtMod_keeps hs

theorem recordAdd_keeps {s0 : State} {e : RecEntry} {s : State} (hs : Keeps s0 s) : Keeps s0 (recordAdd e s) := by
  unfold recordAdd
  exact Keeps.ite hs (State.onTst_keeps hs)

theorem chargeDevice_keeps {s0 : State} {c : Nat} {line : Nat} {dev : Nat} {scrub : Bool} {s : State} (hs : Keeps s0 s) : Keeps s0 (chargeDevice c line dev scrub s) := by
  unfold chargeDevice
  extract_lets -merge -underBinder +onlyGivenNames u0 u1 u2 u3 u4 u5 u6
  have h60 : Keeps s0 u5 := State.ddrAtMod_keeps hs
  have h61 : Keeps s0 u6 := State.ddrAtMod_keeps h60
  exact Keeps.ite h60 (Keeps.ite (Keeps.ite (ddrLog_keeps h60) h60) (raise_keeps (recordAdd_keeps h61)))

theorem dimmLine_keeps {s0 : State} {c : Nat} {line : Nat} {m : DimmRead} {scrub : Bool} {s : State} (hs : Keeps s0 s) : Keeps s0 (dimmLine c line m scrub s).2.2 := by
  unfold dimmLine
  extract_lets -merge -underBinder +onlyGivenNames u0 u1 u2 u3 u4 u5
  have h60 : Keeps s0 u3 := touchBank_keeps hs
  split
  · exact h60
  · extract_lets -merge -underBinder +onlyGivenNames u61 u62
    have h121 : Keeps s0 u61 := State.ddrAtMod_keeps h60
    have h122 : Keeps s0 u62 := ddrLog_keeps h121
    exact State.each_keeps (fun _ _ h123 => chargeDevice_keeps h123) h122
  · extract_lets -merge -underBinder +onlyGivenNames u124 u125
    have h184 : Keeps s0 u124 := State.ddrAtMod_keeps h60
    have h185 : Keeps s0 u125 := raise_keeps (ddrLog_keeps h184)
    split
    · rename_i he
      have h186 := Keeps.of2 he (State.take_keeps h185)
      exact h186

theorem bufWord_keeps {s0 : State} {c : Nat} {line : Nat} {k : Fin 3} {s : State} (hs : Keeps s0 s) : Keeps s0 (bufWord c line k s) := by
  unfold bufWord
  exact Keeps.ite (State.ddrAtMod_keeps hs) (Keeps.ite (raise_keeps (ddrLog_keeps (State.ddrAtMod_keeps hs))) hs)

theorem ctlRead_keeps {s0 : State} {c : Nat} {la : Nat} {m : DimmRead} {s : State} (hs : Keeps s0 s) : Keeps s0 (ctlRead c la m s).2.2 := by
  unfold ctlRead
  split
  · exact hs
  · exact dimmLine_keeps hs

theorem ctlWrite_keeps {s0 : State} {c : Nat} {la : Nat} {v : BitVec 512} {poison : Bool} {s : State} (hs : Keeps s0 s) : Keeps s0 (ctlWrite c la v poison s) := by
  unfold ctlWrite
  exact State.ddrAtMod_keeps hs

theorem ctlRewrite_keeps {s0 : State} {c : Nat} {la : Nat} {v : BitVec 512} {poison : Bool} {s : State} (hs : Keeps s0 s) : Keeps s0 (ctlRewrite c la v poison s) := by
  unfold ctlRewrite
  exact Keeps.ite (ctlWrite_keeps hs) (dramStore_keeps hs)

theorem drainOne_keeps {s0 : State} {c : Nat} {k : Fin 3} {s : State} (hs : Keeps s0 s) : Keeps s0 (drainOne c k s) := by
  unfold drainOne
  split
  · exact hs
  · extract_lets -merge -underBinder +onlyGivenNames u0 u1 u2
    have h60 : Keeps s0 u1 := bufWord_keeps hs
    have h61 : Keeps s0 u2 := touchBank_keeps (dramStore_keeps h60)
    exact State.ddrAtMod_keeps h61

theorem drainTo_keeps {s0 : State} {c : Nat} {keep : Nat} {n : Nat} {k : Fin 3} {s : State} (hs : Keeps s0 s) : Keeps s0 (drainTo c keep n k s) := by
  induction n generalizing k s with
  | zero => exact hs
  | succ n ih =>
    unfold drainTo
    exact Keeps.ite hs (ih (drainOne_keeps hs))

theorem readArrives_keeps {s0 : State} {c : Nat} {ca : Nat} {s : State} (hs : Keeps s0 s) : Keeps s0 (readArrives c ca s) := by
  unfold readArrives
  exact State.ddrAtMod_keeps hs

theorem channelDown_keeps {s0 : State} {c : Nat} {s : State} (hs : Keeps s0 s) : Keeps s0 (channelDown c s) := by
  unfold channelDown
  extract_lets -merge -underBinder +onlyGivenNames u0 u1
  have h60 : Keeps s0 u1 := State.ddrAtMod_keeps hs
  exact raise_keeps (State.each_keeps (fun _ _ h61 => sendRsp_keeps h61) h60)

theorem remapLine_keeps {s0 : State} {c : Nat} {la : Nat} {origin : Nat} {m : DimmRead} {s : State} (hs : Keeps s0 s) {r : Nat × State} (he : remapLine c la origin m s = some r) : Keeps s0 r.2 := by
  unfold remapLine at he
  split at he
  · cases he
  · split at he
    rename_i hd
    have h := Keeps.of22 hd (dimmLine_keeps hs)
    cases he
    exact raise_keeps (recordAdd_keeps (State.ddrAtMod_keeps (dramStore_keeps h)))

end Sys2Proof.Machine
end

