-- ==== Sys2Proof/Laws/KeepsMeeCore.lean ====
section
/-! SUPPORT. What each function of Machine/MeeCore.lean keeps. -/

namespace Sys2Proof.Machine

theorem metaFaults_keeps {s0 : State} {c : Nat} {la : Nat} {m : DimmRead} {s : State} (hs : Keeps s0 s) {t : State} (he : metaFaults c la m s = .ok t) : Keeps s0 t := by
  unfold metaFaults at he
  split at he
  · cases he
  · split at he
    · cases he
    · extract_lets -merge +onlyGivenNames u at he
      have hu : Keeps s0 u := State.onMee_keeps hs
      split at he
      · cases he
        refine raise_keeps (State.each_keeps (fun _ _ h => ?_) hu)
        extract_lets -merge +onlyGivenNames l
        refine Keeps.ite h ?_
        split <;> exact ctlRewrite_keeps h
      · injection he with he
        exact he ▸ hu

theorem meeRead_keeps {s0 : State} {c : Nat} {la : Nat} {r : Nat} {m : DimmRead} {bad : Nat} {s : State} (hs : Keeps s0 s) {t : BitVec 512 × Nat × State} (he : meeRead c la r m bad s = .ok t) : Keeps s0 t.2.2 := by
  unfold meeRead at he
  split at he
  · cases he
  · rename_i hm
    have h := metaFaults_keeps hs hm
    dsimp only at he
    split at he
    · cases he; exact h
    · split at he
      · cases he
      · cases he
        exact ctlRead_keeps h

theorem setLine_keeps {s0 : State} {c : Nat} {la : Nat} {mn : Nat} {t : BitVec 64} {s : State} (hs : Keeps s0 s) : Keeps s0 (setLine c la mn t s) := by
  unfold setLine
  exact State.onMee_keeps hs

theorem clearSlot_keeps {s0 : State} {k : Nat} {s : State} (hs : Keeps s0 s) : Keeps s0 (clearSlot k s) := by
  unfold clearSlot
  exact State.onMee_keeps hs

theorem genSlot_keeps {s0 : State} {k : Nat} {s : State} (hs : Keeps s0 s) : Keeps s0 (genSlot k s) := by
  unfold genSlot
  split
  · rename_i he
    have h0 := Keeps.of2 he (State.take_keeps hs)
    exact State.slotAtMod_keeps h0

theorem allotBinding_keeps {s0 : State} {k : Nat} {s : State} (hs : Keeps s0 s) : Keeps s0 (allotBinding k s).2.2 := by
  unfold allotBinding
  dsimp only
  exact State.onMee_keeps (State.slotAtMod_keeps hs)

theorem reencClimb_keeps {s0 : State} {s : State} (hs : Keeps s0 s) : Keeps s0 (reencClimb s) := by
  unfold reencClimb
  split
  · exact hs
  · split
    · rename_i he
      have h0 := Keeps.of22 he (allotBinding_keeps hs)
      exact State.onMee_keeps h0

theorem autoRekey_keeps {s0 : State} {r : Nat} {s : State} (hs : Keeps s0 s) : Keeps s0 (autoRekey r s) := by
  unfold autoRekey
  split
  · refine Keeps.ite (Keeps.ite hs (raise_keeps (State.mregAtMod_keeps hs))) (Keeps.ite (Keeps.ite hs (State.onMee_keeps hs)) ?_)
    extract_lets -merge -underBinder +onlyGivenNames u0 u1
    have h60 : Keeps s0 u1 := genSlot_keeps hs
    exact reencClimb_keeps (State.onMee_keeps h60)
  · exact Keeps.ite hs (raise_keeps (State.mregAtMod_keeps hs))

theorem regroup_keeps {s0 : State} {c : Nat} {la : Nat} {r : Nat} {s : State} (hs : Keeps s0 s) {t : State} (he : regroup c la r s = .ok t) : Keeps s0 t := by
  unfold regroup at he
  dsimp only at he
  split at he
  · cases he
  · rename_i hf
    have h := Keeps.foldOk (s0 := s0) (fun r a hr t ht => by
      split at ht
      · cases ht
      · have h1 := hr _ rfl
        split at ht
        · cases ht
        · rename_i hm
          cases ht
          exact setLine_keeps (ctlRewrite_keeps (meeRead_keeps h1 hm))) _ _ (fun t ht => by cases ht; exact hs) _ hf
    cases he
    exact State.when_keeps (fun _ h => autoRekey_keeps h) (State.mregAtMod_keeps (State.onMee_keeps h))

theorem meeWrite_keeps {s0 : State} {c : Nat} {la : Nat} {r : Nat} {pt : BitVec 512} {poison : Bool} {s : State} (hs : Keeps s0 s) {t : State} (he : meeWrite c la r pt poison s = .ok t) : Keeps s0 t := by
  unfold meeWrite at he
  dsimp only at he
  split at he
  · cases he
  · rename_i hf
    cases he
    refine ctlWrite_keeps (setLine_keeps ?_)
    split at hf
    · exact regroup_keeps hs hf
    · cases hf; exact hs

/-- What a read of a DRAM line keeps. -/
theorem lineRead_keeps {s0 : State} {c : Nat} {la : Nat} {m : DimmRead} {bad : Nat} {s : State} (hs : Keeps s0 s) {t : BitVec 512 × Nat × State} (he : lineRead c la m bad s = .ok t) : Keeps s0 t.2.2 := by
  unfold lineRead at he
  split at he
  · exact meeRead_keeps hs he
  · cases he; exact ctlRead_keeps hs

/-- What a write of a DRAM line keeps. -/
theorem lineWrite_keeps {s0 : State} {c : Nat} {la : Nat} {v : BitVec 512} {poison : Bool} {s : State} (hs : Keeps s0 s) {t : State} (he : lineWrite c la v poison s = .ok t) : Keeps s0 t := by
  unfold lineWrite at he
  split at he
  · exact meeWrite_keeps hs he
  · cases he; exact ctlWrite_keeps hs

theorem cacheBack_keeps {s0 : State} {l : Nat} {c : CacheLine} {s : State} (hs : Keeps s0 s) : Keeps s0 (cacheBack l c s) := by
  unfold cacheBack
  split
  · exact hs
  · split
    · exact fatal_keeps hs
    · rename_i x10 x11 x12
      have h13 := lineWrite_keeps hs x12
      exact h13

theorem freshCounters_keeps {s0 : State} {r : Nat} {s : State} (hs : Keeps s0 s) : Keeps s0 (freshCounters r s) := by
  unfold freshCounters
  extract_lets -merge -underBinder +onlyGivenNames u0 u1 u2 u3
  exact State.onMee_keeps hs

end Sys2Proof.Machine
end

