-- ==== Sys2Proof/Laws/KeepsDdr.lean ====
section
/-! SUPPORT. What each function of Machine/Ddr.lean keeps. -/

namespace Sys2Proof.Machine

theorem trainEnd_keeps {s0 : State} {s : State} (hs : Keeps s0 s) : Keeps s0 (trainEnd s) := by
  unfold trainEnd
  refine Keeps.ite hs ?_
  extract_lets -merge -underBinder +onlyGivenNames u0 u1 u2 u3
  have h60 : Keeps s0 u3 := State.onDdr_keeps hs rfl
  exact State.when_keeps (fun _ h61 => raise_keeps h61) h60

theorem trainFail_keeps {s0 : State} {c : Nat} {s : State} (hs : Keeps s0 s) : Keeps s0 (trainFail c s) := by
  unfold trainFail
  exact trainEnd_keeps (raise_keeps (State.ddrAtMod_keeps hs))

theorem ddrTrainCompleteF_keeps {s0 : State} {c : Nat} {r : TrainResult} {s : State} (hs : Keeps s0 s) : Keeps s0 (ddrTrainCompleteF c r s) := by
  unfold ddrTrainCompleteF
  extract_lets -merge -underBinder +onlyGivenNames u0 u1 u2
  have h60 : Keeps s0 u1 := State.ddrAtMod_keeps hs
  have h61 : Keeps s0 u2 := State.when_keeps (fun _ h62 => raise_keeps h62) h60
  exact Keeps.ite hs (Keeps.ite (Keeps.ite (trainFail_keeps hs) (State.ddrAtMod_keeps hs)) (trainEnd_keeps (State.when_keeps (fun _ h63 => raise_keeps h63) h61)))

theorem execDdrTrainComplete_keeps {c : Fin 12} {r : TrainResult} {s : State} {t' : State} (he : execDdrTrainComplete c r s = .next t') : Keeps s t' := by
  unfold execDdrTrainComplete at he
  cases he
  exact ddrTrainCompleteF_keeps ((Keeps.refl s))

theorem ddrTrainTimeoutF_keeps {s0 : State} {c : Nat} {s : State} (hs : Keeps s0 s) : Keeps s0 (ddrTrainTimeoutF c s) := by
  unfold ddrTrainTimeoutF
  exact Keeps.ite (trainFail_keeps hs) hs

theorem execDdrTrainTimeout_keeps {c : Fin 12} {s : State} {t' : State} (he : execDdrTrainTimeout c s = .next t') : Keeps s t' := by
  unfold execDdrTrainTimeout at he
  cases he
  exact ddrTrainTimeoutF_keeps ((Keeps.refl s))

theorem ddrRangeOpenF_keeps {s0 : State} {bySoftware : Bool} {s : State} (hs : Keeps s0 s) : Keeps s0 (ddrRangeOpenF bySoftware s) := by
  unfold ddrRangeOpenF
  refine Keeps.ite ?_ hs
  split
  · rename_i he
    have h0 := Keeps.of2 he (State.take_keeps hs)
    exact State.onMee_keeps (State.onDdr_keeps h0 rfl)

theorem execDdrRangeOpen_keeps {bySoftware : Bool} {s : State} {t' : State} (he : execDdrRangeOpen bySoftware s = .next t') : Keeps s t' := by
  unfold execDdrRangeOpen at he
  cases he
  exact ddrRangeOpenF_keeps ((Keeps.refl s))

theorem ddrMapWriteF_keeps {s0 : State} {c : Nat} {m : Nat} {v : Word} {s : State} (hs : Keeps s0 s) : Keeps s0 (ddrMapWriteF c m v s) := by
  unfold ddrMapWriteF
  exact State.ddrAtMod_keeps hs

theorem execDdrMapWrite_keeps {c : Fin 12} {m : Fin 6} {v : Word} {s : State} {t' : State} (he : execDdrMapWrite c m v s = .next t') : Keeps s t' := by
  unfold execDdrMapWrite at he
  cases he
  exact ddrMapWriteF_keeps ((Keeps.refl s))

theorem dequeue_keeps {s0 : State} {c : Nat} {r : NReq} {s : State} (hs : Keeps s0 s) : Keeps s0 (dequeue c r s) := by
  unfold dequeue
  exact State.ddrAtMod_keeps hs

theorem readLines_keeps {s0 : State} {c : Nat} {bad : Nat} {ls : List Nat} {m : DimmRead} {s : State} (hs : Keeps s0 s) {t : List (BitVec 512 × Nat) × State} (he : readLines c bad ls m s = .ok t) : Keeps s0 t.2 := by
  induction ls generalizing m s t with
  | nil => cases he; exact hs
  | cons l ls ih =>
    unfold readLines at he
    split at he
    · cases he
    · rename_i h1
      split at he
      · cases he
      · rename_i h2
        cases he
        have h3 := ih (lineRead_keeps hs h1) h2
        exact h3

theorem dramReadF_keeps {s0 : State} {c : Nat} {m : DimmRead} {s : State} (hs : Keeps s0 s) : Keeps s0 (dramReadF c m s) := by
  unfold dramReadF
  split
  · exact hs
  · extract_lets -merge -underBinder +onlyGivenNames u0 u1
    split
    · exact fatal_keeps hs
    · rename_i he
      have h60 := readLines_keeps hs he
      extract_lets -merge -underBinder +onlyGivenNames u61 u62 u63
      have h121 : Keeps s0 u61 := bufWord_keeps (dequeue_keeps h60)
      exact sendRsp_keeps h121

theorem execDramRead_keeps {c : Fin 12} {m : DimmRead} {s : State} {t' : State} (he : execDramRead c m s = .next t') : Keeps s t' := by
  unfold execDramRead at he
  cases he
  exact dramReadF_keeps ((Keeps.refl s))

theorem writeLines_keeps {s0 : State} {c : Nat} {r : NReq} {ca : Nat} {old : Nat → BitVec 512} {spoil : Bool} {ls : List Nat} {s : State} (hs : Keeps s0 s) {t : State} (he : writeLines c r ca old spoil ls s = .ok t) : Keeps s0 t := by
  induction ls generalizing spoil s t with
  | nil => cases he; exact hs
  | cons l ls ih =>
    unfold writeLines at he
    split at he
    · cases he
    · rename_i h1
      exact ih (lineWrite_keeps hs h1) he

theorem ddrAnswer_keeps {s0 : State} {c : Nat} {r : NReq} {st : BitVec 4} {s : State} (hs : Keeps s0 s) : Keeps s0 (ddrAnswer c r st s) := by
  unfold ddrAnswer
  exact sendRsp_keeps (dequeue_keeps hs)

theorem dramWriteF_keeps {s0 : State} {c : Nat} {m : DimmRead} {s : State} (hs : Keeps s0 s) : Keeps s0 (dramWriteF c m s) := by
  unfold dramWriteF
  split
  · exact hs
  · extract_lets -merge -underBinder +onlyGivenNames u0 u1 u2 u3 u4
    refine Keeps.ite hs (Keeps.ite (raise_keeps (ddrAnswer_keeps hs)) ?_)
    split
    · exact fatal_keeps hs
    · rename_i he
      have h60 := readLines_keeps hs he
      refine Keeps.ite (raise_keeps (ddrAnswer_keeps h60)) (Keeps.ite (ddrAnswer_keeps h60) ?_)
      extract_lets -merge -underBinder +onlyGivenNames u61
      split
      · exact fatal_keeps h60
      · rename_i he
        have h121 := writeLines_keeps h60 he
        extract_lets -merge -underBinder +onlyGivenNames u122
        have h182 : Keeps s0 u122 := bufWord_keeps h121
        exact ddrAnswer_keeps h182

theorem execDramWrite_keeps {c : Fin 12} {m : DimmRead} {s : State} {t' : State} (he : execDramWrite c m s = .next t') : Keeps s t' := by
  unfold execDramWrite at he
  cases he
  exact dramWriteF_keeps ((Keeps.refl s))

theorem dramAtomicF_keeps {s0 : State} {c : Nat} {m : DimmRead} {s : State} (hs : Keeps s0 s) : Keeps s0 (dramAtomicF c m s) := by
  unfold dramAtomicF
  split
  · exact hs
  · extract_lets -merge -underBinder +onlyGivenNames u0 u1 u2 u3
    refine Keeps.ite hs (Keeps.ite (ddrAnswer_keeps hs) (Keeps.ite (raise_keeps (ddrAnswer_keeps hs)) ?_))
    split
    · exact fatal_keeps hs
    · rename_i he
      have h60 := lineRead_keeps hs he
      refine Keeps.ite (raise_keeps (ddrAnswer_keeps h60)) (Keeps.ite (ddrAnswer_keeps h60) ?_)
      extract_lets -merge -underBinder +onlyGivenNames u61 u62 u63 u64
      split
      · exact ddrAnswer_keeps h60
      · refine Keeps.ite ?_ ?_
        · split
          · exact fatal_keeps h60
          · rename_i he
            have h121 := lineWrite_keeps h60 he
            exact ddrAnswer_keeps (bufWord_keeps h121)
        · split
          · exact fatal_keeps h60
          · rename_i he
            have h122 := lineWrite_keeps h60 he
            exact sendRsp_keeps (dequeue_keeps (bufWord_keeps h122))

theorem execDramAtomic_keeps {c : Fin 12} {m : DimmRead} {s : State} {t' : State} (he : execDramAtomic c m s = .next t') : Keeps s t' := by
  unfold execDramAtomic at he
  cases he
  exact dramAtomicF_keeps ((Keeps.refl s))

theorem ddrAlertF_keeps {s0 : State} {c : Nat} {progress : Bool} {s : State} (hs : Keeps s0 s) : Keeps s0 (ddrAlertF c progress s) := by
  unfold ddrAlertF
  extract_lets -merge -underBinder +onlyGivenNames u0 u1
  exact Keeps.ite hs (Keeps.ite (channelDown_keeps (State.ddrAtMod_keeps hs)) (State.ddrAtMod_keeps hs))

theorem execDdrAlert_keeps {c : Fin 12} {progress : Bool} {s : State} {t' : State} (he : execDdrAlert c progress s = .next t') : Keeps s t' := by
  unfold execDdrAlert at he
  cases he
  exact ddrAlertF_keeps ((Keeps.refl s))

theorem ddrUpkeepTimerF_keeps {s0 : State} {c : Nat} {s : State} (hs : Keeps s0 s) : Keeps s0 (ddrUpkeepTimerF c s) := by
  unfold ddrUpkeepTimerF
  extract_lets -merge -underBinder +onlyGivenNames u0
  exact Keeps.ite (State.ddrAtMod_keeps hs) hs

theorem execDdrUpkeepTimer_keeps {c : Fin 12} {s : State} {t' : State} (he : execDdrUpkeepTimer c s = .next t') : Keeps s t' := by
  unfold execDdrUpkeepTimer at he
  cases he
  exact ddrUpkeepTimerF_keeps ((Keeps.refl s))

theorem ddrRefreshF_keeps {s0 : State} {c : Nat} {bank : Nat} {s : State} (hs : Keeps s0 s) : Keeps s0 (ddrRefreshF c bank s) := by
  unfold ddrRefreshF
  exact Keeps.ite (State.ddrAtMod_keeps hs) hs

theorem execDdrRefresh_keeps {c : Fin 12} {bank : Fin 4} {s : State} {t' : State} (he : execDdrRefresh c bank s = .next t') : Keeps s t' := by
  unfold execDdrRefresh at he
  cases he
  exact ddrRefreshF_keeps ((Keeps.refl s))

theorem ddrWbDrainF_keeps {s0 : State} {c : Nat} {m : DimmRead} {s : State} (hs : Keeps s0 s) : Keeps s0 (ddrWbDrainF c m s) := by
  unfold ddrWbDrainF
  extract_lets -merge -underBinder +onlyGivenNames u0
  exact Keeps.ite hs (Keeps.ite (drainTo_keeps hs) (Keeps.ite hs (drainTo_keeps hs)))

theorem execDdrWbDrain_keeps {c : Fin 12} {m : DimmRead} {s : State} {t' : State} (he : execDdrWbDrain c m s = .next t') : Keeps s t' := by
  unfold execDdrWbDrain at he
  cases he
  exact ddrWbDrainF_keeps ((Keeps.refl s))

theorem ddrIdleCloseF_keeps {s0 : State} {c : Nat} {bank : Nat} {s : State} (hs : Keeps s0 s) : Keeps s0 (ddrIdleCloseF c bank s) := by
  unfold ddrIdleCloseF
  exact State.ddrAtMod_keeps hs

theorem execDdrIdleClose_keeps {c : Fin 12} {bank : Fin 128} {s : State} {t' : State} (he : execDdrIdleClose c bank s = .next t') : Keeps s t' := by
  unfold execDdrIdleClose at he
  cases he
  exact ddrIdleCloseF_keeps ((Keeps.refl s))

theorem autoRemap_keeps {s0 : State} {c : Nat} {la : Nat} {m : DimmRead} {s : State} (hs : Keeps s0 s) : Keeps s0 (autoRemap c la m s) := by
  unfold autoRemap
  split
  · rename_i he
    have h0 := remapLine_keeps hs he
    exact h0
  · exact Keeps.ite hs (raise_keeps (State.ddrAtMod_keeps hs))

theorem patrolRewrite_keeps {s0 : State} {c : Nat} {line : Nat} {d : Decoded} {v : BitVec 512} {code : Nat} {s : State} (hs : Keeps s0 s) : Keeps s0 (patrolRewrite c line d v code s) := by
  unfold patrolRewrite
  extract_lets -merge -underBinder +onlyGivenNames u0 u1 u2
  exact State.when_keeps (fun _ h4 => (dramStore_keeps h4)) hs

theorem ddrPatrolStepF_keeps {s0 : State} {c : Nat} {m : DimmRead} {s : State} (hs : Keeps s0 s) : Keeps s0 (ddrPatrolStepF c m s) := by
  unfold ddrPatrolStepF
  extract_lets -merge -underBinder +onlyGivenNames u0 u1 u2
  have h60 : Keeps s0 u2 := by
    subst u2
    split
    · exact hs
    · extract_lets -merge -underBinder +onlyGivenNames u61 u62
      split
      · rename_i he
        have h121 := Keeps.of22 he (dimmLine_keeps hs)
        clear_value u62
        extract_lets -merge -underBinder +onlyGivenNames u63
        have h122 : Keeps s0 u63 := patrolRewrite_keeps h121
        split
        · extract_lets -merge -underBinder +onlyGivenNames u122 u123
          have h182 : Keeps s0 u123 := State.ddrAtMod_keeps h122
          exact Keeps.ite (autoRemap_keeps h182) h182
        · exact h122
  refine Keeps.ite hs (Keeps.ite ?_ (State.ddrAtMod_keeps h60))
  exact State.ddrAtMod_keeps (State.take_keeps (w := 1) h60)

theorem execDdrPatrolStep_keeps {c : Fin 12} {m : DimmRead} {s : State} {t' : State} (he : execDdrPatrolStep c m s = .next t') : Keeps s t' := by
  unfold execDdrPatrolStep at he
  cases he
  exact ddrPatrolStepF_keeps ((Keeps.refl s))

theorem ddrRetrainRead_keeps {s0 : State} {c : Nat} {insp : Bool} {s : State} (hs : Keeps s0 s) : Keeps s0 (ddrRetrainRead c insp s).2 := by
  unfold ddrRetrainRead
  exact Keeps.ite hs (State.ddrAtMod_keeps hs)

theorem execDdrRetrain_keeps {c : Fin 12} {insp : Bool} {s : State} {t' : State} (he : execDdrRetrain c insp s = .next t') : Keeps s t' := by
  unfold execDdrRetrain at he
  cases he
  exact State.readTo_keeps (ddrRetrainRead_keeps ((Keeps.refl s)))

theorem ddrEccRead_keeps {s0 : State} {c : Nat} {insp : Bool} {s : State} (hs : Keeps s0 s) : Keeps s0 (ddrEccRead c insp s).2 := by
  unfold ddrEccRead
  extract_lets -merge -underBinder +onlyGivenNames u0
  exact Keeps.ite hs (State.ddrAtMod_keeps hs)

theorem execDdrEcc_keeps {c : Fin 12} {insp : Bool} {s : State} {t' : State} (he : execDdrEcc c insp s = .next t') : Keeps s t' := by
  unfold execDdrEcc at he
  cases he
  exact State.readTo_keeps (ddrEccRead_keeps ((Keeps.refl s)))

theorem ddrErrlogRead_keeps {s0 : State} {c : Nat} {insp : Bool} {s : State} (hs : Keeps s0 s) : Keeps s0 (ddrErrlogRead c insp s).2 := by
  unfold ddrErrlogRead
  extract_lets -merge -underBinder +onlyGivenNames u0
  exact Keeps.ite hs (State.ddrAtMod_keeps hs)

theorem execDdrErrlogRead_keeps {c : Fin 12} {insp : Bool} {s : State} {t' : State} (he : execDdrErrlogRead c insp s = .next t') : Keeps s t' := by
  unfold execDdrErrlogRead at he
  cases he
  exact State.readTo_keeps (ddrErrlogRead_keeps ((Keeps.refl s)))

theorem ddrRemapF_keeps {s0 : State} {id : CmdId} {m : DimmRead} {s : State} (hs : Keeps s0 s) : Keeps s0 (ddrRemapF id m s) := by
  unfold ddrRemapF
  refine startCmd_keeps (fun _ _ h0 => ?_) hs
  extract_lets -merge -underBinder +onlyGivenNames u1 u2
  refine require_keeps (fun _ h61 => require_keeps (fun _ h62 => require_keeps (fun _ h63 => ?_) h62) h61) h0
  split
  · exact finish_keeps h63
  · split
    · exact finish_keeps h63
    · rename_i he
      have h64 := remapLine_keeps h63 he
      exact finish_keeps h64

theorem execDdrRemap_keeps {c : CmdId} {m : DimmRead} {s : State} {t' : State} (he : execDdrRemap c m s = .next t') : Keeps s t' := by
  unfold execDdrRemap at he
  cases he
  exact ddrRemapF_keeps ((Keeps.refl s))

end Sys2Proof.Machine
end

