-- ==== Sys2Proof/Laws/KeepsMee.lean ====
section
/-! SUPPORT. What each function of Machine/Mee.lean keeps. -/

namespace Sys2Proof.Machine

theorem meeRegionF_keeps {s0 : State} {id : CmdId} {s : State} (hs : Keeps s0 s) : Keeps s0 (meeRegionF id s) := by
  unfold meeRegionF
  split
  · exact hs
  · extract_lets -merge -underBinder +onlyGivenNames u0 u1 u2 u3 u4
    refine Keeps.ite hs (startCmd_keeps (fun _ _ h60 => require_keeps (fun _ h61 => require_keeps (fun _ h62 => Keeps.ite (finish_keeps (State.onMee_keeps (State.mregAtMod_keeps (freshCounters_keeps h62)))) ?_) h61) h60) hs)
    extract_lets -merge -underBinder +onlyGivenNames u63 u64 u65
    refine require_keeps (fun _ h123 => ?_) h62
    split
    · exact finish_keeps h123
    · refine require_keeps (fun _ h124 => ?_) h123
      extract_lets -merge -underBinder +onlyGivenNames u125
      have h185 : Keeps s0 u125 := State.when_keeps (fun _ h186 => genSlot_keeps h186) h124
      split
      · rename_i he
        have h187 := Keeps.of22 he (allotBinding_keeps h185)
        extract_lets -merge -underBinder +onlyGivenNames u188
        have h248 : Keeps s0 u188 := State.mregAtMod_keeps h187
        exact finish_keeps (freshCounters_keeps h248)

theorem execMeeRegion_keeps {c : CmdId} {s : State} {t' : State} (he : execMeeRegion c s = .next t') : Keeps s t' := by
  unfold execMeeRegion at he
  cases he
  exact meeRegionF_keeps ((Keeps.refl s))

theorem reencStart_keeps {s0 : State} {c : Cmd} {regions : List (Fin 64)} {old : Nat} {retire : Bool} {s : State} (hs : Keeps s0 s) : Keeps s0 (reencStart c regions old retire s) := by
  unfold reencStart
  split
  · exact finish_keeps hs
  · refine require_keeps (fun _ h0 => require_keeps (fun _ h1 => ?_) h0) hs
    extract_lets -merge -underBinder +onlyGivenNames u2
    exact State.onMee_keeps (State.when_keeps (fun _ h62 => genSlot_keeps h62) h1)

theorem meeRekeyF_keeps {s0 : State} {id : CmdId} {s : State} (hs : Keeps s0 s) : Keeps s0 (meeRekeyF id s) := by
  unfold meeRekeyF
  refine startCmd_keeps (fun _ _ h0 => ?_) hs
  extract_lets -merge -underBinder +onlyGivenNames u1
  exact require_keeps (fun _ h61 => reencStart_keeps h61) h0

theorem execMeeRekey_keeps {c : CmdId} {s : State} {t' : State} (he : execMeeRekey c s = .next t') : Keeps s t' := by
  unfold execMeeRekey at he
  cases he
  exact meeRekeyF_keeps ((Keeps.refl s))

theorem keySlotRetireF_keeps {s0 : State} {id : CmdId} {s : State} (hs : Keeps s0 s) : Keeps s0 (keySlotRetireF id s) := by
  unfold keySlotRetireF
  refine startCmd_keeps (fun _ _ h0 => ?_) hs
  extract_lets -merge -underBinder +onlyGivenNames u1 u2
  exact require_keeps (fun _ h61 => Keeps.ite (require_keeps (fun _ h62 => require_keeps (fun _ h63 => finish_keeps (clearSlot_keeps h63)) h62) h61) (reencStart_keeps h61)) h0

theorem execKeySlotRetire_keeps {c : CmdId} {s : State} {t' : State} (he : execKeySlotRetire c s = .next t') : Keeps s t' := by
  unfold execKeySlotRetire at he
  cases he
  exact keySlotRetireF_keeps ((Keeps.refl s))

theorem meeFlushCompleteF_keeps {s0 : State} {s : State} (hs : Keeps s0 s) : Keeps s0 (meeFlushCompleteF s) := by
  unfold meeFlushCompleteF
  split
  · exact hs
  · refine Keeps.ite hs ?_
    extract_lets -merge -underBinder +onlyGivenNames u5 u6
    have h8 : Keeps s0 u5 := State.each_keeps (fun _ _ h9 => (drainTo_keeps h9)) (cacheEmpty_keeps (fun _ _ _ h10 => (cacheBack_keeps h10)) hs)
    have h11 : Keeps s0 u6 := by
      unfold u6
      split
      · exact cmdMod_keeps h8
      · exact h8
    exact reencClimb_keeps h11

theorem execMeeFlushComplete_keeps {s : State} {t' : State} (he : execMeeFlushComplete s = .next t') : Keeps s t' := by
  unfold execMeeFlushComplete at he
  cases he
  exact meeFlushCompleteF_keeps ((Keeps.refl s))

theorem reencLine_keeps {s0 : State} {c : Nat} {r : Nat} {la : Nat} {m : DimmRead} {s : State} (hs : Keeps s0 s) {t : State} (he : reencLine c r la m s = .ok t) : Keeps s0 t := by
  unfold reencLine at he
  split at he
  · exact metaFaults_keeps hs he
  · split at he
    · cases he
    · rename_i h1
      cases he
      exact setLine_keeps (ctlRewrite_keeps (meeRead_keeps hs h1))

theorem meeReencGroupF_keeps {s0 : State} {c : Nat} {m : DimmRead} {s : State} (hs : Keeps s0 s) : Keeps s0 (meeReencGroupF c m s) := by
  unfold meeReencGroupF
  split
  · exact hs
  · extract_lets -merge +onlyGivenNames u0 u1
    refine Keeps.ite hs ?_
    extract_lets -merge +onlyGivenNames u2 uf u3
    split
    · exact fatal_keeps hs
    · rename_i hf
      refine State.onMee_keeps (Keeps.foldOk (s0 := s0) (fun r a hr t ht => ?_) _ _ (fun t ht => by cases ht; exact hs) _ hf)
      subst u3
      dsimp only at ht
      split at ht
      · cases ht
      · exact reencLine_keeps (hr _ rfl) ht

theorem execMeeReencGroup_keeps {c : Fin 12} {m : DimmRead} {s : State} {t' : State} (he : execMeeReencGroup c m s = .next t') : Keeps s t' := by
  unfold execMeeReencGroup at he
  cases he
  exact meeReencGroupF_keeps ((Keeps.refl s))

theorem reencEnd_keeps {s0 : State} {e : Reenc} {s : State} (hs : Keeps s0 s) : Keeps s0 (reencEnd e s) := by
  unfold reencEnd
  extract_lets -merge -underBinder +onlyGivenNames u0 u1 u2
  have h60 : Keeps s0 u0 := by
    subst u0
    split
    · exact Keeps.ite (clearSlot_keeps hs) hs
    · exact hs
  have h61 : Keeps s0 u1 := raise_keeps (State.onMee_keeps h60)
  have h62 : Keeps s0 u2 := by
    subst u2
    split
    · split
      · exact finish_keeps h61
      · exact h61
    · exact h61
  split
  · exact h62
  · exact autoRekey_keeps (State.onMee_keeps h62)

theorem meeReencCompleteF_keeps {s0 : State} {s : State} (hs : Keeps s0 s) : Keeps s0 (meeReencCompleteF s) := by
  unfold meeReencCompleteF
  split
  · exact hs
  · split
    · exact hs
    · refine Keeps.ite ?_ hs
      extract_lets -merge -underBinder +onlyGivenNames u0
      have h60 : Keeps s0 u0 := State.mregAtMod_keeps hs
      exact Keeps.ite (reencEnd_keeps h60) (reencClimb_keeps (State.onMee_keeps h60))

theorem execMeeReencComplete_keeps {s : State} {t' : State} (he : execMeeReencComplete s = .next t') : Keeps s t' := by
  unfold execMeeReencComplete at he
  cases he
  exact meeReencCompleteF_keeps ((Keeps.refl s))

theorem meeSlotLoadGoF_keeps {s0 : State} {k : Nat} {s : State} (hs : Keeps s0 s) : Keeps s0 (meeSlotLoadGoF k s) := by
  unfold meeSlotLoadGoF
  extract_lets -merge -underBinder +onlyGivenNames u0 u1
  have hu1 : ∀ a0 a1, Keeps s0 a1 → Keeps s0 (u1 a0 a1) := fun _ _ h60 => State.onMee_keeps h60
  clear_value u1
  refine Keeps.ite (hu1 _ _ hs) ?_
  split
  · exact hu1 _ _ hs
  · extract_lets -merge -underBinder +onlyGivenNames u61
    split
    · exact hu1 _ _ hs
    · exact hu1 _ _ (State.slotAtMod_keeps hs)

theorem execMeeSlotLoadGo_keeps {slot : BitVec 6} {s : State} {t' : State} (he : execMeeSlotLoadGo slot s = .next t') : Keeps s t' := by
  unfold execMeeSlotLoadGo at he
  cases he
  exact meeSlotLoadGoF_keeps ((Keeps.refl s))

theorem meeCountRead_keeps {s0 : State} {insp : Bool} {s : State} (hs : Keeps s0 s) : Keeps s0 (meeCountRead insp s).2 := by
  unfold meeCountRead
  exact Keeps.ite hs (State.onMee_keeps hs)

theorem execMeeCount_keeps {insp : Bool} {s : State} {t' : State} (he : execMeeCount insp s = .next t') : Keeps s t' := by
  unfold execMeeCount at he
  cases he
  exact State.readTo_keeps (meeCountRead_keeps ((Keeps.refl s)))

end Sys2Proof.Machine
end

