-- ==== Sys2Proof/Laws/KeepsWds.lean ====
section
/-! SUPPORT. What each function of Machine/Wds.lean keeps. -/

namespace Sys2Proof.Machine

theorem wdsEnq_keeps {s0 : State} {r : Option NReq} {item : BitVec 256} {len : Byte} {poison : Bool} {s : State} (hs : Keeps s0 s) : Keeps s0 (wdsEnq r item len poison s) := by
  unfold wdsEnq
  refine Keeps.ite (wdsAnswer_keeps hs) (Keeps.ite (wdsAnswer_keeps hs) (Keeps.ite (wdsAnswer_keeps hs) ?_))
  extract_lets -merge -underBinder +onlyGivenNames u0 u1
  exact Keeps.ite (wdsServe_keeps (wdsAnswer_keeps (enqueueItem_keeps hs))) (wdsAnswer_keeps (State.queueAtMod_keeps hs))

theorem wdsEnqueueF_keeps {s0 : State} {item : BitVec 256} {len : Byte} {poison : Bool} {s : State} (hs : Keeps s0 s) : Keeps s0 (wdsEnqueueF item len poison s) := by
  unfold wdsEnqueueF
  exact wdsEnq_keeps hs

theorem execWdsEnqueue_keeps {item : BitVec 256} {len : Byte} {poison : Bool} {s : State} {t' : State} (he : execWdsEnqueue item len poison s = .next t') : Keeps s t' := by
  unfold execWdsEnqueue at he
  cases he
  exact wdsEnqueueF_keeps ((Keeps.refl s))

theorem spoilPick_keeps {s0 : State} {c : Nat} {s : State} (hs : Keeps s0 s) : Keeps s0 (spoilPick c s) := by
  unfold spoilPick
  split
  · exact hs
  · exact State.queueAtMod_keeps hs
  · exact State.onWds_keeps hs

theorem wdsTakeOf_keeps {s0 : State} {r : Option NReq} {c : Nat} {len : Byte} {insp : Bool} {bad : Bool} {s : State} (hs : Keeps s0 s) : Keeps s0 (wdsTakeOf r c len insp bad s) := by
  unfold wdsTakeOf
  extract_lets -merge -underBinder +onlyGivenNames u0 u1 u2
  have h60 : Keeps s0 u1 := State.ctxAtMod_keeps hs
  have h61 : Keeps s0 u2 := wdsServe_keeps (Keeps.ite (spoilPick_keeps h60) h60)
  exact Keeps.ite (wdsAnswer_keeps hs) (Keeps.ite (wdsAnswer_keeps hs) (Keeps.ite (wdsAnswer_keeps hs) (Keeps.ite (wdsAnswer_keeps hs) (Keeps.ite (wdsAnswer_keeps (State.ctxAtMod_keeps h61)) h61))))

theorem wdsTakeF_keeps {s0 : State} {ctx : Fin 256} {len : Byte} {insp : Bool} {bad : Bool} {s : State} (hs : Keeps s0 s) : Keeps s0 (wdsTakeF ctx len insp bad s) := by
  unfold wdsTakeF
  exact wdsTakeOf_keeps hs

theorem execWdsTake_keeps {ctx : Fin 256} {len : Byte} {insp : Bool} {bad : Bool} {s : State} {t' : State} (he : execWdsTake ctx len insp bad s = .next t') : Keeps s t' := by
  unfold execWdsTake at he
  cases he
  exact wdsTakeF_keeps ((Keeps.refl s))

theorem wdsTakeTimeoutF_keeps {s0 : State} {ctx : Fin 256} {s : State} (hs : Keeps s0 s) : Keeps s0 (wdsTakeTimeoutF ctx s) := by
  unfold wdsTakeTimeoutF
  split
  · exact hs
  · exact wdsAnswer_keeps (State.ctxAtMod_keeps hs)

theorem execWdsTakeTimeout_keeps {ctx : Fin 256} {s : State} {t' : State} (he : execWdsTakeTimeout ctx s = .next t') : Keeps s t' := by
  unfold execWdsTakeTimeout at he
  cases he
  exact wdsTakeTimeoutF_keeps ((Keeps.refl s))

theorem wdsCtxReleaseF_keeps {s0 : State} {ctx : Fin 256} {ticket : BitVec 16} {s : State} (hs : Keeps s0 s) : Keeps s0 (wdsCtxReleaseF ctx ticket s) := by
  unfold wdsCtxReleaseF
  exact Keeps.ite (wdsRelease_keeps hs) hs

theorem execWdsCtxRelease_keeps {ctx : Fin 256} {ticket : BitVec 16} {s : State} {t' : State} (he : execWdsCtxRelease ctx ticket s = .next t') : Keeps s t' := by
  unfold execWdsCtxRelease at he
  cases he
  exact wdsCtxReleaseF_keeps ((Keeps.refl s))

theorem wdsServiceTimeoutF_keeps {s0 : State} {ctx : Fin 256} {ticket : BitVec 16} {s : State} (hs : Keeps s0 s) : Keeps s0 (wdsServiceTimeoutF ctx ticket s) := by
  unfold wdsServiceTimeoutF
  extract_lets -merge -underBinder +onlyGivenNames u0
  exact Keeps.ite (ctxDead_keeps hs) hs

theorem execWdsServiceTimeout_keeps {ctx : Fin 256} {ticket : BitVec 16} {s : State} {t' : State} (he : execWdsServiceTimeout ctx ticket s = .next t') : Keeps s t' := by
  unfold execWdsServiceTimeout at he
  cases he
  exact wdsServiceTimeoutF_keeps ((Keeps.refl s))

theorem wdsCtxReviveF_keeps {s0 : State} {ctx : Fin 256} {s : State} (hs : Keeps s0 s) : Keeps s0 (wdsCtxReviveF ctx s) := by
  unfold wdsCtxReviveF
  exact Keeps.ite (wdsServe_keeps (State.ctxAtMod_keeps hs)) hs

theorem execWdsCtxRevive_keeps {ctx : Fin 256} {s : State} {t' : State} (he : execWdsCtxRevive ctx s = .next t') : Keeps s t' := by
  unfold execWdsCtxRevive at he
  cases he
  exact wdsCtxReviveF_keeps ((Keeps.refl s))

theorem wdsSpillTimerF_keeps {s0 : State} {q : BitVec 10} {s : State} (hs : Keeps s0 s) : Keeps s0 (wdsSpillTimerF q s) := by
  unfold wdsSpillTimerF
  exact Keeps.ite (spillWrite_keeps hs) hs

theorem execWdsSpillTimer_keeps {q : BitVec 10} {s : State} {t' : State} (he : execWdsSpillTimer q s = .next t') : Keeps s t' := by
  unfold execWdsSpillTimer at he
  cases he
  exact wdsSpillTimerF_keeps ((Keeps.refl s))

theorem wdsSpillRetryF_keeps {s0 : State} {q : BitVec 10} {s : State} (hs : Keeps s0 s) : Keeps s0 (wdsSpillRetryF q s) := by
  unfold wdsSpillRetryF
  extract_lets -merge -underBinder +onlyGivenNames u0
  split
  · exact hs
  · exact Keeps.ite (wdsIssue_keeps (State.queueAtMod_keeps hs)) hs

theorem execWdsSpillRetry_keeps {q : BitVec 10} {s : State} {t' : State} (he : execWdsSpillRetry q s = .next t') : Keeps s t' := by
  unfold execWdsSpillRetry at he
  cases he
  exact wdsSpillRetryF_keeps ((Keeps.refl s))

theorem wdsRefillF_keeps {s0 : State} {q : BitVec 10} {s : State} (hs : Keeps s0 s) : Keeps s0 (wdsRefillF q s) := by
  unfold wdsRefillF
  extract_lets -merge -underBinder +onlyGivenNames u0
  split
  · extract_lets -merge -underBinder +onlyGivenNames u60 u61 u62
    exact wdsServe_keeps (State.queueAtMod_keeps hs)
  · exact hs

theorem execWdsRefill_keeps {q : BitVec 10} {s : State} {t' : State} (he : execWdsRefill q s = .next t') : Keeps s t' := by
  unfold execWdsRefill at he
  cases he
  exact wdsRefillF_keeps ((Keeps.refl s))

theorem wdsCountRead_keeps {s0 : State} {insp : Bool} {s : State} (hs : Keeps s0 s) : Keeps s0 (wdsCountRead insp s).2 := by
  unfold wdsCountRead
  exact Keeps.ite2 hs (State.when_keeps (fun _ h0 => State.onWds_keeps h0) hs)

theorem wdsCountF_keeps {s0 : State} {insp : Bool} {s : State} (hs : Keeps s0 s) : Keeps s0 (wdsCountF insp s) := by
  unfold wdsCountF
  exact State.readTo_keeps (wdsCountRead_keeps hs)

theorem execWdsCount_keeps {insp : Bool} {s : State} {t' : State} (he : execWdsCount insp s = .next t') : Keeps s t' := by
  unfold execWdsCount at he
  cases he
  exact wdsCountF_keeps ((Keeps.refl s))

theorem wdsQueueCfgF_keeps {s0 : State} {id : CmdId} {s : State} (hs : Keeps s0 s) : Keeps s0 (wdsQueueCfgF id s) := by
  unfold wdsQueueCfgF
  refine startCmd_keeps (fun _ _ h0 => ?_) hs
  extract_lets -merge -underBinder +onlyGivenNames u1
  refine require_keeps (fun _ h61 => ?_) h0
  extract_lets -merge -underBinder +onlyGivenNames u62
  have h122 : Keeps s0 u62 := State.queueAtMod_keeps h61
  exact finish_keeps (wdsServe_keeps h122)

theorem execWdsQueueCfg_keeps {c : CmdId} {s : State} {t' : State} (he : execWdsQueueCfg c s = .next t') : Keeps s t' := by
  unfold execWdsQueueCfg at he
  cases he
  exact wdsQueueCfgF_keeps ((Keeps.refl s))

theorem wdsStatusF_keeps {s0 : State} {id : CmdId} {s : State} (hs : Keeps s0 s) : Keeps s0 (wdsStatusF id s) := by
  unfold wdsStatusF
  refine startCmd_keeps (fun _ _ h0 => ?_) hs
  extract_lets -merge -underBinder +onlyGivenNames u1
  exact require_keeps (fun _ h61 => Keeps.ite (finish_keeps (State.nextFree_keeps h61)) (finish_keeps (State.queueAtMod_keeps h61))) h0

theorem execWdsStatus_keeps {c : CmdId} {s : State} {t' : State} (he : execWdsStatus c s = .next t') : Keeps s t' := by
  unfold execWdsStatus at he
  cases he
  exact wdsStatusF_keeps ((Keeps.refl s))

end Sys2Proof.Machine
end

