-- ==== Sys2Proof/Laws/KeepsSec.lean ====
section
/-! SUPPORT. What each function of Machine/Sec.lean keeps. -/

namespace Sys2Proof.Machine

theorem flashSet_keeps {s0 : State} {port : Nat} {i : Nat} {v : Word} {s : State} (hs : Keeps s0 s) : Keeps s0 (flashSet port i v s) := by
  unfold flashSet
  exact State.onFlash_keeps hs

theorem flashErase_keeps {s0 : State} {port : Nat} {sec : Nat} {s : State} (hs : Keeps s0 s) : Keeps s0 (flashErase port sec s) := by
  unfold flashErase
  exact State.onFlash_keeps hs

theorem flashPut_keeps {s0 : State} {port : Nat} {i : Nat} {ws : List Word} {s : State} (hs : Keeps s0 s) : Keeps s0 (flashPut port i ws s) := by
  unfold flashPut
  exact State.each_keeps (fun _ _ h0 => flashSet_keeps h0) hs

theorem flashFail_keeps {s0 : State} {port : Nat} {sec : Nat} {s : State} (hs : Keeps s0 s) : Keeps s0 (flashFail port sec s) := by
  unfold flashFail
  extract_lets -merge -underBinder +onlyGivenNames u0
  have h60 : Keeps s0 u0 := by
    subst u0
    refine State.each_keeps (fun _ _ h62 => ?_) hs
    extract_lets -merge -underBinder +onlyGivenNames u63
    have h123 : Keeps s0 u63.2 := State.take_keeps h62
    exact flashSet_keeps h123
  exact raise_keeps (State.onFlash_keeps h60)

theorem setReadF_keeps {s0 : State} {id : CmdId} {s : State} (hs : Keeps s0 s) : Keeps s0 (setReadF id s) := by
  unfold setReadF
  refine startCmd_keeps (fun _ _ h0 => ?_) hs
  extract_lets -merge -underBinder +onlyGivenNames u1 u2
  exact require_keeps (fun _ h61 => finishUnits_keeps h61) h0

theorem execSetRead_keeps {c : CmdId} {s : State} {t' : State} (he : execSetRead c s = .next t') : Keeps s t' := by
  unfold execSetRead at he
  cases he
  exact setReadF_keeps ((Keeps.refl s))

theorem setWriteF_keeps {s0 : State} {id : CmdId} {flashOk : Bool} {s : State} (hs : Keeps s0 s) : Keeps s0 (setWriteF id flashOk s) := by
  unfold setWriteF
  refine startCmd_keeps (fun _ _ h0 => require_keeps (fun _ h1 => require_keeps (fun _ h2 => ?_) h1) h0) hs
  extract_lets -merge -underBinder +onlyGivenNames u3 u4 u5
  exact Keeps.ite (finish_keeps (flashPut_keeps (flashErase_keeps h2))) (finish_keeps (flashFail_keeps h2))

theorem execSetWrite_keeps {c : CmdId} {flashOk : Bool} {s : State} {t' : State} (he : execSetWrite c flashOk s = .next t') : Keeps s t' := by
  unfold execSetWrite at he
  cases he
  exact setWriteF_keeps ((Keeps.refl s))

theorem flashReadF_keeps {s0 : State} {id : CmdId} {s : State} (hs : Keeps s0 s) : Keeps s0 (flashReadF id s) := by
  unfold flashReadF
  refine startCmd_keeps (fun _ _ h0 => ?_) hs
  extract_lets -merge -underBinder +onlyGivenNames u1 u2 u3
  exact require_keeps (fun _ h61 => require_keeps (fun _ h62 => require_keeps (fun _ h63 => finishUnits_keeps h63) h62) h61) h0

theorem execFlashRead_keeps {c : CmdId} {s : State} {t' : State} (he : execFlashRead c s = .next t') : Keeps s t' := by
  unfold execFlashRead at he
  cases he
  exact flashReadF_keeps ((Keeps.refl s))

theorem flashSector_keeps {s0 : State} {port : Nat} {o : Nat} {bs : List Byte} {sec : Nat} {s : State} (hs : Keeps s0 s) : Keeps s0 (flashSector port o bs sec s) := by
  unfold flashSector
  refine State.each_keeps (fun _ _ h0 => ?_) hs
  extract_lets -merge -underBinder +onlyGivenNames u1 u2 u3
  have h61 : Keeps s0 u2.2 := State.take_keeps h0
  exact Keeps.ite (flashSet_keeps h0) (flashSet_keeps h61)

theorem flashProgramF_keeps {s0 : State} {id : CmdId} {flashOk : Bool} {s : State} (hs : Keeps s0 s) : Keeps s0 (flashProgramF id flashOk s) := by
  unfold flashProgramF
  refine startCmd_keeps (fun _ _ h0 => ?_) hs
  extract_lets -merge -underBinder +onlyGivenNames u1 u2 u3 u4
  exact require_keeps (fun _ h61 => require_keeps (fun _ h62 => require_keeps (fun _ h63 => require_keeps (fun _ h64 => Keeps.ite (finish_keeps (State.each_keeps (fun _ _ h65 => flashSector_keeps h65) h64)) (finish_keeps (flashFail_keeps h64))) h63) h62) h61) h0

theorem execFlashProgram_keeps {c : CmdId} {flashOk : Bool} {s : State} {t' : State} (he : execFlashProgram c flashOk s = .next t') : Keeps s t' := by
  unfold execFlashProgram at he
  cases he
  exact flashProgramF_keeps ((Keeps.refl s))

theorem logReadF_keeps {s0 : State} {id : CmdId} {s : State} (hs : Keeps s0 s) : Keeps s0 (logReadF id s) := by
  unfold logReadF
  refine startCmd_keeps (fun _ _ h0 => ?_) hs
  extract_lets -merge -underBinder +onlyGivenNames u1
  refine require_keeps (fun _ h61 => ?_) h0
  extract_lets -merge -underBinder +onlyGivenNames u62
  exact finishUnits_keeps h61

theorem execLogRead_keeps {c : CmdId} {s : State} {t' : State} (he : execLogRead c s = .next t') : Keeps s t' := by
  unfold execLogRead at he
  cases he
  exact logReadF_keeps ((Keeps.refl s))

theorem kilnLostEntry_keeps {s0 : State} {s : State} (hs : Keeps s0 s) : Keeps s0 (kilnLostEntry s) := by
  unfold kilnLostEntry
  refine Keeps.ite hs ?_
  extract_lets -merge -underBinder +onlyGivenNames u0
  exact State.onMgr_keeps hs

theorem kilnWrite_keeps {s0 : State} {flashOk : Bool} {s : State} (hs : Keeps s0 s) : Keeps s0 (kilnWrite flashOk s) := by
  unfold kilnWrite
  split
  · refine Keeps.ite hs (Keeps.ite (flashFail_keeps hs) ?_)
    extract_lets -merge -underBinder +onlyGivenNames u0 u1 u2
    have h60 : Keeps s0 u0 := Keeps.ite (flashErase_keeps hs) hs
    have h61 : Keeps s0 u1 := flashPut_keeps h60
    have h62 : Keeps s0 u2 := Keeps.ite (flashErase_keeps h61) h61
    exact kilnLostEntry_keeps (State.onMgr_keeps h62)
  · exact kilnLostEntry_keeps hs
  · exact hs

theorem kilnWritebackF_keeps {s0 : State} {flashOk : Bool} {s : State} (hs : Keeps s0 s) : Keeps s0 (kilnWritebackF flashOk s) := by
  unfold kilnWritebackF
  exact Keeps.ite hs (kilnWrite_keeps hs)

theorem execKilnWriteback_keeps {flashOk : Bool} {s : State} {t' : State} (he : execKilnWriteback flashOk s = .next t') : Keeps s t' := by
  unfold execKilnWriteback at he
  cases he
  exact kilnWritebackF_keeps ((Keeps.refl s))

theorem kilnFlush_keeps {s0 : State} {n : Nat} {ok : Bool} {s : State} (hs : Keeps s0 s) : Keeps s0 (kilnFlush n ok s) := by
  induction n generalizing ok s with
  | zero => exact hs
  | succ n ih =>
    unfold kilnFlush
    exact Keeps.ite hs (ih (kilnWrite_keeps hs))

theorem mgrAlertLatchClearF_keeps {s0 : State} {s : State} (hs : Keeps s0 s) : Keeps s0 (mgrAlertLatchClearF s) := by
  unfold mgrAlertLatchClearF
  exact State.onMgr_keeps hs

theorem execMgrAlertLatchClear_keeps {s : State} {t' : State} (he : execMgrAlertLatchClear s = .next t') : Keeps s t' := by
  unfold execMgrAlertLatchClear at he
  cases he
  exact mgrAlertLatchClearF_keeps ((Keeps.refl s))

theorem mgrFatalClrF_keeps {s0 : State} {s : State} (hs : Keeps s0 s) : Keeps s0 (mgrFatalClrF s) := by
  unfold mgrFatalClrF
  exact State.onAo_keeps hs

theorem execMgrFatalClr_keeps {s : State} {t' : State} (he : execMgrFatalClr s = .next t') : Keeps s t' := by
  unfold execMgrFatalClr at he
  cases he
  exact mgrFatalClrF_keeps ((Keeps.refl s))

theorem fuseReadF_keeps {s0 : State} {id : CmdId} {s : State} (hs : Keeps s0 s) : Keeps s0 (fuseReadF id s) := by
  unfold fuseReadF
  refine startCmd_keeps (fun _ _ h0 => ?_) hs
  extract_lets -merge -underBinder +onlyGivenNames u1
  exact require_keeps (fun _ h61 => finish_keeps h61) h0

theorem execFuseRead_keeps {c : CmdId} {s : State} {t' : State} (he : execFuseRead c s = .next t') : Keeps s t' := by
  unfold execFuseRead at he
  cases he
  exact fuseReadF_keeps ((Keeps.refl s))

/-- The words of a number that words make are those words. -/
theorem wordsNat_word (ws : List Word) : ∀ i, wd (wordsNat ws >>> (32 * i)) = ws.getD i 0 := by
  induction ws with
  | nil => intro i; simp [wordsNat, wd]
  | cons w ws ih =>
    intro i
    cases i with
    | zero =>
      apply BitVec.eq_of_toNat_eq
      have := w.isLt
      simp only [wd, wordsNat, BitVec.toNat_ofNat, Nat.mul_zero, Nat.shiftRight_zero, List.getD_cons_zero]
      omega
    | succ i =>
      rw [List.getD_cons_succ, ← ih i]
      have hw := w.isLt
      have e : wordsNat (w :: ws) >>> (32 * (i + 1)) = wordsNat ws >>> (32 * i) := by
        rw [Nat.mul_add, Nat.mul_one, Nat.add_comm, Nat.shiftRight_add]
        congr 1
        rw [Nat.shiftRight_eq_div_pow, wordsNat]
        omega
      rw [e]

/-- Word `i` of a fuse field as programmed. -/
theorem fuseNow_word {s : State} {f i : Nat} (hi : i < ceilDiv (fuseWidth f) 32) : wd (s.fuseNow f >>> (32 * i)) = sget 0 s.fuses.bits (f * 128 + i) := by
  rw [State.fuseNow, wordsNat_word]
  simp [List.getD_eq_getElem?_getD, hi]

/-- A word written over with its own bits and others keeps every programmed bit. -/
theorem fuseWrite_keeps {s0 t : State} {k : Nat} {w : Word} (h : Keeps s0 t)
    (hw : ∀ i, (sget 0 s0.fuses.bits k).getLsbD i = true → w.getLsbD i = true) (hwf : w = 0 → ∀ i, (sget 0 (serase t.fuses.bits k) k).getLsbD i = true → True) :
    Keeps s0 (t.onFuses (fun x => { x with bits := sput 0 x.bits k w })) := by
  refine ⟨h.pending, h.fresh, fun j i hb => ?_, h.mem⟩
  show (sget 0 (sput 0 t.fuses.bits k w) j).getLsbD i = true
  by_cases hj : j = k
  · subst hj
    have h1 := hw i hb
    unfold sput
    split
    · rename_i hz; subst hz; simp at h1
    · rw [sget_sinsert_self]; exact h1
  · rw [sget_sput_ne hj]; exact h.fuses j i hb

theorem fuseProgramF_keeps {s0 : State} {id : CmdId} {stuck : Nat} {s : State} (hs : Keeps s0 s) : Keeps s0 (fuseProgramF id stuck s) := by
  unfold fuseProgramF
  refine startCmd_keeps (fun _ _ h0 => ?_) hs
  extract_lets -merge +onlyGivenNames f n v
  refine require_keeps (fun _ h5 => ?_) h0
  split
  · exact finish_keeps h5
  · refine require_keeps (fun s6 h6 => ?_) h5
    extract_lets -merge +onlyGivenNames old new t
    refine finish_keeps ?_
    have key : ∀ (l : List Nat), (∀ i ∈ l, i < n) → ∀ t, Keeps s0 t →
        Keeps s0 (t.each l (fun i t => t.onFuses (fun x => { x with bits := sput 0 x.bits (f * 128 + i) (wd (new >>> (32 * i))) }))) := by
      intro l
      induction l with
      | nil => exact fun _ _ h => h
      | cons a l ih =>
        intro hl t ht
        refine ih (fun i hi => hl i (List.mem_cons_of_mem _ hi)) _ (fuseWrite_keeps ht (fun i hb => ?_) (fun _ _ _ => trivial))
        have h1 := h6.fuses _ _ hb
        rw [← fuseNow_word (hl a List.mem_cons_self)] at h1
        simp only [wd, BitVec.getLsbD_ofNat, Nat.testBit_shiftRight, Bool.and_eq_true] at h1 ⊢
        refine ⟨h1.1, ?_⟩
        show (old ||| _).testBit _ = true
        rw [Nat.testBit_or]
        simp only [show old = s6.fuseNow f from rfl, h1.2, Bool.true_or]
    exact key _ (fun i hi => List.mem_range.mp hi) _ h6

theorem execFuseProgram_keeps {c : CmdId} {stuck : Nat} {s : State} {t' : State} (he : execFuseProgram c stuck s = .next t') : Keeps s t' := by
  unfold execFuseProgram at he
  cases he
  exact fuseProgramF_keeps ((Keeps.refl s))

theorem keyLoadBbramF_keeps {s0 : State} {id : CmdId} {s : State} (hs : Keeps s0 s) : Keeps s0 (keyLoadBbramF id s) := by
  unfold keyLoadBbramF
  refine startCmd_keeps (fun _ _ h0 => require_keeps (fun _ h1 => ?_) h0) hs
  extract_lets -merge -underBinder +onlyGivenNames u2
  split
  · exact finish_keeps h1
  · exact finish_keeps (State.onFuses_keeps h1 rfl)

theorem execKeyLoadBbram_keeps {c : CmdId} {s : State} {t' : State} (he : execKeyLoadBbram c s = .next t') : Keeps s t' := by
  unfold execKeyLoadBbram at he
  cases he
  exact keyLoadBbramF_keeps ((Keeps.refl s))

theorem authChallengeF_keeps {s0 : State} {id : CmdId} {s : State} (hs : Keeps s0 s) : Keeps s0 (authChallengeF id s) := by
  unfold authChallengeF
  refine startCmd_keeps (fun _ _ h0 => ?_) hs
  extract_lets -merge -underBinder +onlyGivenNames u1
  refine require_keeps (fun _ h61 => require_keeps (fun _ h62 => Keeps.ite (finish_keeps (State.onDbg_keeps h62)) ?_) h61) h0
  extract_lets -merge -underBinder +onlyGivenNames u63 u64
  have h123 : Keeps s0 u63.2 := State.take_keeps h62
  exact finish_keeps (State.onDbg_keeps h123)

theorem execAuthChallenge_keeps {c : CmdId} {s : State} {t' : State} (he : execAuthChallenge c s = .next t') : Keeps s t' := by
  unfold execAuthChallenge at he
  cases he
  exact authChallengeF_keeps ((Keeps.refl s))

theorem authRespondF_keeps {s0 : State} {id : CmdId} {late : Bool} {s : State} (hs : Keeps s0 s) : Keeps s0 (authRespondF id late s) := by
  unfold authRespondF
  refine startCmd_keeps (fun _ _ h0 => ?_) hs
  extract_lets -merge -underBinder +onlyGivenNames u1 u2 u3 u4 u5
  have h61 : Keeps s0 u3 := State.onDbg_keeps h0
  exact Keeps.ite (raise_keeps (finish_keeps (State.onDbg_keeps h61))) (raise_keeps (finish_keeps (State.onDbg_keeps h61)))

theorem execAuthRespond_keeps {c : CmdId} {late : Bool} {s : State} {t' : State} (he : execAuthRespond c late s = .next t') : Keeps s t' := by
  unfold execAuthRespond at he
  cases he
  exact authRespondF_keeps ((Keeps.refl s))

end Sys2Proof.Machine
end

