-- ==== Sys2Proof/Laws/KeepsDbg.lean ====
section
/-! SUPPORT. What each function of Machine/Dbg.lean keeps. -/

namespace Sys2Proof.Machine

theorem dbgNeeds_keeps {s0 : State} {need : Nat} {have_ : Nat} {f : State → State} {s : State} (hf : ∀ a0, Keeps s0 a0 → Keeps s0 (f a0)) (hs : Keeps s0 s) : Keeps s0 (dbgNeeds need have_ f s) := by
  unfold dbgNeeds
  exact Keeps.ite hs (Keeps.ite (State.onDbg_keeps hs) (hf _ hs))

theorem dbgWrite_keeps {s0 : State} {need : Nat} {f : State → State} {s : State} (hf : ∀ a0, Keeps s0 a0 → Keeps s0 (f a0)) (hs : Keeps s0 s) : Keeps s0 (dbgWrite need f s) := by
  unfold dbgWrite
  exact dbgNeeds_keeps (fun _ h0 => hf _ h0) hs

theorem wdtResume_keeps {s0 : State} {w : Nat} {s : State} (hs : Keeps s0 s) : Keeps s0 (wdtResume w s) := by
  unfold wdtResume
  exact Keeps.ite (State.wdtAtMod_keeps hs) hs

theorem wdtFreeze_keeps {s0 : State} {w : Nat} {s : State} (hs : Keeps s0 s) : Keeps s0 (wdtFreeze w s) := by
  unfold wdtFreeze
  exact State.when_keeps (fun _ h0 => State.wdtAtMod_keeps h0) hs

theorem coreFenceF_keeps {s0 : State} {hart : Fin 8} {deviceIo : Bool} {s : State} (hs : Keeps s0 s) : Keeps s0 (coreFenceF hart deviceIo s) := by
  unfold coreFenceF
  extract_lets -merge -underBinder +onlyGivenNames u0
  exact Keeps.ite (retire_keeps (issue_keeps hs)) hs

theorem execCoreFence_keeps {hart : Fin 8} {deviceIo : Bool} {s : State} {t' : State} (he : execCoreFence hart deviceIo s = .next t') : Keeps s t' := by
  unfold execCoreFence at he
  cases he
  exact coreFenceF_keeps ((Keeps.refl s))

theorem dbgWdtKickF_keeps {s0 : State} {w : Fin 9} {s : State} (hs : Keeps s0 s) : Keeps s0 (dbgWdtKickF w s) := by
  unfold dbgWdtKickF
  exact State.when_keeps (fun _ h0 => State.wdtAtMod_keeps h0) hs

theorem execDbgWdtKick_keeps {w : Fin 9} {s : State} {t' : State} (he : execDbgWdtKick w s = .next t') : Keeps s t' := by
  unfold execDbgWdtKick at he
  cases he
  exact dbgWdtKickF_keeps ((Keeps.refl s))

theorem dbgWdtEnableF_keeps {s0 : State} {w : Fin 9} {s : State} (hs : Keeps s0 s) : Keeps s0 (dbgWdtEnableF w s) := by
  unfold dbgWdtEnableF
  exact Keeps.ite (wdtFreeze_keeps (State.wdtAtMod_keeps hs)) hs

theorem execDbgWdtEnable_keeps {w : Fin 9} {s : State} {t' : State} (he : execDbgWdtEnable w s = .next t') : Keeps s t' := by
  unfold execDbgWdtEnable at he
  cases he
  exact dbgWdtEnableF_keeps ((Keeps.refl s))

theorem hartReset_keeps {s0 : State} {h : Nat} {s : State} (hs : Keeps s0 s) : Keeps s0 (hartReset h s) := by
  unfold hartReset
  exact State.wdtAtMod_keeps (State.hartAtMod_keeps hs)

theorem wdtExpiryF_keeps {s0 : State} {w : Fin 9} {s : State} (hs : Keeps s0 s) : Keeps s0 (wdtExpiryF w s) := by
  unfold wdtExpiryF
  extract_lets -merge -underBinder +onlyGivenNames u0
  exact Keeps.ite hs (Keeps.ite (State.hartAtMod_keeps (State.wdtAtMod_keeps hs)) (Keeps.ite (fatal_keeps hs) (raise_keeps (dbgVotes_keeps (hartReset_keeps hs)))))

theorem execWdtExpiry_keeps {w : Fin 9} {s : State} {t' : State} (he : execWdtExpiry w s = .next t') : Keeps s t' := by
  unfold execWdtExpiry at he
  cases he
  exact wdtExpiryF_keeps ((Keeps.refl s))

theorem hartHaltReq_keeps {s0 : State} {h : Nat} {s : State} (hs : Keeps s0 s) : Keeps s0 (hartHaltReq h s) := by
  unfold hartHaltReq
  exact State.hartAtMod_keeps hs

theorem haltreqF_keeps {s0 : State} {h : Fin 9} {s : State} (hs : Keeps s0 s) : Keeps s0 (haltreqF h s) := by
  unfold haltreqF
  exact dbgWrite_keeps (fun _ h0 => hartHaltReq_keeps h0) hs

theorem execHaltreq_keeps {h : Fin 9} {s : State} {t' : State} (he : execHaltreq h s = .next t') : Keeps s t' := by
  unfold execHaltreq at he
  cases he
  exact haltreqF_keeps ((Keeps.refl s))

theorem hartHaltedF_keeps {s0 : State} {h : Fin 9} {pc : BitVec 64} {s : State} (hs : Keeps s0 s) : Keeps s0 (hartHaltedF h pc s) := by
  unfold hartHaltedF
  extract_lets -merge -underBinder +onlyGivenNames u0 u1 u2
  have h60 : Keeps s0 u1 := State.nextFree_keeps (State.hartAtMod_keeps hs)
  have h61 : Keeps s0 u2 := dbgVotes_keeps (wdtFreeze_keeps h60)
  exact Keeps.ite hs (fireSource_keeps (trace_keeps h61))

theorem execHartHalted_keeps {h : Fin 9} {pc : BitVec 64} {s : State} {t' : State} (he : execHartHalted h pc s = .next t') : Keeps s t' := by
  unfold execHartHalted at he
  cases he
  exact hartHaltedF_keeps ((Keeps.refl s))

theorem hartRegPut_keeps {s0 : State} {h : Nat} {r : Nat} {v : BitVec 64} {s : State} (hs : Keeps s0 s) : Keeps s0 (hartRegPut h r v s) := by
  unfold hartRegPut
  exact State.hartAtMod_keeps hs

theorem hartResume_keeps {s0 : State} {h : Nat} {s : State} (hs : Keeps s0 s) : Keeps s0 (hartResume h s) := by
  unfold hartResume
  refine Keeps.ite (State.hartAtMod_keeps hs) ?_
  extract_lets -merge -underBinder +onlyGivenNames u0 u1 u2
  have h60 : Keeps s0 u1 := State.hartAtMod_keeps hs
  have h61 : Keeps s0 u2 := dbgVotes_keeps (wdtResume_keeps h60)
  exact trace_keeps h61

theorem resumereqF_keeps {s0 : State} {h : Fin 9} {s : State} (hs : Keeps s0 s) : Keeps s0 (resumereqF h s) := by
  unfold resumereqF
  exact dbgWrite_keeps (fun _ h0 => Keeps.ite h0 (hartResume_keeps h0)) hs

theorem execResumereq_keeps {h : Fin 9} {s : State} {t' : State} (he : execResumereq h s = .next t') : Keeps s t' := by
  unfold execResumereq at he
  cases he
  exact resumereqF_keeps ((Keeps.refl s))

theorem accessRegister_keeps {s0 : State} {h : Nat} {r : Nat} {write : Option (BitVec 64)} {s : State} (hs : Keeps s0 s) : Keeps s0 (accessRegister h r write s) := by
  unfold accessRegister
  refine Keeps.ite hs (Keeps.ite (State.onDbg_keeps hs) (Keeps.ite (State.onDbg_keeps hs) ?_))
  split
  · exact hartRegPut_keeps hs
  · extract_lets -merge -underBinder +onlyGivenNames u0
    exact State.onDbg_keeps hs

theorem accessRegisterF_keeps {s0 : State} {h : Fin 9} {reg : BitVec 16} {write : Option (BitVec 64)} {s : State} (hs : Keeps s0 s) : Keeps s0 (accessRegisterF h reg write s) := by
  unfold accessRegisterF
  exact dbgWrite_keeps (fun _ h0 => accessRegister_keeps h0) hs

theorem execAccessRegister_keeps {h : Fin 9} {reg : BitVec 16} {write : Option (BitVec 64)} {s : State} {t' : State} (he : execAccessRegister h reg write s = .next t') : Keeps s t' := by
  unfold execAccessRegister at he
  cases he
  exact accessRegisterF_keeps ((Keeps.refl s))

theorem hartTriggerF_keeps {s0 : State} {h : Fin 9} {_t : Fin 4} {action : Bool} {timing : Bool} {s : State} (hs : Keeps s0 s) : Keeps s0 (hartTriggerF h _t action timing s) := by
  unfold hartTriggerF
  refine Keeps.ite hs ?_
  extract_lets -merge -underBinder +onlyGivenNames u0
  have h60 : Keeps s0 u0 := by
    subst u0
    refine Keeps.ite (hartHaltReq_keeps hs) (Keeps.ite hs ?_)
    split
    · rename_i he
      have h61 := Keeps.of2 he (State.take_keeps hs)
      exact State.hartAtMod_keeps h61
  exact State.when_keeps (fun _ h62 => fireSource_keeps h62) h60

theorem execHartTrigger_keeps {h : Fin 9} {t : Fin 4} {action : Bool} {timing : Bool} {s : State} {t' : State} (he : execHartTrigger h t action timing s = .next t') : Keeps s t' := by
  unfold execHartTrigger at he
  cases he
  exact hartTriggerF_keeps ((Keeps.refl s))

theorem accCtrl_keeps {s0 : State} {w : Word} {s : State} (hs : Keeps s0 s) : Keeps s0 (accCtrl w s) := by
  unfold accCtrl
  extract_lets -merge -underBinder +onlyGivenNames u0 u1 u2 u3 u4
  have h60 : Keeps s0 u0 := State.onDbg_keeps hs
  exact Keeps.ite h60 (Keeps.ite (State.onDbg_keeps h60) (retire_keeps (State.onDbg_keeps h60)))

theorem dbgAccGoF_keeps {s0 : State} {w : Word} {s : State} (hs : Keeps s0 s) : Keeps s0 (dbgAccGoF w s) := by
  unfold dbgAccGoF
  exact dbgWrite_keeps (fun _ h0 => accCtrl_keeps h0) hs

theorem execDbgAccGo_keeps {w : Word} {s : State} {t' : State} (he : execDbgAccGo w s = .next t') : Keeps s t' := by
  unfold execDbgAccGo at he
  cases he
  exact dbgAccGoF_keeps ((Keeps.refl s))

theorem accRegPut_keeps {s0 : State} {i : Nat} {w : Word} {s : State} (hs : Keeps s0 s) : Keeps s0 (accRegPut i w s) := by
  unfold accRegPut
  split
  · exact State.onDbg_keeps hs
  · exact State.onDbg_keeps hs
  · exact State.onDbg_keeps hs
  · exact accCtrl_keeps hs

theorem jtagDbgaccUpdateF_keeps {s0 : State} {dr : BitVec 36} {s : State} (hs : Keeps s0 s) : Keeps s0 (jtagDbgaccUpdateF dr s) := by
  unfold jtagDbgaccUpdateF
  refine Keeps.ite hs ?_
  extract_lets -merge -underBinder +onlyGivenNames u0 u1
  have h60 : Keeps s0 u1 := State.onDbg_keeps hs
  split
  · exact State.onDbg_keeps h60
  · exact Keeps.ite (State.onDbg_keeps h60) (accRegPut_keeps h60)
  · exact h60

theorem execJtagDbgaccUpdate_keeps {dr : BitVec 36} {s : State} {t' : State} (he : execJtagDbgaccUpdate dr s = .next t') : Keeps s t' := by
  unfold execJtagDbgaccUpdate at he
  cases he
  exact jtagDbgaccUpdateF_keeps ((Keeps.refl s))

theorem jtagTestLogicResetF_keeps {s0 : State} {s : State} (hs : Keeps s0 s) : Keeps s0 (jtagTestLogicResetF s) := by
  unfold jtagTestLogicResetF
  exact State.onDbg_keeps hs

theorem execJtagTestLogicReset_keeps {s : State} {t' : State} (he : execJtagTestLogicReset s = .next t') : Keeps s t' := by
  unfold execJtagTestLogicReset at he
  cases he
  exact jtagTestLogicResetF_keeps ((Keeps.refl s))

theorem extestF_keeps {s0 : State} {s : State} (hs : Keeps s0 s) : Keeps s0 (extestF s) := by
  unfold extestF
  exact State.onDbg_keeps hs

theorem execExtest_keeps {s : State} {t' : State} (he : execExtest s = .next t') : Keeps s t' := by
  unfold execExtest at he
  cases he
  exact extestF_keeps ((Keeps.refl s))

theorem xtiEventF_keeps {s0 : State} {die : Fin 4} {line : Fin 16} {s : State} (hs : Keeps s0 s) : Keeps s0 (xtiEventF die line s) := by
  unfold xtiEventF
  exact fireSource_keeps hs

theorem execXtiEvent_keeps {die : Fin 4} {line : Fin 16} {s : State} {t' : State} (he : execXtiEvent die line s = .next t') : Keeps s t' := by
  unfold execXtiEvent at he
  cases he
  exact xtiEventF_keeps ((Keeps.refl s))

theorem dbgXtPulseF_keeps {s0 : State} {w : Word} {s : State} (hs : Keeps s0 s) : Keeps s0 (dbgXtPulseF w s) := by
  unfold dbgXtPulseF
  exact dbgWrite_keeps (fun _ h0 => Keeps.ite h0 (fireLines_keeps h0)) hs

theorem execDbgXtPulse_keeps {w : Word} {s : State} {t' : State} (he : execDbgXtPulse w s = .next t') : Keeps s t' := by
  unfold execDbgXtPulse at he
  cases he
  exact dbgXtPulseF_keeps ((Keeps.refl s))

theorem sfrzFreezeF_keeps {s0 : State} {die : Fin 4} {s : State} (hs : Keeps s0 s) : Keeps s0 (sfrzFreezeF die s) := by
  unfold sfrzFreezeF
  exact dbgWrite_keeps (fun _ h0 => freezeDie_keeps h0) hs

theorem execSfrzFreeze_keeps {die : Fin 4} {s : State} {t' : State} (he : execSfrzFreeze die s = .next t') : Keeps s t' := by
  unfold execSfrzFreeze at he
  cases he
  exact sfrzFreezeF_keeps ((Keeps.refl s))

theorem sfrzReleaseF_keeps {s0 : State} {die : Fin 4} {s : State} (hs : Keeps s0 s) : Keeps s0 (sfrzReleaseF die s) := by
  unfold sfrzReleaseF
  exact dbgWrite_keeps (fun _ h0 => releaseDie_keeps h0) hs

theorem execSfrzRelease_keeps {die : Fin 4} {s : State} {t' : State} (he : execSfrzRelease die s = .next t') : Keeps s t' := by
  unfold execSfrzRelease at he
  cases he
  exact sfrzReleaseF_keeps ((Keeps.refl s))

theorem dbgHeldEnterF_keeps {s0 : State} {s : State} (hs : Keeps s0 s) : Keeps s0 (dbgHeldEnterF s) := by
  unfold dbgHeldEnterF
  exact dbgWrite_keeps (fun _ h0 => requestHeld_keeps h0) hs

theorem execDbgHeldEnter_keeps {s : State} {t' : State} (he : execDbgHeldEnter s = .next t') : Keeps s t' := by
  unfold execDbgHeldEnter at he
  cases he
  exact dbgHeldEnterF_keeps ((Keeps.refl s))

theorem heldEntryCompleteF_keeps {s0 : State} {s : State} (hs : Keeps s0 s) : Keeps s0 (heldEntryCompleteF s) := by
  unfold heldEntryCompleteF
  refine Keeps.ite ?_ hs
  extract_lets -merge -underBinder +onlyGivenNames u u0 u1
  have h : Keeps s0 u := holdPads_keeps hs
  have h60 : Keeps s0 u0 := State.onDbg_keeps (Keeps.upd h rfl rfl)
  have h61 : Keeps s0 u1 := State.each_keeps (fun _ _ h62 => wdtFreeze_keeps h62) h60
  exact raise_keeps (trace_keeps h61)

theorem execHeldEntryComplete_keeps {s : State} {t' : State} (he : execHeldEntryComplete s = .next t') : Keeps s t' := by
  unfold execHeldEntryComplete at he
  cases he
  exact heldEntryCompleteF_keeps ((Keeps.refl s))

theorem heldRelease_keeps {s0 : State} {s : State} (hs : Keeps s0 s) : Keeps s0 (heldRelease s) := by
  unfold heldRelease
  refine Keeps.ite hs ?_
  extract_lets -merge -underBinder +onlyGivenNames u0 u1 u2 u3
  have h60 : Keeps s0 u0 := State.onDbg_keeps (Keeps.upd hs rfl rfl)
  have h61 : Keeps s0 u1 := State.each_keeps (fun _ _ h62 => hartResume_keeps h62) h60
  have h63 : Keeps s0 u2 := dbgVotes_keeps (State.each_keeps (fun _ _ h64 => wdtResume_keeps h64) h61)
  have h65 : Keeps s0 u3 := trace_keeps h63
  exact calDeferred_keeps (releaseDeferred_keeps h65)

theorem dbgHeldReleaseF_keeps {s0 : State} {s : State} (hs : Keeps s0 s) : Keeps s0 (dbgHeldReleaseF s) := by
  unfold dbgHeldReleaseF
  exact dbgWrite_keeps (fun _ h0 => Keeps.ite (retire_keeps (retire_keeps (heldRelease_keeps h0))) h0) hs

theorem execDbgHeldRelease_keeps {s : State} {t' : State} (he : execDbgHeldRelease s = .next t') : Keeps s t' := by
  unfold execDbgHeldRelease at he
  cases he
  exact dbgHeldReleaseF_keeps ((Keeps.refl s))

theorem dbgStimF_keeps {s0 : State} {n : Fin 32} {v : Word} {bytes : Nat} {s : State} (hs : Keeps s0 s) : Keeps s0 (dbgStimF n v bytes s) := by
  unfold dbgStimF
  exact Keeps.ite (trace_keeps hs) hs

theorem execDbgStim_keeps {n : Fin 32} {v : Word} {bytes : Fin 5} {s : State} {t' : State} (he : execDbgStim n v bytes s = .next t') : Keeps s t' := by
  unfold execDbgStim at he
  cases he
  exact State.when_keeps (fun _ h61 => (dbgStimF_keeps h61)) (Keeps.refl _)

theorem traceFlushTimerF_keeps {s0 : State} {s : State} (hs : Keeps s0 s) : Keeps s0 (traceFlushTimerF s) := by
  unfold traceFlushTimerF
  exact retire_keeps (traceFlush_keeps hs)

theorem execTraceFlushTimer_keeps {s : State} {t' : State} (he : execTraceFlushTimer s = .next t') : Keeps s t' := by
  unfold execTraceFlushTimer at he
  cases he
  exact traceFlushTimerF_keeps ((Keeps.refl s))

end Sys2Proof.Machine
end

