-- ==== Sys2Proof/Laws/KeepsClk.lean ====
section
/-! SUPPORT. What each function of Machine/Clk.lean keeps. -/

namespace Sys2Proof.Machine

theorem domRuns_keeps {s0 : State} {d : Nat} {src : BitVec 2} {s : State} (hs : Keeps s0 s) : Keeps s0 (domRuns d src s) := by
  unfold domRuns
  split
  · rename_i he
    have h0 := Keeps.of2 he (State.take_keeps hs)
    exact State.domAtMod_keeps h0

theorem switchEnd_keeps {s0 : State} {d : Nat} {status : Nat} {s : State} (hs : Keeps s0 s) : Keeps s0 (switchEnd d status s) := by
  unfold switchEnd
  split
  · extract_lets -merge -underBinder +onlyGivenNames u0
    have h60 : Keeps s0 u0 := State.domAtMod_keeps hs
    split
    · exact finish_keeps h60
    · exact h60
  · exact hs

theorem refclkQualifyDoneF_keeps {s0 : State} {d : Nat} {counts : List Nat} {s : State} (hs : Keeps s0 s) : Keeps s0 (refclkQualifyDoneF d counts s) := by
  unfold refclkQualifyDoneF
  refine Keeps.ite hs ?_
  extract_lets -merge -underBinder +onlyGivenNames u0 u1
  split
  · exact Keeps.ite (State.domAtMod_keeps hs) (switchEnd_keeps hs)
  · exact hs
  · refine Keeps.ite hs (Keeps.ite (Keeps.ite (raise_keeps hs) (State.domAtMod_keeps hs)) (Keeps.ite (State.domAtMod_keeps hs) ?_))
    extract_lets -merge -underBinder +onlyGivenNames u60
    have h120 : Keeps s0 u60 := domRuns_keeps hs
    exact Keeps.ite (State.each_keeps (fun _ _ h121 => State.domAtMod_keeps h121) h120) h120

theorem execRefclkQualifyDone_keeps {dom : Fin 64} {counts : List Nat} {s : State} {t' : State} (he : execRefclkQualifyDone dom counts s = .next t') : Keeps s t' := by
  unfold execRefclkQualifyDone at he
  cases he
  exact refclkQualifyDoneF_keeps ((Keeps.refl s))

theorem bundleHold_keeps {s0 : State} {b : Nat} {s : State} (hs : Keeps s0 s) : Keeps s0 (bundleHold b s) := by
  unfold bundleHold
  exact State.bundleAtMod_keeps hs

theorem bundleFree_keeps {s0 : State} {b : Nat} {s : State} (hs : Keeps s0 s) : Keeps s0 (bundleFree b s) := by
  unfold bundleFree
  exact State.bundleAtMod_keeps hs

theorem pllLockF_keeps {s0 : State} {d : Nat} {s : State} (hs : Keeps s0 s) : Keeps s0 (pllLockF d s) := by
  unfold pllLockF
  extract_lets -merge -underBinder +onlyGivenNames u0
  refine Keeps.ite hs ?_
  split
  · extract_lets -merge -underBinder +onlyGivenNames u5 u6
    have h8 : Keeps s0 u5 := State.domAtMod_keeps hs
    have h9 : Keeps s0 u6 := by
      unfold u6
      split
      · exact State.each_keeps (fun _ _ h13 => (bundleHold_keeps h13)) h8
      · exact h8
    exact cmdMod_keeps h9
  · exact hs
  · exact Keeps.ite (domRuns_keeps hs) hs

theorem execPllLock_keeps {dom : Fin 64} {s : State} {t' : State} (he : execPllLock dom s = .next t') : Keeps s t' := by
  unfold execPllLock at he
  cases he
  exact pllLockF_keeps ((Keeps.refl s))

theorem aoscQualifiedF_keeps {s0 : State} {s : State} (hs : Keeps s0 s) : Keeps s0 (aoscQualifiedF s) := by
  unfold aoscQualifiedF
  extract_lets -merge -underBinder +onlyGivenNames u0
  have h60 : Keeps s0 u0 := State.onClk_keeps hs
  exact Keeps.ite (domRuns_keeps h60) h60

theorem execAoscQualified_keeps {s : State} {t' : State} (he : execAoscQualified s = .next t') : Keeps s t' := by
  unfold execAoscQualified at he
  cases he
  exact aoscQualifiedF_keeps ((Keeps.refl s))

theorem clkSignal_keeps {s0 : State} {code : Nat} {s : State} (hs : Keeps s0 s) : Keeps s0 (clkSignal code s) := by
  unfold clkSignal
  extract_lets -merge -underBinder +onlyGivenNames u0
  have h60 : Keeps s0 u0 := State.onMgr_keeps hs
  exact State.when_keeps (fun _ h61 => wake_keeps h61) h60

theorem xmDown_keeps {s0 : State} {s : State} (hs : Keeps s0 s) : Keeps s0 (xmDown s) := by
  unfold xmDown
  extract_lets -merge -underBinder +onlyGivenNames u0
  have h60 : Keeps s0 u0 := State.each_keeps (fun _ _ h61 => State.laneAtMod_keeps h61) hs
  exact pcieDown_keeps (pcieDown_keeps (State.each_keeps (fun _ _ h62 => Keeps.ite h62 (spanDown_keeps h62)) h60))

theorem xlDown_keeps {s0 : State} {n : Nat} {s : State} (hs : Keeps s0 s) : Keeps s0 (xlDown n s) := by
  unfold xlDown
  exact State.each_keeps (fun _ _ h0 => quadIdle_keeps h0) hs

theorem clkEffect_keeps {s0 : State} {d : Nat} {bundle : Nat} {s : State} (hs : Keeps s0 s) : Keeps s0 (clkEffect d bundle s) := by
  unfold clkEffect
  extract_lets -merge -underBinder +onlyGivenNames u0
  have h2 : Keeps s0 u0 := State.when_keeps (fun _ h3 => (sessMod_keeps h3)) hs
  refine Keeps.ite (State.each_keeps (fun _ _ h4 => (startRecovery_keeps h4)) h2) (Keeps.ite (fenceDie_keeps h2) (Keeps.ite ?_ (Keeps.ite (Keeps.ite (channelDown_keeps h2) h2) (Keeps.ite (xlDown_keeps h2) (Keeps.ite (xmDown_keeps h2) h2)))))
  extract_lets -merge -underBinder +onlyGivenNames u4
  have h6 : Keeps s0 u4 := disableBundle_keeps h2
  exact State.when_keeps (fun _ h7 => (fenceDie_keeps h7)) h6

theorem clockFailF_keeps {s0 : State} {d : Nat} {bundle : Nat} {s : State} (hs : Keeps s0 s) : Keeps s0 (clockFailF d bundle s) := by
  unfold clockFailF
  extract_lets -merge -underBinder +onlyGivenNames u0 u1 u2 u3 u4 u5
  have h60 : Keeps s0 u2 := switchEnd_keeps hs
  have h61 : Keeps s0 u4 := State.domAtMod_keeps h60
  have h62 : Keeps s0 u5 := State.each_keeps (fun _ _ h63 => raiseFrom_keeps h63) h61
  exact Keeps.ite hs (clkSignal_keeps (clkEffect_keeps h62))

theorem execClockFail_keeps {dom : Fin 64} {bundle : Fin 76} {s : State} {t' : State} (he : execClockFail dom bundle s = .next t') : Keeps s t' := by
  unfold execClockFail at he
  cases he
  exact clockFailF_keeps ((Keeps.refl s))

theorem ioscFailF_keeps {s0 : State} {s : State} (hs : Keeps s0 s) : Keeps s0 (ioscFailF s) := by
  unfold ioscFailF
  exact Keeps.ite hs (Keeps.ite (fatal_keeps hs) (raise_keeps (State.onClk_keeps hs)))

theorem execIoscFail_keeps {s : State} {t' : State} (he : execIoscFail s = .next t') : Keeps s t' := by
  unfold execIoscFail at he
  cases he
  exact ioscFailF_keeps ((Keeps.refl s))

theorem lanesBack_keeps {s0 : State} {d : Nat} {s : State} (hs : Keeps s0 s) : Keeps s0 (lanesBack d s) := by
  unfold lanesBack
  refine Keeps.ite (State.each_keeps (fun _ _ h0 => spanEnable_keeps h0) hs) ?_
  extract_lets -merge -underBinder +onlyGivenNames u1
  exact State.each_keeps (fun _ _ h61 => enableQuad_keeps h61) hs

theorem refclkRequalTimerF_keeps {s0 : State} {d : Nat} {counts : List Nat} {s : State} (hs : Keeps s0 s) : Keeps s0 (refclkRequalTimerF d counts s) := by
  unfold refclkRequalTimerF
  extract_lets -merge -underBinder +onlyGivenNames u0
  exact Keeps.ite hs (Keeps.ite (State.domAtMod_keeps hs) (Keeps.ite (State.domAtMod_keeps hs) (lanesBack_keeps (domRuns_keeps hs))))

theorem execRefclkRequalTimer_keeps {dom : Fin 64} {counts : List Nat} {s : State} {t' : State} (he : execRefclkRequalTimer dom counts s = .next t') : Keeps s t' := by
  unfold execRefclkRequalTimer at he
  cases he
  exact refclkRequalTimerF_keeps ((Keeps.refl s))

theorem clkSwitchF_keeps {s0 : State} {id : CmdId} {s : State} (hs : Keeps s0 s) : Keeps s0 (clkSwitchF id s) := by
  unfold clkSwitchF
  refine startCmd_keeps (fun _ _ h0 => ?_) hs
  extract_lets -merge -underBinder +onlyGivenNames u1 u2
  refine require_keeps (fun _ h61 => ?_) h0
  extract_lets -merge -underBinder +onlyGivenNames u62
  exact Keeps.ite (finish_keeps h61) (Keeps.ite (finish_keeps h61) (Keeps.ite (finish_keeps h61) (State.domAtMod_keeps h61)))

theorem execClkSwitch_keeps {c : CmdId} {s : State} {t' : State} (he : execClkSwitch c s = .next t') : Keeps s t' := by
  unfold execClkSwitch at he
  cases he
  exact clkSwitchF_keeps ((Keeps.refl s))

theorem clkRampStepF_keeps {s0 : State} {d : Nat} {s : State} (hs : Keeps s0 s) : Keeps s0 (clkRampStepF d s) := by
  unfold clkRampStepF
  split
  · exact hs
  · refine Keeps.ite hs (Keeps.ite (State.domAtMod_keeps hs) ?_)
    extract_lets -merge -underBinder +onlyGivenNames u7 u8 u9
    have h11 : Keeps s0 u7 := switchEnd_keeps (State.domAtMod_keeps (domRuns_keeps hs))
    have h12 : Keeps s0 u8 := State.domAtMod_keeps h11
    have h13 : Keeps s0 u9 := by
      unfold u9
      split
      · exact State.each_keeps (fun _ _ h17 => (bundleFree_keeps h17)) h12
      · exact h12
    exact State.when_keeps (fun _ h20 => (State.onCfg_keeps h20)) h13

theorem execClkRampStep_keeps {dom : Fin 64} {s : State} {t' : State} (he : execClkRampStep dom s = .next t') : Keeps s t' := by
  unfold execClkRampStep at he
  cases he
  exact clkRampStepF_keeps ((Keeps.refl s))

theorem tbConfigF_keeps {s0 : State} {id : CmdId} {s : State} (hs : Keeps s0 s) : Keeps s0 (tbConfigF id s) := by
  unfold tbConfigF
  refine startCmd_keeps (fun _ _ h0 => require_keeps (fun _ h1 => ?_) h0) hs
  extract_lets -merge -underBinder +onlyGivenNames u2
  exact finish_keeps (State.nextFree_keeps (State.onClk_keeps h1))

theorem execTbConfig_keeps {c : CmdId} {s : State} {t' : State} (he : execTbConfig c s = .next t') : Keeps s t' := by
  unfold execTbConfig at he
  cases he
  exact tbConfigF_keeps ((Keeps.refl s))

theorem tbTicked_keeps {s0 : State} {back : Bool} {pos : BitVec 48} {s : State} (hs : Keeps s0 s) : Keeps s0 (tbTicked back pos s) := by
  unfold tbTicked
  exact Keeps.ite (State.nextFree_keeps (State.onClk_keeps hs)) (calFireAll_keeps (State.nextFree_keeps (State.onClk_keeps hs)))

theorem tbError_keeps {s0 : State} {s : State} (hs : Keeps s0 s) : Keeps s0 (tbError s) := by
  unfold tbError
  exact raise_keeps (State.onClk_keeps hs)

theorem tbTickF_keeps {s0 : State} {a : Bool} {b : Bool} {interval : Word} {s : State} (hs : Keeps s0 s) : Keeps s0 (tbTickF a b interval s) := by
  unfold tbTickF
  refine Keeps.ite hs (Keeps.ite (tbTicked_keeps hs) ?_)
  extract_lets -merge -underBinder +onlyGivenNames u0 u1 u2 u3 u4
  have h60 : Keeps s0 u4 := State.onClk_keeps hs
  split
  · exact tbTicked_keeps (State.onClk_keeps h60)
  · exact Keeps.ite h60 (Keeps.ite (State.onClk_keeps h60) (tbTicked_keeps (State.onClk_keeps h60)))
  · refine Keeps.ite (tbError_keeps h60) (Keeps.ite h60 ?_)
    extract_lets -merge -underBinder +onlyGivenNames u61 u62
    exact Keeps.ite (State.onClk_keeps h60) (tbTicked_keeps (State.onClk_keeps h60))
  · refine Keeps.ite h60 ?_
    extract_lets -merge -underBinder +onlyGivenNames u121
    have h181 : Keeps s0 u121 := State.onClk_keeps h60
    exact Keeps.ite (tbError_keeps h181) (tbTicked_keeps h181)
  · exact Keeps.ite (tbTicked_keeps (State.onClk_keeps h60)) h60
  · exact h60

theorem execTbTick_keeps {a : Bool} {b : Bool} {interval : Word} {s : State} {t' : State} (he : execTbTick a b interval s = .next t') : Keeps s t' := by
  unfold execTbTick at he
  cases he
  exact tbTickF_keeps ((Keeps.refl s))

theorem tbIndexF_keeps {s0 : State} {s : State} (hs : Keeps s0 s) : Keeps s0 (tbIndexF s) := by
  unfold tbIndexF
  exact Keeps.ite (State.onClk_keeps hs) hs

theorem execTbIndex_keeps {s : State} {t' : State} (he : execTbIndex s = .next t') : Keeps s t' := by
  unfold execTbIndex at he
  cases he
  exact tbIndexF_keeps ((Keeps.refl s))

theorem tbFramePulseF_keeps {s0 : State} {s : State} (hs : Keeps s0 s) : Keeps s0 (tbFramePulseF s) := by
  unfold tbFramePulseF
  exact Keeps.ite (tbTicked_keeps hs) hs

theorem execTbFramePulse_keeps {s : State} {t' : State} (he : execTbFramePulse s = .next t') : Keeps s t' := by
  unfold execTbFramePulse at he
  cases he
  exact tbFramePulseF_keeps ((Keeps.refl s))

theorem tbPpsEdgeF_keeps {s0 : State} {s : State} (hs : Keeps s0 s) : Keeps s0 (tbPpsEdgeF s) := by
  unfold tbPpsEdgeF
  refine Keeps.ite hs ?_
  extract_lets -merge -underBinder +onlyGivenNames u0 u1
  split
  · rename_i he
    have h60 := Keeps.of2 he (State.take_keeps hs)
    extract_lets -merge -underBinder +onlyGivenNames u61 u62 u63 u64 u65
    have h121 : Keeps s0 u64 := State.onClk_keeps h60
    have h122 : Keeps s0 u65 := State.when_keeps (fun _ h123 => calFireStep_keeps h123) h121
    exact State.when_keeps (fun _ h124 => tbError_keeps h124) h122

theorem execTbPpsEdge_keeps {s : State} {t' : State} (he : execTbPpsEdge s = .next t') : Keeps s t' := by
  unfold execTbPpsEdge at he
  cases he
  exact tbPpsEdgeF_keeps ((Keeps.refl s))

theorem tbcPosLoRead_keeps {s0 : State} {insp : Bool} {s : State} (hs : Keeps s0 s) : Keeps s0 (tbcPosLoRead insp s).2 := by
  unfold tbcPosLoRead
  exact Keeps.ite hs (State.nextFree_keeps (State.onClk_keeps hs))

theorem execTbcPosLo_keeps {insp : Bool} {s : State} {t' : State} (he : execTbcPosLo insp s = .next t') : Keeps s t' := by
  unfold execTbcPosLo at he
  cases he
  exact State.readTo_keeps (tbcPosLoRead_keeps ((Keeps.refl s)))

theorem tbcStatusRead_keeps {s0 : State} {insp : Bool} {s : State} (hs : Keeps s0 s) : Keeps s0 (tbcStatusRead insp s).2 := by
  unfold tbcStatusRead
  extract_lets -merge -underBinder +onlyGivenNames u0
  exact Keeps.ite hs (State.onClk_keeps hs)

theorem execTbcStatus_keeps {insp : Bool} {s : State} {t' : State} (he : execTbcStatus insp s = .next t') : Keeps s t' := by
  unfold execTbcStatus at he
  cases he
  exact State.readTo_keeps (tbcStatusRead_keeps ((Keeps.refl s)))

theorem tbcCalEntRead_keeps {s0 : State} {e : Nat} {insp : Bool} {s : State} (hs : Keeps s0 s) : Keeps s0 (tbcCalEntRead e insp s).2 := by
  unfold tbcCalEntRead
  exact Keeps.ite hs (State.calAtMod_keeps hs)

theorem execTbcCalEnt_keeps {e : Fin 256} {insp : Bool} {s : State} {t' : State} (he : execTbcCalEnt e insp s = .next t') : Keeps s t' := by
  unfold execTbcCalEnt at he
  cases he
  exact State.readTo_keeps (tbcCalEntRead_keeps ((Keeps.refl s)))

theorem calSetF_keeps {s0 : State} {id : CmdId} {s : State} (hs : Keeps s0 s) : Keeps s0 (calSetF id s) := by
  unfold calSetF
  refine startCmd_keeps (fun _ _ h0 => ?_) hs
  extract_lets -merge -underBinder +onlyGivenNames u1 u2
  exact require_keeps (fun _ h61 => finish_keeps (State.calAtMod_keeps h61)) h0

theorem execCalSet_keeps {c : CmdId} {s : State} {t' : State} (he : execCalSet c s = .next t') : Keeps s t' := by
  unfold execCalSet at he
  cases he
  exact calSetF_keeps ((Keeps.refl s))

theorem calClearF_keeps {s0 : State} {id : CmdId} {s : State} (hs : Keeps s0 s) : Keeps s0 (calClearF id s) := by
  unfold calClearF
  refine startCmd_keeps (fun _ _ h0 => ?_) hs
  extract_lets -merge -underBinder +onlyGivenNames u1
  refine require_keeps (fun _ h61 => ?_) h0
  extract_lets -merge -underBinder +onlyGivenNames u62
  exact finish_keeps (Keeps.ite (State.onClk_keeps h61) (State.calAtMod_keeps h61))

theorem execCalClear_keeps {c : CmdId} {s : State} {t' : State} (he : execCalClear c s = .next t') : Keeps s t' := by
  unfold execCalClear at he
  cases he
  exact calClearF_keeps ((Keeps.refl s))

theorem calStatusF_keeps {s0 : State} {id : CmdId} {s : State} (hs : Keeps s0 s) : Keeps s0 (calStatusF id s) := by
  unfold calStatusF
  exact startCmd_keeps (fun _ _ h0 => require_keeps (fun _ h1 => State.nextFree_keeps (finish_keeps h1)) h0) hs

theorem execCalStatus_keeps {c : CmdId} {s : State} {t' : State} (he : execCalStatus c s = .next t') : Keeps s t' := by
  unfold execCalStatus at he
  cases he
  exact calStatusF_keeps ((Keeps.refl s))

theorem calEntryDueF_keeps {s0 : State} {e : Nat} {s : State} (hs : Keeps s0 s) : Keeps s0 (calEntryDueF e s) := by
  unfold calEntryDueF
  exact Keeps.ite (calFire_keeps hs) hs

theorem execCalEntryDue_keeps {e : Fin 256} {s : State} {t' : State} (he : execCalEntryDue e s = .next t') : Keeps s t' := by
  unfold execCalEntryDue at he
  cases he
  exact calEntryDueF_keeps ((Keeps.refl s))

end Sys2Proof.Machine
end

