-- ==== Sys2Proof/Laws/KeepsPwr.lean ====
section
/-! SUPPORT. What each function of Machine/Pwr.lean keeps. -/

namespace Sys2Proof.Machine

theorem railSet_keeps {s0 : State} {r : Rail} {good : Bool} {s : State} (hs : Keeps s0 s) : Keeps s0 (railSet r good s) := by
  unfold railSet
  exact State.onPwr_keeps hs

theorem powerOnReset_keeps {s0 : State} {s : State} (hs : Keeps s0 s) : Keeps s0 (powerOnReset s) := by
  unfold powerOnReset
  extract_lets -merge -underBinder +onlyGivenNames u0 u1 u2 u3
  have h60 : Keeps s0 u1 := greenware_keeps hs
  have h61 : Keeps s0 u2 := Keeps.upd h60 rfl rfl
  have h62 : Keeps s0 u3 := State.onClk_keeps h61
  exact Keeps.ite h62 (State.onFuses_keeps h62 rfl)

theorem railLossF_keeps {s0 : State} {r : Rail} {s : State} (hs : Keeps s0 s) : Keeps s0 (railLossF r s) := by
  unfold railLossF
  refine Keeps.ite hs ?_
  extract_lets -merge -underBinder +onlyGivenNames u0
  split
  · exact State.onPwr_keeps (powerOnReset_keeps hs)
  · exact Keeps.ite (railSet_keeps hs) (railSet_keeps (Keeps.ite (State.onBoot_keeps hs) (greenware_keeps hs)))
  · exact Keeps.ite (railSet_keeps hs) (railSet_keeps (Keeps.ite (State.onBoot_keeps hs) (greenware_keeps hs)))
  · extract_lets -merge -underBinder +onlyGivenNames u60
    have h120 : Keeps s0 u60 := railSet_keeps hs
    refine Keeps.ite h120 ?_
    split
    · rename_i he
      have h121 := Keeps.of2 he (State.take_keeps h120)
      exact State.each_keeps (fun _ _ h122 => fenceDie_keeps h122) (raiseD_keeps h121)
  · extract_lets -merge -underBinder +onlyGivenNames u123
    have h183 : Keeps s0 u123 := railSet_keeps hs
    exact Keeps.ite h183 (xmDown_keeps (raiseD_keeps h183))
  · extract_lets -merge -underBinder +onlyGivenNames u184
    have h244 : Keeps s0 u184 := railSet_keeps hs
    exact Keeps.ite h244 (State.each_keeps (fun _ _ h245 => xlDown_keeps h245) (raiseD_keeps h244))
  · extract_lets -merge -underBinder +onlyGivenNames u246
    have h306 : Keeps s0 u246 := State.onPwr_keeps hs
    exact Keeps.ite h306 (State.onFuses_keeps h306 rfl)

theorem execRailLoss_keeps {r : Rail} {s : State} {t' : State} (he : execRailLoss r s = .next t') : Keeps s t' := by
  unfold execRailLoss at he
  cases he
  exact railLossF_keeps ((Keeps.refl s))

theorem railGoodF_keeps {s0 : State} {r : Rail} {s : State} (hs : Keeps s0 s) : Keeps s0 (railGoodF r s) := by
  unfold railGoodF
  refine Keeps.ite hs ?_
  extract_lets -merge -underBinder +onlyGivenNames u0
  have h60 : Keeps s0 u0 := railSet_keeps hs
  refine Keeps.ite h60 ?_
  split
  · exact State.each_keeps (fun _ _ h61 => rejoinStart_keeps (clocksReturn_keeps h61)) h60
  · exact lanesBack_keeps h60
  · exact State.each_keeps (fun _ _ h62 => lanesBack_keeps h62) h60
  · exact h60
  · exact h60
  · exact h60
  · exact h60

theorem execRailGood_keeps {r : Rail} {s : State} {t' : State} (he : execRailGood r s = .next t') : Keeps s t' := by
  unfold execRailGood at he
  cases he
  exact railGoodF_keeps ((Keeps.refl s))

theorem vddAoDipF_keeps {s0 : State} {mv : Nat} {ns : Nat} {s : State} (hs : Keeps s0 s) : Keeps s0 (vddAoDipF mv ns s) := by
  unfold vddAoDipF
  exact Keeps.ite (powerOnReset_keeps hs) hs

theorem execVddAoDip_keeps {mv : Nat} {ns : Nat} {s : State} {t' : State} (he : execVddAoDip mv ns s = .next t') : Keeps s t' := by
  unfold execVddAoDip at he
  cases he
  exact vddAoDipF_keeps ((Keeps.refl s))

theorem brownOutF_keeps {s0 : State} {s : State} (hs : Keeps s0 s) : Keeps s0 (brownOutF s) := by
  unfold brownOutF
  exact Keeps.ite (greenware_keeps hs) hs

theorem execBrownOut_keeps {s : State} {t' : State} (he : execBrownOut s = .next t') : Keeps s t' := by
  unfold execBrownOut at he
  cases he
  exact brownOutF_keeps ((Keeps.refl s))

theorem pwrDomainMoveF_keeps {s0 : State} {d : Nat} {s : State} (hs : Keeps s0 s) : Keeps s0 (pwrDomainMoveF d s) := by
  unfold pwrDomainMoveF
  extract_lets -merge -underBinder +onlyGivenNames u0 u1 u2 u3 u4
  have h60 : Keeps s0 u3 := State.when_keeps (fun _ h61 => raise_keeps (State.onPwr_keeps h61)) hs
  have h62 : Keeps s0 u4 := State.pdomAtMod_keeps h60
  exact Keeps.ite hs (Keeps.ite h62 (State.each_keeps (fun _ _ h63 => sbSend_keeps (State.bndAtMod_keeps h63)) h62))

theorem execPwrDomainMove_keeps {dom : Fin 10} {s : State} {t' : State} (he : execPwrDomainMove dom s = .next t') : Keeps s t' := by
  unfold execPwrDomainMove at he
  cases he
  exact pwrDomainMoveF_keeps ((Keeps.refl s))

theorem pwrDrainTimeoutF_keeps {s0 : State} {d : Nat} {s : State} (hs : Keeps s0 s) : Keeps s0 (pwrDrainTimeoutF d s) := by
  unfold pwrDrainTimeoutF
  exact Keeps.ite (State.each_keeps (fun _ _ h0 => retire_keeps (State.each_keeps (fun _ _ h1 => timeoutTxn_keeps h1) h0)) hs) hs

theorem execPwrDrainTimeout_keeps {dom : Fin 10} {s : State} {t' : State} (he : execPwrDrainTimeout dom s = .next t') : Keeps s t' := by
  unfold execPwrDrainTimeout at he
  cases he
  exact pwrDrainTimeoutF_keeps ((Keeps.refl s))

theorem loseSecs_keeps {s0 : State} {ns : List Nat} {s : State} (hs : Keeps s0 s) : Keeps s0 (loseSecs ns s) := by
  unfold loseSecs
  extract_lets -merge -underBinder +onlyGivenNames u0 u1
  have h3 : Keeps s0 u1 := dropCapture_keeps (loseSdus_keeps (initMems_keeps hs))
  exact State.each_keeps (fun _ _ h4 => (State.secAtMod_keeps h4)) h3

theorem cmpSinks_keeps {s0 : State} {d : Nat} {r : Nat} {t : Nat} {s : State} (hs : Keeps s0 s) : Keeps s0 (cmpSinks d r t s) := by
  unfold cmpSinks
  extract_lets -merge -underBinder +onlyGivenNames u00 u01 u0
  replace hs : Keeps s0 u00 := State.when_keeps (fun _ h61 => holdPads_keeps h61) hs
  replace hs : Keeps s0 u01 := State.when_keeps (fun _ h61 => holdBridge_keeps h61) hs
  have h60 : Keeps s0 u0 := State.when_keeps (fun _ h61 => State.each_keeps (fun _ _ h62 => State.laneAtMod_keeps h62) (loseSecs_keeps h61)) hs
  refine State.when_keeps (fun _ h63 => ?_) h60
  extract_lets -merge -underBinder +onlyGivenNames u64 u65
  have h124 : Keeps s0 u64 := blankSectors_keeps (Keeps.upd h63 rfl rfl)
  have h125 : Keeps s0 u65 := State.each_keeps (fun _ _ h126 => State.secAtMod_keeps h126) h124
  exact State.onPwr_keeps h125

theorem cmpRises_keeps {s0 : State} {d : Nat} {r : Nat} {t : Nat} {s : State} (hs : Keeps s0 s) : Keeps s0 (cmpRises d r t s) := by
  unfold cmpRises
  refine State.when_keeps (fun _ h0 => ?_) hs
  extract_lets -merge -underBinder +onlyGivenNames u1
  have h61 : Keeps s0 u1 := State.each_keeps (fun _ _ h62 => releaseSec_keeps h62) h0
  exact State.each_keeps (fun _ _ h63 => enableQuad_keeps h63) h61

theorem apcOff_keeps {s0 : State} {s : State} (hs : Keeps s0 s) : Keeps s0 (apcOff s) := by
  unfold apcOff
  exact State.each_keeps (fun _ _ h1 => (State.wdtAtMod_keeps (State.hartAtMod_keeps h1))) (cacheEmpty_keeps (fun _ _ _ h2 => (cacheBack_keeps h2)) hs)

theorem ddrSinks_keeps {s0 : State} {r : Nat} {t : Nat} {s : State} (hs : Keeps s0 s) : Keeps s0 (ddrSinks r t s) := by
  unfold ddrSinks
  extract_lets -merge -underBinder +onlyGivenNames u0
  have h60 : Keeps s0 u0 := State.when_keeps (fun _ h61 => State.each_keeps (fun _ _ h62 => Keeps.ite (State.ddrAtMod_keeps (drainTo_keeps h62)) h62) h61) hs
  exact State.when_keeps (fun _ h63 => Keeps.ddrLost h63) h60

theorem pcieSinks_keeps {s0 : State} {t : Nat} {s : State} (hs : Keeps s0 s) : Keeps s0 (pcieSinks t s) := by
  unfold pcieSinks
  extract_lets -merge -underBinder +onlyGivenNames u0
  exact Keeps.ite (State.onXcvr_keeps hs) (State.each_keeps (fun _ _ h60 => State.laneAtMod_keeps h60) (pcieDown_keeps (pcieDown_keeps hs)))

theorem hubSinks_keeps {s0 : State} {r : Nat} {t : Nat} {s : State} (hs : Keeps s0 s) : Keeps s0 (hubSinks r t s) := by
  unfold hubSinks
  extract_lets -merge -underBinder +onlyGivenNames u0 u1
  have h3 : Keeps s0 u0 := State.when_keeps (fun _ h4 => (State.each_keeps (fun _ _ h5 => (State.each_keeps (fun _ _ h6 => (State.laneAtMod_keeps h6)) (spanDown_keeps h5))) h4)) hs
  have h7 : Keeps s0 u1 := State.when_keeps (fun _ h8 => (Keeps.upd h8 rfl rfl)) h3
  exact State.when_keeps (fun _ h9 => (State.onPwr_keeps h9)) h7

theorem hubRises_keeps {s0 : State} {r : Nat} {t : Nat} {s : State} (hs : Keeps s0 s) : Keeps s0 (hubRises r t s) := by
  unfold hubRises
  extract_lets -merge -underBinder +onlyGivenNames u0 u1 u2
  have h60 : Keeps s0 u0 := State.when_keeps (fun _ h61 => State.each_keeps (fun _ _ h62 => spanEnable_keeps h62) h61) hs
  have h63 : Keeps s0 u1 := State.when_keeps (fun _ h64 => State.onPwr_keeps (State.onClk_keeps (State.onSpan_keeps h64))) h60
  have h65 : Keeps s0 u2 := State.when_keeps (fun _ h66 => State.onCfg_keeps h66) h63
  exact State.when_keeps (fun _ h67 => aoTake_keeps h67) h65

theorem domainTakes_keeps {s0 : State} {d : Nat} {r : Nat} {t : Nat} {s : State} (hs : Keeps s0 s) : Keeps s0 (domainTakes d r t s) := by
  unfold domainTakes
  exact Keeps.ite (Keeps.ite (hubSinks_keeps hs) (Keeps.ite (cmpSinks_keeps hs) (Keeps.ite (State.when_keeps (fun _ h0 => apcOff_keeps h0) hs) (Keeps.ite (ddrSinks_keeps hs) (Keeps.ite (pcieSinks_keeps hs) hs))))) (Keeps.ite (hubRises_keeps hs) (Keeps.ite (cmpRises_keeps hs) (Keeps.ite (State.when_keeps (fun _ h1 => State.each_keeps (fun _ _ h2 => State.ddrAtMod_keeps h2) h1) hs) (Keeps.ite (State.when_keeps (fun _ h3 => State.onXcvr_keeps h3) hs) hs))))

theorem bundleSleep_keeps {s0 : State} {r : Nat} {b : Nat} {s : State} (hs : Keeps s0 s) : Keeps s0 (bundleSleep r b s) := by
  unfold bundleSleep
  exact State.bundleAtMod_keeps hs

theorem bundleWake_keeps {s0 : State} {b : Nat} {s : State} (hs : Keeps s0 s) : Keeps s0 (bundleWake b s) := by
  unfold bundleWake
  exact State.bundleAtMod_keeps hs

theorem bndWake_keeps {s0 : State} {k : Nat} {s : State} (hs : Keeps s0 s) : Keeps s0 (bndWake k s) := by
  unfold bndWake
  extract_lets -merge -underBinder +onlyGivenNames u0 u1
  refine Keeps.ite (State.each_keeps (fun _ _ h3 => (bundleWake_keeps h3)) hs) (Keeps.ite (stepReport_keeps (State.bndAtMod_keeps (State.each_keeps (fun _ _ h4 => (State.bundleAtMod_keeps h4)) hs))) ?_)
  extract_lets -merge -underBinder +onlyGivenNames u4
  have h6 : Keeps s0 u4 := State.each_keeps (fun _ _ h7 => (State.bundleAtMod_keeps (stopBundle_keeps h7))) hs
  exact Keeps.ite (endBreak_keeps h6) (State.bndAtMod_keeps h6)

theorem bundlesFollow_keeps {s0 : State} {s : State} (hs : Keeps s0 s) : Keeps s0 (bundlesFollow s) := by
  unfold bundlesFollow
  extract_lets -merge -underBinder +onlyGivenNames u0
  have h2 : Keeps s0 u0 := State.each_keeps (fun _ _ h3 => (bundleSleep_keeps h3)) hs
  exact State.each_keeps (fun _ _ h4 => (bndWake_keeps h4)) h2

theorem warmReload_keeps {s0 : State} {s : State} (hs : Keeps s0 s) : Keeps s0 (warmReload s) := by
  unfold warmReload
  extract_lets -merge -underBinder +onlyGivenNames u0 u1 u2 u3 u4
  have h60 : Keeps s0 u2 := fullBegin_keeps hs
  have h61 : Keeps s0 u3 := State.each_keeps (fun _ _ h62 => State.each_keeps (fun _ _ h63 => writeFrame_keeps h63) h62) h60
  exact Keeps.ite (flashFailed_keeps h60) (sessVerified_keeps (State.onCfg_keeps h61))

theorem modeFollows_keeps {s0 : State} {s : State} (hs : Keeps s0 s) : Keeps s0 (modeFollows s) := by
  unfold modeFollows
  exact Keeps.ite hs (Keeps.ite (Keeps.ite (setMode_keeps hs) hs) (Keeps.ite hs (Keeps.ite (warmReload_keeps hs) (setMode_keeps hs))))

theorem pwrMoveCompleteF_keeps {s0 : State} {d : Nat} {s : State} (hs : Keeps s0 s) : Keeps s0 (pwrMoveCompleteF d s) := by
  unfold pwrMoveCompleteF
  extract_lets -merge -underBinder +onlyGivenNames u0
  split
  · exact hs
  · extract_lets -merge -underBinder +onlyGivenNames u60 u61 u62 u63
    have h62 : Keeps s0 u62 := bundlesFollow_keeps (domainTakes_keeps (State.pdomAtMod_keeps hs))
    have h63 : Keeps s0 u63 := State.when_keeps (fun _ h => State.onPwr_keeps h) h62
    exact Keeps.ite hs (retryPorts_keeps (modeFollows_keeps h63))

theorem execPwrMoveComplete_keeps {dom : Fin 10} {s : State} {t' : State} (he : execPwrMoveComplete dom s = .next t') : Keeps s t' := by
  unfold execPwrMoveComplete at he
  cases he
  exact pwrMoveCompleteF_keeps ((Keeps.refl s))

theorem pwrVoteF_keeps {s0 : State} {id : CmdId} {s : State} (hs : Keeps s0 s) : Keeps s0 (pwrVoteF id s) := by
  unfold pwrVoteF
  refine startCmd_keeps (fun _ _ h0 => ?_) hs
  extract_lets -merge -underBinder +onlyGivenNames u1 u2
  exact require_keeps (fun _ h61 => finish_keeps (State.each_keeps (fun _ _ h62 => State.pdomAtMod_keeps h62) h61)) h0

theorem execPwrVote_keeps {c : CmdId} {s : State} {t' : State} (he : execPwrVote c s = .next t') : Keeps s t' := by
  unfold execPwrVote at he
  cases he
  exact pwrVoteF_keeps ((Keeps.refl s))

theorem pwrStatusF_keeps {s0 : State} {id : CmdId} {s : State} (hs : Keeps s0 s) : Keeps s0 (pwrStatusF id s) := by
  unfold pwrStatusF
  refine startCmd_keeps (fun _ _ h0 => ?_) hs
  extract_lets -merge -underBinder +onlyGivenNames u1
  exact require_keeps (fun _ h61 => finish_keeps h61) h0

theorem execPwrStatus_keeps {c : CmdId} {s : State} {t' : State} (he : execPwrStatus c s = .next t') : Keeps s t' := by
  unfold execPwrStatus at he
  cases he
  exact pwrStatusF_keeps ((Keeps.refl s))

theorem watchSetF_keeps {s0 : State} {id : CmdId} {s : State} (hs : Keeps s0 s) : Keeps s0 (watchSetF id s) := by
  unfold watchSetF
  refine startCmd_keeps (fun _ _ h0 => ?_) hs
  extract_lets -merge -underBinder +onlyGivenNames u1
  exact require_keeps (fun _ h61 => finish_keeps (State.onPwr_keeps h61)) h0

theorem execWatchSet_keeps {c : CmdId} {s : State} {t' : State} (he : execWatchSet c s = .next t') : Keeps s t' := by
  unfold execWatchSet at he
  cases he
  exact watchSetF_keeps ((Keeps.refl s))

theorem calPwrVoteF_keeps {s0 : State} {dom : Byte} {rung : BitVec 4} {s : State} (hs : Keeps s0 s) : Keeps s0 (calPwrVoteF dom rung s) := by
  unfold calPwrVoteF
  split
  · exact hs
  · refine Keeps.ite hs ?_
    extract_lets -merge -underBinder +onlyGivenNames u0
    exact State.each_keeps (fun _ _ h60 => State.pdomAtMod_keeps h60) (State.onClk_keeps hs)

theorem execCalPwrVote_keeps {dom : Byte} {rung : BitVec 4} {s : State} {t' : State} (he : execCalPwrVote dom rung s = .next t') : Keeps s t' := by
  unfold execCalPwrVote at he
  cases he
  exact calPwrVoteF_keeps ((Keeps.refl s))

theorem fabPowerBeatF_keeps {s0 : State} {die : Fin 4} {dom : BitVec 4} {rung : BitVec 4} {s : State} (hs : Keeps s0 s) : Keeps s0 (fabPowerBeatF die dom rung s) := by
  unfold fabPowerBeatF
  exact Keeps.ite hs (Keeps.ite (State.onPwr_keeps hs) (State.pdomAtMod_keeps hs))

theorem execFabPowerBeat_keeps {die : Fin 4} {dom : BitVec 4} {rung : BitVec 4} {s : State} {t' : State} (he : execFabPowerBeat die dom rung s = .next t') : Keeps s t' := by
  unfold execFabPowerBeat at he
  cases he
  exact fabPowerBeatF_keeps ((Keeps.refl s))

theorem pwrMgrClrF_keeps {s0 : State} {w : Word} {s : State} (hs : Keeps s0 s) : Keeps s0 (pwrMgrClrF w s) := by
  unfold pwrMgrClrF
  exact Keeps.ite hs (State.each_keeps (fun _ _ h0 => State.pdomAtMod_keeps h0) hs)

theorem execPwrMgrClr_keeps {w : Word} {s : State} {t' : State} (he : execPwrMgrClr w s = .next t') : Keeps s t' := by
  unfold execPwrMgrClr at he
  cases he
  exact pwrMgrClrF_keeps ((Keeps.refl s))

theorem pwrWarmWriteF_keeps {s0 : State} {i : Nat} {v : Word} {s : State} (hs : Keeps s0 s) : Keeps s0 (pwrWarmWriteF i v s) := by
  unfold pwrWarmWriteF
  exact Keeps.ite hs (State.onPwr_keeps hs)

theorem execPwrWarmWrite_keeps {word : Fin 3} {v : Word} {s : State} {t' : State} (he : execPwrWarmWrite word v s = .next t') : Keeps s t' := by
  unfold execPwrWarmWrite at he
  cases he
  exact pwrWarmWriteF_keeps ((Keeps.refl s))

theorem wakeDormant_keeps {s0 : State} {cause : Nat} {s : State} (hs : Keeps s0 s) : Keeps s0 (wakeDormant cause s) := by
  unfold wakeDormant
  extract_lets -merge -underBinder +onlyGivenNames u0
  have h60 : Keeps s0 u0 := State.onBoot_keeps (greenware_keeps hs)
  exact record_keeps (State.onPwr_keeps h60)

theorem wakeUp_keeps {s0 : State} {cause : Nat} {s : State} (hs : Keeps s0 s) : Keeps s0 (wakeUp cause s) := by
  unfold wakeUp
  exact Keeps.ite hs (Keeps.ite (wakeDormant_keeps hs) (wake_keeps hs))

theorem wakeNLowF_keeps {s0 : State} {ns : Nat} {s : State} (hs : Keeps s0 s) : Keeps s0 (wakeNLowF ns s) := by
  unfold wakeNLowF
  exact Keeps.ite hs (wakeUp_keeps hs)

theorem execWakeNLow_keeps {ns : Nat} {s : State} {t' : State} (he : execWakeNLow ns s = .next t') : Keeps s t' := by
  unfold execWakeNLow at he
  cases he
  exact wakeNLowF_keeps ((Keeps.refl s))

theorem wakeTimerF_keeps {s0 : State} {s : State} (hs : Keeps s0 s) : Keeps s0 (wakeTimerF s) := by
  unfold wakeTimerF
  exact Keeps.ite (wakeUp_keeps hs) hs

theorem execWakeTimer_keeps {s : State} {t' : State} (he : execWakeTimer s = .next t') : Keeps s t' := by
  unfold execWakeTimer at he
  cases he
  exact wakeTimerF_keeps ((Keeps.refl s))

theorem watchSampleF_keeps {s0 : State} {temp : Byte} {edges : BitVec 16} {wakeN : Bool} {s : State} (hs : Keeps s0 s) : Keeps s0 (watchSampleF temp edges wakeN s) := by
  unfold watchSampleF
  exact Keeps.ite hs (Keeps.ite (wakeUp_keeps hs) (Keeps.ite (wakeUp_keeps hs) hs))

theorem execWatchSample_keeps {temp : Byte} {edges : BitVec 16} {wakeN : Bool} {s : State} {t' : State} (he : execWatchSample temp edges wakeN s = .next t') : Keeps s t' := by
  unfold execWatchSample at he
  cases he
  exact watchSampleF_keeps ((Keeps.refl s))

theorem wakeVoteWithdrawF_keeps {s0 : State} {s : State} (hs : Keeps s0 s) : Keeps s0 (wakeVoteWithdrawF s) := by
  unfold wakeVoteWithdrawF
  exact wakeCmdDone_keeps hs

theorem execWakeVoteWithdraw_keeps {s : State} {t' : State} (he : execWakeVoteWithdraw s = .next t') : Keeps s t' := by
  unfold execWakeVoteWithdraw at he
  cases he
  exact wakeVoteWithdrawF_keeps ((Keeps.refl s))

end Sys2Proof.Machine
end

