-- ==== Sys2Proof/Laws/KeepsTst.lean ====
section
/-! SUPPORT. What each function of Machine/Tst.lean keeps. -/

namespace Sys2Proof.Machine

theorem coolStart_keeps {s0 : State} {reset : Bool} {skip : Bool} {s : State} (hs : Keeps s0 s) : Keeps s0 (coolStart reset skip s) := by
  unfold coolStart
  extract_lets -merge -underBinder +onlyGivenNames u0 u1 u2 u3 u4 u5
  have h60 : Keeps s0 u0 := testsAbort_keeps (setMode_keeps hs)
  have h61 : Keeps s0 u1 := State.onCfg_keeps h60
  have h62 : Keeps s0 u2 := State.each_keeps (fun _ _ h63 => Keeps.ite (State.ddrAtMod_keeps (drainTo_keeps h63)) h63) h61
  have h64 : Keeps s0 u3 := State.each_keeps (fun _ _ h65 => State.each_keeps (fun _ _ h66 => State.laneAtMod_keeps h66) (spanDown_keeps h65)) h62
  have h67 : Keeps s0 u4 := State.each_keeps (fun _ _ h68 => State.each_keeps (fun _ _ h69 => State.laneAtMod_keeps h69) h68) h64
  have h70 : Keeps s0 u5 := State.when_keeps (fun _ h71 => blankAll_keeps h71) h67
  exact State.onTst_keeps h70

theorem entryAdd_keeps {s0 : State} {e : RecEntry} {s : State} (hs : Keeps s0 s) : Keeps s0 (entryAdd e s) := by
  unfold entryAdd
  exact Keeps.ite (State.onTst_keeps hs) (recordAdd_keeps hs)

theorem entryDel_keeps {s0 : State} {e : RecEntry} {s : State} (hs : Keeps s0 s) : Keeps s0 (entryDel e s) := by
  unfold entryDel
  exact State.onTst_keeps hs

theorem sectorTestRowF_keeps {s0 : State} {die : Nat} {col : Nat} {row : Nat} {pass : Bool} {deepRows : List (BitVec 9)} {s : State} (hs : Keeps s0 s) : Keeps s0 (sectorTestRowF die col row pass deepRows s) := by
  unfold sectorTestRowF
  split
  · exact hs
  · refine Keeps.ite hs ?_
    extract_lets -merge -underBinder +onlyGivenNames u0 u1 u2
    have h60 : Keeps s0 u1 := State.onTst_keeps hs
    have h61 : Keeps s0 u2 := Keeps.ite h60 (State.each_keeps (fun _ _ h62 => entryAdd_keeps h62) h60)
    exact Keeps.ite (entryAdd_keeps h61) (entryDel_keeps h61)

theorem execSectorTestRow_keeps {die : Fin 4} {col : Fin 16} {row : Fin 13} {pass : Bool} {deepRows : List (BitVec 9)} {s : State} {t' : State} (he : execSectorTestRow die col row pass deepRows s = .next t') : Keeps s t' := by
  unfold execSectorTestRow at he
  cases he
  exact sectorTestRowF_keeps ((Keeps.refl s))

theorem recordTry_keeps {s0 : State} {seq : Word} {es : List RecEntry} {bad : List Nat} {ns : List Nat} {s : State} (hs : Keeps s0 s) : Keeps s0 (recordTry seq es bad ns s) := by
  induction ns generalizing s with
  | nil => exact hs
  | cons n ns ih =>
    unfold recordTry
    extract_lets -merge +onlyGivenNames secs
    exact Keeps.ite (ih hs) (Keeps.ite (ih (flashFail_keeps hs))
      (State.onTst_keeps (flashPut_keeps (State.each_keeps (fun _ _ h => flashErase_keeps h) hs))))

theorem recordWrite_keeps {s0 : State} {bad : List Nat} {s : State} (hs : Keeps s0 s) : Keeps s0 (recordWrite bad s) := by
  unfold recordWrite
  extract_lets -merge -underBinder +onlyGivenNames u0 u1 u2 u3
  have h60 : Keeps s0 u2 := State.onTst_keeps hs
  have h61 : Keeps s0 u3 := State.when_keeps (fun _ h62 => raise_keeps h62) h60
  exact Keeps.ite h60 (Keeps.ite (raise_keeps h60) (Keeps.ite h61 (recordTry_keeps h61)))

theorem repairRecordWriteF_keeps {s0 : State} {failSlots : List Nat} {s : State} (hs : Keeps s0 s) : Keeps s0 (repairRecordWriteF failSlots s) := by
  unfold repairRecordWriteF
  exact Keeps.ite hs (recordWrite_keeps hs)

theorem execRepairRecordWrite_keeps {failSlots : List Nat} {s : State} {t' : State} (he : execRepairRecordWrite failSlots s = .next t') : Keeps s t' := by
  unfold execRepairRecordWrite at he
  cases he
  exact repairRecordWriteF_keeps ((Keeps.refl s))

theorem coolingCompleteF_keeps {s0 : State} {bridgeFails : Nat} {lanePass : List (BitVec 7 × BitVec 7)} {flashOk : Bool} {s : State} (hs : Keeps s0 s) : Keeps s0 (coolingCompleteF bridgeFails lanePass flashOk s) := by
  unfold coolingCompleteF
  split
  · exact hs
  · refine Keeps.ite hs ?_
    extract_lets -merge -underBinder +onlyGivenNames u9 u10 u11 u12 u13 u14
    have h16 : Keeps s0 u11 := Keeps.ite hs (State.each_keeps (fun _ _ h17 => (entryDel_keeps h17)) hs)
    have h19 : Keeps s0 u12 := State.when_keeps (fun _ h20 => (recordWrite_keeps h20)) h16
    have h21 : Keeps s0 u13 := State.when_keeps (fun _ h22 => (raiseD_keeps h22)) h19
    have h23 : Keeps s0 u14 := kilnFlush_keeps h21
    exact State.onBoot_keeps (greenware_keeps h23)

theorem execCoolingComplete_keeps {bridgeFails : Nat} {lanePass : List (BitVec 7 × BitVec 7)} {flashOk : Bool} {s : State} {t' : State} (he : execCoolingComplete bridgeFails lanePass flashOk s = .next t') : Keeps s t' := by
  unfold execCoolingComplete at he
  cases he
  exact coolingCompleteF_keeps ((Keeps.refl s))

theorem testIsolate_keeps {s0 : State} {n : Nat} {s : State} (hs : Keeps s0 s) : Keeps s0 (testIsolate n s) := by
  unfold testIsolate
  extract_lets -merge -underBinder +onlyGivenNames u0 u1
  have h60 : Keeps s0 u1 := dropCapture_keeps (blankSectors_keeps (engageHold_keeps hs))
  exact State.secAtMod_keeps h60

theorem testDrain_keeps {s0 : State} {n : Nat} {s : State} (hs : Keeps s0 s) : Keeps s0 (testDrain n s) := by
  unfold testDrain
  extract_lets -merge -underBinder +onlyGivenNames u0 u1
  have h3 : Keeps s0 u1 := State.each_keeps (fun _ _ h9 => (abandonAll_keeps (poisonAll_keeps (State.tportAtMod_keeps h9)))) hs
  exact State.when_keeps (fun _ h18 => (raiseFrom_keeps h18)) h3

theorem testSector_keeps {s0 : State} {cmd : Option CmdId} {die : Nat} {sec : Nat} {set : BitVec 5} {s : State} (hs : Keeps s0 s) : Keeps s0 (testSector cmd die sec set s) := by
  unfold testSector
  exact testIsolate_keeps (testDrain_keeps (wdsRegionOpen_keeps (State.onTst_keeps hs)))

theorem testDie_keeps {s0 : State} {cmd : CmdId} {die : Nat} {set : BitVec 5} {s : State} (hs : Keeps s0 s) : Keeps s0 (testDie cmd die set s) := by
  unfold testDie
  exact fenceCut_keeps (State.onTst_keeps (State.each_keeps (fun _ _ h => testDrain_keeps h) hs))

theorem bistRunF_keeps {s0 : State} {id : CmdId} {s : State} (hs : Keeps s0 s) : Keeps s0 (bistRunF id s) := by
  unfold bistRunF
  refine startCmd_keeps (fun _ _ h0 => ?_) hs
  refine require_keeps (fun _ h => ?_) h0
  split
  · exact testSector_keeps h
  · exact testDie_keeps h

theorem execBistRun_keeps {c : CmdId} {s : State} {t' : State} (he : execBistRun c s = .next t') : Keeps s t' := by
  unfold execBistRun at he
  cases he
  exact bistRunF_keeps ((Keeps.refl s))

theorem testRecord_keeps {s0 : State} {b : BistRun} {word : Word} {s : State} (hs : Keeps s0 s) : Keeps s0 (testRecord b word s) := by
  unfold testRecord
  extract_lets -merge -underBinder +onlyGivenNames u0
  have h2 : Keeps s0 u0 := State.onTst_keeps hs
  split
  · exact cmdMod_keeps h2
  · exact h2

theorem testResult_keeps {s0 : State} {b : BistRun} {word : Word} {s : State} (hs : Keeps s0 s) : Keeps s0 (testResult b word s) := by
  unfold testResult
  extract_lets -merge -underBinder +onlyGivenNames u0
  have h2 : Keeps s0 u0 := State.onTst_keeps (testRecord_keeps hs)
  split
  · exact finish_keeps h2
  · exact h2

theorem testSectorBack_keeps {s0 : State} {b : BistRun} {s : State} (hs : Keeps s0 s) : Keeps s0 (testSectorBack b s) := by
  unfold testSectorBack
  extract_lets -merge -underBinder +onlyGivenNames u0
  exact Keeps.ite (State.secAtMod_keeps hs) (Keeps.ite (releaseSec_keeps (warmWrite_keeps (State.secAtMod_keeps hs))) (raiseFrom_keeps hs))

theorem testSectorEnd_keeps {s0 : State} {b : BistRun} {fail : BitVec 5} {duration : BitVec 16} {s : State} (hs : Keeps s0 s) : Keeps s0 (testSectorEnd b fail duration s) := by
  unfold testSectorEnd
  extract_lets -merge -underBinder +onlyGivenNames u0 u1
  have h60 : Keeps s0 u1 := testResult_keeps hs
  exact Keeps.ite (raiseFrom_keeps (entryAdd_keeps h60)) (testSectorBack_keeps (testResult_keeps hs))

theorem testDieEnd_keeps {s0 : State} {b : BistRun} {fail : BitVec 5} {rows : List Nat} {duration : BitVec 16} {s : State} (hs : Keeps s0 s) : Keeps s0 (testDieEnd b fail rows duration s) := by
  unfold testDieEnd
  extract_lets -merge -underBinder +onlyGivenNames u0 u1 u2 u3 u4 u5
  have h7 : Keeps s0 u3 := testRecord_keeps hs
  have h8 : Keeps s0 u4 := State.each_keeps (fun _ _ h12 => (entryAdd_keeps h12)) h7
  have h15 : Keeps s0 u5 := State.onTst_keeps h8
  exact dieRejoinF_keeps h15

theorem bistCompleteF_keeps {s0 : State} {die : Nat} {failed : BitVec 5} {failRow : List Nat} {duration : BitVec 16} {s : State} (hs : Keeps s0 s) : Keeps s0 (bistCompleteF die failed failRow duration s) := by
  unfold bistCompleteF
  split
  · exact hs
  · extract_lets -merge -underBinder +onlyGivenNames u0
    exact Keeps.ite (testDieEnd_keeps hs) (testSectorEnd_keeps hs)

theorem execBistComplete_keeps {die : Fin 4} {failed : BitVec 5} {failRow : List Nat} {duration : BitVec 16} {s : State} {t' : State} (he : execBistComplete die failed failRow duration s = .next t') : Keeps s t' := by
  unfold execBistComplete at he
  cases he
  exact bistCompleteF_keeps ((Keeps.refl s))

theorem bistResultF_keeps {s0 : State} {id : CmdId} {s : State} (hs : Keeps s0 s) : Keeps s0 (bistResultF id s) := by
  unfold bistResultF
  refine startCmd_keeps (fun _ _ h0 => ?_) hs
  extract_lets -merge -underBinder +onlyGivenNames u1 u2 u3 u4
  refine require_keeps (fun _ h61 => ?_) h0
  extract_lets -merge -underBinder +onlyGivenNames u62
  exact finish_keeps h61

theorem execBistResult_keeps {c : CmdId} {s : State} {t' : State} (he : execBistResult c s = .next t') : Keeps s t' := by
  unfold execBistResult at he
  cases he
  exact bistResultF_keeps ((Keeps.refl s))

theorem repairMapReadF_keeps {s0 : State} {id : CmdId} {s : State} (hs : Keeps s0 s) : Keeps s0 (repairMapReadF id s) := by
  unfold repairMapReadF
  refine startCmd_keeps (fun _ _ h0 => ?_) hs
  extract_lets -merge -underBinder +onlyGivenNames u1
  exact require_keeps (fun _ h61 => finish_keeps h61) h0

theorem execRepairMapRead_keeps {c : CmdId} {s : State} {t' : State} (he : execRepairMapRead c s = .next t') : Keeps s t' := by
  unfold execRepairMapRead at he
  cases he
  exact repairMapReadF_keeps ((Keeps.refl s))

theorem laneTestF_keeps {s0 : State} {id : CmdId} {errors : Word} {compared : Word} {s : State} (hs : Keeps s0 s) : Keeps s0 (laneTestF id errors compared s) := by
  unfold laneTestF
  refine startCmd_keeps (fun _ _ h1 => ?_) hs
  extract_lets -merge -underBinder +onlyGivenNames u1 u2
  refine require_keeps (fun _ h4 => ?_) h1
  extract_lets -merge -underBinder +onlyGivenNames u4
  exact require_keeps (fun _ h6 => (finish_keeps (State.when_keeps (fun _ h7 => (failLane_keeps h7)) h6))) h4

theorem execLaneTest_keeps {c : CmdId} {errors : Word} {compared : Word} {s : State} {t' : State} (he : execLaneTest c errors compared s = .next t') : Keeps s t' := by
  unfold execLaneTest at he
  cases he
  exact laneTestF_keeps ((Keeps.refl s))

theorem zeroSecrets_keeps {s0 : State} {s : State} (hs : Keeps s0 s) : Keeps s0 (zeroSecrets s) := by
  unfold zeroSecrets
  extract_lets -merge -underBinder +onlyGivenNames u0 u1 u2 u3
  have h5 : Keeps s0 u0 := sessMod_keeps hs
  have h6 : Keeps s0 u1 := State.onMee_keeps h5
  have h7 : Keeps s0 u2 := State.onMgr_keeps h6
  have h8 : Keeps s0 u3 := State.onCfg_keeps h7
  exact dropCapture_keeps (State.onDbg_keeps h8)

theorem scanEnterF_keeps {s0 : State} {id : CmdId} {s : State} (hs : Keeps s0 s) : Keeps s0 (scanEnterF id s) := by
  unfold scanEnterF
  refine startCmd_keeps (fun _ _ h0 => require_keeps (fun _ h1 => require_keeps (fun _ h2 => ?_) h1) h0) hs
  extract_lets -merge -underBinder +onlyGivenNames u3 u4 u5
  have h63 : Keeps s0 u4 := State.each_keeps (fun _ _ h64 => State.dieAtMod_keeps (fenceDie_keeps h64)) h2
  have h65 : Keeps s0 u5 := State.onTst_keeps (zeroSecrets_keeps h63)
  exact finish_keeps h65

theorem execScanEnter_keeps {c : CmdId} {s : State} {t' : State} (he : execScanEnter c s = .next t') : Keeps s t' := by
  unfold execScanEnter at he
  cases he
  exact scanEnterF_keeps ((Keeps.refl s))

theorem bgBistTimerF_keeps {s0 : State} {s : State} (hs : Keeps s0 s) : Keeps s0 (bgBistTimerF s) := by
  unfold bgBistTimerF
  refine Keeps.ite hs (State.each_keeps (fun _ _ h0 => ?_) hs)
  extract_lets -merge -underBinder +onlyGivenNames u1
  split
  · exact h0
  · exact Keeps.ite h0 (testSector_keeps (State.onTst_keeps h0))

theorem execBgBistTimer_keeps {s : State} {t' : State} (he : execBgBistTimer s = .next t') : Keeps s t' := by
  unfold execBgBistTimer at he
  cases he
  exact bgBistTimerF_keeps ((Keeps.refl s))

theorem telTake_keeps {s0 : State} {i : Nat} {v : Option Word} {s : State} (hs : Keeps s0 s) : Keeps s0 (telTake i v s) := by
  unfold telTake
  extract_lets -merge -underBinder +onlyGivenNames u0
  have h60 : Keeps s0 u0 := State.onTst_keeps hs
  split
  · exact h60
  · extract_lets -merge -underBinder +onlyGivenNames u61 u62
    exact State.when_keeps (fun _ h121 => raise_keeps h121) (State.limitAtMod_keeps h60)

theorem telSample_keeps {s0 : State} {group : Nat} {values : List (Byte × Word)} {s : State} (hs : Keeps s0 s) : Keeps s0 (telSample group values s) := by
  unfold telSample
  extract_lets -merge -underBinder +onlyGivenNames u0
  exact State.each_keeps (fun _ _ h60 => telTake_keeps h60) hs

theorem telSampleF_keeps {s0 : State} {group : Byte} {values : List (Byte × Word)} {s : State} (hs : Keeps s0 s) : Keeps s0 (telSampleF group values s) := by
  unfold telSampleF
  refine Keeps.ite hs ?_
  split
  · exact hs
  · exact Keeps.ite hs (telSample_keeps (State.onClk_keeps hs))

theorem execTelSample_keeps {group : Byte} {values : List (Byte × Word)} {s : State} {t' : State} (he : execTelSample group values s = .next t') : Keeps s t' := by
  unfold execTelSample at he
  cases he
  exact telSampleF_keeps ((Keeps.refl s))

theorem telSampleTimerF_keeps {s0 : State} {values : List (Byte × Word)} {s : State} (hs : Keeps s0 s) : Keeps s0 (telSampleTimerF values s) := by
  unfold telSampleTimerF
  exact Keeps.ite hs (telSample_keeps hs)

theorem execTelSampleTimer_keeps {values : List (Byte × Word)} {s : State} {t' : State} (he : execTelSampleTimer values s = .next t') : Keeps s t' := by
  unfold execTelSampleTimer at he
  cases he
  exact telSampleTimerF_keeps ((Keeps.refl s))

theorem telReadF_keeps {s0 : State} {id : CmdId} {s : State} (hs : Keeps s0 s) : Keeps s0 (telReadF id s) := by
  unfold telReadF
  exact startCmd_keeps (fun _ _ h0 => require_keeps (fun _ h1 => finish_keeps h1) h0) hs

theorem execTelRead_keeps {c : CmdId} {s : State} {t' : State} (he : execTelRead c s = .next t') : Keeps s t' := by
  unfold execTelRead at he
  cases he
  exact telReadF_keeps ((Keeps.refl s))

theorem telThreshF_keeps {s0 : State} {id : CmdId} {s : State} (hs : Keeps s0 s) : Keeps s0 (telThreshF id s) := by
  unfold telThreshF
  exact startCmd_keeps (fun _ _ h0 => require_keeps (fun _ h1 => finish_keeps (State.limitAtMod_keeps h1)) h0) hs

theorem execTelThresh_keeps {c : CmdId} {s : State} {t' : State} (he : execTelThresh c s = .next t') : Keeps s t' := by
  unfold execTelThresh at he
  cases he
  exact telThreshF_keeps ((Keeps.refl s))

end Sys2Proof.Machine
end

