-- ==== Sys2Proof/Laws/KeepsCsrSector.lean ====
section
/-! SUPPORT. What each function of Machine/CsrSector.lean keeps. -/

namespace Sys2Proof.Machine

theorem csrPlain_keeps {s0 : State} {r : Word × State} (hr : Keeps s0 r.2) : Keeps s0 (csrPlain r).2 := by
  unfold csrPlain
  exact hr

theorem csrWord_keeps {s0 : State} {n : Nat} {s : State} (hs : Keeps s0 s) : Keeps s0 (csrWord n s).2 := by
  unfold csrWord
  exact hs

theorem ioWrite_keeps {s0 : State} {d : Nat} {b : Nat} {rel : Nat} {w : Word} {s : State} (hs : Keeps s0 s) : Keeps s0 (ioWrite d b rel w s) := by
  unfold ioWrite
  extract_lets -merge -underBinder +onlyGivenNames u0
  exact Keeps.ite (State.bankAtMod_keeps hs) (Keeps.ite (State.bankAtMod_keeps hs) (Keeps.ite (ioPinDlyWriteF_keeps hs) hs))

theorem sduAreaRead_keeps {s0 : State} {u : SduId} {rel : Nat} {insp : Bool} {s : State} (hs : Keeps s0 s) : Keeps s0 (sduAreaRead u rel insp s).2 := by
  unfold sduAreaRead
  extract_lets -merge -underBinder +onlyGivenNames u0 u1 u2
  refine Keeps.ite2 (csrWord_keeps hs) (Keeps.ite2 (Keeps.ite2 (csrWord_keeps hs) (csrPlain_keeps hs)) (Keeps.ite2 (xyAccess_keeps hs) (Keeps.ite2 (csrWord_keeps hs) ?_)))
  split
  · exact csrWord_keeps hs
  · exact csrWord_keeps hs
  · exact csrPlain_keeps hs
  · exact csrPlain_keeps hs
  · exact csrPlain_keeps hs
  · exact csrPlain_keeps (sduEccRead_keeps hs)
  · exact csrWord_keeps hs
  · exact csrWord_keeps hs
  · exact csrWord_keeps hs

theorem sduCtrlWrite_keeps {s0 : State} {u : SduId} {w : Word} {s : State} (hs : Keeps s0 s) : Keeps s0 (sduCtrlWrite u w s) := by
  unfold sduCtrlWrite
  extract_lets -merge -underBinder +onlyGivenNames u0 u1
  have h3 : Keeps s0 u0 := Keeps.ite (sduStopF_keeps hs) (Keeps.ite (sduHaltF_keeps hs) (Keeps.ite (sduRunF_keeps hs) (Keeps.ite (sduResumeF_keeps hs) (Keeps.ite (sduStepF_keeps hs) hs))))
  have h4 : Keeps s0 u1 := State.when_keeps (fun _ h5 => (sduSwreqF_keeps h5)) h3
  exact State.when_keeps (fun _ h6 => (State.sduAtMod_keeps h6)) h4

theorem sduCmpWrite_keeps {s0 : State} {u : SduId} {one : Bool} {w : Word} {s : State} (hs : Keeps s0 s) : Keeps s0 (sduCmpWrite u one w s) := by
  unfold sduCmpWrite
  extract_lets -merge -underBinder +onlyGivenNames u0
  exact State.sduAtMod_keeps hs

theorem sduAreaWrite_keeps {s0 : State} {u : SduId} {rel : Nat} {w : Word} {be : BitVec 4} {s : State} (hs : Keeps s0 s) : Keeps s0 (sduAreaWrite u rel w be s) := by
  unfold sduAreaWrite
  refine Keeps.ite hs (Keeps.ite ?_ (Keeps.ite (xyAccess_keeps hs) (Keeps.ite (sduIstoreWriteF_keeps hs) ?_)))
  · extract_lets -merge -underBinder +onlyGivenNames u0
    exact Keeps.ite hs (sduRegWriteF_keeps hs)
  · split
    · exact sduCtrlWrite_keeps hs
    · exact State.sduAtMod_keeps hs
    · exact State.sduAtMod_keeps hs
    · exact sduCmpWrite_keeps hs
    · exact sduCmpWrite_keeps hs
    · exact hs

theorem memCsrRead_keeps {s0 : State} {c : SecId} {m : MemSel} {rel : Nat} {insp : Bool} {s : State} (hs : Keeps s0 s) : Keeps s0 (memCsrRead c m rel insp s).2 := by
  unfold memCsrRead
  extract_lets -merge -underBinder +onlyGivenNames u0 u1
  refine Keeps.ite2 (csrWord_keeps hs) ?_
  split
  · exact csrWord_keeps hs
  · exact csrWord_keeps hs
  · exact csrWord_keeps hs
  · exact csrWord_keeps hs
  · exact csrPlain_keeps (memCeRead_keeps hs)
  · exact csrPlain_keeps (memUeRead_keeps hs)
  · exact csrPlain_keeps (memErrlogRead_keeps hs)
  · exact csrWord_keeps hs
  · refine Keeps.ite2 ?_ (csrWord_keeps hs)
    extract_lets -merge -underBinder +onlyGivenNames u60
    exact csrWord_keeps hs
  · exact csrWord_keeps hs

theorem memCsrWrite_keeps {s0 : State} {c : SecId} {m : MemSel} {rel : Nat} {w : Word} {s : State} (hs : Keeps s0 s) : Keeps s0 (memCsrWrite c m rel w s) := by
  unfold memCsrWrite
  refine Keeps.ite hs ?_
  split
  · exact ctlMod_keeps hs
  · exact State.dmAtMod_keeps (ctlMod_keeps hs)
  · exact ctlMod_keeps hs
  · exact State.when_keeps (fun _ h0 => memInitF_keeps h0) hs
  · exact ctlMod_keeps hs
  · exact State.when_keeps (fun _ h1 => dmRemapReqF_keeps h1) hs
  · exact hs

theorem secRead_keeps {s0 : State} {d : Nat} {sec : Nat} {rel : Nat} {insp : Bool} {s : State} (hs : Keeps s0 s) : Keeps s0 (secRead d sec rel insp s).2 := by
  unfold secRead
  extract_lets -merge -underBinder +onlyGivenNames u0 u1
  refine Keeps.ite2 ?_ (Keeps.ite2 (sduAreaRead_keeps hs) (Keeps.ite2 (memCsrRead_keeps hs) (Keeps.ite2 (memCsrRead_keeps hs) (csrWord_keeps hs))))
  split
  · exact csrWord_keeps hs
  · exact csrWord_keeps hs
  · exact csrPlain_keeps hs
  · exact csrWord_keeps hs

theorem secWrite_keeps {s0 : State} {d : Nat} {sec : Nat} {rel : Nat} {w : Word} {be : BitVec 4} {s : State} (hs : Keeps s0 s) : Keeps s0 (secWrite d sec rel w be s) := by
  unfold secWrite
  extract_lets -merge -underBinder +onlyGivenNames u0
  refine Keeps.ite ?_ (Keeps.ite (sduAreaWrite_keeps hs) (Keeps.ite (memCsrWrite_keeps hs) (Keeps.ite (memCsrWrite_keeps hs) hs)))
  split
  · exact ioWrite_keeps hs
  · exact hs

end Sys2Proof.Machine
end

