-- ==== Sys2Proof/Laws/KeepsCsrHub.lean ====
section
/-! SUPPORT. What each function of Machine/CsrHub.lean keeps. -/

namespace Sys2Proof.Machine

theorem mgrRead_keeps {s0 : State} {rel : Nat} {s : State} (hs : Keeps s0 s) : Keeps s0 (mgrRead rel s).2 := by
  unfold mgrRead
  extract_lets -merge -underBinder +onlyGivenNames u0
  split
  · exact csrPlain_keeps hs
  · exact csrWord_keeps hs
  · exact csrWord_keeps hs
  · exact csrPlain_keeps hs
  · exact csrWord_keeps hs
  · exact csrWord_keeps hs

theorem mgrWrite_keeps {s0 : State} {rel : Nat} {w : Word} {s : State} (hs : Keeps s0 s) : Keeps s0 (mgrWrite rel w s) := by
  unfold mgrWrite
  split
  · exact State.onMgr_keeps hs
  · exact State.when_keeps (fun _ h0 => mgrFatalClrF_keeps h0) (State.onAo_keeps hs)
  · exact State.onAo_keeps hs
  · exact State.onAo_keeps hs
  · exact Keeps.ite (State.onDbg_keeps hs) hs

theorem cfgBlkRead_keeps {s0 : State} {rel : Nat} {s : State} (hs : Keeps s0 s) : Keeps s0 (cfgBlkRead rel s).2 := by
  unfold cfgBlkRead
  extract_lets -merge -underBinder +onlyGivenNames u0
  exact Keeps.ite2 (csrWord_keeps hs) (Keeps.ite2 (csrWord_keeps hs) (Keeps.ite2 (csrWord_keeps hs) (Keeps.ite2 (csrWord_keeps hs) (csrWord_keeps hs))))

theorem cfgBlkWrite_keeps {s0 : State} {rel : Nat} {w : Word} {s : State} (hs : Keeps s0 s) : Keeps s0 (cfgBlkWrite rel w s) := by
  unfold cfgBlkWrite
  extract_lets -merge -underBinder +onlyGivenNames u0
  have hu0 : ∀ a0 a1, Keeps s0 a1 → Keeps s0 (u0 a0 a1) := fun _ _ h60 => State.onCfg_keeps h60
  clear_value u0
  split
  · exact State.when_keeps (fun _ h61 => cfgStreamAbortF_keeps h61) (hu0 _ _ hs)
  · exact hu0 _ _ hs
  · exact cfgStreamDataF_keeps hs
  · exact hs

theorem iportWrite_keeps {s0 : State} {p : Nat} {reg : Nat} {w : Word} {s : State} (hs : Keeps s0 s) : Keeps s0 (iportWrite p reg w s) := by
  unfold iportWrite
  refine Keeps.ite hs ?_
  split
  · extract_lets -merge -underBinder +onlyGivenNames u0
    exact qosWrite_keeps (State.setReg_keeps hs)
  · exact State.iportAtMod_keeps hs
  · exact State.when_keeps (fun _ h60 => nocIportHoldClrF_keeps h60) hs
  · exact hs

theorem tportRead_keeps {s0 : State} {p : Nat} {reg : Nat} {insp : Bool} {s : State} (hs : Keeps s0 s) : Keeps s0 (tportRead p reg insp s).2 := by
  unfold tportRead
  extract_lets -merge -underBinder +onlyGivenNames u0 u1
  refine Keeps.ite2 (csrWord_keeps hs) ?_
  split
  · exact csrWord_keeps hs
  · exact csrPlain_keeps (nocFwLogRead_keeps hs)
  · exact csrWord_keeps hs
  · exact csrWord_keeps hs
  · exact Keeps.ite2 (csrPlain_keeps hs) (csrWord_keeps hs)

theorem tportWrite_keeps {s0 : State} {p : Nat} {reg : Nat} {w : Word} {fwg : BitVec 5} {s : State} (hs : Keeps s0 s) : Keeps s0 (tportWrite p reg w fwg s) := by
  unfold tportWrite
  extract_lets -merge -underBinder +onlyGivenNames u0 u1
  exact Keeps.ite hs (Keeps.ite (State.setReg_keeps hs) (Keeps.ite (State.setReg_keeps hs) hs))

theorem nocRead_keeps {s0 : State} {die : Nat} {rel : Nat} {insp : Bool} {s : State} (hs : Keeps s0 s) : Keeps s0 (nocRead die rel insp s).2 := by
  unfold nocRead
  extract_lets -merge -underBinder +onlyGivenNames u0 u1
  refine Keeps.ite2 (csrPlain_keeps hs) (Keeps.ite2 (csrWord_keeps hs) (Keeps.ite2 (csrPlain_keeps hs) (Keeps.ite2 (csrPlain_keeps hs) (Keeps.ite2 (csrWord_keeps hs) (Keeps.ite2 (tportRead_keeps hs) ?_)))))
  split
  · exact csrWord_keeps hs
  · exact csrWord_keeps hs
  · exact csrWord_keeps hs
  · exact csrPlain_keeps hs
  · exact csrPlain_keeps (nocPerrRead_keeps hs)
  · exact csrPlain_keeps (nocErrlogRead_keeps hs)
  · exact csrWord_keeps hs

theorem nocWrite_keeps {s0 : State} {die : Nat} {rel : Nat} {w : Word} {fwg : BitVec 5} {s : State} (hs : Keeps s0 s) : Keeps s0 (nocWrite die rel w fwg s) := by
  unfold nocWrite
  extract_lets -merge -underBinder +onlyGivenNames u0 u1
  refine Keeps.ite (shadowWrite_keeps hs) (Keeps.ite (shadowWrite_keeps hs) (Keeps.ite (iportWrite_keeps hs) (Keeps.ite (tportWrite_keeps hs) ?_)))
  split
  · exact State.onNoc_keeps hs
  · exact State.when_keeps (fun _ h60 => nocCommitF_keeps h60) hs
  · exact State.setReg_keeps hs
  · exact hs

theorem bundleRead_keeps {s0 : State} {b : Nat} {receiver : Bool} {reg : Nat} {insp : Bool} {s : State} (hs : Keeps s0 s) : Keeps s0 (bundleRead b receiver reg insp s).2 := by
  unfold bundleRead
  extract_lets -merge -underBinder +onlyGivenNames u0 u1
  split
  · exact csrWord_keeps hs
  · exact csrWord_keeps hs
  · exact csrWord_keeps hs
  · exact csrWord_keeps hs
  · exact csrPlain_keeps (adlBndErrRead_keeps hs)
  · exact csrWord_keeps hs
  · exact csrWord_keeps hs

theorem bundleWrite_keeps {s0 : State} {b : Nat} {reg : Nat} {w : Word} {s : State} (hs : Keeps s0 s) : Keeps s0 (bundleWrite b reg w s) := by
  unfold bundleWrite
  refine Keeps.ite ?_ hs
  extract_lets -merge -underBinder +onlyGivenNames u0
  have h60 : Keeps s0 u0 := Keeps.ite (disableBundle_keeps hs) hs
  exact State.when_keeps (fun _ h61 => startRecovery_keeps h61) h60

theorem adlRead_keeps {s0 : State} {die : Nat} {rel : Nat} {insp : Bool} {s : State} (hs : Keeps s0 s) : Keeps s0 (adlRead die rel insp s).2 := by
  unfold adlRead
  refine Keeps.ite2 ?_ (Keeps.ite2 ?_ (Keeps.ite2 (csrWord_keeps hs) (Keeps.ite2 (csrPlain_keeps hs) (Keeps.ite2 (csrWord_keeps hs) (Keeps.ite2 (csrWord_keeps hs) (Keeps.ite2 ?_ (Keeps.ite2 (csrPlain_keeps hs) (csrWord_keeps hs))))))))
  · split
    · exact bundleRead_keeps hs
    · exact csrWord_keeps hs
  · extract_lets -merge -underBinder +onlyGivenNames u0
    exact Keeps.ite2 (csrPlain_keeps (adlSbStatusRead_keeps hs)) (csrWord_keeps hs)
  · extract_lets -merge -underBinder +onlyGivenNames u60
    exact csrWord_keeps hs

theorem adlWrite_keeps {s0 : State} {die : Nat} {rel : Nat} {w : Word} {fwg : BitVec 5} {s : State} (hs : Keeps s0 s) : Keeps s0 (adlWrite die rel w fwg s) := by
  unfold adlWrite
  refine Keeps.ite (Keeps.ite (bundleWrite_keeps hs) hs) (Keeps.ite ?_ (Keeps.ite (rltResume_keeps (State.setReg_keeps hs)) (Keeps.ite hs (Keeps.ite ?_ (Keeps.ite (Keeps.ite hs (State.setReg_keeps hs)) hs)))))
  · extract_lets -merge -underBinder +onlyGivenNames u0
    exact Keeps.ite (sbEndMod_keeps hs) hs
  · extract_lets -merge -underBinder +onlyGivenNames u1 u2
    have h4 : Keeps s0 u2 := State.when_keeps (fun _ h5 => (adlFenceDieF_keeps h5)) hs
    exact State.when_keeps (fun _ h6 => (adlFenceRejoinF_keeps h6)) h4

theorem clkRead_keeps {s0 : State} {die : Nat} {rel : Nat} {s : State} (hs : Keeps s0 s) : Keeps s0 (clkRead die rel s).2 := by
  unfold clkRead
  extract_lets -merge -underBinder +onlyGivenNames u0 u1
  refine Keeps.ite2 (csrWord_keeps hs) ?_
  split
  · exact csrWord_keeps hs
  · exact csrWord_keeps hs
  · exact csrPlain_keeps hs
  · exact csrWord_keeps hs
  · exact csrWord_keeps hs

theorem clkWrite_keeps {s0 : State} {die : Nat} {rel : Nat} {w : Word} {s : State} (hs : Keeps s0 s) : Keeps s0 (clkWrite die rel w s) := by
  unfold clkWrite
  extract_lets -merge -underBinder +onlyGivenNames u0
  refine Keeps.ite hs ?_
  split
  · exact State.domAtMod_keeps hs
  · exact State.domAtMod_keeps hs
  · exact hs

theorem laneRead_keeps {s0 : State} {l : LaneId} {reg : Nat} {insp : Bool} {s : State} (hs : Keeps s0 s) : Keeps s0 (laneRead l reg insp s).2 := by
  unfold laneRead
  extract_lets -merge -underBinder +onlyGivenNames u0 u1
  have h3 : Keeps s0 u0 := State.when_keeps (fun _ h4 => (lineSeen_keeps h4)) hs
  split
  · exact csrPlain_keeps h3
  · exact csrPlain_keeps h3
  · exact csrWord_keeps h3
  · exact csrWord_keeps h3
  · exact csrPlain_keeps h3
  · exact csrPlain_keeps h3
  · exact csrPlain_keeps (lnPrbsErrLoRead_keeps h3)
  · exact csrWord_keeps h3
  · exact csrWord_keeps h3
  · exact csrWord_keeps h3
  · exact csrPlain_keeps (lnCodeErrRead_keeps h3)
  · exact csrPlain_keeps (lnFecRead_keeps h3)
  · exact csrPlain_keeps (lnHeldRead_keeps h3)
  · exact csrPlain_keeps h3
  · exact csrPlain_keeps h3
  · exact csrWord_keeps h3
  · exact csrWord_keeps h3

theorem lnCtrlWrite_keeps {s0 : State} {l : LaneId} {w : Word} {s : State} (hs : Keeps s0 s) : Keeps s0 (lnCtrlWrite l w s) := by
  unfold lnCtrlWrite
  extract_lets -merge -underBinder +onlyGivenNames u0 u1 u2 u3 u4 u5
  have h60 : Keeps s0 u1 := State.laneAtMod_keeps hs
  have h61 : Keeps s0 u2 := State.when_keeps (fun _ h62 => lnAdaptHoldF_keeps h62) h60
  have h63 : Keeps s0 u3 := State.when_keeps (fun _ h64 => lnLpbkF_keeps h64) h61
  have h65 : Keeps s0 u4 := State.when_keeps (fun _ h66 => lnPrbsRxEnF_keeps h66) h63
  have h67 : Keeps s0 u5 := State.when_keeps (fun _ h68 => lnPrbsTxEnF_keeps h68) h65
  exact State.when_keeps (fun _ h69 => lnPrbsClrF_keeps h69) h67

theorem laneWrite_keeps {s0 : State} {l : LaneId} {reg : Nat} {w : Word} {s : State} (hs : Keeps s0 s) : Keeps s0 (laneWrite l reg w s) := by
  unfold laneWrite
  extract_lets -merge -underBinder +onlyGivenNames u0
  split
  · exact lnCtrlWrite_keeps hs
  · exact State.laneAtMod_keeps hs
  · extract_lets -merge -underBinder +onlyGivenNames u60
    exact State.laneAtMod_keeps hs
  · exact State.laneAtMod_keeps hs
  · exact eyeScanGoF_keeps hs
  · exact hs

theorem pcieRead_keeps {s0 : State} {c : Nat} {reg : Nat} {insp : Bool} {s : State} (hs : Keeps s0 s) : Keeps s0 (pcieRead c reg insp s).2 := by
  unfold pcieRead
  extract_lets -merge -underBinder +onlyGivenNames u0
  split
  · exact csrWord_keeps hs
  · exact csrPlain_keeps hs
  · exact csrPlain_keeps hs
  · exact csrWord_keeps hs
  · exact csrPlain_keeps hs
  · exact csrPlain_keeps hs
  · exact csrPlain_keeps hs
  · split
    · rename_i he
      have h60 := Keeps.of2 he (State.take_keeps hs)
      exact csrPlain_keeps (pcieCfgAccess_keeps h60)
  · exact csrWord_keeps hs

theorem pcieWrite_keeps {s0 : State} {c : Nat} {reg : Nat} {w : Word} {s : State} (hs : Keeps s0 s) : Keeps s0 (pcieWrite c reg w s) := by
  unfold pcieWrite
  split
  · exact State.pcieMod_keeps hs
  · exact State.pcieMod_keeps hs
  · exact State.pcieMod_keeps hs
  · exact State.pcieMod_keeps hs
  · exact State.pcieMod_keeps hs
  · exact State.pcieMod_keeps hs
  · exact State.pcieMod_keeps hs
  · exact pcieCfgAccess_keeps hs
  · exact hs

theorem lnBlkRead_keeps {s0 : State} {die : Nat} {rel : Nat} {insp : Bool} {s : State} (hs : Keeps s0 s) : Keeps s0 (lnBlkRead die rel insp s).2 := by
  unfold lnBlkRead
  extract_lets -merge -underBinder +onlyGivenNames u0
  refine Keeps.ite2 (laneRead_keeps hs) (Keeps.ite2 (csrWord_keeps hs) (Keeps.ite2 (csrWord_keeps hs) (Keeps.ite2 (csrWord_keeps hs) (Keeps.ite2 (pcieRead_keeps hs) (Keeps.ite2 ?_ (csrWord_keeps hs))))))
  split
  · rename_i he
    have h60 := Keeps.of2 he (State.take_keeps hs)
    exact csrPlain_keeps (pcieOutbound_keeps h60)

theorem lnBlkWrite_keeps {s0 : State} {die : Nat} {rel : Nat} {w : Word} {s : State} (hs : Keeps s0 s) : Keeps s0 (lnBlkWrite die rel w s) := by
  unfold lnBlkWrite
  extract_lets -merge -underBinder +onlyGivenNames u0
  exact Keeps.ite (laneWrite_keeps hs) (Keeps.ite hs (Keeps.ite (pcieWrite_keeps hs) (Keeps.ite (pcieOutbound_keeps hs) hs)))

end Sys2Proof.Machine
end

