-- ==== Sys2Proof/Laws/KeepsCsrMem.lean ====
section
/-! SUPPORT. What each function of Machine/CsrMem.lean keeps. -/

namespace Sys2Proof.Machine

theorem spnRead_keeps {s0 : State} {rel : Nat} {insp : Bool} {s : State} (hs : Keeps s0 s) : Keeps s0 (spnRead rel insp s).2 := by
  unfold spnRead
  extract_lets -merge -underBinder +onlyGivenNames u0 u1 u2
  refine Keeps.ite2 (csrPlain_keeps hs) (Keeps.ite2 ?_ ?_)
  · split
    · exact csrPlain_keeps hs
    · exact csrWord_keeps hs
    · exact csrPlain_keeps (spnPerrRead_keeps hs)
    · exact csrWord_keeps hs
    · exact csrWord_keeps hs
  · split
    · exact csrWord_keeps hs
    · exact csrWord_keeps hs
    · exact Keeps.ite2 (csrPlain_keeps hs) (csrWord_keeps hs)

theorem spnWrite_keeps {s0 : State} {rel : Nat} {w : Word} {s : State} (hs : Keeps s0 s) : Keeps s0 (spnWrite rel w s) := by
  unfold spnWrite
  refine Keeps.ite (spnRtWriteF_keeps hs) (Keeps.ite ?_ ?_)
  · extract_lets -merge -underBinder +onlyGivenNames u0
    split
    · exact State.setReg_keeps hs
    · exact State.portAtMod_keeps hs
    · exact hs
  · split
    · exact spnCfgWriteF_keeps hs
    · exact State.onSpan_keeps hs
    · extract_lets -merge -underBinder +onlyGivenNames u60
      exact State.when_keeps (fun _ h120 => State.onSpan_keeps h120) (State.setReg_keeps hs)
    · exact Keeps.ite (State.setReg_keeps hs) hs

theorem ddrChRead_keeps {s0 : State} {c : Nat} {reg : Nat} {insp : Bool} {s : State} (hs : Keeps s0 s) : Keeps s0 (ddrChRead c reg insp s).2 := by
  unfold ddrChRead
  extract_lets -merge -underBinder +onlyGivenNames u0 u1 u2 u3
  refine Keeps.ite2 (csrPlain_keeps hs) (Keeps.ite2 (csrWord_keeps hs) (Keeps.ite2 (csrWord_keeps hs) ?_))
  split
  · exact csrWord_keeps hs
  · exact csrPlain_keeps hs
  · exact csrPlain_keeps (ddrRetrainRead_keeps hs)
  · exact csrWord_keeps hs
  · exact csrPlain_keeps (ddrEccRead_keeps hs)
  · exact csrPlain_keeps (ddrErrlogRead_keeps hs)
  · exact csrWord_keeps hs
  · exact csrWord_keeps hs
  · exact csrWord_keeps hs

theorem ddrBlkRead_keeps {s0 : State} {rel : Nat} {insp : Bool} {s : State} (hs : Keeps s0 s) : Keeps s0 (ddrBlkRead rel insp s).2 := by
  unfold ddrBlkRead
  refine Keeps.ite2 (ddrChRead_keeps hs) ?_
  split
  · exact csrWord_keeps hs
  · exact csrWord_keeps hs
  · exact csrWord_keeps hs

theorem ddrBlkWrite_keeps {s0 : State} {rel : Nat} {w : Word} {s : State} (hs : Keeps s0 s) : Keeps s0 (ddrBlkWrite rel w s) := by
  unfold ddrBlkWrite
  extract_lets -merge -underBinder +onlyGivenNames u0 u1
  refine Keeps.ite (State.when_keeps (fun _ h60 => ddrRangeOpenF_keeps h60) hs) (Keeps.ite hs (Keeps.ite (ddrMapWriteF_keeps hs) ?_))
  clear_value u1
  split
  · exact State.ddrAtMod_keeps hs
  · exact State.setReg_keeps hs
  · exact State.setReg_keeps hs
  · exact State.ddrAtMod_keeps hs
  · exact hs

theorem meeBlkRead_keeps {s0 : State} {rel : Nat} {insp : Bool} {s : State} (hs : Keeps s0 s) : Keeps s0 (meeBlkRead rel insp s).2 := by
  unfold meeBlkRead
  extract_lets -merge -underBinder +onlyGivenNames u0 u1
  refine Keeps.ite2 (csrWord_keeps hs) (Keeps.ite2 (csrWord_keeps hs) ?_)
  split
  · extract_lets -merge -underBinder +onlyGivenNames u60
    exact csrWord_keeps hs
  · exact csrWord_keeps hs
  · exact csrPlain_keeps (meeCountRead_keeps hs)
  · exact csrWord_keeps hs
  · exact csrWord_keeps hs

theorem meeBlkWrite_keeps {s0 : State} {rel : Nat} {w : Word} {s : State} (hs : Keeps s0 s) : Keeps s0 (meeBlkWrite rel w s) := by
  unfold meeBlkWrite
  refine Keeps.ite (State.onMee_keeps hs) ?_
  split
  · exact State.onMee_keeps hs
  · exact State.when_keeps (fun _ h0 => meeSlotLoadGoF_keeps h0) (State.onMee_keeps hs)
  · exact hs

theorem wdsBlkRead_keeps {s0 : State} {rel : Nat} {insp : Bool} {s : State} (hs : Keeps s0 s) : Keeps s0 (wdsBlkRead rel insp s).2 := by
  unfold wdsBlkRead
  extract_lets -merge -underBinder +onlyGivenNames u0 u1 u2
  refine Keeps.ite2 (csrWord_keeps hs) (Keeps.ite2 ?_ ?_)
  · split
    · exact csrPlain_keeps hs
    · exact csrPlain_keeps hs
    · exact csrPlain_keeps hs
    · exact csrPlain_keeps hs
    · exact csrWord_keeps hs
    · exact csrWord_keeps hs
  · split
    · exact csrWord_keeps hs
    · exact csrWord_keeps hs
    · exact csrPlain_keeps hs
    · exact csrPlain_keeps hs
    · exact csrPlain_keeps (wdsCountRead_keeps hs)
    · exact csrWord_keeps hs

theorem wdsBlkWrite_keeps {s0 : State} {rel : Nat} {w : Word} {s : State} (hs : Keeps s0 s) : Keeps s0 (wdsBlkWrite rel w s) := by
  unfold wdsBlkWrite
  refine Keeps.ite hs (Keeps.ite ?_ ?_)
  · extract_lets -merge -underBinder +onlyGivenNames u0 u1
    split
    · exact wdsServe_keeps (State.ctxAtMod_keeps hs)
    · exact State.ctxAtMod_keeps hs
    · exact State.ctxAtMod_keeps hs
    · exact wdsServe_keeps (State.ctxAtMod_keeps hs)
    · exact State.when_keeps (fun _ h60 => wdsCtxReviveF_keeps h60) hs
    · exact wdsCtxReleaseF_keeps hs
    · exact hs
  · split
    · exact State.onWds_keeps hs
    · exact State.onWds_keeps hs
    · exact State.onWds_keeps hs
    · exact State.onWds_keeps hs
    · exact hs

theorem tbcRead_keeps {s0 : State} {rel : Nat} {insp : Bool} {s : State} (hs : Keeps s0 s) : Keeps s0 (tbcRead rel insp s).2 := by
  unfold tbcRead
  extract_lets -merge -underBinder +onlyGivenNames u0 u1
  refine Keeps.ite2 (Keeps.ite2 (csrPlain_keeps (tbcCalEntRead_keeps hs)) (csrPlain_keeps hs)) ?_
  split
  · exact csrWord_keeps hs
  · exact csrPlain_keeps (tbcStatusRead_keeps hs)
  · exact csrPlain_keeps (tbcPosLoRead_keeps hs)
  · exact csrPlain_keeps hs
  · exact csrPlain_keeps hs
  · exact csrWord_keeps hs
  · exact csrWord_keeps hs
  · exact csrWord_keeps hs
  · exact csrWord_keeps hs

theorem tbcWrite_keeps {s0 : State} {rel : Nat} {w : Word} {s : State} (hs : Keeps s0 s) : Keeps s0 (tbcWrite rel w s) := by
  unfold tbcWrite
  exact Keeps.ite (rltResume_keeps (State.onClk_keeps hs)) hs

theorem pwrRead_keeps {s0 : State} {die : Nat} {rel : Nat} {s : State} (hs : Keeps s0 s) : Keeps s0 (pwrRead die rel s).2 := by
  unfold pwrRead
  extract_lets -merge -underBinder +onlyGivenNames u0
  refine Keeps.ite2 (csrWord_keeps hs) (Keeps.ite2 (csrWord_keeps hs) (Keeps.ite2 (csrPlain_keeps hs) ?_))
  split
  · exact csrWord_keeps hs
  · exact csrWord_keeps hs
  · exact csrPlain_keeps hs
  · exact csrWord_keeps hs
  · exact csrWord_keeps hs
  · exact csrWord_keeps hs

theorem pwrWrite_keeps {s0 : State} {die : Nat} {rel : Nat} {w : Word} {s : State} (hs : Keeps s0 s) : Keeps s0 (pwrWrite die rel w s) := by
  unfold pwrWrite
  refine Keeps.ite (Keeps.ite ?_ hs) ?_
  · extract_lets -merge -underBinder +onlyGivenNames u0
    exact State.onPwr_keeps hs
  · split
    · exact State.onPwr_keeps hs
    · exact State.onPwr_keeps hs
    · exact pwrMgrClrF_keeps hs
    · exact pwrWarmWriteF_keeps hs
    · exact pwrWarmWriteF_keeps hs
    · exact pwrWarmWriteF_keeps hs
    · exact hs

theorem tstRead_keeps {s0 : State} {rel : Nat} {s : State} (hs : Keeps s0 s) : Keeps s0 (tstRead rel s).2 := by
  unfold tstRead
  extract_lets -merge -underBinder +onlyGivenNames u0
  split
  · exact csrWord_keeps hs
  · exact csrPlain_keeps hs
  · exact csrPlain_keeps hs
  · exact csrPlain_keeps hs
  · exact csrWord_keeps hs
  · exact csrPlain_keeps hs
  · exact csrWord_keeps hs
  · exact csrWord_keeps hs

theorem tstWrite_keeps {s0 : State} {rel : Nat} {w : Word} {s : State} (hs : Keeps s0 s) : Keeps s0 (tstWrite rel w s) := by
  unfold tstWrite
  split
  · exact State.onTst_keeps hs
  · exact State.onTst_keeps hs
  · exact State.onTst_keeps hs
  · exact State.onTst_keeps hs
  · exact hs

theorem dmRead_keeps {s0 : State} {a : Nat} {s : State} (hs : Keeps s0 s) : Keeps s0 (dmRead a s).2 := by
  unfold dmRead
  refine Keeps.ite2 (csrPlain_keeps hs) (Keeps.ite2 (csrPlain_keeps hs) ?_)
  split
  · exact csrPlain_keeps hs
  · exact csrWord_keeps hs
  · exact csrWord_keeps hs
  · exact csrWord_keeps hs

theorem dmCommand_keeps {s0 : State} {w : Word} {s : State} (hs : Keeps s0 s) : Keeps s0 (dmCommand w s) := by
  unfold dmCommand
  extract_lets -merge -underBinder +onlyGivenNames u0 u1 u2 u3 u4 u5
  have hu2 : ∀ a0 a1, Keeps s0 a1 → Keeps s0 (u2 a0 a1) := fun _ _ h60 => State.onDbg_keeps h60
  clear_value u2
  have h61 : Keeps s0 u5 := State.when_keeps (fun _ h62 => accessRegister_keeps h62) hs
  exact Keeps.ite hs (Keeps.ite (hu2 _ _ hs) (Keeps.ite (hu2 _ _ hs) (Keeps.ite (State.nextFree_keeps (State.hartAtMod_keeps h61)) h61)))

theorem dmWrite_keeps {s0 : State} {a : Nat} {w : Word} {s : State} (hs : Keeps s0 s) : Keeps s0 (dmWrite a w s) := by
  unfold dmWrite
  refine Keeps.ite (State.onDbg_keeps hs) (Keeps.ite (State.onDbg_keeps hs) ?_)
  split
  · extract_lets -merge -underBinder +onlyGivenNames u0 u1 u2
    have h60 : Keeps s0 u1 := State.onDbg_keeps hs
    have h61 : Keeps s0 u2 := State.when_keeps (fun _ h62 => hartHaltReq_keeps h62) h60
    exact Keeps.ite (State.onDbg_keeps hs) (State.when_keeps (fun _ h63 => hartResume_keeps h63) h61)
  · exact State.onDbg_keeps hs
  · exact Keeps.ite (State.onDbg_keeps hs) (dmCommand_keeps hs)
  · exact hs

theorem dbgRead_keeps {s0 : State} {die : Nat} {rel : Nat} {s : State} (hs : Keeps s0 s) : Keeps s0 (dbgRead die rel s).2 := by
  unfold dbgRead
  extract_lets -merge -underBinder +onlyGivenNames u0 u1
  refine Keeps.ite2 (Keeps.ite2 (csrPlain_keeps hs) (csrWord_keeps hs)) (Keeps.ite2 (csrPlain_keeps hs) (Keeps.ite2 (csrWord_keeps hs) (Keeps.ite2 (dmRead_keeps hs) ?_)))
  split
  · exact csrWord_keeps hs
  · exact csrWord_keeps hs
  · exact csrPlain_keeps hs
  · exact csrPlain_keeps hs
  · exact csrPlain_keeps hs
  · exact csrPlain_keeps hs
  · exact csrPlain_keeps hs
  · exact csrPlain_keeps hs
  · exact csrPlain_keeps hs
  · exact csrPlain_keeps hs
  · exact csrWord_keeps hs

theorem dbgHeldWrite_keeps {s0 : State} {w : Word} {s : State} (hs : Keeps s0 s) : Keeps s0 (dbgHeldWrite w s) := by
  unfold dbgHeldWrite
  extract_lets -merge -underBinder +onlyGivenNames u0
  have h60 : Keeps s0 u0 := State.onDbg_keeps hs
  exact Keeps.ite (retire_keeps (retire_keeps (heldRelease_keeps h60))) (State.when_keeps (fun _ h61 => requestHeld_keeps h61) h60)

theorem traceCfgWrite_keeps {s0 : State} {w : Word} {s : State} (hs : Keeps s0 s) : Keeps s0 (traceCfgWrite w s) := by
  unfold traceCfgWrite
  exact State.onDbg_keeps hs

theorem wdtWrite_keeps {s0 : State} {n : Nat} {reg : Nat} {w : Word} {s : State} (hs : Keeps s0 s) : Keeps s0 (wdtWrite n reg w s) := by
  unfold wdtWrite
  split
  · extract_lets -merge -underBinder +onlyGivenNames u0
    have h60 : Keeps s0 u0 := State.wdtAtMod_keeps hs
    exact wdtResume_keeps (wdtFreeze_keeps (State.when_keeps (fun _ h61 => dbgWdtEnableF_keeps h61) h60))
  · exact State.when_keeps (fun _ h62 => dbgWdtKickF_keeps h62) hs
  · exact hs

theorem dbgCfgWrite_keeps {s0 : State} {rel : Nat} {w : Word} {s : State} (hs : Keeps s0 s) : Keeps s0 (dbgCfgWrite rel w s) := by
  unfold dbgCfgWrite
  extract_lets -merge -underBinder +onlyGivenNames u0
  have hu0 : ∀ a0 a1, Keeps s0 a1 → Keeps s0 (u0 a0 a1) := fun _ _ h60 => State.onDbg_keeps h60
  clear_value u0
  refine Keeps.ite (State.onDbg_keeps hs) (Keeps.ite (dmWrite_keeps hs) ?_)
  split
  · exact State.onDbg_keeps hs
  · exact dbgHeldWrite_keeps hs
  · exact accRegPut_keeps hs
  · exact accRegPut_keeps hs
  · exact accRegPut_keeps hs
  · exact accCtrl_keeps hs
  · exact State.when_keeps (fun _ h61 => fireLines_keeps h61) hs
  · exact traceCfgWrite_keeps hs
  · exact hu0 _ _ hs
  · exact hu0 _ _ hs
  · exact hs

theorem dbgBlkWrite_keeps {s0 : State} {die : Nat} {rel : Nat} {w : Word} {be : BitVec 4} {s : State} (hs : Keeps s0 s) : Keeps s0 (dbgBlkWrite die rel w be s) := by
  unfold dbgBlkWrite
  refine Keeps.ite (dbgWrite_keeps (fun _ h0 => Keeps.ite (State.onDbg_keeps h0) (Keeps.ite ?_ h0)) hs) (Keeps.ite (wdtWrite_keeps hs) (Keeps.ite ?_ (dbgWrite_keeps (fun _ h1 => dbgCfgWrite_keeps h1) hs)))
  · extract_lets -merge -underBinder +onlyGivenNames u2
    have h62 : Keeps s0 u2 := State.when_keeps (fun _ h63 => freezeDie_keeps h63) h0
    exact State.when_keeps (fun _ h64 => releaseDie_keeps h64) h62
  · extract_lets -merge -underBinder +onlyGivenNames u65 u66
    exact Keeps.ite (dbgStimF_keeps hs) hs

end Sys2Proof.Machine
end

