-- ==== Sys2Proof/Laws/KeepsCsr.lean ====
section
/-! SUPPORT. What each function of Machine/Csr.lean keeps. -/

namespace Sys2Proof.Machine

theorem csrRead_keeps {s0 : State} {die : Nat} {off : Nat} {insp : Bool} {s : State} (hs : Keeps s0 s) : Keeps s0 (csrRead die off insp s).2 := by
  unfold csrRead
  extract_lets -merge -underBinder +onlyGivenNames u0
  refine Keeps.ite2 (secRead_keeps hs) ?_
  split
  · exact mgrRead_keeps hs
  · exact cfgBlkRead_keeps hs
  · exact nocRead_keeps hs
  · exact adlRead_keeps hs
  · exact clkRead_keeps hs
  · exact pwrRead_keeps hs
  · exact tstRead_keeps hs
  · exact dbgRead_keeps hs
  · exact lnBlkRead_keeps hs
  · exact spnRead_keeps hs
  · exact ddrBlkRead_keeps hs
  · exact meeBlkRead_keeps hs
  · exact wdsBlkRead_keeps hs
  · exact tbcRead_keeps hs
  · exact csrWord_keeps hs

theorem csrPut_keeps {s0 : State} {die : Nat} {off : Nat} {be : BitVec 4} {w : Word} {fwg : BitVec 5} {s : State} (hs : Keeps s0 s) : Keeps s0 (csrPut die off be w fwg s) := by
  unfold csrPut
  extract_lets -merge -underBinder +onlyGivenNames u0
  refine Keeps.ite (secWrite_keeps hs) ?_
  split
  · exact mgrWrite_keeps hs
  · exact cfgBlkWrite_keeps hs
  · exact nocWrite_keeps hs
  · exact adlWrite_keeps hs
  · exact clkWrite_keeps hs
  · exact pwrWrite_keeps hs
  · exact tstWrite_keeps hs
  · exact dbgBlkWrite_keeps hs
  · exact lnBlkWrite_keeps hs
  · exact spnWrite_keeps hs
  · exact ddrBlkWrite_keeps hs
  · exact meeBlkWrite_keeps hs
  · exact wdsBlkWrite_keeps hs
  · exact tbcWrite_keeps hs
  · exact hs

theorem csrWrite_keeps {s0 : State} {die : Nat} {off : Nat} {be : BitVec 4} {w : Word} {fwg : BitVec 5} {s : State} (hs : Keeps s0 s) : Keeps s0 (csrWrite die off be w fwg s) := by
  unfold csrWrite
  refine Keeps.ite (csrPut_keeps hs) ?_
  extract_lets -merge -underBinder +onlyGivenNames u0 u1
  exact csrPut_keeps hs

theorem regWriteF_keeps {s0 : State} {die : Nat} {off : Nat} {w : Word} {fwg : BitVec 5} {s : State} (hs : Keeps s0 s) : Keeps s0 (regWriteF die off w fwg s) := by
  unfold regWriteF
  exact Keeps.ite (csrWrite_keeps hs) hs

theorem execRegWrite_keeps {die : Fin 7} {off : BitVec 28} {w : Word} {fwg : BitVec 5} {s : State} {t' : State} (he : execRegWrite die off w fwg s = .next t') : Keeps s t' := by
  unfold execRegWrite at he
  cases he
  exact regWriteF_keeps ((Keeps.refl s))

end Sys2Proof.Machine
end

