-- ==== Sys2Proof/Laws/KeepsNocServe.lean ====
section
/-! SUPPORT. What each function of Machine/NocServe.lean keeps. -/

namespace Sys2Proof.Machine

theorem fwDenyVia_keeps {s0 : State} {via : Nat} {p : Nat} {q : NReq} {s : State} (hs : Keeps s0 s) : Keeps s0 (fwDenyVia via p q s) := by
  unfold fwDenyVia
  extract_lets -merge -underBinder +onlyGivenNames u0
  have h2 : Keeps s0 u0 := Keeps.ite hs (State.tportAtMod_keeps hs)
  exact sendRsp_keeps (raiseFrom_keeps h2)

theorem fwDeny_keeps {s0 : State} {p : Nat} {q : NReq} {s : State} (hs : Keeps s0 s) : Keeps s0 (fwDeny p q s) := by
  unfold fwDeny
  exact fwDenyVia_keeps hs

theorem csrReadAll_keeps {s0 : State} {die : Nat} {insp : Bool} {ws : List Nat} {s : State} (hs : Keeps s0 s) : Keeps s0 (csrReadAll die insp ws s).2 := by
  induction ws generalizing s with
  | nil => exact hs
  | cons w ws ih => exact ih (csrRead_keeps hs)

theorem csrServeRead_keeps {s0 : State} {p : Nat} {q : NReq} {s : State} (hs : Keeps s0 s) : Keeps s0 (csrServeRead p q s) := by
  unfold csrServeRead
  extract_lets -merge -underBinder +onlyGivenNames u0 u1 u2 u3 u4 u5 u6
  have h60 : Keeps s0 u3.2 := csrReadAll_keeps hs
  exact sendRsp_keeps h60

theorem csrServeWrite_keeps {s0 : State} {p : Nat} {q : NReq} {s : State} (hs : Keeps s0 s) : Keeps s0 (csrServeWrite p q s) := by
  unfold csrServeWrite
  extract_lets -merge -underBinder +onlyGivenNames u0 u1 u2 u3 u4
  have h60 : Keeps s0 u4 := State.each_keeps (fun _ _ h61 => csrWrite_keeps h61) hs
  exact sendRsp_keeps h60

theorem wdsDoorServe_keeps {s0 : State} {door : Option Nat} {q : NReq} {s : State} (hs : Keeps s0 s) : Keeps s0 (wdsDoorServe door q s) := by
  unfold wdsDoorServe
  extract_lets -merge -underBinder +onlyGivenNames u0
  split
  · exact Keeps.ite (Keeps.ite (wdsEnq_keeps hs) (sendRsp_keeps hs)) (csrServeRead_keeps hs)
  · exact Keeps.ite (wdsTakeOf_keeps hs) (sendRsp_keeps hs)

theorem csrServe_keeps {s0 : State} {p : Nat} {q : NReq} {s : State} (hs : Keeps s0 s) : Keeps s0 (csrServe p q s) := by
  unfold csrServe
  extract_lets -merge -underBinder +onlyGivenNames u0
  refine Keeps.ite (fwDenyVia_keeps hs) (Keeps.ite (sendRsp_keeps hs) (Keeps.ite (sendRsp_keeps hs) (Keeps.ite (sendRsp_keeps hs) ?_)))
  split
  · exact wdsDoorServe_keeps hs
  · exact Keeps.ite (csrServeRead_keeps hs) (Keeps.ite (sendRsp_keeps hs) (csrServeWrite_keeps hs))

theorem ddrTake_keeps {s0 : State} {c : Nat} {p : Nat} {q : NReq} {s : State} (hs : Keeps s0 s) : Keeps s0 (ddrTake c p q s) := by
  unfold ddrTake
  extract_lets -merge -underBinder +onlyGivenNames u0 u1
  have h60 : Keeps s0 u1 := Keeps.ite (readArrives_keeps hs) hs
  exact Keeps.ite (sendRsp_keeps hs) (Keeps.ite (sendRsp_keeps hs) (Keeps.ite (sendRsp_keeps hs) (Keeps.ite (sendRsp_keeps hs) (State.ddrAtMod_keeps h60))))

theorem spanTake_keeps {s0 : State} {q : NReq} {s : State} (hs : Keeps s0 s) : Keeps s0 (spanTake q s) := by
  unfold spanTake
  extract_lets -merge -underBinder +onlyGivenNames u0
  refine Keeps.ite (sendRsp_keeps hs) ?_
  split
  · exact sendRsp_keeps hs
  · exact hs
  · refine Keeps.ite (sendRsp_keeps hs) ?_
    extract_lets -merge -underBinder +onlyGivenNames u60
    have h120 : Keeps s0 u60 := State.onSpan_keeps hs
    exact spanSend_keeps h120

theorem fabricPresent_keeps {s0 : State} {p : Nat} {kept : Bool} {q : NReq} {s : State} (hs : Keeps s0 s) : Keeps s0 (fabricPresent p kept q s) := by
  unfold fabricPresent
  exact Keeps.ite (sendRsp_keeps hs) (Keeps.ite (sendRsp_keeps hs) (State.tportAtMod_keeps hs))

theorem targetTake_keeps {s0 : State} {p : Nat} {kept : Bool} {q : NReq} {s : State} (hs : Keeps s0 s) : Keeps s0 (targetTake p kept q s) := by
  unfold targetTake
  refine Keeps.ite (csrServe_keeps hs) (Keeps.ite (fabricPresent_keeps hs) (Keeps.ite (spanTake_keeps hs) ?_))
  split
  · exact ddrTake_keeps hs
  · exact sendRsp_keeps hs

theorem targetServe_keeps {s0 : State} {p : Nat} {types : Nat → Bool} {s : State} (hs : Keeps s0 s) : Keeps s0 (targetServe p types s) := by
  unfold targetServe
  split
  · exact hs
  · refine Keeps.ite ?_ hs
    extract_lets -merge -underBinder +onlyGivenNames u64 u65
    have h67 : Keeps s0 u65 := State.tportAtMod_keeps hs
    exact Keeps.ite (targetTake_keeps h67) (fwDeny_keeps h67)

theorem rdF_keeps {s0 : State} {p : Nat} {s : State} (hs : Keeps s0 s) : Keeps s0 (rdF p s) := by
  unfold rdF
  exact targetServe_keeps hs

theorem execRd_keeps {p : BitVec 10} {s : State} {t' : State} (he : execRd p s = .next t') : Keeps s t' := by
  unfold execRd at he
  cases he
  exact State.when_keeps (fun _ h61 => (rdF_keeps h61)) (Keeps.refl _)

theorem wrF_keeps {s0 : State} {p : Nat} {s : State} (hs : Keeps s0 s) : Keeps s0 (wrF p s) := by
  unfold wrF
  exact targetServe_keeps hs

theorem execWr_keeps {p : BitVec 10} {s : State} {t' : State} (he : execWr p s = .next t') : Keeps s t' := by
  unfold execWr at he
  cases he
  exact State.when_keeps (fun _ h62 => (wrF_keeps h62)) (Keeps.refl _)

theorem atomF_keeps {s0 : State} {p : Nat} {s : State} (hs : Keeps s0 s) : Keeps s0 (atomF p s) := by
  unfold atomF
  exact targetServe_keeps hs

theorem execAtom_keeps {p : BitVec 10} {s : State} {t' : State} (he : execAtom p s = .next t') : Keeps s t' := by
  unfold execAtom at he
  cases he
  exact State.when_keeps (fun _ h68 => (atomF_keeps h68)) (Keeps.refl _)

theorem memWord_keeps {s0 : State} {a : Nat} {s : State} (hs : Keeps s0 s) {r : Word × State} (he : memWord a s = some r) : Keeps s0 r.2 := by
  unfold memWord at he
  dsimp only at he
  split at he
  · cases he
  · split at he
    · generalize hd : (if _ = portSink then _ else false) = door at he
      split at he
      · split at he
        · cases he
        · cases he; exact csrRead_keeps hs
      · cases he
    · split at he
      · split at he
        · cases he
        · split at he
          · cases he; exact fatal_keeps hs
          · rename_i hl; cases he; exact lineRead_keeps hs hl
          · cases he
      · split at he
        · cases he
        · cases he; exact State.take_keeps hs

theorem memWords_keeps {s0 : State} {n a : Nat} {s : State} (hs : Keeps s0 s) : Keeps s0 (memWords n a s).2 := by
  induction n generalizing a s with
  | zero => exact hs
  | succ n ih =>
    unfold memWords
    split
    · exact hs
    · rename_i he
      exact ih (memWord_keeps hs he)

theorem readMemF_keeps {s0 : State} {id : CmdId} {s : State} (hs : Keeps s0 s) : Keeps s0 (readMemF id s) := by
  unfold readMemF
  refine startCmd_keeps (fun _ _ h0 => ?_) hs
  extract_lets -merge -underBinder +onlyGivenNames u1 u2
  refine require_keeps (fun _ h61 => require_keeps (fun _ h62 => ?_) h61) h0
  extract_lets -merge -underBinder +onlyGivenNames u63 u64 u65 u66
  have h123 : Keeps s0 u63.2 := memWords_keeps h62
  exact Keeps.ite h123 (Keeps.ite (finishUnits_keeps h123) (finishAfter_keeps h123))

theorem execReadMem_keeps {c : CmdId} {s : State} {t' : State} (he : execReadMem c s = .next t') : Keeps s t' := by
  unfold execReadMem at he
  cases he
  exact readMemF_keeps ((Keeps.refl s))

end Sys2Proof.Machine
end

