-- ==== Sys2Proof/Laws/KeepsSystem.lean ====
section
/-! SUPPORT. What each function of Machine/System.lean keeps. -/

namespace Sys2Proof.Machine

theorem bistGiveUp_keeps {s0 : State} {b : BistRun} {s : State} (hs : Keeps s0 s) : Keeps s0 (bistGiveUp b s) := by
  unfold bistGiveUp
  exact Keeps.ite (dieRejoinF_keeps (State.onTst_keeps hs)) (testSectorBack_keeps (State.onTst_keeps hs))

theorem rollBack_keeps {s0 : State} {c : Cmd} {s : State} (hs : Keeps s0 s) {t : State} (he : rollBack c s = some t) : Keeps s0 t := by
  unfold rollBack at he
  split at he
  · cases he
  · split at he
    · split at he
      · split at he
        · cases he; exact sessionRollback_keeps hs
        · cases he
      · cases he
    · split at he
      · cases he; exact finish_keeps (State.onCfg_keeps hs)
      · cases he
    · obtain ⟨d, _, rfl⟩ := Option.map_eq_some_iff.mp he
      exact switchEnd_keeps hs
    · split at he
      · split at he
        · cases he; exact finish_keeps (State.when_keeps (fun _ h => clearSlot_keeps h) (State.onMee_keeps hs))
        · cases he
      · cases he
    · split at he
      · split at he
        · cases he; exact finish_keeps (State.when_keeps (fun _ h => clearSlot_keeps h) (State.onMee_keeps hs))
        · cases he
      · cases he
    · obtain ⟨b, _, rfl⟩ := Option.map_eq_some_iff.mp he
      exact finish_keeps (bistGiveUp_keeps hs)
    · cases he

theorem abortCmd_keeps {s0 : State} {c : Cmd} {s : State} (hs : Keeps s0 s) {t : State} (he : abortCmd c s = some t) : Keeps s0 t := by
  unfold abortCmd at he
  split at he
  · exact rollBack_keeps hs he
  · cases he; exact Keeps.ite (sessFail_keeps hs) (Keeps.ite (sessionRollback_keeps hs) (finish_keeps hs))

theorem abortF_keeps {s0 : State} {id : CmdId} {s : State} (hs : Keeps s0 s) : Keeps s0 (abortF id s) := by
  unfold abortF
  refine startCmd_keeps (fun _ _ h0 => require_keeps (fun _ h1 => ?_) h0) hs
  dsimp only
  split
  · rename_i he
    refine finish_keeps ?_
    split at he
    · split at he
      · split at he
        · cases he; exact sessionRollback_keeps h1
        · cases he
      · cases he
    · split at he
      · split at he
        · cases he
        · exact abortCmd_keeps h1 he
      · cases he
  · exact finish_keeps h1

theorem execAbort_keeps {c : CmdId} {s : State} {t' : State} (he : execAbort c s = .next t') : Keeps s t' := by
  unfold execAbort at he
  cases he
  exact abortF_keeps ((Keeps.refl s))

theorem abortOthers_keeps {s0 : State} {id : CmdId} {s : State} (hs : Keeps s0 s) : Keeps s0 (abortOthers id s) := by
  unfold abortOthers
  extract_lets -merge +onlyGivenNames u0
  have h1 : Keeps s0 u0 := by
    subst u0
    split
    · exact Keeps.ite (sessionRollback_keeps hs) hs
    · exact hs
  exact State.each_keeps (fun _ _ h2 => Keeps.ite (Keeps.getD (fun _ he => rollBack_keeps h2 he) h2) (finish_keeps h2)) h1

theorem enterCooling_keeps {s0 : State} {reset : Bool} {skip : Bool} {c : Cmd} {s : State} (hs : Keeps s0 s) : Keeps s0 (enterCooling reset skip c s) := by
  unfold enterCooling
  extract_lets -merge -underBinder +onlyGivenNames u0
  have h60 : Keeps s0 u0 := abortOthers_keeps hs
  exact Keeps.ite (cmdMod_keeps h60) (coolStart_keeps (finish_keeps h60))

theorem resetDeviceF_keeps {s0 : State} {id : CmdId} {s : State} (hs : Keeps s0 s) : Keeps s0 (resetDeviceF id s) := by
  unfold resetDeviceF
  exact startCmd_keeps (fun _ _ h0 => require_keeps (fun _ h1 => enterCooling_keeps h1) h0) hs

theorem execResetDevice_keeps {c : CmdId} {s : State} {t' : State} (he : execResetDevice c s = .next t') : Keeps s t' := by
  unfold execResetDevice at he
  cases he
  exact resetDeviceF_keeps ((Keeps.refl s))

theorem setModeF_keeps {s0 : State} {id : CmdId} {s : State} (hs : Keeps s0 s) : Keeps s0 (setModeF id s) := by
  unfold setModeF
  exact startCmd_keeps (fun _ _ h0 => require_keeps (fun _ h1 => enterCooling_keeps h1) h0) hs

theorem execSetMode_keeps {c : CmdId} {s : State} {t' : State} (he : execSetMode c s = .next t') : Keeps s t' := by
  unfold execSetMode at he
  cases he
  exact setModeF_keeps ((Keeps.refl s))

end Sys2Proof.Machine
end

