-- ==== Sys2Proof/Laws/State.lean ====
section
/-! SUPPORT. What each update of a part of the state leaves in every field, true by unfolding: no later proof unfolds a record update. -/

namespace Sys2Proof.Machine

variable (s : State)

/-! ## onMgr -/

@[simp] theorem State.onMgr_pending (f : Mgr → Mgr) : (s.onMgr f).pending = s.pending := rfl
@[simp] theorem State.onMgr_fresh (f : Mgr → Mgr) : (s.onMgr f).fresh = s.fresh := rfl
@[simp] theorem State.onMgr_readOut (f : Mgr → Mgr) : (s.onMgr f).readOut = s.readOut := rfl
@[simp] theorem State.onMgr_mode (f : Mgr → Mgr) : (s.onMgr f).mode = s.mode := rfl
@[simp] theorem State.onMgr_mgr (f : Mgr → Mgr) : (s.onMgr f).mgr = f s.mgr := rfl
@[simp] theorem State.onMgr_boot (f : Mgr → Mgr) : (s.onMgr f).boot = s.boot := rfl
@[simp] theorem State.onMgr_flash (f : Mgr → Mgr) : (s.onMgr f).flash = s.flash := rfl
@[simp] theorem State.onMgr_settings (f : Mgr → Mgr) : (s.onMgr f).settings = s.settings := rfl
@[simp] theorem State.onMgr_fuses (f : Mgr → Mgr) : (s.onMgr f).fuses = s.fuses := rfl
@[simp] theorem State.onMgr_ao (f : Mgr → Mgr) : (s.onMgr f).ao = s.ao := rfl
@[simp] theorem State.onMgr_cfg (f : Mgr → Mgr) : (s.onMgr f).cfg = s.cfg := rfl
@[simp] theorem State.onMgr_fab (f : Mgr → Mgr) : (s.onMgr f).fab = s.fab := rfl
@[simp] theorem State.onMgr_bm (f : Mgr → Mgr) : (s.onMgr f).bm = s.bm := rfl
@[simp] theorem State.onMgr_dm (f : Mgr → Mgr) : (s.onMgr f).dm = s.dm := rfl
@[simp] theorem State.onMgr_sdu (f : Mgr → Mgr) : (s.onMgr f).sdu = s.sdu := rfl
@[simp] theorem State.onMgr_bank (f : Mgr → Mgr) : (s.onMgr f).bank = s.bank := rfl
@[simp] theorem State.onMgr_pin (f : Mgr → Mgr) : (s.onMgr f).pin = s.pin := rfl
@[simp] theorem State.onMgr_noc (f : Mgr → Mgr) : (s.onMgr f).noc = s.noc := rfl
@[simp] theorem State.onMgr_adl (f : Mgr → Mgr) : (s.onMgr f).adl = s.adl := rfl
@[simp] theorem State.onMgr_xcvr (f : Mgr → Mgr) : (s.onMgr f).xcvr = s.xcvr := rfl
@[simp] theorem State.onMgr_span (f : Mgr → Mgr) : (s.onMgr f).span = s.span := rfl
@[simp] theorem State.onMgr_ddr (f : Mgr → Mgr) : (s.onMgr f).ddr = s.ddr := rfl
@[simp] theorem State.onMgr_mee (f : Mgr → Mgr) : (s.onMgr f).mee = s.mee := rfl
@[simp] theorem State.onMgr_wds (f : Mgr → Mgr) : (s.onMgr f).wds = s.wds := rfl
@[simp] theorem State.onMgr_dbg (f : Mgr → Mgr) : (s.onMgr f).dbg = s.dbg := rfl
@[simp] theorem State.onMgr_clk (f : Mgr → Mgr) : (s.onMgr f).clk = s.clk := rfl
@[simp] theorem State.onMgr_pwr (f : Mgr → Mgr) : (s.onMgr f).pwr = s.pwr := rfl
@[simp] theorem State.onMgr_tst (f : Mgr → Mgr) : (s.onMgr f).tst = s.tst := rfl
@[simp] theorem State.onMgr_regs (f : Mgr → Mgr) : (s.onMgr f).regs = s.regs := rfl

/-! ## onBoot -/

@[simp] theorem State.onBoot_pending (f : Boot → Boot) : (s.onBoot f).pending = s.pending := rfl
@[simp] theorem State.onBoot_fresh (f : Boot → Boot) : (s.onBoot f).fresh = s.fresh := rfl
@[simp] theorem State.onBoot_readOut (f : Boot → Boot) : (s.onBoot f).readOut = s.readOut := rfl
@[simp] theorem State.onBoot_mode (f : Boot → Boot) : (s.onBoot f).mode = s.mode := rfl
@[simp] theorem State.onBoot_mgr (f : Boot → Boot) : (s.onBoot f).mgr = s.mgr := rfl
@[simp] theorem State.onBoot_boot (f : Boot → Boot) : (s.onBoot f).boot = f s.boot := rfl
@[simp] theorem State.onBoot_flash (f : Boot → Boot) : (s.onBoot f).flash = s.flash := rfl
@[simp] theorem State.onBoot_settings (f : Boot → Boot) : (s.onBoot f).settings = s.settings := rfl
@[simp] theorem State.onBoot_fuses (f : Boot → Boot) : (s.onBoot f).fuses = s.fuses := rfl
@[simp] theorem State.onBoot_ao (f : Boot → Boot) : (s.onBoot f).ao = s.ao := rfl
@[simp] theorem State.onBoot_cfg (f : Boot → Boot) : (s.onBoot f).cfg = s.cfg := rfl
@[simp] theorem State.onBoot_fab (f : Boot → Boot) : (s.onBoot f).fab = s.fab := rfl
@[simp] theorem State.onBoot_bm (f : Boot → Boot) : (s.onBoot f).bm = s.bm := rfl
@[simp] theorem State.onBoot_dm (f : Boot → Boot) : (s.onBoot f).dm = s.dm := rfl
@[simp] theorem State.onBoot_sdu (f : Boot → Boot) : (s.onBoot f).sdu = s.sdu := rfl
@[simp] theorem State.onBoot_bank (f : Boot → Boot) : (s.onBoot f).bank = s.bank := rfl
@[simp] theorem State.onBoot_pin (f : Boot → Boot) : (s.onBoot f).pin = s.pin := rfl
@[simp] theorem State.onBoot_noc (f : Boot → Boot) : (s.onBoot f).noc = s.noc := rfl
@[simp] theorem State.onBoot_adl (f : Boot → Boot) : (s.onBoot f).adl = s.adl := rfl
@[simp] theorem State.onBoot_xcvr (f : Boot → Boot) : (s.onBoot f).xcvr = s.xcvr := rfl
@[simp] theorem State.onBoot_span (f : Boot → Boot) : (s.onBoot f).span = s.span := rfl
@[simp] theorem State.onBoot_ddr (f : Boot → Boot) : (s.onBoot f).ddr = s.ddr := rfl
@[simp] theorem State.onBoot_mee (f : Boot → Boot) : (s.onBoot f).mee = s.mee := rfl
@[simp] theorem State.onBoot_wds (f : Boot → Boot) : (s.onBoot f).wds = s.wds := rfl
@[simp] theorem State.onBoot_dbg (f : Boot → Boot) : (s.onBoot f).dbg = s.dbg := rfl
@[simp] theorem State.onBoot_clk (f : Boot → Boot) : (s.onBoot f).clk = s.clk := rfl
@[simp] theorem State.onBoot_pwr (f : Boot → Boot) : (s.onBoot f).pwr = s.pwr := rfl
@[simp] theorem State.onBoot_tst (f : Boot → Boot) : (s.onBoot f).tst = s.tst := rfl
@[simp] theorem State.onBoot_regs (f : Boot → Boot) : (s.onBoot f).regs = s.regs := rfl

/-! ## onFlash -/

@[simp] theorem State.onFlash_pending (f : Flash → Flash) : (s.onFlash f).pending = s.pending := rfl
@[simp] theorem State.onFlash_fresh (f : Flash → Flash) : (s.onFlash f).fresh = s.fresh := rfl
@[simp] theorem State.onFlash_readOut (f : Flash → Flash) : (s.onFlash f).readOut = s.readOut := rfl
@[simp] theorem State.onFlash_mode (f : Flash → Flash) : (s.onFlash f).mode = s.mode := rfl
@[simp] theorem State.onFlash_mgr (f : Flash → Flash) : (s.onFlash f).mgr = s.mgr := rfl
@[simp] theorem State.onFlash_boot (f : Flash → Flash) : (s.onFlash f).boot = s.boot := rfl
@[simp] theorem State.onFlash_flash (f : Flash → Flash) : (s.onFlash f).flash = f s.flash := rfl
@[simp] theorem State.onFlash_settings (f : Flash → Flash) : (s.onFlash f).settings = s.settings := rfl
@[simp] theorem State.onFlash_fuses (f : Flash → Flash) : (s.onFlash f).fuses = s.fuses := rfl
@[simp] theorem State.onFlash_ao (f : Flash → Flash) : (s.onFlash f).ao = s.ao := rfl
@[simp] theorem State.onFlash_cfg (f : Flash → Flash) : (s.onFlash f).cfg = s.cfg := rfl
@[simp] theorem State.onFlash_fab (f : Flash → Flash) : (s.onFlash f).fab = s.fab := rfl
@[simp] theorem State.onFlash_bm (f : Flash → Flash) : (s.onFlash f).bm = s.bm := rfl
@[simp] theorem State.onFlash_dm (f : Flash → Flash) : (s.onFlash f).dm = s.dm := rfl
@[simp] theorem State.onFlash_sdu (f : Flash → Flash) : (s.onFlash f).sdu = s.sdu := rfl
@[simp] theorem State.onFlash_bank (f : Flash → Flash) : (s.onFlash f).bank = s.bank := rfl
@[simp] theorem State.onFlash_pin (f : Flash → Flash) : (s.onFlash f).pin = s.pin := rfl
@[simp] theorem State.onFlash_noc (f : Flash → Flash) : (s.onFlash f).noc = s.noc := rfl
@[simp] theorem State.onFlash_adl (f : Flash → Flash) : (s.onFlash f).adl = s.adl := rfl
@[simp] theorem State.onFlash_xcvr (f : Flash → Flash) : (s.onFlash f).xcvr = s.xcvr := rfl
@[simp] theorem State.onFlash_span (f : Flash → Flash) : (s.onFlash f).span = s.span := rfl
@[simp] theorem State.onFlash_ddr (f : Flash → Flash) : (s.onFlash f).ddr = s.ddr := rfl
@[simp] theorem State.onFlash_mee (f : Flash → Flash) : (s.onFlash f).mee = s.mee := rfl
@[simp] theorem State.onFlash_wds (f : Flash → Flash) : (s.onFlash f).wds = s.wds := rfl
@[simp] theorem State.onFlash_dbg (f : Flash → Flash) : (s.onFlash f).dbg = s.dbg := rfl
@[simp] theorem State.onFlash_clk (f : Flash → Flash) : (s.onFlash f).clk = s.clk := rfl
@[simp] theorem State.onFlash_pwr (f : Flash → Flash) : (s.onFlash f).pwr = s.pwr := rfl
@[simp] theorem State.onFlash_tst (f : Flash → Flash) : (s.onFlash f).tst = s.tst := rfl
@[simp] theorem State.onFlash_regs (f : Flash → Flash) : (s.onFlash f).regs = s.regs := rfl

/-! ## onSettings -/

@[simp] theorem State.onSettings_pending (f : Settings → Settings) : (s.onSettings f).pending = s.pending := rfl
@[simp] theorem State.onSettings_fresh (f : Settings → Settings) : (s.onSettings f).fresh = s.fresh := rfl
@[simp] theorem State.onSettings_readOut (f : Settings → Settings) : (s.onSettings f).readOut = s.readOut := rfl
@[simp] theorem State.onSettings_mode (f : Settings → Settings) : (s.onSettings f).mode = s.mode := rfl
@[simp] theorem State.onSettings_mgr (f : Settings → Settings) : (s.onSettings f).mgr = s.mgr := rfl
@[simp] theorem State.onSettings_boot (f : Settings → Settings) : (s.onSettings f).boot = s.boot := rfl
@[simp] theorem State.onSettings_flash (f : Settings → Settings) : (s.onSettings f).flash = s.flash := rfl
@[simp] theorem State.onSettings_settings (f : Settings → Settings) : (s.onSettings f).settings = f s.settings := rfl
@[simp] theorem State.onSettings_fuses (f : Settings → Settings) : (s.onSettings f).fuses = s.fuses := rfl
@[simp] theorem State.onSettings_ao (f : Settings → Settings) : (s.onSettings f).ao = s.ao := rfl
@[simp] theorem State.onSettings_cfg (f : Settings → Settings) : (s.onSettings f).cfg = s.cfg := rfl
@[simp] theorem State.onSettings_fab (f : Settings → Settings) : (s.onSettings f).fab = s.fab := rfl
@[simp] theorem State.onSettings_bm (f : Settings → Settings) : (s.onSettings f).bm = s.bm := rfl
@[simp] theorem State.onSettings_dm (f : Settings → Settings) : (s.onSettings f).dm = s.dm := rfl
@[simp] theorem State.onSettings_sdu (f : Settings → Settings) : (s.onSettings f).sdu = s.sdu := rfl
@[simp] theorem State.onSettings_bank (f : Settings → Settings) : (s.onSettings f).bank = s.bank := rfl
@[simp] theorem State.onSettings_pin (f : Settings → Settings) : (s.onSettings f).pin = s.pin := rfl
@[simp] theorem State.onSettings_noc (f : Settings → Settings) : (s.onSettings f).noc = s.noc := rfl
@[simp] theorem State.onSettings_adl (f : Settings → Settings) : (s.onSettings f).adl = s.adl := rfl
@[simp] theorem State.onSettings_xcvr (f : Settings → Settings) : (s.onSettings f).xcvr = s.xcvr := rfl
@[simp] theorem State.onSettings_span (f : Settings → Settings) : (s.onSettings f).span = s.span := rfl
@[simp] theorem State.onSettings_ddr (f : Settings → Settings) : (s.onSettings f).ddr = s.ddr := rfl
@[simp] theorem State.onSettings_mee (f : Settings → Settings) : (s.onSettings f).mee = s.mee := rfl
@[simp] theorem State.onSettings_wds (f : Settings → Settings) : (s.onSettings f).wds = s.wds := rfl
@[simp] theorem State.onSettings_dbg (f : Settings → Settings) : (s.onSettings f).dbg = s.dbg := rfl
@[simp] theorem State.onSettings_clk (f : Settings → Settings) : (s.onSettings f).clk = s.clk := rfl
@[simp] theorem State.onSettings_pwr (f : Settings → Settings) : (s.onSettings f).pwr = s.pwr := rfl
@[simp] theorem State.onSettings_tst (f : Settings → Settings) : (s.onSettings f).tst = s.tst := rfl
@[simp] theorem State.onSettings_regs (f : Settings → Settings) : (s.onSettings f).regs = s.regs := rfl

/-! ## onFuses -/

@[simp] theorem State.onFuses_pending (f : Fuses → Fuses) : (s.onFuses f).pending = s.pending := rfl
@[simp] theorem State.onFuses_fresh (f : Fuses → Fuses) : (s.onFuses f).fresh = s.fresh := rfl
@[simp] theorem State.onFuses_readOut (f : Fuses → Fuses) : (s.onFuses f).readOut = s.readOut := rfl
@[simp] theorem State.onFuses_mode (f : Fuses → Fuses) : (s.onFuses f).mode = s.mode := rfl
@[simp] theorem State.onFuses_mgr (f : Fuses → Fuses) : (s.onFuses f).mgr = s.mgr := rfl
@[simp] theorem State.onFuses_boot (f : Fuses → Fuses) : (s.onFuses f).boot = s.boot := rfl
@[simp] theorem State.onFuses_flash (f : Fuses → Fuses) : (s.onFuses f).flash = s.flash := rfl
@[simp] theorem State.onFuses_settings (f : Fuses → Fuses) : (s.onFuses f).settings = s.settings := rfl
@[simp] theorem State.onFuses_fuses (f : Fuses → Fuses) : (s.onFuses f).fuses = f s.fuses := rfl
@[simp] theorem State.onFuses_ao (f : Fuses → Fuses) : (s.onFuses f).ao = s.ao := rfl
@[simp] theorem State.onFuses_cfg (f : Fuses → Fuses) : (s.onFuses f).cfg = s.cfg := rfl
@[simp] theorem State.onFuses_fab (f : Fuses → Fuses) : (s.onFuses f).fab = s.fab := rfl
@[simp] theorem State.onFuses_bm (f : Fuses → Fuses) : (s.onFuses f).bm = s.bm := rfl
@[simp] theorem State.onFuses_dm (f : Fuses → Fuses) : (s.onFuses f).dm = s.dm := rfl
@[simp] theorem State.onFuses_sdu (f : Fuses → Fuses) : (s.onFuses f).sdu = s.sdu := rfl
@[simp] theorem State.onFuses_bank (f : Fuses → Fuses) : (s.onFuses f).bank = s.bank := rfl
@[simp] theorem State.onFuses_pin (f : Fuses → Fuses) : (s.onFuses f).pin = s.pin := rfl
@[simp] theorem State.onFuses_noc (f : Fuses → Fuses) : (s.onFuses f).noc = s.noc := rfl
@[simp] theorem State.onFuses_adl (f : Fuses → Fuses) : (s.onFuses f).adl = s.adl := rfl
@[simp] theorem State.onFuses_xcvr (f : Fuses → Fuses) : (s.onFuses f).xcvr = s.xcvr := rfl
@[simp] theorem State.onFuses_span (f : Fuses → Fuses) : (s.onFuses f).span = s.span := rfl
@[simp] theorem State.onFuses_ddr (f : Fuses → Fuses) : (s.onFuses f).ddr = s.ddr := rfl
@[simp] theorem State.onFuses_mee (f : Fuses → Fuses) : (s.onFuses f).mee = s.mee := rfl
@[simp] theorem State.onFuses_wds (f : Fuses → Fuses) : (s.onFuses f).wds = s.wds := rfl
@[simp] theorem State.onFuses_dbg (f : Fuses → Fuses) : (s.onFuses f).dbg = s.dbg := rfl
@[simp] theorem State.onFuses_clk (f : Fuses → Fuses) : (s.onFuses f).clk = s.clk := rfl
@[simp] theorem State.onFuses_pwr (f : Fuses → Fuses) : (s.onFuses f).pwr = s.pwr := rfl
@[simp] theorem State.onFuses_tst (f : Fuses → Fuses) : (s.onFuses f).tst = s.tst := rfl
@[simp] theorem State.onFuses_regs (f : Fuses → Fuses) : (s.onFuses f).regs = s.regs := rfl

/-! ## onAo -/

@[simp] theorem State.onAo_pending (f : AlwaysOn → AlwaysOn) : (s.onAo f).pending = s.pending := rfl
@[simp] theorem State.onAo_fresh (f : AlwaysOn → AlwaysOn) : (s.onAo f).fresh = s.fresh := rfl
@[simp] theorem State.onAo_readOut (f : AlwaysOn → AlwaysOn) : (s.onAo f).readOut = s.readOut := rfl
@[simp] theorem State.onAo_mode (f : AlwaysOn → AlwaysOn) : (s.onAo f).mode = s.mode := rfl
@[simp] theorem State.onAo_mgr (f : AlwaysOn → AlwaysOn) : (s.onAo f).mgr = s.mgr := rfl
@[simp] theorem State.onAo_boot (f : AlwaysOn → AlwaysOn) : (s.onAo f).boot = s.boot := rfl
@[simp] theorem State.onAo_flash (f : AlwaysOn → AlwaysOn) : (s.onAo f).flash = s.flash := rfl
@[simp] theorem State.onAo_settings (f : AlwaysOn → AlwaysOn) : (s.onAo f).settings = s.settings := rfl
@[simp] theorem State.onAo_fuses (f : AlwaysOn → AlwaysOn) : (s.onAo f).fuses = s.fuses := rfl
@[simp] theorem State.onAo_ao (f : AlwaysOn → AlwaysOn) : (s.onAo f).ao = f s.ao := rfl
@[simp] theorem State.onAo_cfg (f : AlwaysOn → AlwaysOn) : (s.onAo f).cfg = s.cfg := rfl
@[simp] theorem State.onAo_fab (f : AlwaysOn → AlwaysOn) : (s.onAo f).fab = s.fab := rfl
@[simp] theorem State.onAo_bm (f : AlwaysOn → AlwaysOn) : (s.onAo f).bm = s.bm := rfl
@[simp] theorem State.onAo_dm (f : AlwaysOn → AlwaysOn) : (s.onAo f).dm = s.dm := rfl
@[simp] theorem State.onAo_sdu (f : AlwaysOn → AlwaysOn) : (s.onAo f).sdu = s.sdu := rfl
@[simp] theorem State.onAo_bank (f : AlwaysOn → AlwaysOn) : (s.onAo f).bank = s.bank := rfl
@[simp] theorem State.onAo_pin (f : AlwaysOn → AlwaysOn) : (s.onAo f).pin = s.pin := rfl
@[simp] theorem State.onAo_noc (f : AlwaysOn → AlwaysOn) : (s.onAo f).noc = s.noc := rfl
@[simp] theorem State.onAo_adl (f : AlwaysOn → AlwaysOn) : (s.onAo f).adl = s.adl := rfl
@[simp] theorem State.onAo_xcvr (f : AlwaysOn → AlwaysOn) : (s.onAo f).xcvr = s.xcvr := rfl
@[simp] theorem State.onAo_span (f : AlwaysOn → AlwaysOn) : (s.onAo f).span = s.span := rfl
@[simp] theorem State.onAo_ddr (f : AlwaysOn → AlwaysOn) : (s.onAo f).ddr = s.ddr := rfl
@[simp] theorem State.onAo_mee (f : AlwaysOn → AlwaysOn) : (s.onAo f).mee = s.mee := rfl
@[simp] theorem State.onAo_wds (f : AlwaysOn → AlwaysOn) : (s.onAo f).wds = s.wds := rfl
@[simp] theorem State.onAo_dbg (f : AlwaysOn → AlwaysOn) : (s.onAo f).dbg = s.dbg := rfl
@[simp] theorem State.onAo_clk (f : AlwaysOn → AlwaysOn) : (s.onAo f).clk = s.clk := rfl
@[simp] theorem State.onAo_pwr (f : AlwaysOn → AlwaysOn) : (s.onAo f).pwr = s.pwr := rfl
@[simp] theorem State.onAo_tst (f : AlwaysOn → AlwaysOn) : (s.onAo f).tst = s.tst := rfl
@[simp] theorem State.onAo_regs (f : AlwaysOn → AlwaysOn) : (s.onAo f).regs = s.regs := rfl

/-! ## onCfg -/

@[simp] theorem State.onCfg_pending (f : Cfg → Cfg) : (s.onCfg f).pending = s.pending := rfl
@[simp] theorem State.onCfg_fresh (f : Cfg → Cfg) : (s.onCfg f).fresh = s.fresh := rfl
@[simp] theorem State.onCfg_readOut (f : Cfg → Cfg) : (s.onCfg f).readOut = s.readOut := rfl
@[simp] theorem State.onCfg_mode (f : Cfg → Cfg) : (s.onCfg f).mode = s.mode := rfl
@[simp] theorem State.onCfg_mgr (f : Cfg → Cfg) : (s.onCfg f).mgr = s.mgr := rfl
@[simp] theorem State.onCfg_boot (f : Cfg → Cfg) : (s.onCfg f).boot = s.boot := rfl
@[simp] theorem State.onCfg_flash (f : Cfg → Cfg) : (s.onCfg f).flash = s.flash := rfl
@[simp] theorem State.onCfg_settings (f : Cfg → Cfg) : (s.onCfg f).settings = s.settings := rfl
@[simp] theorem State.onCfg_fuses (f : Cfg → Cfg) : (s.onCfg f).fuses = s.fuses := rfl
@[simp] theorem State.onCfg_ao (f : Cfg → Cfg) : (s.onCfg f).ao = s.ao := rfl
@[simp] theorem State.onCfg_cfg (f : Cfg → Cfg) : (s.onCfg f).cfg = f s.cfg := rfl
@[simp] theorem State.onCfg_fab (f : Cfg → Cfg) : (s.onCfg f).fab = s.fab := rfl
@[simp] theorem State.onCfg_bm (f : Cfg → Cfg) : (s.onCfg f).bm = s.bm := rfl
@[simp] theorem State.onCfg_dm (f : Cfg → Cfg) : (s.onCfg f).dm = s.dm := rfl
@[simp] theorem State.onCfg_sdu (f : Cfg → Cfg) : (s.onCfg f).sdu = s.sdu := rfl
@[simp] theorem State.onCfg_bank (f : Cfg → Cfg) : (s.onCfg f).bank = s.bank := rfl
@[simp] theorem State.onCfg_pin (f : Cfg → Cfg) : (s.onCfg f).pin = s.pin := rfl
@[simp] theorem State.onCfg_noc (f : Cfg → Cfg) : (s.onCfg f).noc = s.noc := rfl
@[simp] theorem State.onCfg_adl (f : Cfg → Cfg) : (s.onCfg f).adl = s.adl := rfl
@[simp] theorem State.onCfg_xcvr (f : Cfg → Cfg) : (s.onCfg f).xcvr = s.xcvr := rfl
@[simp] theorem State.onCfg_span (f : Cfg → Cfg) : (s.onCfg f).span = s.span := rfl
@[simp] theorem State.onCfg_ddr (f : Cfg → Cfg) : (s.onCfg f).ddr = s.ddr := rfl
@[simp] theorem State.onCfg_mee (f : Cfg → Cfg) : (s.onCfg f).mee = s.mee := rfl
@[simp] theorem State.onCfg_wds (f : Cfg → Cfg) : (s.onCfg f).wds = s.wds := rfl
@[simp] theorem State.onCfg_dbg (f : Cfg → Cfg) : (s.onCfg f).dbg = s.dbg := rfl
@[simp] theorem State.onCfg_clk (f : Cfg → Cfg) : (s.onCfg f).clk = s.clk := rfl
@[simp] theorem State.onCfg_pwr (f : Cfg → Cfg) : (s.onCfg f).pwr = s.pwr := rfl
@[simp] theorem State.onCfg_tst (f : Cfg → Cfg) : (s.onCfg f).tst = s.tst := rfl
@[simp] theorem State.onCfg_regs (f : Cfg → Cfg) : (s.onCfg f).regs = s.regs := rfl

/-! ## onFab -/

@[simp] theorem State.onFab_pending (f : Fabric → Fabric) : (s.onFab f).pending = s.pending := rfl
@[simp] theorem State.onFab_fresh (f : Fabric → Fabric) : (s.onFab f).fresh = s.fresh := rfl
@[simp] theorem State.onFab_readOut (f : Fabric → Fabric) : (s.onFab f).readOut = s.readOut := rfl
@[simp] theorem State.onFab_mode (f : Fabric → Fabric) : (s.onFab f).mode = s.mode := rfl
@[simp] theorem State.onFab_mgr (f : Fabric → Fabric) : (s.onFab f).mgr = s.mgr := rfl
@[simp] theorem State.onFab_boot (f : Fabric → Fabric) : (s.onFab f).boot = s.boot := rfl
@[simp] theorem State.onFab_flash (f : Fabric → Fabric) : (s.onFab f).flash = s.flash := rfl
@[simp] theorem State.onFab_settings (f : Fabric → Fabric) : (s.onFab f).settings = s.settings := rfl
@[simp] theorem State.onFab_fuses (f : Fabric → Fabric) : (s.onFab f).fuses = s.fuses := rfl
@[simp] theorem State.onFab_ao (f : Fabric → Fabric) : (s.onFab f).ao = s.ao := rfl
@[simp] theorem State.onFab_cfg (f : Fabric → Fabric) : (s.onFab f).cfg = s.cfg := rfl
@[simp] theorem State.onFab_fab (f : Fabric → Fabric) : (s.onFab f).fab = f s.fab := rfl
@[simp] theorem State.onFab_bm (f : Fabric → Fabric) : (s.onFab f).bm = s.bm := rfl
@[simp] theorem State.onFab_dm (f : Fabric → Fabric) : (s.onFab f).dm = s.dm := rfl
@[simp] theorem State.onFab_sdu (f : Fabric → Fabric) : (s.onFab f).sdu = s.sdu := rfl
@[simp] theorem State.onFab_bank (f : Fabric → Fabric) : (s.onFab f).bank = s.bank := rfl
@[simp] theorem State.onFab_pin (f : Fabric → Fabric) : (s.onFab f).pin = s.pin := rfl
@[simp] theorem State.onFab_noc (f : Fabric → Fabric) : (s.onFab f).noc = s.noc := rfl
@[simp] theorem State.onFab_adl (f : Fabric → Fabric) : (s.onFab f).adl = s.adl := rfl
@[simp] theorem State.onFab_xcvr (f : Fabric → Fabric) : (s.onFab f).xcvr = s.xcvr := rfl
@[simp] theorem State.onFab_span (f : Fabric → Fabric) : (s.onFab f).span = s.span := rfl
@[simp] theorem State.onFab_ddr (f : Fabric → Fabric) : (s.onFab f).ddr = s.ddr := rfl
@[simp] theorem State.onFab_mee (f : Fabric → Fabric) : (s.onFab f).mee = s.mee := rfl
@[simp] theorem State.onFab_wds (f : Fabric → Fabric) : (s.onFab f).wds = s.wds := rfl
@[simp] theorem State.onFab_dbg (f : Fabric → Fabric) : (s.onFab f).dbg = s.dbg := rfl
@[simp] theorem State.onFab_clk (f : Fabric → Fabric) : (s.onFab f).clk = s.clk := rfl
@[simp] theorem State.onFab_pwr (f : Fabric → Fabric) : (s.onFab f).pwr = s.pwr := rfl
@[simp] theorem State.onFab_tst (f : Fabric → Fabric) : (s.onFab f).tst = s.tst := rfl
@[simp] theorem State.onFab_regs (f : Fabric → Fabric) : (s.onFab f).regs = s.regs := rfl

/-! ## onNoc -/

@[simp] theorem State.onNoc_pending (f : Noc → Noc) : (s.onNoc f).pending = s.pending := rfl
@[simp] theorem State.onNoc_fresh (f : Noc → Noc) : (s.onNoc f).fresh = s.fresh := rfl
@[simp] theorem State.onNoc_readOut (f : Noc → Noc) : (s.onNoc f).readOut = s.readOut := rfl
@[simp] theorem State.onNoc_mode (f : Noc → Noc) : (s.onNoc f).mode = s.mode := rfl
@[simp] theorem State.onNoc_mgr (f : Noc → Noc) : (s.onNoc f).mgr = s.mgr := rfl
@[simp] theorem State.onNoc_boot (f : Noc → Noc) : (s.onNoc f).boot = s.boot := rfl
@[simp] theorem State.onNoc_flash (f : Noc → Noc) : (s.onNoc f).flash = s.flash := rfl
@[simp] theorem State.onNoc_settings (f : Noc → Noc) : (s.onNoc f).settings = s.settings := rfl
@[simp] theorem State.onNoc_fuses (f : Noc → Noc) : (s.onNoc f).fuses = s.fuses := rfl
@[simp] theorem State.onNoc_ao (f : Noc → Noc) : (s.onNoc f).ao = s.ao := rfl
@[simp] theorem State.onNoc_cfg (f : Noc → Noc) : (s.onNoc f).cfg = s.cfg := rfl
@[simp] theorem State.onNoc_fab (f : Noc → Noc) : (s.onNoc f).fab = s.fab := rfl
@[simp] theorem State.onNoc_bm (f : Noc → Noc) : (s.onNoc f).bm = s.bm := rfl
@[simp] theorem State.onNoc_dm (f : Noc → Noc) : (s.onNoc f).dm = s.dm := rfl
@[simp] theorem State.onNoc_sdu (f : Noc → Noc) : (s.onNoc f).sdu = s.sdu := rfl
@[simp] theorem State.onNoc_bank (f : Noc → Noc) : (s.onNoc f).bank = s.bank := rfl
@[simp] theorem State.onNoc_pin (f : Noc → Noc) : (s.onNoc f).pin = s.pin := rfl
@[simp] theorem State.onNoc_noc (f : Noc → Noc) : (s.onNoc f).noc = f s.noc := rfl
@[simp] theorem State.onNoc_adl (f : Noc → Noc) : (s.onNoc f).adl = s.adl := rfl
@[simp] theorem State.onNoc_xcvr (f : Noc → Noc) : (s.onNoc f).xcvr = s.xcvr := rfl
@[simp] theorem State.onNoc_span (f : Noc → Noc) : (s.onNoc f).span = s.span := rfl
@[simp] theorem State.onNoc_ddr (f : Noc → Noc) : (s.onNoc f).ddr = s.ddr := rfl
@[simp] theorem State.onNoc_mee (f : Noc → Noc) : (s.onNoc f).mee = s.mee := rfl
@[simp] theorem State.onNoc_wds (f : Noc → Noc) : (s.onNoc f).wds = s.wds := rfl
@[simp] theorem State.onNoc_dbg (f : Noc → Noc) : (s.onNoc f).dbg = s.dbg := rfl
@[simp] theorem State.onNoc_clk (f : Noc → Noc) : (s.onNoc f).clk = s.clk := rfl
@[simp] theorem State.onNoc_pwr (f : Noc → Noc) : (s.onNoc f).pwr = s.pwr := rfl
@[simp] theorem State.onNoc_tst (f : Noc → Noc) : (s.onNoc f).tst = s.tst := rfl
@[simp] theorem State.onNoc_regs (f : Noc → Noc) : (s.onNoc f).regs = s.regs := rfl

/-! ## onAdl -/

@[simp] theorem State.onAdl_pending (f : Adl → Adl) : (s.onAdl f).pending = s.pending := rfl
@[simp] theorem State.onAdl_fresh (f : Adl → Adl) : (s.onAdl f).fresh = s.fresh := rfl
@[simp] theorem State.onAdl_readOut (f : Adl → Adl) : (s.onAdl f).readOut = s.readOut := rfl
@[simp] theorem State.onAdl_mode (f : Adl → Adl) : (s.onAdl f).mode = s.mode := rfl
@[simp] theorem State.onAdl_mgr (f : Adl → Adl) : (s.onAdl f).mgr = s.mgr := rfl
@[simp] theorem State.onAdl_boot (f : Adl → Adl) : (s.onAdl f).boot = s.boot := rfl
@[simp] theorem State.onAdl_flash (f : Adl → Adl) : (s.onAdl f).flash = s.flash := rfl
@[simp] theorem State.onAdl_settings (f : Adl → Adl) : (s.onAdl f).settings = s.settings := rfl
@[simp] theorem State.onAdl_fuses (f : Adl → Adl) : (s.onAdl f).fuses = s.fuses := rfl
@[simp] theorem State.onAdl_ao (f : Adl → Adl) : (s.onAdl f).ao = s.ao := rfl
@[simp] theorem State.onAdl_cfg (f : Adl → Adl) : (s.onAdl f).cfg = s.cfg := rfl
@[simp] theorem State.onAdl_fab (f : Adl → Adl) : (s.onAdl f).fab = s.fab := rfl
@[simp] theorem State.onAdl_bm (f : Adl → Adl) : (s.onAdl f).bm = s.bm := rfl
@[simp] theorem State.onAdl_dm (f : Adl → Adl) : (s.onAdl f).dm = s.dm := rfl
@[simp] theorem State.onAdl_sdu (f : Adl → Adl) : (s.onAdl f).sdu = s.sdu := rfl
@[simp] theorem State.onAdl_bank (f : Adl → Adl) : (s.onAdl f).bank = s.bank := rfl
@[simp] theorem State.onAdl_pin (f : Adl → Adl) : (s.onAdl f).pin = s.pin := rfl
@[simp] theorem State.onAdl_noc (f : Adl → Adl) : (s.onAdl f).noc = s.noc := rfl
@[simp] theorem State.onAdl_adl (f : Adl → Adl) : (s.onAdl f).adl = f s.adl := rfl
@[simp] theorem State.onAdl_xcvr (f : Adl → Adl) : (s.onAdl f).xcvr = s.xcvr := rfl
@[simp] theorem State.onAdl_span (f : Adl → Adl) : (s.onAdl f).span = s.span := rfl
@[simp] theorem State.onAdl_ddr (f : Adl → Adl) : (s.onAdl f).ddr = s.ddr := rfl
@[simp] theorem State.onAdl_mee (f : Adl → Adl) : (s.onAdl f).mee = s.mee := rfl
@[simp] theorem State.onAdl_wds (f : Adl → Adl) : (s.onAdl f).wds = s.wds := rfl
@[simp] theorem State.onAdl_dbg (f : Adl → Adl) : (s.onAdl f).dbg = s.dbg := rfl
@[simp] theorem State.onAdl_clk (f : Adl → Adl) : (s.onAdl f).clk = s.clk := rfl
@[simp] theorem State.onAdl_pwr (f : Adl → Adl) : (s.onAdl f).pwr = s.pwr := rfl
@[simp] theorem State.onAdl_tst (f : Adl → Adl) : (s.onAdl f).tst = s.tst := rfl
@[simp] theorem State.onAdl_regs (f : Adl → Adl) : (s.onAdl f).regs = s.regs := rfl

/-! ## onXcvr -/

@[simp] theorem State.onXcvr_pending (f : Xcvr → Xcvr) : (s.onXcvr f).pending = s.pending := rfl
@[simp] theorem State.onXcvr_fresh (f : Xcvr → Xcvr) : (s.onXcvr f).fresh = s.fresh := rfl
@[simp] theorem State.onXcvr_readOut (f : Xcvr → Xcvr) : (s.onXcvr f).readOut = s.readOut := rfl
@[simp] theorem State.onXcvr_mode (f : Xcvr → Xcvr) : (s.onXcvr f).mode = s.mode := rfl
@[simp] theorem State.onXcvr_mgr (f : Xcvr → Xcvr) : (s.onXcvr f).mgr = s.mgr := rfl
@[simp] theorem State.onXcvr_boot (f : Xcvr → Xcvr) : (s.onXcvr f).boot = s.boot := rfl
@[simp] theorem State.onXcvr_flash (f : Xcvr → Xcvr) : (s.onXcvr f).flash = s.flash := rfl
@[simp] theorem State.onXcvr_settings (f : Xcvr → Xcvr) : (s.onXcvr f).settings = s.settings := rfl
@[simp] theorem State.onXcvr_fuses (f : Xcvr → Xcvr) : (s.onXcvr f).fuses = s.fuses := rfl
@[simp] theorem State.onXcvr_ao (f : Xcvr → Xcvr) : (s.onXcvr f).ao = s.ao := rfl
@[simp] theorem State.onXcvr_cfg (f : Xcvr → Xcvr) : (s.onXcvr f).cfg = s.cfg := rfl
@[simp] theorem State.onXcvr_fab (f : Xcvr → Xcvr) : (s.onXcvr f).fab = s.fab := rfl
@[simp] theorem State.onXcvr_bm (f : Xcvr → Xcvr) : (s.onXcvr f).bm = s.bm := rfl
@[simp] theorem State.onXcvr_dm (f : Xcvr → Xcvr) : (s.onXcvr f).dm = s.dm := rfl
@[simp] theorem State.onXcvr_sdu (f : Xcvr → Xcvr) : (s.onXcvr f).sdu = s.sdu := rfl
@[simp] theorem State.onXcvr_bank (f : Xcvr → Xcvr) : (s.onXcvr f).bank = s.bank := rfl
@[simp] theorem State.onXcvr_pin (f : Xcvr → Xcvr) : (s.onXcvr f).pin = s.pin := rfl
@[simp] theorem State.onXcvr_noc (f : Xcvr → Xcvr) : (s.onXcvr f).noc = s.noc := rfl
@[simp] theorem State.onXcvr_adl (f : Xcvr → Xcvr) : (s.onXcvr f).adl = s.adl := rfl
@[simp] theorem State.onXcvr_xcvr (f : Xcvr → Xcvr) : (s.onXcvr f).xcvr = f s.xcvr := rfl
@[simp] theorem State.onXcvr_span (f : Xcvr → Xcvr) : (s.onXcvr f).span = s.span := rfl
@[simp] theorem State.onXcvr_ddr (f : Xcvr → Xcvr) : (s.onXcvr f).ddr = s.ddr := rfl
@[simp] theorem State.onXcvr_mee (f : Xcvr → Xcvr) : (s.onXcvr f).mee = s.mee := rfl
@[simp] theorem State.onXcvr_wds (f : Xcvr → Xcvr) : (s.onXcvr f).wds = s.wds := rfl
@[simp] theorem State.onXcvr_dbg (f : Xcvr → Xcvr) : (s.onXcvr f).dbg = s.dbg := rfl
@[simp] theorem State.onXcvr_clk (f : Xcvr → Xcvr) : (s.onXcvr f).clk = s.clk := rfl
@[simp] theorem State.onXcvr_pwr (f : Xcvr → Xcvr) : (s.onXcvr f).pwr = s.pwr := rfl
@[simp] theorem State.onXcvr_tst (f : Xcvr → Xcvr) : (s.onXcvr f).tst = s.tst := rfl
@[simp] theorem State.onXcvr_regs (f : Xcvr → Xcvr) : (s.onXcvr f).regs = s.regs := rfl

/-! ## onSpan -/

@[simp] theorem State.onSpan_pending (f : Span → Span) : (s.onSpan f).pending = s.pending := rfl
@[simp] theorem State.onSpan_fresh (f : Span → Span) : (s.onSpan f).fresh = s.fresh := rfl
@[simp] theorem State.onSpan_readOut (f : Span → Span) : (s.onSpan f).readOut = s.readOut := rfl
@[simp] theorem State.onSpan_mode (f : Span → Span) : (s.onSpan f).mode = s.mode := rfl
@[simp] theorem State.onSpan_mgr (f : Span → Span) : (s.onSpan f).mgr = s.mgr := rfl
@[simp] theorem State.onSpan_boot (f : Span → Span) : (s.onSpan f).boot = s.boot := rfl
@[simp] theorem State.onSpan_flash (f : Span → Span) : (s.onSpan f).flash = s.flash := rfl
@[simp] theorem State.onSpan_settings (f : Span → Span) : (s.onSpan f).settings = s.settings := rfl
@[simp] theorem State.onSpan_fuses (f : Span → Span) : (s.onSpan f).fuses = s.fuses := rfl
@[simp] theorem State.onSpan_ao (f : Span → Span) : (s.onSpan f).ao = s.ao := rfl
@[simp] theorem State.onSpan_cfg (f : Span → Span) : (s.onSpan f).cfg = s.cfg := rfl
@[simp] theorem State.onSpan_fab (f : Span → Span) : (s.onSpan f).fab = s.fab := rfl
@[simp] theorem State.onSpan_bm (f : Span → Span) : (s.onSpan f).bm = s.bm := rfl
@[simp] theorem State.onSpan_dm (f : Span → Span) : (s.onSpan f).dm = s.dm := rfl
@[simp] theorem State.onSpan_sdu (f : Span → Span) : (s.onSpan f).sdu = s.sdu := rfl
@[simp] theorem State.onSpan_bank (f : Span → Span) : (s.onSpan f).bank = s.bank := rfl
@[simp] theorem State.onSpan_pin (f : Span → Span) : (s.onSpan f).pin = s.pin := rfl
@[simp] theorem State.onSpan_noc (f : Span → Span) : (s.onSpan f).noc = s.noc := rfl
@[simp] theorem State.onSpan_adl (f : Span → Span) : (s.onSpan f).adl = s.adl := rfl
@[simp] theorem State.onSpan_xcvr (f : Span → Span) : (s.onSpan f).xcvr = s.xcvr := rfl
@[simp] theorem State.onSpan_span (f : Span → Span) : (s.onSpan f).span = f s.span := rfl
@[simp] theorem State.onSpan_ddr (f : Span → Span) : (s.onSpan f).ddr = s.ddr := rfl
@[simp] theorem State.onSpan_mee (f : Span → Span) : (s.onSpan f).mee = s.mee := rfl
@[simp] theorem State.onSpan_wds (f : Span → Span) : (s.onSpan f).wds = s.wds := rfl
@[simp] theorem State.onSpan_dbg (f : Span → Span) : (s.onSpan f).dbg = s.dbg := rfl
@[simp] theorem State.onSpan_clk (f : Span → Span) : (s.onSpan f).clk = s.clk := rfl
@[simp] theorem State.onSpan_pwr (f : Span → Span) : (s.onSpan f).pwr = s.pwr := rfl
@[simp] theorem State.onSpan_tst (f : Span → Span) : (s.onSpan f).tst = s.tst := rfl
@[simp] theorem State.onSpan_regs (f : Span → Span) : (s.onSpan f).regs = s.regs := rfl

/-! ## onDdr -/

@[simp] theorem State.onDdr_pending (f : Ddr → Ddr) : (s.onDdr f).pending = s.pending := rfl
@[simp] theorem State.onDdr_fresh (f : Ddr → Ddr) : (s.onDdr f).fresh = s.fresh := rfl
@[simp] theorem State.onDdr_readOut (f : Ddr → Ddr) : (s.onDdr f).readOut = s.readOut := rfl
@[simp] theorem State.onDdr_mode (f : Ddr → Ddr) : (s.onDdr f).mode = s.mode := rfl
@[simp] theorem State.onDdr_mgr (f : Ddr → Ddr) : (s.onDdr f).mgr = s.mgr := rfl
@[simp] theorem State.onDdr_boot (f : Ddr → Ddr) : (s.onDdr f).boot = s.boot := rfl
@[simp] theorem State.onDdr_flash (f : Ddr → Ddr) : (s.onDdr f).flash = s.flash := rfl
@[simp] theorem State.onDdr_settings (f : Ddr → Ddr) : (s.onDdr f).settings = s.settings := rfl
@[simp] theorem State.onDdr_fuses (f : Ddr → Ddr) : (s.onDdr f).fuses = s.fuses := rfl
@[simp] theorem State.onDdr_ao (f : Ddr → Ddr) : (s.onDdr f).ao = s.ao := rfl
@[simp] theorem State.onDdr_cfg (f : Ddr → Ddr) : (s.onDdr f).cfg = s.cfg := rfl
@[simp] theorem State.onDdr_fab (f : Ddr → Ddr) : (s.onDdr f).fab = s.fab := rfl
@[simp] theorem State.onDdr_bm (f : Ddr → Ddr) : (s.onDdr f).bm = s.bm := rfl
@[simp] theorem State.onDdr_dm (f : Ddr → Ddr) : (s.onDdr f).dm = s.dm := rfl
@[simp] theorem State.onDdr_sdu (f : Ddr → Ddr) : (s.onDdr f).sdu = s.sdu := rfl
@[simp] theorem State.onDdr_bank (f : Ddr → Ddr) : (s.onDdr f).bank = s.bank := rfl
@[simp] theorem State.onDdr_pin (f : Ddr → Ddr) : (s.onDdr f).pin = s.pin := rfl
@[simp] theorem State.onDdr_noc (f : Ddr → Ddr) : (s.onDdr f).noc = s.noc := rfl
@[simp] theorem State.onDdr_adl (f : Ddr → Ddr) : (s.onDdr f).adl = s.adl := rfl
@[simp] theorem State.onDdr_xcvr (f : Ddr → Ddr) : (s.onDdr f).xcvr = s.xcvr := rfl
@[simp] theorem State.onDdr_span (f : Ddr → Ddr) : (s.onDdr f).span = s.span := rfl
@[simp] theorem State.onDdr_ddr (f : Ddr → Ddr) : (s.onDdr f).ddr = f s.ddr := rfl
@[simp] theorem State.onDdr_mee (f : Ddr → Ddr) : (s.onDdr f).mee = s.mee := rfl
@[simp] theorem State.onDdr_wds (f : Ddr → Ddr) : (s.onDdr f).wds = s.wds := rfl
@[simp] theorem State.onDdr_dbg (f : Ddr → Ddr) : (s.onDdr f).dbg = s.dbg := rfl
@[simp] theorem State.onDdr_clk (f : Ddr → Ddr) : (s.onDdr f).clk = s.clk := rfl
@[simp] theorem State.onDdr_pwr (f : Ddr → Ddr) : (s.onDdr f).pwr = s.pwr := rfl
@[simp] theorem State.onDdr_tst (f : Ddr → Ddr) : (s.onDdr f).tst = s.tst := rfl
@[simp] theorem State.onDdr_regs (f : Ddr → Ddr) : (s.onDdr f).regs = s.regs := rfl

/-! ## onMee -/

@[simp] theorem State.onMee_pending (f : Mee → Mee) : (s.onMee f).pending = s.pending := rfl
@[simp] theorem State.onMee_fresh (f : Mee → Mee) : (s.onMee f).fresh = s.fresh := rfl
@[simp] theorem State.onMee_readOut (f : Mee → Mee) : (s.onMee f).readOut = s.readOut := rfl
@[simp] theorem State.onMee_mode (f : Mee → Mee) : (s.onMee f).mode = s.mode := rfl
@[simp] theorem State.onMee_mgr (f : Mee → Mee) : (s.onMee f).mgr = s.mgr := rfl
@[simp] theorem State.onMee_boot (f : Mee → Mee) : (s.onMee f).boot = s.boot := rfl
@[simp] theorem State.onMee_flash (f : Mee → Mee) : (s.onMee f).flash = s.flash := rfl
@[simp] theorem State.onMee_settings (f : Mee → Mee) : (s.onMee f).settings = s.settings := rfl
@[simp] theorem State.onMee_fuses (f : Mee → Mee) : (s.onMee f).fuses = s.fuses := rfl
@[simp] theorem State.onMee_ao (f : Mee → Mee) : (s.onMee f).ao = s.ao := rfl
@[simp] theorem State.onMee_cfg (f : Mee → Mee) : (s.onMee f).cfg = s.cfg := rfl
@[simp] theorem State.onMee_fab (f : Mee → Mee) : (s.onMee f).fab = s.fab := rfl
@[simp] theorem State.onMee_bm (f : Mee → Mee) : (s.onMee f).bm = s.bm := rfl
@[simp] theorem State.onMee_dm (f : Mee → Mee) : (s.onMee f).dm = s.dm := rfl
@[simp] theorem State.onMee_sdu (f : Mee → Mee) : (s.onMee f).sdu = s.sdu := rfl
@[simp] theorem State.onMee_bank (f : Mee → Mee) : (s.onMee f).bank = s.bank := rfl
@[simp] theorem State.onMee_pin (f : Mee → Mee) : (s.onMee f).pin = s.pin := rfl
@[simp] theorem State.onMee_noc (f : Mee → Mee) : (s.onMee f).noc = s.noc := rfl
@[simp] theorem State.onMee_adl (f : Mee → Mee) : (s.onMee f).adl = s.adl := rfl
@[simp] theorem State.onMee_xcvr (f : Mee → Mee) : (s.onMee f).xcvr = s.xcvr := rfl
@[simp] theorem State.onMee_span (f : Mee → Mee) : (s.onMee f).span = s.span := rfl
@[simp] theorem State.onMee_ddr (f : Mee → Mee) : (s.onMee f).ddr = s.ddr := rfl
@[simp] theorem State.onMee_mee (f : Mee → Mee) : (s.onMee f).mee = f s.mee := rfl
@[simp] theorem State.onMee_wds (f : Mee → Mee) : (s.onMee f).wds = s.wds := rfl
@[simp] theorem State.onMee_dbg (f : Mee → Mee) : (s.onMee f).dbg = s.dbg := rfl
@[simp] theorem State.onMee_clk (f : Mee → Mee) : (s.onMee f).clk = s.clk := rfl
@[simp] theorem State.onMee_pwr (f : Mee → Mee) : (s.onMee f).pwr = s.pwr := rfl
@[simp] theorem State.onMee_tst (f : Mee → Mee) : (s.onMee f).tst = s.tst := rfl
@[simp] theorem State.onMee_regs (f : Mee → Mee) : (s.onMee f).regs = s.regs := rfl

/-! ## onWds -/

@[simp] theorem State.onWds_pending (f : Wds → Wds) : (s.onWds f).pending = s.pending := rfl
@[simp] theorem State.onWds_fresh (f : Wds → Wds) : (s.onWds f).fresh = s.fresh := rfl
@[simp] theorem State.onWds_readOut (f : Wds → Wds) : (s.onWds f).readOut = s.readOut := rfl
@[simp] theorem State.onWds_mode (f : Wds → Wds) : (s.onWds f).mode = s.mode := rfl
@[simp] theorem State.onWds_mgr (f : Wds → Wds) : (s.onWds f).mgr = s.mgr := rfl
@[simp] theorem State.onWds_boot (f : Wds → Wds) : (s.onWds f).boot = s.boot := rfl
@[simp] theorem State.onWds_flash (f : Wds → Wds) : (s.onWds f).flash = s.flash := rfl
@[simp] theorem State.onWds_settings (f : Wds → Wds) : (s.onWds f).settings = s.settings := rfl
@[simp] theorem State.onWds_fuses (f : Wds → Wds) : (s.onWds f).fuses = s.fuses := rfl
@[simp] theorem State.onWds_ao (f : Wds → Wds) : (s.onWds f).ao = s.ao := rfl
@[simp] theorem State.onWds_cfg (f : Wds → Wds) : (s.onWds f).cfg = s.cfg := rfl
@[simp] theorem State.onWds_fab (f : Wds → Wds) : (s.onWds f).fab = s.fab := rfl
@[simp] theorem State.onWds_bm (f : Wds → Wds) : (s.onWds f).bm = s.bm := rfl
@[simp] theorem State.onWds_dm (f : Wds → Wds) : (s.onWds f).dm = s.dm := rfl
@[simp] theorem State.onWds_sdu (f : Wds → Wds) : (s.onWds f).sdu = s.sdu := rfl
@[simp] theorem State.onWds_bank (f : Wds → Wds) : (s.onWds f).bank = s.bank := rfl
@[simp] theorem State.onWds_pin (f : Wds → Wds) : (s.onWds f).pin = s.pin := rfl
@[simp] theorem State.onWds_noc (f : Wds → Wds) : (s.onWds f).noc = s.noc := rfl
@[simp] theorem State.onWds_adl (f : Wds → Wds) : (s.onWds f).adl = s.adl := rfl
@[simp] theorem State.onWds_xcvr (f : Wds → Wds) : (s.onWds f).xcvr = s.xcvr := rfl
@[simp] theorem State.onWds_span (f : Wds → Wds) : (s.onWds f).span = s.span := rfl
@[simp] theorem State.onWds_ddr (f : Wds → Wds) : (s.onWds f).ddr = s.ddr := rfl
@[simp] theorem State.onWds_mee (f : Wds → Wds) : (s.onWds f).mee = s.mee := rfl
@[simp] theorem State.onWds_wds (f : Wds → Wds) : (s.onWds f).wds = f s.wds := rfl
@[simp] theorem State.onWds_dbg (f : Wds → Wds) : (s.onWds f).dbg = s.dbg := rfl
@[simp] theorem State.onWds_clk (f : Wds → Wds) : (s.onWds f).clk = s.clk := rfl
@[simp] theorem State.onWds_pwr (f : Wds → Wds) : (s.onWds f).pwr = s.pwr := rfl
@[simp] theorem State.onWds_tst (f : Wds → Wds) : (s.onWds f).tst = s.tst := rfl
@[simp] theorem State.onWds_regs (f : Wds → Wds) : (s.onWds f).regs = s.regs := rfl

/-! ## onDbg -/

@[simp] theorem State.onDbg_pending (f : Dbg → Dbg) : (s.onDbg f).pending = s.pending := rfl
@[simp] theorem State.onDbg_fresh (f : Dbg → Dbg) : (s.onDbg f).fresh = s.fresh := rfl
@[simp] theorem State.onDbg_readOut (f : Dbg → Dbg) : (s.onDbg f).readOut = s.readOut := rfl
@[simp] theorem State.onDbg_mode (f : Dbg → Dbg) : (s.onDbg f).mode = s.mode := rfl
@[simp] theorem State.onDbg_mgr (f : Dbg → Dbg) : (s.onDbg f).mgr = s.mgr := rfl
@[simp] theorem State.onDbg_boot (f : Dbg → Dbg) : (s.onDbg f).boot = s.boot := rfl
@[simp] theorem State.onDbg_flash (f : Dbg → Dbg) : (s.onDbg f).flash = s.flash := rfl
@[simp] theorem State.onDbg_settings (f : Dbg → Dbg) : (s.onDbg f).settings = s.settings := rfl
@[simp] theorem State.onDbg_fuses (f : Dbg → Dbg) : (s.onDbg f).fuses = s.fuses := rfl
@[simp] theorem State.onDbg_ao (f : Dbg → Dbg) : (s.onDbg f).ao = s.ao := rfl
@[simp] theorem State.onDbg_cfg (f : Dbg → Dbg) : (s.onDbg f).cfg = s.cfg := rfl
@[simp] theorem State.onDbg_fab (f : Dbg → Dbg) : (s.onDbg f).fab = s.fab := rfl
@[simp] theorem State.onDbg_bm (f : Dbg → Dbg) : (s.onDbg f).bm = s.bm := rfl
@[simp] theorem State.onDbg_dm (f : Dbg → Dbg) : (s.onDbg f).dm = s.dm := rfl
@[simp] theorem State.onDbg_sdu (f : Dbg → Dbg) : (s.onDbg f).sdu = s.sdu := rfl
@[simp] theorem State.onDbg_bank (f : Dbg → Dbg) : (s.onDbg f).bank = s.bank := rfl
@[simp] theorem State.onDbg_pin (f : Dbg → Dbg) : (s.onDbg f).pin = s.pin := rfl
@[simp] theorem State.onDbg_noc (f : Dbg → Dbg) : (s.onDbg f).noc = s.noc := rfl
@[simp] theorem State.onDbg_adl (f : Dbg → Dbg) : (s.onDbg f).adl = s.adl := rfl
@[simp] theorem State.onDbg_xcvr (f : Dbg → Dbg) : (s.onDbg f).xcvr = s.xcvr := rfl
@[simp] theorem State.onDbg_span (f : Dbg → Dbg) : (s.onDbg f).span = s.span := rfl
@[simp] theorem State.onDbg_ddr (f : Dbg → Dbg) : (s.onDbg f).ddr = s.ddr := rfl
@[simp] theorem State.onDbg_mee (f : Dbg → Dbg) : (s.onDbg f).mee = s.mee := rfl
@[simp] theorem State.onDbg_wds (f : Dbg → Dbg) : (s.onDbg f).wds = s.wds := rfl
@[simp] theorem State.onDbg_dbg (f : Dbg → Dbg) : (s.onDbg f).dbg = f s.dbg := rfl
@[simp] theorem State.onDbg_clk (f : Dbg → Dbg) : (s.onDbg f).clk = s.clk := rfl
@[simp] theorem State.onDbg_pwr (f : Dbg → Dbg) : (s.onDbg f).pwr = s.pwr := rfl
@[simp] theorem State.onDbg_tst (f : Dbg → Dbg) : (s.onDbg f).tst = s.tst := rfl
@[simp] theorem State.onDbg_regs (f : Dbg → Dbg) : (s.onDbg f).regs = s.regs := rfl

/-! ## onClk -/

@[simp] theorem State.onClk_pending (f : Clk → Clk) : (s.onClk f).pending = s.pending := rfl
@[simp] theorem State.onClk_fresh (f : Clk → Clk) : (s.onClk f).fresh = s.fresh := rfl
@[simp] theorem State.onClk_readOut (f : Clk → Clk) : (s.onClk f).readOut = s.readOut := rfl
@[simp] theorem State.onClk_mode (f : Clk → Clk) : (s.onClk f).mode = s.mode := rfl
@[simp] theorem State.onClk_mgr (f : Clk → Clk) : (s.onClk f).mgr = s.mgr := rfl
@[simp] theorem State.onClk_boot (f : Clk → Clk) : (s.onClk f).boot = s.boot := rfl
@[simp] theorem State.onClk_flash (f : Clk → Clk) : (s.onClk f).flash = s.flash := rfl
@[simp] theorem State.onClk_settings (f : Clk → Clk) : (s.onClk f).settings = s.settings := rfl
@[simp] theorem State.onClk_fuses (f : Clk → Clk) : (s.onClk f).fuses = s.fuses := rfl
@[simp] theorem State.onClk_ao (f : Clk → Clk) : (s.onClk f).ao = s.ao := rfl
@[simp] theorem State.onClk_cfg (f : Clk → Clk) : (s.onClk f).cfg = s.cfg := rfl
@[simp] theorem State.onClk_fab (f : Clk → Clk) : (s.onClk f).fab = s.fab := rfl
@[simp] theorem State.onClk_bm (f : Clk → Clk) : (s.onClk f).bm = s.bm := rfl
@[simp] theorem State.onClk_dm (f : Clk → Clk) : (s.onClk f).dm = s.dm := rfl
@[simp] theorem State.onClk_sdu (f : Clk → Clk) : (s.onClk f).sdu = s.sdu := rfl
@[simp] theorem State.onClk_bank (f : Clk → Clk) : (s.onClk f).bank = s.bank := rfl
@[simp] theorem State.onClk_pin (f : Clk → Clk) : (s.onClk f).pin = s.pin := rfl
@[simp] theorem State.onClk_noc (f : Clk → Clk) : (s.onClk f).noc = s.noc := rfl
@[simp] theorem State.onClk_adl (f : Clk → Clk) : (s.onClk f).adl = s.adl := rfl
@[simp] theorem State.onClk_xcvr (f : Clk → Clk) : (s.onClk f).xcvr = s.xcvr := rfl
@[simp] theorem State.onClk_span (f : Clk → Clk) : (s.onClk f).span = s.span := rfl
@[simp] theorem State.onClk_ddr (f : Clk → Clk) : (s.onClk f).ddr = s.ddr := rfl
@[simp] theorem State.onClk_mee (f : Clk → Clk) : (s.onClk f).mee = s.mee := rfl
@[simp] theorem State.onClk_wds (f : Clk → Clk) : (s.onClk f).wds = s.wds := rfl
@[simp] theorem State.onClk_dbg (f : Clk → Clk) : (s.onClk f).dbg = s.dbg := rfl
@[simp] theorem State.onClk_clk (f : Clk → Clk) : (s.onClk f).clk = f s.clk := rfl
@[simp] theorem State.onClk_pwr (f : Clk → Clk) : (s.onClk f).pwr = s.pwr := rfl
@[simp] theorem State.onClk_tst (f : Clk → Clk) : (s.onClk f).tst = s.tst := rfl
@[simp] theorem State.onClk_regs (f : Clk → Clk) : (s.onClk f).regs = s.regs := rfl

/-! ## onPwr -/

@[simp] theorem State.onPwr_pending (f : Pwr → Pwr) : (s.onPwr f).pending = s.pending := rfl
@[simp] theorem State.onPwr_fresh (f : Pwr → Pwr) : (s.onPwr f).fresh = s.fresh := rfl
@[simp] theorem State.onPwr_readOut (f : Pwr → Pwr) : (s.onPwr f).readOut = s.readOut := rfl
@[simp] theorem State.onPwr_mode (f : Pwr → Pwr) : (s.onPwr f).mode = s.mode := rfl
@[simp] theorem State.onPwr_mgr (f : Pwr → Pwr) : (s.onPwr f).mgr = s.mgr := rfl
@[simp] theorem State.onPwr_boot (f : Pwr → Pwr) : (s.onPwr f).boot = s.boot := rfl
@[simp] theorem State.onPwr_flash (f : Pwr → Pwr) : (s.onPwr f).flash = s.flash := rfl
@[simp] theorem State.onPwr_settings (f : Pwr → Pwr) : (s.onPwr f).settings = s.settings := rfl
@[simp] theorem State.onPwr_fuses (f : Pwr → Pwr) : (s.onPwr f).fuses = s.fuses := rfl
@[simp] theorem State.onPwr_ao (f : Pwr → Pwr) : (s.onPwr f).ao = s.ao := rfl
@[simp] theorem State.onPwr_cfg (f : Pwr → Pwr) : (s.onPwr f).cfg = s.cfg := rfl
@[simp] theorem State.onPwr_fab (f : Pwr → Pwr) : (s.onPwr f).fab = s.fab := rfl
@[simp] theorem State.onPwr_bm (f : Pwr → Pwr) : (s.onPwr f).bm = s.bm := rfl
@[simp] theorem State.onPwr_dm (f : Pwr → Pwr) : (s.onPwr f).dm = s.dm := rfl
@[simp] theorem State.onPwr_sdu (f : Pwr → Pwr) : (s.onPwr f).sdu = s.sdu := rfl
@[simp] theorem State.onPwr_bank (f : Pwr → Pwr) : (s.onPwr f).bank = s.bank := rfl
@[simp] theorem State.onPwr_pin (f : Pwr → Pwr) : (s.onPwr f).pin = s.pin := rfl
@[simp] theorem State.onPwr_noc (f : Pwr → Pwr) : (s.onPwr f).noc = s.noc := rfl
@[simp] theorem State.onPwr_adl (f : Pwr → Pwr) : (s.onPwr f).adl = s.adl := rfl
@[simp] theorem State.onPwr_xcvr (f : Pwr → Pwr) : (s.onPwr f).xcvr = s.xcvr := rfl
@[simp] theorem State.onPwr_span (f : Pwr → Pwr) : (s.onPwr f).span = s.span := rfl
@[simp] theorem State.onPwr_ddr (f : Pwr → Pwr) : (s.onPwr f).ddr = s.ddr := rfl
@[simp] theorem State.onPwr_mee (f : Pwr → Pwr) : (s.onPwr f).mee = s.mee := rfl
@[simp] theorem State.onPwr_wds (f : Pwr → Pwr) : (s.onPwr f).wds = s.wds := rfl
@[simp] theorem State.onPwr_dbg (f : Pwr → Pwr) : (s.onPwr f).dbg = s.dbg := rfl
@[simp] theorem State.onPwr_clk (f : Pwr → Pwr) : (s.onPwr f).clk = s.clk := rfl
@[simp] theorem State.onPwr_pwr (f : Pwr → Pwr) : (s.onPwr f).pwr = f s.pwr := rfl
@[simp] theorem State.onPwr_tst (f : Pwr → Pwr) : (s.onPwr f).tst = s.tst := rfl
@[simp] theorem State.onPwr_regs (f : Pwr → Pwr) : (s.onPwr f).regs = s.regs := rfl

/-! ## onTst -/

@[simp] theorem State.onTst_pending (f : Tst → Tst) : (s.onTst f).pending = s.pending := rfl
@[simp] theorem State.onTst_fresh (f : Tst → Tst) : (s.onTst f).fresh = s.fresh := rfl
@[simp] theorem State.onTst_readOut (f : Tst → Tst) : (s.onTst f).readOut = s.readOut := rfl
@[simp] theorem State.onTst_mode (f : Tst → Tst) : (s.onTst f).mode = s.mode := rfl
@[simp] theorem State.onTst_mgr (f : Tst → Tst) : (s.onTst f).mgr = s.mgr := rfl
@[simp] theorem State.onTst_boot (f : Tst → Tst) : (s.onTst f).boot = s.boot := rfl
@[simp] theorem State.onTst_flash (f : Tst → Tst) : (s.onTst f).flash = s.flash := rfl
@[simp] theorem State.onTst_settings (f : Tst → Tst) : (s.onTst f).settings = s.settings := rfl
@[simp] theorem State.onTst_fuses (f : Tst → Tst) : (s.onTst f).fuses = s.fuses := rfl
@[simp] theorem State.onTst_ao (f : Tst → Tst) : (s.onTst f).ao = s.ao := rfl
@[simp] theorem State.onTst_cfg (f : Tst → Tst) : (s.onTst f).cfg = s.cfg := rfl
@[simp] theorem State.onTst_fab (f : Tst → Tst) : (s.onTst f).fab = s.fab := rfl
@[simp] theorem State.onTst_bm (f : Tst → Tst) : (s.onTst f).bm = s.bm := rfl
@[simp] theorem State.onTst_dm (f : Tst → Tst) : (s.onTst f).dm = s.dm := rfl
@[simp] theorem State.onTst_sdu (f : Tst → Tst) : (s.onTst f).sdu = s.sdu := rfl
@[simp] theorem State.onTst_bank (f : Tst → Tst) : (s.onTst f).bank = s.bank := rfl
@[simp] theorem State.onTst_pin (f : Tst → Tst) : (s.onTst f).pin = s.pin := rfl
@[simp] theorem State.onTst_noc (f : Tst → Tst) : (s.onTst f).noc = s.noc := rfl
@[simp] theorem State.onTst_adl (f : Tst → Tst) : (s.onTst f).adl = s.adl := rfl
@[simp] theorem State.onTst_xcvr (f : Tst → Tst) : (s.onTst f).xcvr = s.xcvr := rfl
@[simp] theorem State.onTst_span (f : Tst → Tst) : (s.onTst f).span = s.span := rfl
@[simp] theorem State.onTst_ddr (f : Tst → Tst) : (s.onTst f).ddr = s.ddr := rfl
@[simp] theorem State.onTst_mee (f : Tst → Tst) : (s.onTst f).mee = s.mee := rfl
@[simp] theorem State.onTst_wds (f : Tst → Tst) : (s.onTst f).wds = s.wds := rfl
@[simp] theorem State.onTst_dbg (f : Tst → Tst) : (s.onTst f).dbg = s.dbg := rfl
@[simp] theorem State.onTst_clk (f : Tst → Tst) : (s.onTst f).clk = s.clk := rfl
@[simp] theorem State.onTst_pwr (f : Tst → Tst) : (s.onTst f).pwr = s.pwr := rfl
@[simp] theorem State.onTst_tst (f : Tst → Tst) : (s.onTst f).tst = f s.tst := rfl
@[simp] theorem State.onTst_regs (f : Tst → Tst) : (s.onTst f).regs = s.regs := rfl

/-! ## bmAtMod -/

@[simp] theorem State.bmAtMod_pending (b : BmId) (f : BlockMem → BlockMem) : (s.bmAtMod b f).pending = s.pending := rfl
@[simp] theorem State.bmAtMod_fresh (b : BmId) (f : BlockMem → BlockMem) : (s.bmAtMod b f).fresh = s.fresh := rfl
@[simp] theorem State.bmAtMod_readOut (b : BmId) (f : BlockMem → BlockMem) : (s.bmAtMod b f).readOut = s.readOut := rfl
@[simp] theorem State.bmAtMod_mode (b : BmId) (f : BlockMem → BlockMem) : (s.bmAtMod b f).mode = s.mode := rfl
@[simp] theorem State.bmAtMod_mgr (b : BmId) (f : BlockMem → BlockMem) : (s.bmAtMod b f).mgr = s.mgr := rfl
@[simp] theorem State.bmAtMod_boot (b : BmId) (f : BlockMem → BlockMem) : (s.bmAtMod b f).boot = s.boot := rfl
@[simp] theorem State.bmAtMod_flash (b : BmId) (f : BlockMem → BlockMem) : (s.bmAtMod b f).flash = s.flash := rfl
@[simp] theorem State.bmAtMod_settings (b : BmId) (f : BlockMem → BlockMem) : (s.bmAtMod b f).settings = s.settings := rfl
@[simp] theorem State.bmAtMod_fuses (b : BmId) (f : BlockMem → BlockMem) : (s.bmAtMod b f).fuses = s.fuses := rfl
@[simp] theorem State.bmAtMod_ao (b : BmId) (f : BlockMem → BlockMem) : (s.bmAtMod b f).ao = s.ao := rfl
@[simp] theorem State.bmAtMod_cfg (b : BmId) (f : BlockMem → BlockMem) : (s.bmAtMod b f).cfg = s.cfg := rfl
@[simp] theorem State.bmAtMod_fab (b : BmId) (f : BlockMem → BlockMem) : (s.bmAtMod b f).fab = s.fab := rfl
@[simp] theorem State.bmAtMod_bm (b : BmId) (f : BlockMem → BlockMem) : (s.bmAtMod b f).bm = smod {} s.bm b.key f := rfl
@[simp] theorem State.bmAtMod_dm (b : BmId) (f : BlockMem → BlockMem) : (s.bmAtMod b f).dm = s.dm := rfl
@[simp] theorem State.bmAtMod_sdu (b : BmId) (f : BlockMem → BlockMem) : (s.bmAtMod b f).sdu = s.sdu := rfl
@[simp] theorem State.bmAtMod_bank (b : BmId) (f : BlockMem → BlockMem) : (s.bmAtMod b f).bank = s.bank := rfl
@[simp] theorem State.bmAtMod_pin (b : BmId) (f : BlockMem → BlockMem) : (s.bmAtMod b f).pin = s.pin := rfl
@[simp] theorem State.bmAtMod_noc (b : BmId) (f : BlockMem → BlockMem) : (s.bmAtMod b f).noc = s.noc := rfl
@[simp] theorem State.bmAtMod_adl (b : BmId) (f : BlockMem → BlockMem) : (s.bmAtMod b f).adl = s.adl := rfl
@[simp] theorem State.bmAtMod_xcvr (b : BmId) (f : BlockMem → BlockMem) : (s.bmAtMod b f).xcvr = s.xcvr := rfl
@[simp] theorem State.bmAtMod_span (b : BmId) (f : BlockMem → BlockMem) : (s.bmAtMod b f).span = s.span := rfl
@[simp] theorem State.bmAtMod_ddr (b : BmId) (f : BlockMem → BlockMem) : (s.bmAtMod b f).ddr = s.ddr := rfl
@[simp] theorem State.bmAtMod_mee (b : BmId) (f : BlockMem → BlockMem) : (s.bmAtMod b f).mee = s.mee := rfl
@[simp] theorem State.bmAtMod_wds (b : BmId) (f : BlockMem → BlockMem) : (s.bmAtMod b f).wds = s.wds := rfl
@[simp] theorem State.bmAtMod_dbg (b : BmId) (f : BlockMem → BlockMem) : (s.bmAtMod b f).dbg = s.dbg := rfl
@[simp] theorem State.bmAtMod_clk (b : BmId) (f : BlockMem → BlockMem) : (s.bmAtMod b f).clk = s.clk := rfl
@[simp] theorem State.bmAtMod_pwr (b : BmId) (f : BlockMem → BlockMem) : (s.bmAtMod b f).pwr = s.pwr := rfl
@[simp] theorem State.bmAtMod_tst (b : BmId) (f : BlockMem → BlockMem) : (s.bmAtMod b f).tst = s.tst := rfl
@[simp] theorem State.bmAtMod_regs (b : BmId) (f : BlockMem → BlockMem) : (s.bmAtMod b f).regs = s.regs := rfl

/-! ## dmAtMod -/

@[simp] theorem State.dmAtMod_pending (c : SecId) (f : DeepMem → DeepMem) : (s.dmAtMod c f).pending = s.pending := rfl
@[simp] theorem State.dmAtMod_fresh (c : SecId) (f : DeepMem → DeepMem) : (s.dmAtMod c f).fresh = s.fresh := rfl
@[simp] theorem State.dmAtMod_readOut (c : SecId) (f : DeepMem → DeepMem) : (s.dmAtMod c f).readOut = s.readOut := rfl
@[simp] theorem State.dmAtMod_mode (c : SecId) (f : DeepMem → DeepMem) : (s.dmAtMod c f).mode = s.mode := rfl
@[simp] theorem State.dmAtMod_mgr (c : SecId) (f : DeepMem → DeepMem) : (s.dmAtMod c f).mgr = s.mgr := rfl
@[simp] theorem State.dmAtMod_boot (c : SecId) (f : DeepMem → DeepMem) : (s.dmAtMod c f).boot = s.boot := rfl
@[simp] theorem State.dmAtMod_flash (c : SecId) (f : DeepMem → DeepMem) : (s.dmAtMod c f).flash = s.flash := rfl
@[simp] theorem State.dmAtMod_settings (c : SecId) (f : DeepMem → DeepMem) : (s.dmAtMod c f).settings = s.settings := rfl
@[simp] theorem State.dmAtMod_fuses (c : SecId) (f : DeepMem → DeepMem) : (s.dmAtMod c f).fuses = s.fuses := rfl
@[simp] theorem State.dmAtMod_ao (c : SecId) (f : DeepMem → DeepMem) : (s.dmAtMod c f).ao = s.ao := rfl
@[simp] theorem State.dmAtMod_cfg (c : SecId) (f : DeepMem → DeepMem) : (s.dmAtMod c f).cfg = s.cfg := rfl
@[simp] theorem State.dmAtMod_fab (c : SecId) (f : DeepMem → DeepMem) : (s.dmAtMod c f).fab = s.fab := rfl
@[simp] theorem State.dmAtMod_bm (c : SecId) (f : DeepMem → DeepMem) : (s.dmAtMod c f).bm = s.bm := rfl
@[simp] theorem State.dmAtMod_dm (c : SecId) (f : DeepMem → DeepMem) : (s.dmAtMod c f).dm = smod {} s.dm c.key f := rfl
@[simp] theorem State.dmAtMod_sdu (c : SecId) (f : DeepMem → DeepMem) : (s.dmAtMod c f).sdu = s.sdu := rfl
@[simp] theorem State.dmAtMod_bank (c : SecId) (f : DeepMem → DeepMem) : (s.dmAtMod c f).bank = s.bank := rfl
@[simp] theorem State.dmAtMod_pin (c : SecId) (f : DeepMem → DeepMem) : (s.dmAtMod c f).pin = s.pin := rfl
@[simp] theorem State.dmAtMod_noc (c : SecId) (f : DeepMem → DeepMem) : (s.dmAtMod c f).noc = s.noc := rfl
@[simp] theorem State.dmAtMod_adl (c : SecId) (f : DeepMem → DeepMem) : (s.dmAtMod c f).adl = s.adl := rfl
@[simp] theorem State.dmAtMod_xcvr (c : SecId) (f : DeepMem → DeepMem) : (s.dmAtMod c f).xcvr = s.xcvr := rfl
@[simp] theorem State.dmAtMod_span (c : SecId) (f : DeepMem → DeepMem) : (s.dmAtMod c f).span = s.span := rfl
@[simp] theorem State.dmAtMod_ddr (c : SecId) (f : DeepMem → DeepMem) : (s.dmAtMod c f).ddr = s.ddr := rfl
@[simp] theorem State.dmAtMod_mee (c : SecId) (f : DeepMem → DeepMem) : (s.dmAtMod c f).mee = s.mee := rfl
@[simp] theorem State.dmAtMod_wds (c : SecId) (f : DeepMem → DeepMem) : (s.dmAtMod c f).wds = s.wds := rfl
@[simp] theorem State.dmAtMod_dbg (c : SecId) (f : DeepMem → DeepMem) : (s.dmAtMod c f).dbg = s.dbg := rfl
@[simp] theorem State.dmAtMod_clk (c : SecId) (f : DeepMem → DeepMem) : (s.dmAtMod c f).clk = s.clk := rfl
@[simp] theorem State.dmAtMod_pwr (c : SecId) (f : DeepMem → DeepMem) : (s.dmAtMod c f).pwr = s.pwr := rfl
@[simp] theorem State.dmAtMod_tst (c : SecId) (f : DeepMem → DeepMem) : (s.dmAtMod c f).tst = s.tst := rfl
@[simp] theorem State.dmAtMod_regs (c : SecId) (f : DeepMem → DeepMem) : (s.dmAtMod c f).regs = s.regs := rfl

/-! ## sduAtMod -/

@[simp] theorem State.sduAtMod_pending (u : SduId) (f : Sdu → Sdu) : (s.sduAtMod u f).pending = s.pending := rfl
@[simp] theorem State.sduAtMod_fresh (u : SduId) (f : Sdu → Sdu) : (s.sduAtMod u f).fresh = s.fresh := rfl
@[simp] theorem State.sduAtMod_readOut (u : SduId) (f : Sdu → Sdu) : (s.sduAtMod u f).readOut = s.readOut := rfl
@[simp] theorem State.sduAtMod_mode (u : SduId) (f : Sdu → Sdu) : (s.sduAtMod u f).mode = s.mode := rfl
@[simp] theorem State.sduAtMod_mgr (u : SduId) (f : Sdu → Sdu) : (s.sduAtMod u f).mgr = s.mgr := rfl
@[simp] theorem State.sduAtMod_boot (u : SduId) (f : Sdu → Sdu) : (s.sduAtMod u f).boot = s.boot := rfl
@[simp] theorem State.sduAtMod_flash (u : SduId) (f : Sdu → Sdu) : (s.sduAtMod u f).flash = s.flash := rfl
@[simp] theorem State.sduAtMod_settings (u : SduId) (f : Sdu → Sdu) : (s.sduAtMod u f).settings = s.settings := rfl
@[simp] theorem State.sduAtMod_fuses (u : SduId) (f : Sdu → Sdu) : (s.sduAtMod u f).fuses = s.fuses := rfl
@[simp] theorem State.sduAtMod_ao (u : SduId) (f : Sdu → Sdu) : (s.sduAtMod u f).ao = s.ao := rfl
@[simp] theorem State.sduAtMod_cfg (u : SduId) (f : Sdu → Sdu) : (s.sduAtMod u f).cfg = s.cfg := rfl
@[simp] theorem State.sduAtMod_fab (u : SduId) (f : Sdu → Sdu) : (s.sduAtMod u f).fab = s.fab := rfl
@[simp] theorem State.sduAtMod_bm (u : SduId) (f : Sdu → Sdu) : (s.sduAtMod u f).bm = s.bm := rfl
@[simp] theorem State.sduAtMod_dm (u : SduId) (f : Sdu → Sdu) : (s.sduAtMod u f).dm = s.dm := rfl
@[simp] theorem State.sduAtMod_sdu (u : SduId) (f : Sdu → Sdu) : (s.sduAtMod u f).sdu = smod {} s.sdu u.key f := rfl
@[simp] theorem State.sduAtMod_bank (u : SduId) (f : Sdu → Sdu) : (s.sduAtMod u f).bank = s.bank := rfl
@[simp] theorem State.sduAtMod_pin (u : SduId) (f : Sdu → Sdu) : (s.sduAtMod u f).pin = s.pin := rfl
@[simp] theorem State.sduAtMod_noc (u : SduId) (f : Sdu → Sdu) : (s.sduAtMod u f).noc = s.noc := rfl
@[simp] theorem State.sduAtMod_adl (u : SduId) (f : Sdu → Sdu) : (s.sduAtMod u f).adl = s.adl := rfl
@[simp] theorem State.sduAtMod_xcvr (u : SduId) (f : Sdu → Sdu) : (s.sduAtMod u f).xcvr = s.xcvr := rfl
@[simp] theorem State.sduAtMod_span (u : SduId) (f : Sdu → Sdu) : (s.sduAtMod u f).span = s.span := rfl
@[simp] theorem State.sduAtMod_ddr (u : SduId) (f : Sdu → Sdu) : (s.sduAtMod u f).ddr = s.ddr := rfl
@[simp] theorem State.sduAtMod_mee (u : SduId) (f : Sdu → Sdu) : (s.sduAtMod u f).mee = s.mee := rfl
@[simp] theorem State.sduAtMod_wds (u : SduId) (f : Sdu → Sdu) : (s.sduAtMod u f).wds = s.wds := rfl
@[simp] theorem State.sduAtMod_dbg (u : SduId) (f : Sdu → Sdu) : (s.sduAtMod u f).dbg = s.dbg := rfl
@[simp] theorem State.sduAtMod_clk (u : SduId) (f : Sdu → Sdu) : (s.sduAtMod u f).clk = s.clk := rfl
@[simp] theorem State.sduAtMod_pwr (u : SduId) (f : Sdu → Sdu) : (s.sduAtMod u f).pwr = s.pwr := rfl
@[simp] theorem State.sduAtMod_tst (u : SduId) (f : Sdu → Sdu) : (s.sduAtMod u f).tst = s.tst := rfl
@[simp] theorem State.sduAtMod_regs (u : SduId) (f : Sdu → Sdu) : (s.sduAtMod u f).regs = s.regs := rfl

/-! ## bankAtMod -/

@[simp] theorem State.bankAtMod_pending (n : Nat) (f : Bank → Bank) : (s.bankAtMod n f).pending = s.pending := rfl
@[simp] theorem State.bankAtMod_fresh (n : Nat) (f : Bank → Bank) : (s.bankAtMod n f).fresh = s.fresh := rfl
@[simp] theorem State.bankAtMod_readOut (n : Nat) (f : Bank → Bank) : (s.bankAtMod n f).readOut = s.readOut := rfl
@[simp] theorem State.bankAtMod_mode (n : Nat) (f : Bank → Bank) : (s.bankAtMod n f).mode = s.mode := rfl
@[simp] theorem State.bankAtMod_mgr (n : Nat) (f : Bank → Bank) : (s.bankAtMod n f).mgr = s.mgr := rfl
@[simp] theorem State.bankAtMod_boot (n : Nat) (f : Bank → Bank) : (s.bankAtMod n f).boot = s.boot := rfl
@[simp] theorem State.bankAtMod_flash (n : Nat) (f : Bank → Bank) : (s.bankAtMod n f).flash = s.flash := rfl
@[simp] theorem State.bankAtMod_settings (n : Nat) (f : Bank → Bank) : (s.bankAtMod n f).settings = s.settings := rfl
@[simp] theorem State.bankAtMod_fuses (n : Nat) (f : Bank → Bank) : (s.bankAtMod n f).fuses = s.fuses := rfl
@[simp] theorem State.bankAtMod_ao (n : Nat) (f : Bank → Bank) : (s.bankAtMod n f).ao = s.ao := rfl
@[simp] theorem State.bankAtMod_cfg (n : Nat) (f : Bank → Bank) : (s.bankAtMod n f).cfg = s.cfg := rfl
@[simp] theorem State.bankAtMod_fab (n : Nat) (f : Bank → Bank) : (s.bankAtMod n f).fab = s.fab := rfl
@[simp] theorem State.bankAtMod_bm (n : Nat) (f : Bank → Bank) : (s.bankAtMod n f).bm = s.bm := rfl
@[simp] theorem State.bankAtMod_dm (n : Nat) (f : Bank → Bank) : (s.bankAtMod n f).dm = s.dm := rfl
@[simp] theorem State.bankAtMod_sdu (n : Nat) (f : Bank → Bank) : (s.bankAtMod n f).sdu = s.sdu := rfl
@[simp] theorem State.bankAtMod_bank (n : Nat) (f : Bank → Bank) : (s.bankAtMod n f).bank = smod {} s.bank n f := rfl
@[simp] theorem State.bankAtMod_pin (n : Nat) (f : Bank → Bank) : (s.bankAtMod n f).pin = s.pin := rfl
@[simp] theorem State.bankAtMod_noc (n : Nat) (f : Bank → Bank) : (s.bankAtMod n f).noc = s.noc := rfl
@[simp] theorem State.bankAtMod_adl (n : Nat) (f : Bank → Bank) : (s.bankAtMod n f).adl = s.adl := rfl
@[simp] theorem State.bankAtMod_xcvr (n : Nat) (f : Bank → Bank) : (s.bankAtMod n f).xcvr = s.xcvr := rfl
@[simp] theorem State.bankAtMod_span (n : Nat) (f : Bank → Bank) : (s.bankAtMod n f).span = s.span := rfl
@[simp] theorem State.bankAtMod_ddr (n : Nat) (f : Bank → Bank) : (s.bankAtMod n f).ddr = s.ddr := rfl
@[simp] theorem State.bankAtMod_mee (n : Nat) (f : Bank → Bank) : (s.bankAtMod n f).mee = s.mee := rfl
@[simp] theorem State.bankAtMod_wds (n : Nat) (f : Bank → Bank) : (s.bankAtMod n f).wds = s.wds := rfl
@[simp] theorem State.bankAtMod_dbg (n : Nat) (f : Bank → Bank) : (s.bankAtMod n f).dbg = s.dbg := rfl
@[simp] theorem State.bankAtMod_clk (n : Nat) (f : Bank → Bank) : (s.bankAtMod n f).clk = s.clk := rfl
@[simp] theorem State.bankAtMod_pwr (n : Nat) (f : Bank → Bank) : (s.bankAtMod n f).pwr = s.pwr := rfl
@[simp] theorem State.bankAtMod_tst (n : Nat) (f : Bank → Bank) : (s.bankAtMod n f).tst = s.tst := rfl
@[simp] theorem State.bankAtMod_regs (n : Nat) (f : Bank → Bank) : (s.bankAtMod n f).regs = s.regs := rfl

/-! ## pinAtMod -/

@[simp] theorem State.pinAtMod_pending (q : PinId) (f : Pin → Pin) : (s.pinAtMod q f).pending = s.pending := rfl
@[simp] theorem State.pinAtMod_fresh (q : PinId) (f : Pin → Pin) : (s.pinAtMod q f).fresh = s.fresh := rfl
@[simp] theorem State.pinAtMod_readOut (q : PinId) (f : Pin → Pin) : (s.pinAtMod q f).readOut = s.readOut := rfl
@[simp] theorem State.pinAtMod_mode (q : PinId) (f : Pin → Pin) : (s.pinAtMod q f).mode = s.mode := rfl
@[simp] theorem State.pinAtMod_mgr (q : PinId) (f : Pin → Pin) : (s.pinAtMod q f).mgr = s.mgr := rfl
@[simp] theorem State.pinAtMod_boot (q : PinId) (f : Pin → Pin) : (s.pinAtMod q f).boot = s.boot := rfl
@[simp] theorem State.pinAtMod_flash (q : PinId) (f : Pin → Pin) : (s.pinAtMod q f).flash = s.flash := rfl
@[simp] theorem State.pinAtMod_settings (q : PinId) (f : Pin → Pin) : (s.pinAtMod q f).settings = s.settings := rfl
@[simp] theorem State.pinAtMod_fuses (q : PinId) (f : Pin → Pin) : (s.pinAtMod q f).fuses = s.fuses := rfl
@[simp] theorem State.pinAtMod_ao (q : PinId) (f : Pin → Pin) : (s.pinAtMod q f).ao = s.ao := rfl
@[simp] theorem State.pinAtMod_cfg (q : PinId) (f : Pin → Pin) : (s.pinAtMod q f).cfg = s.cfg := rfl
@[simp] theorem State.pinAtMod_fab (q : PinId) (f : Pin → Pin) : (s.pinAtMod q f).fab = s.fab := rfl
@[simp] theorem State.pinAtMod_bm (q : PinId) (f : Pin → Pin) : (s.pinAtMod q f).bm = s.bm := rfl
@[simp] theorem State.pinAtMod_dm (q : PinId) (f : Pin → Pin) : (s.pinAtMod q f).dm = s.dm := rfl
@[simp] theorem State.pinAtMod_sdu (q : PinId) (f : Pin → Pin) : (s.pinAtMod q f).sdu = s.sdu := rfl
@[simp] theorem State.pinAtMod_bank (q : PinId) (f : Pin → Pin) : (s.pinAtMod q f).bank = s.bank := rfl
@[simp] theorem State.pinAtMod_pin (q : PinId) (f : Pin → Pin) : (s.pinAtMod q f).pin = smod {} s.pin q.key f := rfl
@[simp] theorem State.pinAtMod_noc (q : PinId) (f : Pin → Pin) : (s.pinAtMod q f).noc = s.noc := rfl
@[simp] theorem State.pinAtMod_adl (q : PinId) (f : Pin → Pin) : (s.pinAtMod q f).adl = s.adl := rfl
@[simp] theorem State.pinAtMod_xcvr (q : PinId) (f : Pin → Pin) : (s.pinAtMod q f).xcvr = s.xcvr := rfl
@[simp] theorem State.pinAtMod_span (q : PinId) (f : Pin → Pin) : (s.pinAtMod q f).span = s.span := rfl
@[simp] theorem State.pinAtMod_ddr (q : PinId) (f : Pin → Pin) : (s.pinAtMod q f).ddr = s.ddr := rfl
@[simp] theorem State.pinAtMod_mee (q : PinId) (f : Pin → Pin) : (s.pinAtMod q f).mee = s.mee := rfl
@[simp] theorem State.pinAtMod_wds (q : PinId) (f : Pin → Pin) : (s.pinAtMod q f).wds = s.wds := rfl
@[simp] theorem State.pinAtMod_dbg (q : PinId) (f : Pin → Pin) : (s.pinAtMod q f).dbg = s.dbg := rfl
@[simp] theorem State.pinAtMod_clk (q : PinId) (f : Pin → Pin) : (s.pinAtMod q f).clk = s.clk := rfl
@[simp] theorem State.pinAtMod_pwr (q : PinId) (f : Pin → Pin) : (s.pinAtMod q f).pwr = s.pwr := rfl
@[simp] theorem State.pinAtMod_tst (q : PinId) (f : Pin → Pin) : (s.pinAtMod q f).tst = s.tst := rfl
@[simp] theorem State.pinAtMod_regs (q : PinId) (f : Pin → Pin) : (s.pinAtMod q f).regs = s.regs := rfl

/-! ## take, nextFree, setReg -/

@[simp] theorem State.take_pending (w : Nat) : (s.take w).2.pending = s.pending := rfl
@[simp] theorem State.nextFree_pending : s.nextFree.pending = s.pending := rfl
@[simp] theorem State.setReg_pending (die off : Nat) (v : Word) : (s.setReg die off v).pending = s.pending := rfl
@[simp] theorem State.take_fresh (w : Nat) : (s.take w).2.fresh = s.fresh + 1 := rfl
@[simp] theorem State.nextFree_fresh : s.nextFree.fresh = s.fresh + 1 := rfl
@[simp] theorem State.setReg_fresh (die off : Nat) (v : Word) : (s.setReg die off v).fresh = s.fresh := rfl
@[simp] theorem State.take_readOut (w : Nat) : (s.take w).2.readOut = s.readOut := rfl
@[simp] theorem State.nextFree_readOut : s.nextFree.readOut = s.readOut := rfl
@[simp] theorem State.setReg_readOut (die off : Nat) (v : Word) : (s.setReg die off v).readOut = s.readOut := rfl
@[simp] theorem State.take_mode (w : Nat) : (s.take w).2.mode = s.mode := rfl
@[simp] theorem State.nextFree_mode : s.nextFree.mode = s.mode := rfl
@[simp] theorem State.setReg_mode (die off : Nat) (v : Word) : (s.setReg die off v).mode = s.mode := rfl
@[simp] theorem State.take_mgr (w : Nat) : (s.take w).2.mgr = s.mgr := rfl
@[simp] theorem State.nextFree_mgr : s.nextFree.mgr = s.mgr := rfl
@[simp] theorem State.setReg_mgr (die off : Nat) (v : Word) : (s.setReg die off v).mgr = s.mgr := rfl
@[simp] theorem State.take_boot (w : Nat) : (s.take w).2.boot = s.boot := rfl
@[simp] theorem State.nextFree_boot : s.nextFree.boot = s.boot := rfl
@[simp] theorem State.setReg_boot (die off : Nat) (v : Word) : (s.setReg die off v).boot = s.boot := rfl
@[simp] theorem State.take_flash (w : Nat) : (s.take w).2.flash = s.flash := rfl
@[simp] theorem State.nextFree_flash : s.nextFree.flash = s.flash := rfl
@[simp] theorem State.setReg_flash (die off : Nat) (v : Word) : (s.setReg die off v).flash = s.flash := rfl
@[simp] theorem State.take_settings (w : Nat) : (s.take w).2.settings = s.settings := rfl
@[simp] theorem State.nextFree_settings : s.nextFree.settings = s.settings := rfl
@[simp] theorem State.setReg_settings (die off : Nat) (v : Word) : (s.setReg die off v).settings = s.settings := rfl
@[simp] theorem State.take_fuses (w : Nat) : (s.take w).2.fuses = s.fuses := rfl
@[simp] theorem State.nextFree_fuses : s.nextFree.fuses = s.fuses := rfl
@[simp] theorem State.setReg_fuses (die off : Nat) (v : Word) : (s.setReg die off v).fuses = s.fuses := rfl
@[simp] theorem State.take_ao (w : Nat) : (s.take w).2.ao = s.ao := rfl
@[simp] theorem State.nextFree_ao : s.nextFree.ao = s.ao := rfl
@[simp] theorem State.setReg_ao (die off : Nat) (v : Word) : (s.setReg die off v).ao = s.ao := rfl
@[simp] theorem State.take_cfg (w : Nat) : (s.take w).2.cfg = s.cfg := rfl
@[simp] theorem State.nextFree_cfg : s.nextFree.cfg = s.cfg := rfl
@[simp] theorem State.setReg_cfg (die off : Nat) (v : Word) : (s.setReg die off v).cfg = s.cfg := rfl
@[simp] theorem State.take_fab (w : Nat) : (s.take w).2.fab = s.fab := rfl
@[simp] theorem State.nextFree_fab : s.nextFree.fab = s.fab := rfl
@[simp] theorem State.setReg_fab (die off : Nat) (v : Word) : (s.setReg die off v).fab = s.fab := rfl
@[simp] theorem State.take_bm (w : Nat) : (s.take w).2.bm = s.bm := rfl
@[simp] theorem State.nextFree_bm : s.nextFree.bm = s.bm := rfl
@[simp] theorem State.setReg_bm (die off : Nat) (v : Word) : (s.setReg die off v).bm = s.bm := rfl
@[simp] theorem State.take_dm (w : Nat) : (s.take w).2.dm = s.dm := rfl
@[simp] theorem State.nextFree_dm : s.nextFree.dm = s.dm := rfl
@[simp] theorem State.setReg_dm (die off : Nat) (v : Word) : (s.setReg die off v).dm = s.dm := rfl
@[simp] theorem State.take_sdu (w : Nat) : (s.take w).2.sdu = s.sdu := rfl
@[simp] theorem State.nextFree_sdu : s.nextFree.sdu = s.sdu := rfl
@[simp] theorem State.setReg_sdu (die off : Nat) (v : Word) : (s.setReg die off v).sdu = s.sdu := rfl
@[simp] theorem State.take_bank (w : Nat) : (s.take w).2.bank = s.bank := rfl
@[simp] theorem State.nextFree_bank : s.nextFree.bank = s.bank := rfl
@[simp] theorem State.setReg_bank (die off : Nat) (v : Word) : (s.setReg die off v).bank = s.bank := rfl
@[simp] theorem State.take_pin (w : Nat) : (s.take w).2.pin = s.pin := rfl
@[simp] theorem State.nextFree_pin : s.nextFree.pin = s.pin := rfl
@[simp] theorem State.setReg_pin (die off : Nat) (v : Word) : (s.setReg die off v).pin = s.pin := rfl
@[simp] theorem State.take_noc (w : Nat) : (s.take w).2.noc = s.noc := rfl
@[simp] theorem State.nextFree_noc : s.nextFree.noc = s.noc := rfl
@[simp] theorem State.setReg_noc (die off : Nat) (v : Word) : (s.setReg die off v).noc = s.noc := rfl
@[simp] theorem State.take_adl (w : Nat) : (s.take w).2.adl = s.adl := rfl
@[simp] theorem State.nextFree_adl : s.nextFree.adl = s.adl := rfl
@[simp] theorem State.setReg_adl (die off : Nat) (v : Word) : (s.setReg die off v).adl = s.adl := rfl
@[simp] theorem State.take_xcvr (w : Nat) : (s.take w).2.xcvr = s.xcvr := rfl
@[simp] theorem State.nextFree_xcvr : s.nextFree.xcvr = s.xcvr := rfl
@[simp] theorem State.setReg_xcvr (die off : Nat) (v : Word) : (s.setReg die off v).xcvr = s.xcvr := rfl
@[simp] theorem State.take_span (w : Nat) : (s.take w).2.span = s.span := rfl
@[simp] theorem State.nextFree_span : s.nextFree.span = s.span := rfl
@[simp] theorem State.setReg_span (die off : Nat) (v : Word) : (s.setReg die off v).span = s.span := rfl
@[simp] theorem State.take_ddr (w : Nat) : (s.take w).2.ddr = s.ddr := rfl
@[simp] theorem State.nextFree_ddr : s.nextFree.ddr = s.ddr := rfl
@[simp] theorem State.setReg_ddr (die off : Nat) (v : Word) : (s.setReg die off v).ddr = s.ddr := rfl
@[simp] theorem State.take_mee (w : Nat) : (s.take w).2.mee = s.mee := rfl
@[simp] theorem State.nextFree_mee : s.nextFree.mee = s.mee := rfl
@[simp] theorem State.setReg_mee (die off : Nat) (v : Word) : (s.setReg die off v).mee = s.mee := rfl
@[simp] theorem State.take_wds (w : Nat) : (s.take w).2.wds = s.wds := rfl
@[simp] theorem State.nextFree_wds : s.nextFree.wds = s.wds := rfl
@[simp] theorem State.setReg_wds (die off : Nat) (v : Word) : (s.setReg die off v).wds = s.wds := rfl
@[simp] theorem State.take_dbg (w : Nat) : (s.take w).2.dbg = s.dbg := rfl
@[simp] theorem State.nextFree_dbg : s.nextFree.dbg = s.dbg := rfl
@[simp] theorem State.setReg_dbg (die off : Nat) (v : Word) : (s.setReg die off v).dbg = s.dbg := rfl
@[simp] theorem State.take_clk (w : Nat) : (s.take w).2.clk = s.clk := rfl
@[simp] theorem State.nextFree_clk : s.nextFree.clk = s.clk := rfl
@[simp] theorem State.setReg_clk (die off : Nat) (v : Word) : (s.setReg die off v).clk = s.clk := rfl
@[simp] theorem State.take_pwr (w : Nat) : (s.take w).2.pwr = s.pwr := rfl
@[simp] theorem State.nextFree_pwr : s.nextFree.pwr = s.pwr := rfl
@[simp] theorem State.setReg_pwr (die off : Nat) (v : Word) : (s.setReg die off v).pwr = s.pwr := rfl
@[simp] theorem State.take_tst (w : Nat) : (s.take w).2.tst = s.tst := rfl
@[simp] theorem State.nextFree_tst : s.nextFree.tst = s.tst := rfl
@[simp] theorem State.setReg_tst (die off : Nat) (v : Word) : (s.setReg die off v).tst = s.tst := rfl
@[simp] theorem State.take_regs (w : Nat) : (s.take w).2.regs = s.regs := rfl
@[simp] theorem State.nextFree_regs : s.nextFree.regs = s.regs := rfl
@[simp] theorem State.setReg_regs (die off : Nat) (v : Word) : (s.setReg die off v).regs = sput (regReset off) s.regs (die * 2 ^ 28 + off) v := rfl

/-! ## when and each -/

@[simp] theorem State.when_true (f : State → State) : s.when true f = f s := rfl
@[simp] theorem State.when_false (f : State → State) : s.when false f = s := rfl
@[simp] theorem State.each_nil {α : Type} (f : α → State → State) : s.each [] f = s := rfl
@[simp] theorem State.each_cons {α : Type} (a : α) (l : List α) (f : α → State → State) : s.each (a :: l) f = (f a s).each l f := rfl

/-- What a fold of changes keeps, if each change keeps it. -/
theorem State.each_induct {α : Type} {P : State → Prop} {l : List α} {f : α → State → State} (hf : ∀ a ∈ l, ∀ t, P t → P (f a t)) (h : P s) :
    P (s.each l f) := by
  induction l generalizing s with
  | nil => exact h
  | cons a l ih => exact ih (f a s) (fun b hb => hf b (List.mem_cons_of_mem _ hb)) (hf a List.mem_cons_self s h)

/-! ## The plain registers -/

/-- A write of a plain register leaves every other one alone. -/
theorem State.reg_setReg_ne {die off die' off' : Nat} {v : Word} (h : die' * 2 ^ 28 + off' ≠ die * 2 ^ 28 + off) :
    (s.setReg die off v).reg die' off' = s.reg die' off' := by
  unfold State.reg State.setReg
  dsimp only
  unfold sput
  split
  · exact sget_serase_ne h
  · exact sget_sinsert_ne h

end Sys2Proof.Machine
end

