-- ==== Sys2Proof/Tests/Slice0.lean ====
section
/-! SUPPORT. The model's own tests: ill-formed commands that the check refuses, worked examples of the spec, and for every statement with
hypotheses a concrete state and operands that meet them together. -/

namespace Sys2Proof.Tests

open Machine

set_option maxRecDepth 20000
set_option Elab.async false

def wid : CmdId := { t := .jtag, tag := 0 }
/-- A device in Glazed: started, every rail good, every clock domain running, every region of the network at its reset values. -/
def sG : State := { State.reset with
  mode := .glazed
  boot := { hubGood := true, ioscOk := true, flashDone := true, settingsDone := true, fwRuns := true, released := 5, loadStarted := true }
  pwr := { good := 0x7F }
  clk := { aoscOk := true, dom := (List.range 64).map (fun i => (i, { state := .running, qualified := true })) }
  adl := { die := (List.range 7).map (fun i => (i, { dstate := 2, settled := true, joinedOnce := true })) }
  dbg := { level := [(0, 2)] } }
def withCmd (op : Nat) (params : List Word) (s : State) : State :=
  s.onMgr (fun m => { m with cmds := [{ id := wid, hdr := BitVec.ofNat 32 (op * 2^24), params := params }] })
/-- The state in another mode. -/
def inMode (m : Mode) (s : State) : State := { s with mode := m }
/-- A device in Firing with an open session and a session packet that waits; word 4 of the stream header. -/
def withSess (op : Nat) (w4 : Word) (params : List Word) : State :=
  (inMode .firing (withCmd op params sG)).onCfg (fun c => { c with session := some { owner := wid, hdr := [0, 0, 0, 0, w4] } })
/-- Safety.ready as a test. -/
def readyNow (id : CmdId) (op : Nat) (c : Cmd) (s : State) : Bool :=
  decide (s.findCmd id = some c) && decide (c.op = op) && !c.started && s.mgrServes && s.turn c && (Safety.begun id s).modeOk c
def readySessionNow (id : CmdId) (op : Nat) (x : Session) (c : Cmd) (s : State) : Bool :=
  readyNow id op c s && decide (s.cfg.session = some x) && decide (x.owner.t = c.id.t) && !x.verified && !x.paused
def issuesNow (u : SduId) (s : State) : Bool :=
  let q := s.sduAt u
  let a := q.cur.pc.toNat
  s.sduLive u && q.seq && decide (q.state = .running) && !q.bubble && !q.haltNext
    && (q.skipCmp || decide (q.compare 0 0 a = (q, false, false))) && insLegal q (q.ins a) a && !insStalls q (q.ins a)
    && !(switchOpen q && q.swWait == 0)
/-- A unit of a running sector that is sequenced and about to issue the instruction word `i` at address 0. -/
def unit0 : SduId := { die := 1, sec := 8, unit := 2 }
def withUnit (i : BitVec 48) : State :=
  (sG.secAtMod 200 (fun x => { x with state := .running, clkOn := true, inReset := false, portsOpen := true })).sduAtMod unit0
    (fun q => { q with seq := true, state := .running, istore := [(0, i)], inF := [5] })
/-- A sideband frame of message `m`, and a boundary 4 whose two ends are up. -/
def withSideband : State := sG.bndAtMod 4 (fun b => { b with leader := { up := true }, follower := { up := true } })
/-- A frame of type `t` with its check word, at a port that is up. -/
def okFrame (t : Nat) : List Word := mkFrame t 0 0 0 [] ++ [crc32 (wordBytes (mkFrame t 0 0 0 []))]
def withPort : State := sG.portAtMod 3 (fun p => { p with state := .up, deskewed := true })
/-- A lane of die 2. -/
def lane3 : LaneId := { die := 2, lane := 3 }
def withLane (x : Lane) : State := sG.laneAtMod lane3 (fun _ => x)
/-- The outcome is a next state. -/
def nexts : Host.Outcome State Fault Refusal → Bool
  | .next _ => true
  | _ => false

theorem nexts_spec {o : Host.Outcome State Fault Refusal} (h : nexts o = true) : ∃ t, o = .next t := by
  cases o with
  | next t => exact ⟨t, rfl⟩
  | fault f => cases h
  | refused r => cases h

theorem readyNow_spec {id : CmdId} {op : Nat} {c : Cmd} {s : State} (h : readyNow id op c s = true) : Safety.ready id op c s := by
  simp [readyNow] at h
  obtain ⟨⟨⟨⟨⟨a, b⟩, d⟩, e⟩, f⟩, g⟩ := h
  exact ⟨⟨a, b, d, e, f⟩, g⟩

theorem readySessionNow_spec {id : CmdId} {op : Nat} {x : Session} {c : Cmd} {s : State} (h : readySessionNow id op x c s = true) :
    Safety.readySession id op x c s := by
  simp [readySessionNow] at h
  obtain ⟨⟨⟨⟨a, b⟩, d⟩, e⟩, f⟩ := h
  exact ⟨readyNow_spec a, b, d, e, f⟩

theorem issuesNow_spec {u : SduId} {s : State} (h : issuesNow u s = true) : Safety.sduIssues u s := by
  simp [issuesNow] at h
  obtain ⟨⟨⟨⟨⟨⟨⟨⟨a, b⟩, d⟩, e⟩, f⟩, g⟩, i⟩, j⟩, k⟩ := h
  refine ⟨a, b, d, e, f, g, i, j, ?_⟩
  cases hk : switchOpen (s.sduAt u) <;> simp_all

/-! ## Ill-formed commands, one for each check of `Instr.wellFormed` -/

/-- A command that is not well formed is refused by the check, and its meaning leaves the state as it was but for the value read out. -/
def refusedBy (i : Instr) : Bool :=
  !i.wellFormed && (match exec i State.reset with | .next t => decide (t = { State.reset with readOut := t.readOut }) | _ => false)

theorem test_illFormed_ports :
    [Instr.rd 0x3FF, .wr 0x3FF, .atom 0x3FF, .fence 0x3FF, .nocResponseArrival 0x3FF 0, .rspTimeout 0x3FF 0, .qosChangeApply 0x3FF,
      .nocFwLogRead 0x3FF false, .nocIportHoldClr 0x3FF, .initiatorRequestIssue 0x3FF { typ := 0 }, .fabricTargetResponse 0x3FF 0 0 [] []].all
      refusedBy = true := by decide +kernel

theorem test_illFormed_requests :
    [Instr.initiatorRequestIssue 0xC { typ := 1, len := 31 }, .fabricTargetResponse 0x100 0 3 [] [], .flitRoute 16 0 0, .flitRoute 160 0 0,
      .flitRoute 8 3 0, .pcieInboundRequest 0 0 0 31 true [] false].all refusedBy = true := by decide +kernel

theorem test_illFormed_links :
    [Instr.reqOut 4 78 false, .steerOut 4 78 false 0, .reqIn 4 78, .steerIn 4 78 0, .dieRejoin 0 false, .adlSbStatus 4 0 false].all refusedBy = true := by
  decide +kernel

theorem test_illFormed_lanes :
    (let l : LaneId := { die := 1, lane := 8 }
    [Instr.lanePortEnable l, .lanePortDisable l, .laneDetectTimer l, .laneFarEndDetect l, .ts1 l (List.replicate 16 0), .ts2 l (List.replicate 16 0),
      .ts1 { die := 0, lane := 47 } [], .ts2 { die := 0, lane := 47 } [], .laneTrainTimeout l, .laneExchangeTimeout l, .laneSyncLoss l 1, .laneSymbolLock l,
      .laneRealignTimeout l, .ethFecCodeword l 1, .lnPrbsClr l, .lnPrbsTxEn l true, .lnPrbsRxEn l true, .lnLpbk l 0, .lnAdaptHold l true,
      .lnPrbsErrLo l false, .lnCodeErr l false, .lnFec l false, .lnHeld l false, .eyeScanGo l 0, .eyeScanDone l 0].all refusedBy) = true := by decide +kernel

theorem test_illFormed_frames :
    [Instr.req 0 [], .rsp 0 [], .data 0 [], .cmd 0 [], .trig 0 [], .align 0 [], .probe 0 [] 0, .echo 0 [] 0, .tag 0 [], .link 0 [], .deliver 0 [],
      .release 0 [], .dbgStim 0 0 3].all refusedBy = true := by decide +kernel

/-! ## Worked examples of the spec -/

/-- File 01: the SDU area of sector 117 of C2 stands at 0x0800_3851_0000. -/
theorem test_address_of_a_unit : 0x80000000000 + 3 * 0x10000000 + 0x1000000 + 117 * 0x100000 + 0x10000 = 0x080038510000 ∧ localDie 0x080038510000 = 3 := by
  decide +kernel

/-- File 10: `src`, `dst` and the default route of a read from C1 to DDR channel 5, there and back. -/
theorem test_route_of_a_read :
    2 * 0x80 + 14 * 4 + 1 = 0x139 ∧ isIport 0x139 = true ∧ ddrPort 5 = 0x029 ∧ isTport 0x029 = true
    ∧ [78, 74, 70, 66, 3, 2, 10].map (fun r => routeDefault r 10) = [3, 3, 3, 3, 4, 3, 0]
    ∧ [10, 2, 3, 66, 70, 74, 78].map (fun r => routeDefault r 78) = [1, 2, 1, 1, 1, 1, 0] := by decide +kernel

/-- File 14: where the line at local address 0x4000_0040 lives, with all 12 channels and 262,143 MiB usable. -/
theorem test_where_a_line_lives :
    (let s := sG.onDdr (fun d => { d with isOpen := true, set := 0xFFF, usable := 262143 })
    s.dramMap 0x40000040 = some (4, 89478464) ∧ s.dramLocal 4 89478464 = 0x40000040 ∧ ddrPort 4 = 0x028)
    ∧ defaultMasks 2 = [0x00208001, 0x00410002, 0x00820004, 0x01040008, 0x02080800, 0x04101000] := by decide +kernel

/-- File 15: the tree of a 12 GiB region over 12 channels has 32,768 + 4,096 + 512 + 64 + 8 nodes on each channel. -/
theorem test_tree_of_a_region : treeNodes 20 262144 = 37448 := by decide +kernel

/-- File 08: the compressed payload of the short partial stream gives its frame. -/
theorem test_short_partial_stream :
    (decompress 1 [0x03, 0x11, 0x22, 0x33, 0x44, 0xC0, 0x04, 0x00, 0xBF, 0xFF, 0x00, 0xBF, 0xFF, 0x00, 0xBF, 0xFF, 0x00, 0xB2, 0x00, 0x00]
      == some ([0x11, 0x22, 0x33, 0x44, 0x11, 0x22, 0x33, 0x44] ++ List.replicate 1016 0)) = true := by decide +kernel

/-- File 07: the tap counts of `dly` 437 at `tap_q` 160 and 166. -/
theorem test_drift_of_the_tap_size : tapTarget true 437 160 = (175, false) ∧ tapTarget true 437 166 = (168, false) := by decide +kernel

/-- File 13: words 0 and 1 of the REQ frame of a remote read. -/
theorem test_remote_read_frame :
    wordAt (mkFrame 1 0x113 0x2A7 64 [0x02403F00, 0x00170000, 0x40000040, 0x11300000]) 1 = 0x1132A740
    ∧ (mkFrame 1 0x113 0x2A7 64 [0x02403F00, 0x00170000, 0x40000040, 0x11300000]).length = 15
    ∧ frSeq [0x14512800] = 0x45 ∧ frType [0x14512800] = 1 := by decide +kernel

/-- File 20: mixed votes. -/
theorem test_mixed_votes :
    (let s := ((List.range 10).foldl (fun t d => t.pdomAtMod d (fun p => { p with host := 4 })) sG).pdomAtMod 3 (fun p => { p with fab := 2 })
    (List.range 10).map s.target = [2, 4, 4, 2, 4, 4, 4, 4, 2, 4]) := by decide +kernel

/-- File 21: the record entry of row 3 of column 9 of C1. -/
theorem test_record_entry : (rowEntry 2 9 3).1 = 0x15260000 := by decide +kernel

/-- File 16: the TAKE address of context 5. -/
theorem test_take_address : 0x80000000000 + blkWds + 0x10000 + 5 * 0x40 + 0x20 = 0x080000C10160 := by decide +kernel

/-- File 11: bundle 48 leads from C1's router 2 into HN3. -/
theorem test_bundle_48 : bundleFrom 48 = (66, 3) ∧ bundleTo 48 = 3 ∧ bundleBnd 48 = 4 := by decide +kernel

/-- File 06: one MAC instruction issues: the unit of `withUnit` is ready to issue, and one step over it answers a next state. -/
theorem test_unit_issues : issuesNow unit0 (withUnit 0x080000000000) = true ∧ nexts (exec (.mac unit0) (withUnit 0x080000000000)) = true := by decide +kernel

/-! ## Witnesses of the statements' hypotheses -/

/-- A device with DRAM in service on channel 0 and one byte stored. -/
def withDram : State :=
  sG.onDdr (fun d => { d with set := 1, isOpen := true, trained := true, usable := 1024, mem := [(64, 7)], chan := [(0, { state := .inService, sizeMib := 2048, wb := [{ la := 5, data := 1 }] })] })

theorem witness_StepRunsFrontCommand : ({ sG with pending := [.tbIndex, .nocCommit] } : State).pending = .tbIndex :: [.nocCommit] := rfl

theorem witness_EmptyQueueIdles : State.reset.pending = [] := rfl

theorem witness_EveryStepKeepsDramCanonical :
    ∃ t, Safety.memoryCanonical withDram ∧ step { withDram with pending := [.ddrWbDrain 0 {}] } = .next t := by
  obtain ⟨t, h⟩ := nexts_spec (o := step { withDram with pending := [.ddrWbDrain 0 {}] }) (by decide +kernel)
  exact ⟨t, (by decide +kernel : Store.wf (0 : Byte) withDram.ddr.mem = true), h⟩

theorem witness_ProgrammedFuseBitsStay :
    (let s : State := { sG with fuses := { bits := [(0, 5)] }, pending := [.fatalAutoRestart, .porstAssert 100] }
    (sget 0 s.fuses.bits 0).getLsbD 2 && nexts (step s)) = true := by decide +kernel

theorem witness_StepTakesOneCommand :
    (let s : State := { sG with pending := [.tbIndex, .nocCommit] }
    decide (s.pending = .tbIndex :: [.nocCommit]) && nexts (step s)) = true := by decide +kernel

theorem witness_EveryCommandCompletes : (Instr.rd 0x029).wellFormed = true ∧ (Instr.rd 0x3FF).wellFormed = false := by decide +kernel

/-- A queued CFG_BEGIN of another transport before one of JTAG. -/
def withTwo : State := sG.onMgr (fun m => { m with cmds := [{ id := { t := .smbus, tag := 0 }, hdr := 0x10000000 }, { id := wid, hdr := 0x10000000 }] })

theorem witness_PacketThatCannotStartDoesNothing :
    Safety.packet (.cfgBegin wid) = some (wid, 0x10) ∧ sG.findCmd wid = none
    ∧ (let c : Cmd := { id := wid, hdr := 0x01000000 }
      (withCmd 0x01 [] sG).findCmd wid = some c ∧ c.op ≠ 0x10)
    ∧ (let c : Cmd := { id := wid, hdr := 0x10000000 }
      let c1 : Cmd := { c with started := true }
      ((withCmd 0x10 [] sG).onMgr (fun m => { m with cmds := [c1] })).findCmd wid = some c1 ∧ c1.op = 0x10 ∧ c1.started = true
      ∧ (inMode .greenware (withCmd 0x10 [] sG)).findCmd wid = some c ∧ (inMode .greenware (withCmd 0x10 [] sG)).mgrServes = false
      ∧ withTwo.findCmd wid = some c ∧ withTwo.turn c = false) := by decide +kernel

theorem witness_PacketInTheWrongModeIsAnswered :
    (let c : Cmd := { id := wid, hdr := 0x75000000 }
    let s := withCmd 0x75 [] sG
    Safety.packet (.fuseProgram wid 0) = some (wid, 0x75) ∧ s.findCmd wid = some c ∧ c.op = 0x75 ∧ c.started = false ∧ s.mgrServes = true ∧ s.turn c = true
      ∧ (Safety.begun wid s).modeOk c = false)
    ∧ (let c : Cmd := { id := wid, hdr := 0x11000000 }
    let s := inMode .glazed (withSess 0x11 0x100 [])
    Safety.packet (.cfgFrames wid) = some (wid, 0x11) ∧ Safety.sessionPacket (.cfgFrames wid) = true ∧ s.findCmd wid = some c ∧ c.op = 0x11
      ∧ c.started = false ∧ s.mgrServes = true ∧ s.turn c = true ∧ (Safety.begun wid s).modeOk c = false) := by decide +kernel

theorem witness_InspectReadsHaveNoSideEffect : (Safety.inspectRead (.wdsCount true) && nexts (exec (.wdsCount true) sG)) = true := by decide +kernel

theorem witness_UnavailableSectorAreasReadZero :
    ((sG.secAtMod 8 (fun x => { x with state := .unavailable })).secAt (0 * 192 + 8)).state = .unavailable
    ∧ ((sG.secAtMod 8 (fun x => { x with state := .inRegion })).secAt (0 * 192 + 8)).state = .inRegion
    ∧ ((sG.secAtMod 767 (fun x => { x with state := .held })).secAt (3 * 192 + 191)).state = .held
    ∧ 3 ≤ ((sG.pdomAtMod 4 (fun p => { p with rung := 3 })).pdomAt (3 + 1)).rung.toNat
    ∧ ∀ rel ∈ [0x10000, 0x7A7FF, 0x80000, 0x8FFFF], (0x10000 ≤ rel ∧ rel < 0x7A800 ∨ 0x80000 ≤ rel ∧ rel < 0x90000) := by decide +kernel

theorem witness_QuietWindowGatesBackgroundWork :
    sG.clk.quiet = false ∧ sG.clk.qwForce = false
    ∧ (let s := sG.dmAtMod { die := 1, sec := 8 } (fun m => { m with ctl := { m.ctl with scrubQw := true } })
      s.clk.quiet = false ∧ (s.ctlOf { die := 1, sec := 8 } .deep).scrubQw = true)
    ∧ bit ((sG.setReg 0 (blkDdr + 11 * 0x10000 + 4) 0xF).reg 0 (blkDdr + (11 : Fin 12).val * 0x10000 + 4)) 3 = true
    ∧ bit ((sG.setReg 0 (blkDdr + 11 * 0x10000 + 4) 0xF).reg 0 (blkDdr + (11 : Fin 12).val * 0x10000 + 4)) 1 = true
    ∧ (sG.onMee (fun m => { m with reencQw := true })).mee.reencQw = true
    ∧ bit (sG.onTst (fun t => { t with bgCfg := 0xC00000A8 })).tst.bgCfg 30 = true
    ∧ bit ((sG.setReg (bundleTo 75 / 32) (blkAdl + 0x30) 0xC00003E8).reg (bundleTo (75 : Fin 76).val / 32) (blkAdl + 0x30)) 30 = true
    ∧ (sG.onClk (fun c => { c with quiet := true })).clk.quiet = true := by decide +kernel

theorem witness_SettledRungFollowsTheVotes :
    [sG.mgrVote 1, (sG.pdomAt 1).host.toNat, (sG.pdomAt 1).fab.toNat, (sG.pdomAt 1).dbg.toNat, (sG.pdomAt 1).cal.toNat].filter (fun v => v < 8) = []
    ∧ (let s := sG.pdomAtMod 5 (fun p => { p with host := 7, fab := 4 })
      [s.mgrVote 5, (s.pdomAt 5).host.toNat, (s.pdomAt 5).fab.toNat, (s.pdomAt 5).dbg.toNat, (s.pdomAt 5).cal.toNat].filter (fun v => v < 8) = [7, 4]) := by
  decide +kernel

theorem witness_FenceHoldsItsPort :
    ({ typ := 3, otag := 5 } : NocReq).typ = 3 ∧ isIport (0xC : BitVec 10).toNat = true
    ∧ ((sG.iportAtMod 12 (fun q => { q with fence := some 5 })).iportAt 12).fence.isSome = true
    ∧ 2 ≤ ((retire (0xC : BitVec 10).toNat (sG.iportAtMod 12 (fun q => { q with out := [{ req := {} }, { req := { typ := 3 } }] }))).iportAt 12).out.length
    ∧ ((retire (0xC : BitVec 10).toNat (sG.iportAtMod 12 (fun q => { q with out := [{ req := { typ := 3 } }] }))).iportAt 12).out = [{ req := { typ := 3 } }] := by
  decide +kernel

theorem witness_ResponseTimeoutEndsTheTransaction :
    (let o : Outst := { req := { txid := 7, typ := 1 } }
    let s := sG.iportAtMod 12 (fun q => { q with out := [o] })
    isIport (0xC : BitVec 10).toNat = true ∧ fld (s.reg (portDie (0xC : BitVec 10).toNat) (blkNoc + 0x4000 + 0x20 * ((0xC : BitVec 10).toNat % 128))) 31 16 ≠ 0
    ∧ (s.iportAt 12).out.find? (fun o => o.req.txid == 7 && o.rsp.isNone && o.sent && o.req.typ != 3) = some o ∧ s.mode ≠ .held
    ∧ (inMode .held s).mode = .held ∧ ((inMode .held s).iportAt 12).out ≠ [] ∧ ((inMode .held s).iportAt 12).out[0]? = some o ∧ o.rsp = none) := by
  decide +kernel

theorem witness_GuestRequestsAreRewritten :
    hdrIsRsp (mkFlit 0 false) = false ∧ headerLost (mkFlit 0 false) = false ∧ nbr 0 4 = some 160 ∧ 160 / 32 = 5 ∧ nbr 15 2 = some 193 ∧ 193 / 32 = 6 := by decide +kernel

theorem witness_DueCalendarEntryAdvances :
    ({} : CalEnt).interval = 0
    ∧ (let x : CalEnt := { t := 100, interval := 10, armed := true }
      x.interval ≠ 0 ∧ ((100 : BitVec 48) - x.t).toNat < 2 ^ 47 ∧ ((BitVec.ofNat 48 (100 + 2 ^ 47 - 1)) - x.t).toNat < 2 ^ 47) := by decide +kernel

theorem witness_DramAddressMapIsOneToOne :
    withDram.dramMap 0x3FFFFFFF = some (0, 0x3FFFFFFF) ∧ sG.ddr.isOpen = false ∧ withDram.ddrSet.length * withDram.ddr.usable * 1048576 ≤ 0x40000000 := by
  decide +kernel

theorem witness_DramLineStoreChangesOnlyItsLine :
    Store.wf (0 : Byte) withDram.ddr.mem = true ∧ ¬ (64 ≤ 63 ∧ 63 < 64 + 64) ∧ ¬ (64 ≤ 128 ∧ 128 < 64 + 64) := by decide +kernel

/-- Port 0x020 with its firewall on and no window. -/
def withFirewall (typ : BitVec 4) : State :=
  (sG.setReg 0 (blkNoc + 0x8000 + 0x200 * 32) 1).tportAtMod 32 (fun t => { t with inq := [{ typ := typ, len := 3, fwg := 5, data := if typ = 0 then [] else [1] }] })

theorem witness_FirewallDecidesByGroupAndWindow :
    bit (sG.reg (portDie 32) (blkNoc + 0x8000 + 0x200 * (32 % 128))) 0 = false ∧ ({ fwg := 31 } : NReq).fwg = 31
    ∧ bit ((withFirewall 0).reg (portDie 32) (blkNoc + 0x8000 + 0x200 * (32 % 128))) 0 = true ∧ isTport (32 : BitVec 10).toNat = true
    ∧ [(0 : BitVec 4), 1, 2].all (fun typ =>
      let s := withFirewall typ
      match (s.tportAt 32).inq with
      | q :: rest => decide (q.fwg ≠ 31 ∧ q.typ.toNat < 3 ∧ q.typ = typ ∧ s.targetReady 32 q = true ∧ s.portClocked 32 = true ∧ s.mode ≠ .greenware)
          && !(s.tportAtMod 32 (fun t => { t with inq := rest, drain := t.drain - 1 })).fwPass 32 q
      | [] => false) = true := by decide +kernel

theorem witness_NoticeQueueKeepsOneEntryPerCode :
    (let m : Mgr := { notices := [{ code := 0x1303 }] }
    m.notices.length ≤ 256 ∧ (m.notices.map (·.code)).Nodup ∧ (0x1303 : BitVec 16) ∈ m.notices.map (·.code) ∧ (0x1304 : BitVec 16) ∉ m.notices.map (·.code)
      ∧ m.notices.length < 256)
    ∧ (let m : Mgr := { notices := (List.range 256).map (fun i => { code := BitVec.ofNat 16 i }) }
      m.notices.length = 256 ∧ (m.notices.map (·.code)).Nodup ∧ (0x1304 : BitVec 16) ∉ m.notices.map (·.code)) := by decide +kernel

theorem witness_AccumulatorOverflowSaturatesOrWraps :
    (acc40 true (2 ^ 39)).2 = true ∧ (acc40 true (2 ^ 39 - 1)).2 = false ∧ (acc40 false (-2 ^ 39)).2 = false ∧ (acc40 false (-2 ^ 39 - 1)).2 = true
    ∧ (mulValue 5 true 0x7FFFF80000 0x0000180000).2 = true := by decide +kernel

theorem witness_RepairMapSkipsTheFailedRow :
    (let s := sG.onCfg (fun c => { c with repair := some [(21, 7)] })
    (s.secAt (1 * 192 + 5)).state ≠ .unavailable ∧ s.repairEnt 1 5 = 7 ∧ s.repairEnt 1 6 = 15 ∧ (7 : Nat) ≤ 12 ∧ (6 : Nat) < 7 ∧ (12 : Nat) < 15
      ∧ [101, 117, 181].map (fun n => s.prow (192 + n)) = [6, 8, 12]) := by decide +kernel

theorem witness_RepairMapSkipsTheFailedRow_available :
    ∀ n, ((sG.onCfg (fun c => { c with repair := some [(21, 7)] })).secAt n).state ≠ .unavailable := by
  intro n; simp [State.secAt, State.onCfg, sG, State.reset, sget]

theorem witness_StartLevelsFollowTheFuse :
    (let s := State.reset.onBoot (fun b => { b with hubGood := true })
    s.mode = .greenware ∧ s.boot.hubGood = true ∧ s.boot.ioscOk = false ∧ (4 : BitVec 3) ≠ 3 ∧ (4 : BitVec 3) ≠ 5 ∧ (4 : BitVec 3) ≠ 6 ∧ (4 : BitVec 3) ≠ 7) := by
  decide +kernel

theorem witness_OnePartCommandsLeaveTheRest :
    (Safety.part .tbIndex = some .clk ∧ Safety.part (.ddrRefresh 0 2) = some .ddr)
    ∧ (nexts (exec .tbIndex sG) && nexts (exec (.ddrRefresh 0 2) withDram)) = true := by decide +kernel

/-! ## One witness for every clause of the families' statements: the hypotheses of each clause at concrete operands and a concrete state -/

/-- The one field whose place the spec leaves open: with bit 0 of a group's configuration set where `Config.place` puts it, the group registers
its wires. -/
def withBridge : State :=
  let p := Config.place fGroup 0 0 % (440 * 8192)
  sG.onFab (fun f => { f with frames := [(frameKey 192 (p / 8192) (p % 8192 / 32), 0xFFFFFFFF)] })

theorem witness_StartCommandsComplete :
    -- HUB_POWER_GOOD
    (
      let s : State := State.reset
      decide ((s.mode == .greenware && !s.boot.hubGood && (!s.boot.stay || s.boot.porstLow)))) = true ∧
    -- IOSC_QUALIFIED
    (
      let s : State := State.reset.onBoot (fun b => { b with hubGood := true })
      decide ((s.mode == .greenware && s.boot.hubGood && !s.boot.ioscOk))) = true ∧
    -- REFCLK_H_QUAL_TIMEOUT
    (
      let s : State := inMode .bisque (State.reset.onBoot (fun b => { b with hubGood := true, ioscOk := true }))
      decide ((s.boot.ioscOk && !(s.domAt 25).qualified && !s.boot.refclkFailed))) = true ∧
    -- FLASH_DISCOVERY
    (
      let s : State := sG.onBoot (fun b => { b with flashDone := false })
      decide ((s.boot.ioscOk && ((s.domAt 25).qualified || s.boot.refclkFailed) && !s.boot.flashDone))) = true ∧
    -- SETTINGS_SELECT
    (
      let s : State := sG.onBoot (fun b => { b with settingsDone := false })
      decide ((s.boot.flashDone && !s.boot.settingsDone))) = true ∧
    -- FIRMWARE_VERIFY
    (
      let s : State := sG.onBoot (fun b => { b with fwRuns := false })
      decide ((s.boot.settingsDone && !s.boot.fwRuns && !s.boot.recovery))) = true ∧
    -- DIE_RELEASE
    (
      let s : State := sG.onBoot (fun b => { b with released := 1 })
      let d := s.boot.released + 1
      decide ((s.boot.fwRuns && decide (d ≤ 6) && (d == 1 || (s.dieAt (d - 1)).settled) && (decide (5 ≤ d) || s.pwr.good.getLsbD 3)))) = true ∧
    -- VCC_C_GOOD_TIMEOUT
    (
      let s : State := sG.onPwr (fun p => { p with good := 7 })
      decide ((s.boot.fwRuns && !s.pwr.good.getLsbD 3 && !s.boot.vccCFailed))) = true ∧
    -- DIE_JOIN_TIMEOUT
    (
      let d : Fin 7 := 3
      let s : State := sG.dieAtMod 3 (fun x => { x with dstate := 1 })
      decide (((s.dieAt d.val).dstate == 1))) = true ∧
    -- FLASH_LOAD_START
    (
      let s : State := inMode .bisque (sG.onBoot (fun b => { b with loadStarted := false }))
      decide ((s.boot.fwRuns && !s.boot.loadStarted && s.mode == .bisque && [1, 2, 3, 4, 5, 6].all (fun d => (s.dieAt d).settled)))) = true ∧
    -- AUTO_RESTART
    (
      let s : State := State.reset.onBoot (fun b => { b with restart := true })
      decide ((s.mode == .greenware && s.boot.restart && !s.boot.fatalRestart && !s.boot.hubGood))) = true ∧
    -- FATAL_AUTO_RESTART
    (
      let s : State := State.reset.onBoot (fun b => { b with restart := true, fatalRestart := true })
      decide ((s.mode == .greenware && s.boot.fatalRestart && !s.boot.stay && !s.boot.hubGood))) = true ∧
    -- MGR_LOCKSTEP_MISMATCH
    (
      let s : State := sG
      !decide ((s.mgrStopped))) = true := by decide +kernel

theorem witness_ClockCommandsComplete1 :
    -- REFCLK_QUALIFY_DONE
    (
      let s : State := sG
      !decide ((s.mode == .greenware || !s.boot.ioscOk))) = true ∧
    -- CLK_SWITCH
    (
      let id : CmdId := wid
      let s0 : State := withCmd 0x50 [0x5, 0x0] sG
      let c : Cmd := s0.mgr.cmds.headD default
      readyNow id 0x50 c s0 && (
      let d := (c.p 0).toNat
      let src := (c.p 1).toNat
      decide ((d < 64 && hasFallback d && src < 3 && (src != 1 || isFabricPll d))))) = true ∧
    -- CLK_RAMP_STEP
    (
      let dom : Fin 64 := 5
      let s : State := sG.domAtMod 5 (fun x => { x with ramp := some (0, 3, none) })
      let d : Nat := dom.val
      (match (s.domAt d).ramp with
      | some (_, n, _) =>
      !decide ((n = 0))
      | _ => false)) = true ∧
    -- TB_CONFIG
    (
      let id : CmdId := wid
      let s0 : State := withCmd 0x51 [] sG
      let c : Cmd := s0.mgr.cmds.headD default
      readyNow id 0x51 c s0 && (
      decide ((onlyBits (c.p 0) 7 && onlyBits (c.p 1) 0xFFFF && decide ((c.p 0).toNat ≤ 4))))) = true ∧
    -- CAL_SET
    (
      let id : CmdId := wid
      let s0 : State := withCmd 0x52 [0x7, 0x64, 0x0, 0x1000003, 0x0] sG
      let c : Cmd := s0.mgr.cmds.headD default
      readyNow id 0x52 c s0 && (
      let code := fld (c.p 3) 31 24
      let arg := fld (c.p 3) 23 0
      decide ((decide ((c.p 0).toNat < 256) && onlyBits (c.p 2) 0xFFFF && calActionOk code arg)))) = true ∧
    -- CAL_CLEAR
    (
      let id : CmdId := wid
      let s0 : State := withCmd 0x53 [] sG
      let c : Cmd := s0.mgr.cmds.headD default
      readyNow id 0x53 c s0 && (
      let e := (c.p 0).toNat
      decide ((decide (e < 256) || e == 0xFFFF)))) = true ∧
    -- CAL_STATUS
    (
      let id : CmdId := wid
      let s0 : State := withCmd 0x54 [] sG
      let c : Cmd := s0.mgr.cmds.headD default
      readyNow id 0x54 c s0 && (
      decide ((decide ((c.p 0).toNat < 256))))) = true ∧
    -- CLOCK_FAIL
    (
      let dom : Fin 64 := 0
      let s : State := sG
      let d : Nat := dom.val
      let x := s.domAt d
      let runs := d == 8 || x.state == .running || x.state == .ramping || x.state == .fallback
      !decide ((s.mode == .greenware || !runs))) = true ∧
    -- IOSC_FAIL
    (
      let s : State := sG
      !decide ((s.mode == .greenware || s.clk.ioscFailed))) = true ∧
    -- REFCLK_REQUAL_TIMER
    (
      let dom : Fin 64 := 25
      let counts : List Nat := [512, 512, 512, 512, 512, 512, 512, 512]
      let s : State := sG.domAtMod 25 (fun x => { x with qualified := false, fails := 1 })
      let d : Nat := dom.val
      let x := s.domAt d
      !decide ((s.mgrStopped || !isReference d || x.qualified || x.fails = 0 || !s.countsPass d x.tol counts))) = true := by decide +kernel

theorem witness_ClockCommandsComplete2 :
    -- TB_TICK
    (
      let s : State := sG
      !decide ((!s.tbRuns))) = true ∧
    -- TB_INDEX
    (
      let s : State := sG.onClk (fun c => { c with mode := 2 })
      decide ((s.tbRuns && s.clk.mode == 2 && !s.tbFollows))) = true ∧
    -- TB_FRAME_PULSE
    (
      let s : State := sG.onClk (fun c => { c with mode := 3 })
      decide ((s.tbRuns && s.clk.mode == 3 && !s.tbFollows))) = true ∧
    -- TB_PPS_EDGE
    (
      let s : State := sG.onClk (fun c => { c with mode := 4 })
      !decide ((!(s.tbRuns && s.clk.mode == 4 && !s.tbFollows)))) = true ∧
    -- CAL_ENTRY_DUE
    (
      let e0 : Fin 256 := 7
      let s : State := sG.calAtMod 7 (fun e => { e with armed := true, action := 1 })
      let e : Nat := e0.val
      decide ((s.tbRuns)) && (
      decide ((s.calDue e)))) = true ∧
    -- PLL_LOCK
    (
      let dom : Fin 64 := 3
      let s : State := sG
      let d : Nat := dom.val
      !decide ((s.mode == .greenware || d == 0 || d == 8 || (21 ≤ d && d ≤ 25) || !s.refPassed d))) = true := by decide +kernel

theorem witness_PowerCommandsComplete1 :
    -- RAIL_LOSS
    (
      let r : Rail := default
      let s : State := sG
      !decide ((!s.pwr.good.getLsbD (railBit r)))) = true ∧
    -- VDD_AO_DIP
    (
      let mv : Nat := 1600
      let ns : Nat := 1000
      decide ((mv < 1620 ∧ 1000 ≤ ns))) = true ∧
    -- BROWN_OUT
    (
      let s : State := sG.pdomAtMod 0 (fun p => { p with rung := 5 })
      decide ((5 ≤ (s.pdomAt 0).rung.toNat))) = true ∧
    -- PWR_VOTE
    (
      let id : CmdId := wid
      let s0 : State := withCmd 0x40 [] sG
      let c : Cmd := s0.mgr.cmds.headD default
      readyNow id 0x40 c s0 && (
      let d := (c.p 0).toNat
      let r := (c.p 1).toNat
      decide (((decide (d < 10) || d == 0xFF) && (decide (r < 8) || r == 15))))) = true ∧
    -- PWR_STATUS
    (
      let id : CmdId := wid
      let s0 : State := withCmd 0x41 [] sG
      let c : Cmd := s0.mgr.cmds.headD default
      readyNow id 0x41 c s0 && (
      let d := (c.p 0).toNat
      decide ((decide (d < 10) || d == 0xFFFF)))) = true ∧
    -- WATCH_SET
    (
      let id : CmdId := wid
      let s0 : State := withCmd 0x42 [0xa, 0x0, 0x0, 0x0, 0x0] sG
      let c : Cmd := s0.mgr.cmds.headD default
      readyNow id 0x42 c s0 && (
      let ok := decide (10 ≤ (c.p 0).toNat) && onlyBits (c.p 0) 0xFFFF && onlyBits (c.p 1) 0xFFFF && onlyBits (c.p 2) 0x7F && onlyBits (c.p 3) 0xFFFF
      && onlyBits (c.p 4) 0xFFFFFF
      decide ((ok)))) = true ∧
    -- CAL_PWR_VOTE
    (
      let dom : Byte := 1
      let rung : BitVec 4 := 2
      let s : State := sG.onClk (fun c => { c with toMgr := [(5, 0x201)] })
      (match s.clk.toMgr.find? (fun e => e.1 == 5) with
      | some e =>
      !decide ((e.2.toNat ≠ rung.toNat * 256 + dom.toNat))
      | _ => false)) = true ∧
    -- FAB_POWER_BEAT
    (
      let die : Fin 4 := 2
      let s : State := sG.secAtMod 385 (fun x => { x with clkOn := true })
      !decide ((!s.clocked (tileSec die.val 32 0)))) = true ∧
    -- PWR_DOMAIN_MOVE
    (
      let dom : Fin 10 := 1
      let s : State := sG.pdomAtMod 1 (fun p => { p with host := 2 })
      let d : Nat := dom.val
      let p := s.pdomAt d
      let t := s.target d
      !decide ((s.mode == .greenware || t == (p.moving.getD p.rung).toNat || (d == 0 && decide (4 ≤ t) && !s.mgr.kiln.isEmpty)))) = true := by decide +kernel

theorem witness_PowerCommandsComplete2 :
    -- PWR_DRAIN_TIMEOUT
    (
      let dom : Fin 10 := 1
      let s : State := sG.pdomAtMod 1 (fun p => { p with moving := some 2 })
      let d : Nat := dom.val
      decide ((s.pdomAt d).sinking || s.mode == .cooling)) = true ∧
    -- PWR_MGR_CLR
    (
      let s : State := sG
      !decide ((!s.dbgLive))) = true ∧
    -- PWR_WARM_WRITE
    (
      let s : State := sG
      !decide ((!s.dbgLive))) = true ∧
    -- WAKE_N_LOW
    (
      let ns : Nat := 1000
      !decide ((ns < 1000))) = true ∧
    -- WAKE_TIMER
    (
      let s : State := (sG.pdomAtMod 0 (fun p => { p with rung := 7 })).onPwr (fun p => { p with watchNow := [(4, 60)] })
      decide (((s.pdomAt 0).rung = 7 ∧ sget 0 s.pwr.watchNow 4 ≠ 0))) = true ∧
    -- WATCH_SAMPLE
    (
      let s : State := (sG.pdomAtMod 0 (fun p => { p with rung := 6 })).onPwr (fun p => { p with watchNow := [(0, 10)] })
      !decide (((s.pdomAt 0).rung ≠ 6 ∨ (sget 0 s.pwr.watchNow 0).toNat < 10))) = true ∧
    -- RAIL_GOOD
    (
      let r : Rail := .vccC
      let s : State := sG.onPwr (fun p => { p with good := 7 })
      !decide ((s.pwr.good.getLsbD (railBit r)))) = true ∧
    -- PWR_MOVE_COMPLETE
    (
      let dom : Fin 10 := 1
      let s : State := sG.pdomAtMod 1 (fun p => { p with moving := some 2 })
      let d : Nat := dom.val
      let p := s.pdomAt d
      (match p.moving with
      | some _ =>
      let busy := (domainPorts d).any (fun q => (s.iportAt q).out.any (fun o => o.rsp.isNone)) || (domainBnds d).any (fun k => (s.bndAt k).pwrReq.isSome)
      !decide ((s.mode == .greenware || (p.sinking && busy)))
      | _ => false)) = true := by decide +kernel

theorem witness_ManagerCommandsComplete :
    -- PACKET_TIMEOUT
    (
      let t : Transport := .jtag
      let s : State := sG.onMgr (fun m => { m with jtag := { rx := [0xA5010000] } })
      let rx := match t with | .jtag => s.mgr.jtag.rx | .smbus => s.mgr.smbus.rx | .mailbox | .stream | .span => []
      (match rx with
      | _ :: _ =>
      true
      | _ => false)) = true ∧
    -- MGRCMD_UPDATE_DR
    (
      let dr : BitVec 34 := 0x101000000
      let s : State := sG
      !decide ((!bit dr 32 ∨ !s.takesPackets .jtag))) = true ∧
    -- SMBUS_BLOCK_WRITE
    (
      let count : Nat := 32
      let pecOk : Bool := true
      let s : State := sG
      s.takesPackets .smbus && count != 0 && count % 4 == 0 && decide (count ≤ 32) && pecOk) = true ∧
    -- SMBUS_BLOCK_READ
    (
      let s : State := sG
      !decide ((!s.takesPackets .smbus))) = true ∧
    -- SMBUS_READ_BYTE
    (
      let s : State := sG
      !decide ((!s.takesPackets .smbus))) = true ∧
    -- NOP
    (
      let id : CmdId := wid
      let s0 : State := withCmd 0x01 [] sG
      let c : Cmd := s0.mgr.cmds.headD default
      readyNow id 0x01 c s0) = true ∧
    -- GET_STATUS
    (
      let id : CmdId := wid
      let s0 : State := withCmd 0x02 [] sG
      let c : Cmd := s0.mgr.cmds.headD default
      readyNow id 0x02 c s0) = true ∧
    -- GET_ID
    (
      let id : CmdId := wid
      let s0 : State := withCmd 0x03 [] sG
      let c : Cmd := s0.mgr.cmds.headD default
      readyNow id 0x03 c s0) = true ∧
    -- GET_NOTICES
    (
      let id : CmdId := wid
      let s0 : State := withCmd 0x7 [0x10] sG
      let c : Cmd := s0.mgr.cmds.headD default
      readyNow id 0x07 c s0 && (
      let n := (c.p 0).toNat
      decide ((1 ≤ n && n ≤ 255)))) = true ∧
    -- ABORT
    (
      let id : CmdId := wid
      let s0 : State := withCmd 0x04 [] sG
      let c : Cmd := s0.mgr.cmds.headD default
      readyNow id 0x04 c s0 && (
      decide ((onlyBits (c.p 0) (if bit (c.p 0) 8 then 0x100 else 0xFF))))) = true ∧
    -- RESET_DEVICE
    (
      let id : CmdId := wid
      let s0 : State := withCmd 0x05 [] sG
      let c : Cmd := s0.mgr.cmds.headD default
      readyNow id 0x05 c s0 && (
      decide ((onlyBits (c.p 0) 1)))) = true ∧
    -- SET_MODE
    (
      let id : CmdId := wid
      let s0 : State := withCmd 0x6 [0x8] (inMode .glazed sG)
      let c : Cmd := s0.mgr.cmds.headD default
      readyNow id 0x06 c s0 && (
      decide ((onlyBits (c.p 0) 0x10F && fld (c.p 0) 3 0 == 8)))) = true := by decide +kernel

theorem witness_ConfigurationCommandsComplete1 :
    -- CFG_BEGIN
    (
      let id : CmdId := wid
      let s0 : State := withCmd 0x10 [] (inMode .bisque sG)
      let c : Cmd := s0.mgr.cmds.headD default
      readyNow id 0x10 c s0) = true ∧
    -- CFG_FRAMES
    (
      let id : CmdId := wid
      let s0 : State := withSess 0x11 0x100 [0x90000040]
      let c : Cmd := s0.mgr.cmds.headD default
      let x : Session := s0.cfg.session.getD default
      readySessionNow id 0x11 x c s0 && (
      let s := Safety.begun id s0
      let p0 := c.p 0
      let n := fld p0 9 6
      let die := fld p0 30 28
      let sec := fld p0 27 20
      let f := fld p0 19 10
      let enc := hEnc x.hdr
      let cmp := bit p0 31
      let body := c.params.drop 1
      let payload := if enc then body.take (body.length - 4) else body
      decide (((!enc || 4 ≤ body.length) && (cmp || payload.length == 256 * n))) && (
      decide ((1 ≤ die && die ≤ 4 && sec < 192 && f + n ≤ 607 && 1 ≤ n && fld p0 5 0 == 0 && x.names s die sec))))) = true ∧
    -- CFG_KEY_ROLL
    (
      let id : CmdId := wid
      let s0 : State := withSess 0x12 0x102 [0x0, 0x0, 0x0, 0x0, 0x0, 0x0, 0x0, 0x0, 0x0, 0x0, 0x0, 0x0]
      let c : Cmd := s0.mgr.cmds.headD default
      let x : Session := s0.cfg.session.getD default
      readySessionNow id 0x12 x c s0 && (
      decide ((hEnc x.hdr)))) = true ∧
    -- CFG_END
    (
      let id : CmdId := wid
      let s0 : State := withSess 0x13 0x100 [0x0, 0x0, 0x0, 0x0, 0x0, 0x0, 0x0, 0x0, 0x0, 0x0, 0x0, 0x0]
      let c : Cmd := s0.mgr.cmds.headD default
      let x : Session := s0.cfg.session.getD default
      readySessionNow id 0x13 x c s0 && (
      let enc := hEnc x.hdr
      decide ((c.params.length == (if enc then 16 else 12))))) = true ∧
    -- CFG_SIGNATURE
    (
      let id : CmdId := wid
      let s0 : State := withSess 0x18 0x108 [0x0, 0x0, 0x0, 0x0, 0x0, 0x0, 0x0, 0x0, 0x0, 0x0, 0x0, 0x0, 0x0, 0x0, 0x0, 0x0, 0x0, 0x0, 0x0, 0x0, 0x0, 0x0, 0x0, 0x0, 0x0, 0x0, 0x0, 0x0, 0x0, 0x0, 0x0, 0x0, 0x0, 0x0, 0x0, 0x0, 0x0, 0x0, 0x0, 0x0, 0x0, 0x0, 0x0, 0x0, 0x0, 0x0, 0x0, 0x0]
      let c : Cmd := s0.mgr.cmds.headD default
      let x : Session := s0.cfg.session.getD default
      readySessionNow id 0x18 x c s0 && (
      decide ((hSigned x.hdr && x.sig.isNone)))) = true ∧
    -- CFG_MEMINIT
    (
      let id : CmdId := wid
      let s0 : State := withSess 0x17 0x100 [0x101, 0x1, 0x0, 0x0, 0x0, 0x0, 0x0]
      let c : Cmd := s0.mgr.cmds.headD default
      let x : Session := s0.cfg.session.getD default
      readySessionNow id 0x17 x c s0 && (
      let s := Safety.begun id s0
      let p0 := c.p 0
      let die := fld p0 2 0
      let kind := fld p0 9 8
      let secs := maskSecs (maskOf (c.params.drop 1))
      decide ((onlyBits p0 0x307 && 1 ≤ die && die ≤ 4 && kind != 0 && !secs.isEmpty && secs.all (fun i => x.names s die i))))) = true ∧
    -- CFG_COMMIT
    (
      let id : CmdId := wid
      let s0 : State := withCmd 0x14 [0x3] (inMode .refiring (sG.regionAtMod 3 (fun g => { g with phase := .opened, die := 1, mask := 1 })))
      let c : Cmd := s0.mgr.cmds.headD default
      readyNow id 0x14 c s0 && (
      let s := Safety.begun id s0
      let r := (c.p 0).toNat
      let timed := c.params.length == 3
      decide ((decide (r < 16) && s.regionOpen r && (!timed || onlyBits (c.p 2) 0xFFFF))))) = true ∧
    -- CFG_REGION_OPEN
    (
      let id : CmdId := wid
      let s0 : State := withCmd 0x15 [0x1, 0x1, 0x0, 0x0, 0x0, 0x0, 0x0] sG
      let c : Cmd := s0.mgr.cmds.headD default
      readyNow id 0x15 c s0 && (
      let s := Safety.begun id s0
      let die := (c.p 0).toNat
      let m := maskOf (c.params.drop 1)
      let keys := (maskSecs m).map (fun i => (die - 1) * 192 + i)
      let slot := (List.range 16).find? (fun r => !s.regionOpen r)
      decide ((1 ≤ die && die ≤ 4 && m != 0 && slot.isSome && !splitsBank m
      && keys.all (fun n => (s.secAt n).state != .unavailable && !s.underTest n && !(List.range 16).any (fun r => (s.regionAt r).has n)))) && (
      decide (((s.dieAt die).dstate == 2))))) = true ∧
    -- CFG_REGION_CLEAR
    (
      let id : CmdId := wid
      let s0 : State := withCmd 0x16 [0x3] (inMode .refiring (sG.regionAtMod 3 (fun g => { g with phase := .opened, die := 1, mask := 1 })))
      let c : Cmd := s0.mgr.cmds.headD default
      readyNow id 0x16 c s0 && (
      let s := Safety.begun id s0
      let r := (c.p 0).toNat
      decide ((decide (r < 16) && (s.regionAt r).phase == .opened && !(s.regionAt r).session)))) = true ∧
    -- REGION_DRAIN_COMPLETE
    (
      let r : Fin 16 := 3
      let s : State := inMode .refiring (sG.regionAtMod 3 (fun g => { g with phase := .draining, die := 1, mask := 1 }))
      let g := s.regionAt r.val
      decide ((g.phase == .draining && s.drained g))) = true ∧
    -- REGION_DRAIN_TIMEOUT
    (
      let r : Fin 16 := 3
      let s : State := inMode .refiring (sG.regionAtMod 3 (fun g => { g with phase := .draining, die := 1, mask := 1 }))
      let g := s.regionAt r.val
      decide ((g.phase == .draining))) = true ∧
    -- REGION_BLANK_COMPLETE
    (
      let r : Fin 16 := 3
      let s : State := inMode .refiring (sG.regionAtMod 3 (fun g => { g with phase := .blanking, die := 1, mask := 1 }))
      let g := s.regionAt r.val
      !decide ((g.phase != .blanking))) = true := by decide +kernel

theorem witness_ConfigurationCommandsComplete2 :
    -- REGION_RELEASE_COMPLETE
    (
      let r : Fin 16 := 3
      let s : State := inMode .refiring (sG.regionAtMod 3 (fun g => { g with phase := .releasing, die := 1, mask := 1 }))
      let g := s.regionAt r.val
      !decide ((g.phase != .releasing))) = true ∧
    -- DONE_LINE_HIGH
    (
      let s : State := sG
      !decide ((s.cfg.doneDrive))) = true ∧
    -- DONE_WAIT_TIMEOUT
    (
      let s : State := ({ sG with settings := { words := [(16, 0x10000)] } } : State).onCfg (fun c => { c with session := some { owner := wid, hdr := [0, 0, 0, 0, 0], doneWait := true } })
      (match s.cfg.session with
      | some x =>
      decide ((x.doneWait ∧ fld (s.setting 16) 31 16 ≠ 0))
      | _ => false)) = true ∧
    -- STARTUP_COMPLETE
    (
      let s : State := sG.onCfg (fun c => { c with session := some { owner := wid, hdr := [0, 0, 0, 0, 0], started := true } })
      (match s.cfg.session with
      | some x =>
      decide ((x.started ∧ !hPartial x.hdr))
      | _ => false)) = true ∧
    -- STREAM_INACTIVITY_TIMEOUT
    (
      let s : State := sG.onCfg (fun c => { c with session := some { owner := wid, hdr := [0, 0, 0, 0, 0] } })
      (match s.cfg.session with
      | some x =>
      let holds := s.mgr.cmds.any (fun c => c.id.t == x.owner.t && [0x11, 0x12, 0x13, 0x17, 0x18].contains c.op)
      !decide ((x.verified || x.paused || holds))
      | _ => false)) = true ∧
    -- LOAD_FALLBACK_DECISION
    (
      let s : State := sG.onCfg (fun c => { c with decision := true, session := some { owner := wid, hdr := [0, 0, 0, 0, 0], paused := true } })
      (match s.cfg.session with
      | some x =>
      !decide ((!s.cfg.decision ∨ !x.paused))
      | _ => false)) = true ∧
    -- CFG_STREAM_DATA
    (
      let s : State := sG.onCfg (fun c => { c with port := { isOpen := true } })
      let p := s.cfg.port
      !decide ((!p.isOpen))) = true ∧
    -- CAPTURE
    (
      let id : CmdId := wid
      let s0 : State := withCmd 0x30 [0x1, 0x1, 0x0, 0x0, 0x0, 0x0, 0x0, 0x0] sG
      let c : Cmd := s0.mgr.cmds.headD default
      readyNow id 0x30 c s0 && (
      let s := Safety.begun id s0
      let die := (c.p 0).toNat
      let m := maskOf (c.params.drop 1)
      let p7 := c.p 7
      let trig := fld p7 31 30
      let keys := (maskSecs m).map (fun i => (die - 1) * 192 + i)
      decide ((1 ≤ s.levelOf c.id.t)) && (
      decide ((1 ≤ die && die ≤ 4 && m != 0 && trig != 3
      && onlyBits p7 (if trig = 0 then 0 else if trig = 1 then 0x401FFFFF else 0x800000FF)
      && (trig == 0 || s.mode != .held)
      && keys.all (fun n => (s.secAt n).state != .unavailable && !s.underTest n && !s.inRegion n))) && (
      decide (((s.dieAt die).dstate == 2)))))) = true ∧
    -- CAPTURE_SNAPSHOT
    (
      let s : State := sG.onCfg (fun c => { c with captures := [{ cmd := wid, die := 0, mask := 1, p7 := 0x40000000 }] })
      (match s.cfg.captures.find? (fun k => fld k.p7 31 30 == 1) with
      | some _ =>
      true
      | _ => false)) = true ∧
    -- READBACK
    (
      let id : CmdId := wid
      let s0 : State := withCmd 0x31 [0x1, 0x0, 0x0, 0x1] sG
      let c : Cmd := s0.mgr.cmds.headD default
      readyNow id 0x31 c s0 && (
      let s := Safety.begun id s0
      let die := fld (c.p 0) 2 0
      let kind := fld (c.p 0) 9 8
      let sec := (c.p 1).toNat
      let n := (die - 1) * 192 + sec
      decide ((1 ≤ s.levelOf c.id.t)) && (
      decide ((onlyBits (c.p 0) 0x307 && 1 ≤ die && die ≤ 4 && kind != 3 && sec < 192 && (c.p 3) != 0
      && (c.p 2).toNat + (c.p 3).toNat ≤ unitCount kind && !s.underTest n && !s.inRegion n
      && (kind != 2 || (s.secAt n).capValid))) && (
      decide (((s.dieAt die).dstate == 2 && (s.secAt n).state != .unavailable)))))) = true ∧
    -- READBACK_TIMEOUT
    (
      let id : CmdId := wid
      let s0 : State := withCmd 0x31 [0x1, 0x0, 0x0, 0x1] sG
      let c : Cmd := s0.mgr.cmds.headD default
      readyNow id 0x31 c s0 && (
      let s := Safety.begun id s0
      let die := fld (c.p 0) 2 0
      let kind := fld (c.p 0) 9 8
      let sec := (c.p 1).toNat
      let n := (die - 1) * 192 + sec
      decide ((1 ≤ s.levelOf c.id.t)) && (
      decide ((onlyBits (c.p 0) 0x307 && 1 ≤ die && die ≤ 4 && kind != 3 && sec < 192 && (c.p 3) != 0
      && (c.p 2).toNat + (c.p 3).toNat ≤ unitCount kind && !s.underTest n && !s.inRegion n
      && (kind != 2 || (s.secAt n).capValid))) && (
      decide (((s.dieAt die).dstate == 2 && (s.secAt n).state != .unavailable)))))) = true := by decide +kernel

theorem witness_NetworkCommandsComplete :
    -- FENCE
    (
      let p0 : BitVec 10 := 0xC
      decide ((isIport p0.toNat))) = true ∧
    -- INITIATOR_REQUEST_ISSUE
    (
      let p0 : BitVec 10 := 0xC
      let r : NocReq := { typ := 0, otag := 1, aop := 0, len := 3, addr := 0x08000000000, hart := 0, acc := .load, insp := false, data := [], bad := [] }
      let s : State := sG
      let p : Nat := p0.toNat
      decide (isIport p0.toNat && reqDataOk r) && decide (s.mode ≠ .greenware) && decide (p ≠ portApc0) && decide (p ≠ portApc1)
        && (s.portTakes p && s.fabricOpen p && !(p == portMgr && (s.hartAt 8).halted))
        -- and an access of hart 0
        && (let p0 : BitVec 10 := BitVec.ofNat 10 portApc0
            isIport p0.toNat && decide (p0.toNat = corePort r.hart) && s.portAwake p0.toNat && !(s.hartAt r.hart.val).halted)) = true ∧
    -- FLIT_ROUTE
    (
      let router : BitVec 8 := 33
      let inport : Fin 6 := 1
      let vc0 : Fin 5 := 0
      let s : State := sG.chanAtMod (chanKey 33 1 0) (fun c => { c with buf := [5] })
      let r : Nat := router.toNat
      let inp : Nat := inport.val
      let vc : Nat := vc0.val
      (routerExists router.toNat && decide (router.toNat / 32 < 5) && (inport == 0 || (nbr router.toNat inport.val).isSome)) && (
      match (s.chanAt (chanKey r inp vc)).buf with
      | f :: _ =>
        match s.nextFlit r inp vc f with
        | (_, hdr, out, lport, _) => !s.flitBlocked r inp vc hdr out lport && s.flitTurn r out lport vc && decide ((s.domAt (netDomain (r / 32))).state ≠ .stopped)
      | _ => false)) = true ∧
    -- NOC_RESPONSE_ARRIVAL
    (
      let p0 : BitVec 10 := 0xC
      decide ((isIport p0.toNat))) = true ∧
    -- RSP_TIMEOUT
    (
      let p0 : BitVec 10 := 0xC
      let txid : BitVec 16 := 7
      let s : State := sG.iportAtMod 12 (fun q => { q with out := [{ req := { txid := 7 } }] })
      decide ((isIport p0.toNat)) && (
      let p : Nat := p0.toNat
      let never := fld (s.reg (portDie p) (blkNoc + 0x4000 + 0x20 * (p % 128))) 31 16 == 0
      (match (s.iportAt p).out.find? (fun o => o.req.txid == txid && o.rsp.isNone && o.sent && o.req.typ != 3) with
      | some _ =>
      !decide ((never || s.mode == .held))
      | _ => false))) = true ∧
    -- QOS_CHANGE_APPLY
    (
      let p0 : BitVec 10 := 0xC
      let s : State := sG.iportAtMod 12 (fun q => { q with qosPend := some 2 })
      decide ((isIport p0.toNat)) && (
      let p : Nat := p0.toNat
      let q := s.iportAt p
      (match q.qosPend with
      | some _ =>
      decide ((q.out.isEmpty))
      | _ => false))) = true ∧
    -- FABRIC_TARGET_RESPONSE
    (
      let p0 : BitVec 10 := 0x100
      let id : BitVec 6 := 5
      let status : BitVec 4 := 0
      let s : State := sG.tportAtMod 0x100 (fun t => { t with pres := [(5, { typ := 1, len := 3 })] })
      decide ((isFabricPort p0.toNat && ([0, 4, 5, 8].contains status.toNat))) && (
      let p : Nat := p0.toNat
      (match (s.tportAt p).pres.find? (fun e => e.1 == id) with
      | some _ =>
      true
      | _ => false))) = true ∧
    -- NOC_COMMIT
    (
      let s : State := sG
      !decide ((s.noc.commitBusy))) = true ∧
    -- NOC_COMMIT_APPLY
    (
      let s : State := sG.onNoc (fun n => { n with commitBusy := true })
      decide ((s.noc.commitBusy))) = true ∧
    -- PATH_SWITCH_DRAIN_END
    (
      let s : State := sG.onNoc (fun n => { n with switches := [4] })
      (match s.noc.switches with
      | _ :: _ =>
      true
      | _ => false)) = true ∧
    -- NOC_FW_LOG_READ
    (
      let p : BitVec 10 := 0x100
      decide ((isTport p.toNat))) = true ∧
    -- NOC_IPORT_HOLD_CLR
    (
      let p0 : BitVec 10 := 0xC
      decide ((isIport p0.toNat))) = true ∧
    -- READ_MEM
    (
      let id : CmdId := wid
      let s0 : State := withCmd 0x32 [] sG
      let c : Cmd := s0.mgr.cmds.headD default
      readyNow id 0x32 c s0 && (
      let s := Safety.begun id s0
      let n := (c.p 2).toNat
      decide ((1 ≤ s.levelOf c.id.t)) && (
      decide ((n % 4 == 0))))) = true ∧
    -- RD
    (
      let p0 : BitVec 10 := 32
      let s : State := sG.tportAtMod 32 (fun t => { t with inq := [{ typ := 0, len := 3 }] })
      decide ((isTport p0.toNat)) && (
      let p : Nat := p0.toNat
      (match (s.tportAt p).inq with
      | q :: rest =>
      decide ((q.typ.toNat != 1 && q.typ.toNat != 2 && s.targetReady p q && s.portClocked p && s.mode != .greenware)) && (
      let s1 := s.tportAtMod p (fun t => { t with inq := rest, drain := t.drain - 1 })
      decide ((s1.fwPass p q)))
      | _ => false))) = true ∧
    -- WR
    (
      let p0 : BitVec 10 := 32
      let s : State := sG.tportAtMod 32 (fun t => { t with inq := [{ typ := 1, len := 3, data := [5] }] })
      decide ((isTport p0.toNat)) && (
      let p : Nat := p0.toNat
      (match (s.tportAt p).inq with
      | q :: rest =>
      decide ((q.typ.toNat == 1 && s.targetReady p q && s.portClocked p && s.mode != .greenware)) && (
      let s1 := s.tportAtMod p (fun t => { t with inq := rest, drain := t.drain - 1 })
      decide ((s1.fwPass p q)))
      | _ => false))) = true ∧
    -- ATOM
    (
      let p0 : BitVec 10 := 32
      let s : State := sG.tportAtMod 32 (fun t => { t with inq := [{ typ := 2, len := 3, data := [5] }] })
      decide ((isTport p0.toNat)) && (
      let p : Nat := p0.toNat
      (match (s.tportAt p).inq with
      | q :: rest =>
      decide ((q.typ.toNat == 2 && s.targetReady p q && s.portClocked p && s.mode != .greenware)) && (
      let s1 := s.tportAtMod p (fun t => { t with inq := rest, drain := t.drain - 1 })
      decide ((s1.fwPass p q)))
      | _ => false))) = true := by decide +kernel

theorem witness_SecurityCommandsComplete :
    -- SET_READ
    (
      let id : CmdId := wid
      let s0 : State := withCmd 0x60 [] sG
      let c : Cmd := s0.mgr.cmds.headD default
      readyNow id 0x60 c s0 && (
      let o := (c.p 0).toNat
      let n := (c.p 1).toNat
      decide ((o + n ≤ 1024)))) = true ∧
    -- SET_WRITE
    (
      let id : CmdId := wid
      let s0 : State := withCmd 0x61 ((List.range 25).map factoryWord) (sG.onFlash (fun f => { f with valid0 := true, size0 := 1073741824 }))
      let c : Cmd := s0.mgr.cmds.headD default
      readyNow id 0x61 c s0 && (
      let s := Safety.begun id s0
      decide ((settingsValid (fun n => if n = 2 ∨ n = 1023 then 0 else c.p n))) && (
      decide ((s.flash.valid0 && s.settingsTop != some 0xFFFFFFFE && s.settingsSlot.isSome))))) = true ∧
    -- FLASH_READ
    (
      let id : CmdId := wid
      let s0 : State := withCmd 0x62 [0x0, 0x1000, 0x40] (sG.onFlash (fun f => { f with valid0 := true, size0 := 65536 }))
      let c : Cmd := s0.mgr.cmds.headD default
      readyNow id 0x62 c s0 && (
      let s := Safety.begun id s0
      let port := fld (c.p 0) 0 0
      let o := (c.p 1).toNat
      let n := (c.p 2).toNat
      decide ((onlyBits (c.p 0) 1)) && (
      decide ((s.flashValid port)) && (
      decide ((o + n ≤ s.flashSize port)))))) = true ∧
    -- FLASH_PROGRAM
    (
      let id : CmdId := wid
      let s0 : State := withCmd 0x63 [0x0, 0x1000, 0xff00] (sG.onFlash (fun f => { f with valid0 := true, size0 := 65536 }))
      let c : Cmd := s0.mgr.cmds.headD default
      readyNow id 0x63 c s0 && (
      let s := Safety.begun id s0
      let port := fld (c.p 0) 0 0
      let o := (c.p 1).toNat
      let bs := wordBytes (c.params.drop 2)
      let secs := (List.range ((o + bs.length - 1) / 4096 + 1 - o / 4096)).map (fun i => o / 4096 + i)
      decide ((onlyBits (c.p 0) 1)) && (
      decide ((s.flashValid port)) && (
      decide ((o + bs.length ≤ s.flashSize port)) && (
      decide ((secs.all (fun k => !s.flashSkips port k)))))))) = true ∧
    -- LOG_READ
    (
      let id : CmdId := wid
      let s0 : State := withCmd 0x64 [0x0, 0x5] sG
      let c : Cmd := s0.mgr.cmds.headD default
      readyNow id 0x64 c s0 && (
      let n := (c.p 1).toNat
      decide ((1 ≤ n && n ≤ 65535)))) = true ∧
    -- KEY_LOAD_BBRAM
    (
      let id : CmdId := wid
      let s0 : State := withCmd 0x70 [0x0, 0x0, 0x0, 0x0, 0x0, 0x0, 0x0, 0x0, 0x0, 0x0, 0x0, 0x0, 0x0, 0x0] (inMode .bisque sG)
      let c : Cmd := s0.mgr.cmds.headD default
      readyNow id 0x70 c s0 && (
      let s := Safety.begun id s0
      decide ((s.fuseAuth c && !bit (s.fuse 0 0) 2)))) = true ∧
    -- AUTH_CHALLENGE
    (
      let id : CmdId := wid
      let s0 : State := withCmd 0x72 [] sG
      let c : Cmd := s0.mgr.cmds.headD default
      readyNow id 0x72 c s0 && (
      let s := Safety.begun id s0
      decide (((c.p 0).toNat ≤ 1)) && (
      decide ((!s.debugLocked && s.dbg.failures < 4))))) = true ∧
    -- AUTH_RESPOND
    (
      let id : CmdId := wid
      let s0 : State := withCmd 0x73 [] sG
      let c : Cmd := s0.mgr.cmds.headD default
      readyNow id 0x73 c s0) = true ∧
    -- FUSE_READ
    (
      let id : CmdId := wid
      let s0 : State := withCmd 0x74 [] sG
      let c : Cmd := s0.mgr.cmds.headD default
      readyNow id 0x74 c s0 && (
      let f := (c.p 0).toNat
      decide ((fuseWidth f != 0)))) = true ∧
    -- FUSE_PROGRAM
    (
      let id : CmdId := wid
      let s0 : State := withCmd 0x75 [0x0, 0x1] (inMode .bisque sG)
      let c : Cmd := s0.mgr.cmds.headD default
      let s := Safety.begun id s0
      let f := (c.p 0).toNat
      readyNow id 0x75 c s0 && decide (fuseWidth f != 0) && decide (s.fuseRefusal f (wordsNat (c.params.drop 1)) = none) && s.fuseAuth c) = true ∧
    -- KILN_WRITEBACK
    (
      let s : State := sG
      !decide ((s.mgrStopped))) = true := by decide +kernel

theorem witness_EncryptionCommandsComplete :
    -- KEY_SLOT_RETIRE
    (
      let id : CmdId := wid
      let s0 : State := withCmd 0x71 [] sG
      let c : Cmd := s0.mgr.cmds.headD default
      readyNow id 0x71 c s0 && (
      decide ((onlyBits (c.p 0) 0x3F)))) = true ∧
    -- MEE_REGION
    (
      let id : CmdId := wid
      let s0 : State := withCmd 0xA0 [] sG
      let c : Cmd := s0.mgr.cmds.headD default
      let r := fld (c.p 0) 5 0
      let rm := bit (c.p 0) 8
      let base := (c.p 1).toNat + (c.p 2).toNat * 2 ^ 32
      let size := (c.p 3).toNat + (c.p 4).toNat * 2 ^ 32
      let g := s0.mregAt r
      !decide (((if rm then s0.rangeBusy g.base.toNat (g.base.toNat + g.size.toNat) else s0.rangeBusy base (base + size)))) && (
      readyNow id 0xA0 c s0 && (
      let s := Safety.begun id s0
      decide ((onlyBits (c.p 0) 0x13F && (rm == g.en))) && (
      decide ((!s.reencNames r)))))) = true ∧
    -- MEE_REKEY
    (
      let id : CmdId := wid
      let s0 : State := withCmd 0xa1 [0x9, 0x1] (sG.mregAtMod 9 (fun r => { r with en := true }))
      let c : Cmd := s0.mgr.cmds.headD default
      readyNow id 0xA1 c s0 && (
      let s := Safety.begun id s0
      let r := fld (c.p 0) 5 0
      decide ((onlyBits (c.p 0) 0x3F && (s.mregAt r).en)))) = true ∧
    -- MEE_FLUSH_COMPLETE
    (
      let s : State := sG.onMee (fun m => { m with reenc := some { cmd := none, regions := [9], slot := 3, retire := none } })
      (match s.mee.reenc with
      | some e =>
      !decide ((e.climbing))
      | _ => false)) = true ∧
    -- MEE_REENC_COMPLETE
    (
      let s : State := (sG.onDdr (fun d => { d with set := 1 })).onMee (fun m => { m with reenc := some { cmd := none, regions := [9], slot := 3, retire := none, climbing := true } })
      (match s.mee.reenc with
      | some e =>
      (match e.regions with
      | r :: _ =>
      decide ((e.climbing && s.ddrSet.all (fun c => decide (s.regionGroups r.val ≤ sget 0 e.done c))))
      | _ => false)
      | _ => false)) = true ∧
    -- MEE_REENC_GROUP
    (
      let c0 : Fin 12 := 0
      let s : State := ((sG.onDdr (fun d => { d with set := 1 })).ddrAtMod 0 (fun c => { c with state := .inService })).onMee (fun m => { m with region := [(9, { en := true, size := 65536 })], reenc := some { cmd := none, regions := [9], slot := 3, retire := none, climbing := true } })
      let c : Nat := c0.val
      (match s.mee.reenc with
      | some e =>
      let r := (e.regions.headD 0).val
      let g := sget 0 e.done c
      !decide ((!e.climbing || s.mode == .held || (s.mee.reencQw && !s.quietWin) || !s.ddr.set.getLsbD c || decide (s.regionGroups r ≤ g) || !s.ddrServes c))
      | _ => false)) = true := by decide +kernel

theorem witness_TestCommandsComplete :
    -- TEL_READ
    (
      let id : CmdId := wid
      let s0 : State := withCmd 0x80 [] sG
      let c : Cmd := s0.mgr.cmds.headD default
      readyNow id 0x80 c s0 && (
      decide ((c.params.all (fun w => decide (w.toNat < 256) && (telGroup w.toNat).isSome))))) = true ∧
    -- TEL_THRESH
    (
      let id : CmdId := wid
      let s0 : State := withCmd 0x81 [] sG
      let c : Cmd := s0.mgr.cmds.headD default
      readyNow id 0x81 c s0 && (
      decide ((decide ((c.p 0).toNat < 256) && (telGroup (c.p 0).toNat).isSome)))) = true ∧
    -- BIST_RUN
    (
      let id : CmdId := wid
      let s0 : State := withCmd 0x90 [0x11000005, 0x0] sG
      let c : Cmd := s0.mgr.cmds.headD default
      readyNow id 0x90 c s0 && (
      let s := Safety.begun id s0
      let kind := fld (c.p 0) 31 28
      let die := fld (c.p 0) 26 24
      let sec := fld (c.p 0) 7 0
      let n := (die - 1) * 192 + sec
      let x := s.secAt n
      let free := !s.tst.bist.any (fun b => b.die.val + 1 == die)
      let common := 1 ≤ die && die ≤ 4 && (s.dieAt die).dstate == 2 && free
      let sector := kind == 1 && onlyBits (c.p 0) 0xF70000FF && onlyBits (c.p 1) 0x11F && decide (sec < 192) && x.state != .unavailable
        && x.state != .inRegion && !s.secFrozen n && (x.state != .running || s.pwr.warmHeld || bit (c.p 1) 8)
      decide (common && sector))) = true ∧
    -- BIST_COMPLETE
    (
      let die0 : Fin 4 := 2
      let s : State := sG.onTst (fun t => { t with bist := [{ cmd := none, whole := false, die := 2, sec := 7, set := 0, loaded := false }] })
      let die : Nat := die0.val
      (s.tst.bist.find? (fun b => b.die.val == die && b.tested.isNone)).isSome) = true ∧
    -- BIST_RESULT
    (
      let id : CmdId := wid
      let s0 : State := withCmd 0x91 [0x11000005] sG
      let c : Cmd := s0.mgr.cmds.headD default
      readyNow id 0x91 c s0 && (
      let kind := fld (c.p 0) 31 28
      let die := fld (c.p 0) 26 24
      let sec := fld (c.p 0) 7 0
      let ok := 1 ≤ die && die ≤ 4 && ((kind == 1 && onlyBits (c.p 0) 0xF70000FF && decide (sec < 192)) || (kind == 2 && onlyBits (c.p 0) 0xF7000000))
      decide ((ok)))) = true ∧
    -- REPAIR_MAP_READ
    (
      let id : CmdId := wid
      let s0 : State := withCmd 0x92 [0x4] sG
      let c : Cmd := s0.mgr.cmds.headD default
      readyNow id 0x92 c s0 && (
      let d := (c.p 0).toNat
      decide ((1 ≤ d && d ≤ 4)))) = true ∧
    -- LANE_TEST
    (
      let id : CmdId := wid
      let s0 : State := withCmd 0x93 [0x4d05, 0x10004] (sG.bundleAtMod 5 (fun b => { b with state := .full }))
      let c : Cmd := s0.mgr.cmds.headD default
      readyNow id 0x93 c s0 && (
      let s := Safety.begun id s0
      let b := fld (c.p 0) 6 0
      let lane := fld (c.p 0) 14 8
      decide ((onlyBits (c.p 0) 0x7F7F && decide (b < 76) && decide (lane < 78) && onlyBits (c.p 1) 0xFFFF0007 && decide (fld (c.p 1) 2 0 ≤ 4)
      && fld (c.p 1) 31 16 != 0)) && (
      decide (((s.bundleAt b).state == .full && decide (ones (s.bundleAt b).failed + b2n (s.bundleAt b).rxOut.isSome < 4)))))) = true ∧
    -- SCAN_ENTER
    (
      let id : CmdId := wid
      let s0 : State := withCmd 0x94 [0x1f] (inMode .bisque sG)
      let c : Cmd := s0.mgr.cmds.headD default
      readyNow id 0x94 c s0 && (
      let s := Safety.begun id s0
      decide ((!bit (s.fuse 5 0) 0 && decide (2 ≤ s.levelOf c.id.t))) && (
      decide ((onlyBits (c.p 0) 0x1F))))) = true ∧
    -- TEL_SAMPLE
    (
      let group : Byte := 1
      let s : State := sG.onClk (fun c => { c with toMgr := [(4, 1)] })
      !decide ((s.mgrStopped)) && (
      (match s.clk.toMgr.find? (fun e => e.1 == 4) with
      | some e =>
      !decide ((e.2.toNat ≠ group.toNat))
      | _ => false))) = true ∧
    -- COOLING_COMPLETE
    (
      let s : State := inMode .cooling (sG.onTst (fun t => { t with cooling := some { reset := false, skip := true } }))
      (match s.tst.cooling with
      | some k =>
      !decide ((!k.skip && !s.rowsDone k))
      | _ => false)) = true ∧
    -- SECTOR_TEST_ROW
    (
      let die0 : Fin 4 := 3
      let col0 : Fin 16 := 15
      let row0 : Fin 13 := 12
      let s : State := inMode .cooling (sG.onTst (fun t => { t with cooling := some { reset := false, skip := false } }))
      let die : Nat := die0.val
      let col : Nat := col0.val
      let row : Nat := row0.val
      (match s.tst.cooling with
      | some k =>
      !decide ((k.skip || (s.dieAt (die + 1)).dstate != 2 || k.rows.any (fun r => r.1.val == die && r.2.1.val == col && r.2.2.1.val == row)))
      | _ => false)) = true ∧
    -- REPAIR_RECORD_WRITE
    (
      let s : State := sG.onTst (fun t => { t with add := [(1, 2, 3, 4)] })
      !decide ((s.mgrStopped || s.mode == .cooling || (s.tst.add.isEmpty && s.tst.del.isEmpty)))) = true ∧
    -- BG_BIST_TIMER
    (
      let s : State := sG.onTst (fun t => { t with bgCfg := 0x800000A8 })
      !decide ((s.mgrStopped || !bit s.tst.bgCfg 31 || (bit s.tst.bgCfg 30 && !s.quietWin) || !(s.mode == .bisque || s.mode == .glazed || s.mode == .refiring)))) = true ∧
    -- TEL_SAMPLE_TIMER
    (
      let s : State := sG
      !decide ((s.mgrStopped || s.tst.telPeriod == 0))) = true := by decide +kernel

theorem witness_DramCommandsComplete :
    -- DDR_REMAP
    (
      let id : CmdId := wid
      let s0 : State := withCmd 0xa2 [0x0, 0x40, 0x0] ((sG.onDdr (fun d => { d with set := 1, isOpen := true, trained := true, usable := 1024, chan := [(0, { state := .inService, sizeMib := 2048 })] })))
      let cmd : Cmd := s0.mgr.cmds.headD default
      readyNow id 0xA2 cmd s0 && (
      let s := Safety.begun id s0
      let c := (cmd.p 0).toNat
      let ca := (cmd.p 1).toNat + (cmd.p 2).toNat * 2 ^ 32
      decide ((decide (c < 12) && ca % 64 == 0)) && (
      decide ((s.ddrServes c)) && (
      decide ((decide (ca < ((s.ddrAt c).sizeMib - 1) * 1048576))))))) = true ∧
    -- DDR_TRAIN_COMPLETE
    (
      let c0 : Fin 12 := 3
      let s : State := sG.ddrAtMod 3 (fun c => { c with state := .training })
      let c : Nat := c0.val
      let x := s.ddrAt c
      !decide ((x.state != .training))) = true ∧
    -- DDR_TRAIN_TIMEOUT
    (
      let c0 : Fin 12 := 3
      let s : State := sG.ddrAtMod 3 (fun c => { c with state := .training })
      let c : Nat := c0.val
      decide (((s.ddrAt c).state == .training))) = true ∧
    -- DDR_RANGE_OPEN
    (
      let bySoftware : Bool := false
      let s : State := sG.onDdr (fun d => { d with trained := true })
      decide ((s.ddr.trained && !s.ddr.isOpen && (bySoftware || !bit (s.setting 24) 15)))) = true ∧
    -- DRAM_READ
    (
      let c0 : Fin 12 := 0
      let s : State := (sG.onDdr (fun d => { d with set := 1, isOpen := true, trained := true, usable := 1024, chan := [(0, { state := .inService, sizeMib := 2048, q := [{ typ := 0, len := 63 }] })] }))
      let c : Nat := c0.val
      (match (if s.ddrServes c then s.nextReq c 0 else none) with
      | some _ =>
      true
      | _ => false)) = true ∧
    -- DRAM_WRITE
    (
      let c0 : Fin 12 := 0
      let s : State := (sG.onDdr (fun d => { d with set := 1, isOpen := true, trained := true, usable := 1024, chan := [(0, { state := .inService, sizeMib := 2048, q := [{ typ := 1, len := 31, data := [7] }] })] }))
      let c : Nat := c0.val
      (match (if s.ddrServes c then s.nextReq c 1 else none) with
      | some r =>
      let ca := s.reqCa r
      let ls := reqLines ca r.len.toNat
      let fresh := ls.filter (fun l => !(s.ddrAt c).wb.any (fun w => w.la == l))
      !decide ((64 < (s.ddrAt c).wb.length + fresh.length))
      | _ => false)) = true ∧
    -- DRAM_ATOMIC
    (
      let c0 : Fin 12 := 0
      let s : State := (sG.onDdr (fun d => { d with set := 1, isOpen := true, trained := true, usable := 1024, chan := [(0, { state := .inService, sizeMib := 2048, q := [{ typ := 2, len := 3, data := [7] }] })] }))
      let c : Nat := c0.val
      (match (if s.ddrServes c then s.nextReq c 2 else none) with
      | some r =>
      let ca := s.reqCa r
      let la := ca / 64
      !decide ((64 ≤ (s.ddrAt c).wb.length ∧ !(s.ddrAt c).wb.any (fun w => w.la == la)))
      | _ => false)) = true ∧
    -- DDR_ALERT
    (
      let c0 : Fin 12 := 0
      let s : State := (sG.onDdr (fun d => { d with set := 1, isOpen := true, trained := true, usable := 1024, chan := [(0, { state := .inService, sizeMib := 2048 })] }))
      let c : Nat := c0.val
      let x := s.ddrAt c
      !decide ((x.state != .inService))) = true ∧
    -- DDR_UPKEEP_TIMER
    (
      let c0 : Fin 12 := 0
      let s : State := (sG.onDdr (fun d => { d with set := 1, isOpen := true, trained := true, usable := 1024, chan := [(0, { state := .inService, sizeMib := 2048 })] }))
      let c : Nat := c0.val
      let w := s.reg 0 (blkDdr + c * 0x10000 + 4)
      decide ((s.ddrServes c && (!bit w 3 || s.quietWin)))) = true ∧
    -- DDR_REFRESH
    (
      let c0 : Fin 12 := 0
      let s : State := (sG.onDdr (fun d => { d with set := 1, isOpen := true, trained := true, usable := 1024, chan := [(0, { state := .inService, sizeMib := 2048 })] }))
      let c : Nat := c0.val
      decide ((s.ddrServes c))) = true ∧
    -- DDR_WB_DRAIN
    (
      let c0 : Fin 12 := 0
      let s : State := (sG.onDdr (fun d => { d with set := 1, isOpen := true, trained := true, usable := 1024, chan := [(0, { state := .inService, sizeMib := 2048, wb := [{ la := 5, data := 1 }] })] }))
      let c : Nat := c0.val
      !decide ((!s.ddrServes c))) = true ∧
    -- DDR_PATROL_STEP
    (
      let c0 : Fin 12 := 0
      let s : State := (sG.onDdr (fun d => { d with set := 1, isOpen := true, trained := true, usable := 1024, chan := [(0, { state := .inService, sizeMib := 2048 })] }))
      let c : Nat := c0.val
      let w := s.reg 0 (blkDdr + c * 0x10000 + 4)
      !decide ((!s.ddrServes c || !bit w 0 || s.mode == .held || (bit w 1 && !s.quietWin) || !s.ddr.set.getLsbD c))) = true := by decide +kernel

theorem witness_DispatchCommandsComplete :
    -- WDS_QUEUE_CFG
    (
      let id : CmdId := wid
      let s0 : State := withCmd 0xB0 [] sG
      let c : Cmd := s0.mgr.cmds.headD default
      readyNow id 0xB0 c s0 && (
      let p := c.p 1
      decide ((onlyBits (c.p 0) 0x3FF && onlyBits p 0x3F && (c.p 2).toNat ≤ 65536)))) = true ∧
    -- WDS_STATUS
    (
      let id : CmdId := wid
      let s0 : State := withCmd 0xB1 [] sG
      let c : Cmd := s0.mgr.cmds.headD default
      readyNow id 0xB1 c s0 && (
      let p := c.p 0
      decide ((if bit p 31 then onlyBits p 0x800FFFFF else onlyBits p 0x3FF)))) = true ∧
    -- WDS_TAKE_TIMEOUT
    (
      let ctx : Fin 256 := 7
      let s : State := sG.ctxAtMod 7 (fun x => { x with held := [none] })
      (match (if s.mode == .resting then [] else (s.ctxAt ctx.val).held) with
      | _ :: _ =>
      true
      | _ => false)) = true ∧
    -- WDS_CTX_RELEASE
    (
      let s : State := sG
      decide ((s.wdsOn))) = true ∧
    -- WDS_SERVICE_TIMEOUT
    (
      let ctx : Fin 256 := 7
      let ticket : BitVec 16 := 9
      let s : State := sG.ctxAtMod 7 (fun x => { x with inService := [{ item := {}, ticket := 9, queue := 0 }] })
      let x := s.ctxAt ctx.val
      decide ((s.wdsOn && !s.svcFrozen ctx.val && x.kind != 2 && fld x.timer 31 16 != 0 && x.inService.any (fun i => i.ticket == ticket)))) = true ∧
    -- WDS_CTX_REVIVE
    (
      let s : State := sG
      decide ((s.wdsOn))) = true ∧
    -- WDS_SPILL_TIMER
    (
      let q : BitVec 10 := 3
      let s : State := sG.queueAtMod 3 (fun x => { x with spill := true, ring := [{ items := [{}] }] })
      decide ((s.wdsOn)) && (
      (match (s.queueAt q.toNat).ring.find? (fun b => !b.sent && (true || b.items.length == 8)) with
      | some _ =>
      decide ((s.portTakes portWdsI && !(s.queueAt q.toNat).stopped))
      | _ => false))) = true ∧
    -- WDS_SPILL_RETRY
    (
      let q : BitVec 10 := 3
      let s : State := sG.queueAtMod 3 (fun x => { x with spill := true, stopped := true, ring := [{ items := [{}], failed := true }] })
      let x := s.queueAt q.toNat
      (match x.ring.find? (fun b => b.failed && !b.sent) with
      | some _ =>
      decide ((s.wdsOn && x.stopped && s.portTakes portWdsI))
      | _ => false)) = true := by decide +kernel

theorem witness_MemoryCommandsComplete :
    -- REG_WRITE
    (
      let die0 : Fin 7 := 0
      let off0 : BitVec 28 := 0
      let s : State := sG
      let die : Nat := die0.val
      let off : Nat := off0.toNat
      decide ((s.csrLive die && csrMapped die off && off % 4 == 0))) = true ∧
    -- BM_READ
    (
      let b : BmId := { die := 1, sec := 8, mem := 20 }
      let s0 : State := sG.secAtMod 200 (fun x => { x with state := .running, clkOn := true, inReset := false })
      let s := (asyncHold s0).bmAtMod b (bmAdvance (bit ((asyncHold s0).bmCfg b) 0) 2)
      s0.memRuns (b.die.val * 192 + b.sec.val) && (s.bmAt b).ctl.takes true (bmDecode (bmWid (s.bmCfg b) true) 0xFFF).1) = true ∧
    -- DM_READ
    (
      let c : SecId := { die := 1, sec := 8 }
      let s0 : State := sG.secAtMod 200 (fun x => { x with state := .running, clkOn := true, inReset := false })
      let s := (asyncHold s0).dmAtMod c (dmAdvance 1)
      s0.memRuns c.key && (s.dmAt c).ctl.takes false 32767) = true ∧
    -- DM_WRITE
    (
      let c : SecId := { die := 1, sec := 8 }
      let s0 : State := sG.secAtMod 200 (fun x => { x with state := .running, clkOn := true, inReset := false })
      let s := (asyncHold s0).dmAtMod c (dmAdvance 0)
      s0.memRuns c.key && (s.dmAt c).ctl.takes true 32767) = true ∧
    -- MEM_INIT
    (
      let c : SecId := { die := 1, sec := 8 }
      let s0 : State := sG.secAtMod 200 (fun x => { x with state := .running, clkOn := true, inReset := false })
      s0.areaOpen c.key) = true ∧
    -- DM_REMAP_REQ
    (
      let c : SecId := { die := 1, sec := 8 }
      let s0 : State := sG.secAtMod 200 (fun x => { x with state := .running, clkOn := true, inReset := false })
      s0.areaOpen c.key) = true := by decide +kernel

theorem witness_FabricAndPinCommandsComplete :
    -- VCCIO_LOST
    (
      let die : Fin 4 := 1
      let bank : Fin 6 := 2
      let s : State := sG.bankAtMod 8 (fun b => { b with meas := 1 })
      let b : Fin 6 := bank
      let n := die.val * 6 + b.val
      let q := s.bankAt n
      !decide ((q.meas = 7))) = true ∧
    -- ISLIP
    (
      let p0 : PinId := { die := 1, bank := 2, pin := 5 }
      let s : State := sG.pinAtMod { die := 1, bank := 2, pin := 5 } (fun p => { p with cfg := 0x3000 })
      let p : PinId := p0
      let q : PinId := p
      let p := s.pinAt q
      decide (((p.imode = 3 ∨ p.imode = 4) ∧ !p.isN q.pin.val))) = true ∧
    -- IO_PIN_DLY_WRITE
    (
      let p : PinId := default
      let s : State := sG
      let q : PinId := p
      !decide (((s.bankAt (q.die.val * 6 + q.bank.val)).frozen))) = true := by decide +kernel

theorem witness_SequencerControlCommandsComplete :
    -- SDU_RUN
    (
      let u : SduId := unit0
      let s : State := withUnit 0x0
      decide ((s.areaOpen u.sk)) && (
      decide (((s.sduAt u).seq)))) = true ∧
    -- SDU_STOP
    (
      let u : SduId := unit0
      let s : State := withUnit 0x0
      decide ((s.areaOpen u.sk)) && (
      decide (((s.sduAt u).seq)))) = true ∧
    -- SDU_HALT
    (
      let u : SduId := unit0
      let s : State := withUnit 0x0
      decide ((s.areaOpen u.sk)) && (
      decide (((s.sduAt u).seq)) && (
      decide ((s.authLevel ≠ 0))))) = true ∧
    -- SDU_RESUME
    (
      let u : SduId := unit0
      let s : State := withUnit 0x0
      decide ((s.areaOpen u.sk)) && (
      decide (((s.sduAt u).seq)) && (
      decide ((s.authLevel ≠ 0))))) = true ∧
    -- SDU_SWREQ
    (
      let u : SduId := unit0
      let s : State := withUnit 0x0
      decide ((s.areaOpen u.sk)) && (
      decide (((s.sduAt u).seq)) && (
      decide ((s.authLevel ≠ 0))))) = true ∧
    -- SWREQ
    (
      let u : SduId := unit0
      let s : State := withUnit 0x0
      decide ((s.sduLive u))) = true ∧
    -- SWITCH_SLOT
    (
      let u : SduId := unit0
      let s : State := (withUnit 0).sduAtMod unit0 (fun q => { q with swPending := true })
      let q := s.sduAt u
      decide ((s.sduLive u && q.seq && switchOpen q && (q.state == .running || q.state == .stalled || q.state == .sleeping)))) = true ∧
    -- SDU_STREAM_READY
    (
      let u : SduId := unit0
      let s : State := withUnit 0x0
      !decide ((!s.sduLive u || !(s.sduAt u).seq))) = true ∧
    -- SDU_REG_WRITE
    (
      let u : SduId := default
      let s : State := sG
      !decide ((!s.areaOpen u.sk))) = true ∧
    -- SDU_ISTORE_WRITE
    (
      let u : SduId := default
      let s : State := sG
      !decide ((!s.areaOpen u.sk))) = true ∧
    -- ILLEGAL_INSTRUCTION
    (
      let u : SduId := unit0
      let s : State := withUnit 0x0
      let q := s.sduAt u
      !decide ((!s.sduLive u || !q.seq || q.state != .running))) = true := by decide +kernel

theorem witness_SequencerInstructionCommandsComplete :
    -- MPY
    (
      let u : SduId := unit0
      let s : State := withUnit 0x40000000000
      issuesNow u s && (
      decide ((isMop 1 ((s.sduAt u).ins (s.sduAt u).cur.pc.toNat))))) = true ∧
    -- MAC
    (
      let u : SduId := unit0
      let s : State := withUnit 0x80000000000
      issuesNow u s && (
      decide ((isMop 2 ((s.sduAt u).ins (s.sduAt u).cur.pc.toNat))))) = true ∧
    -- MSU
    (
      let u : SduId := unit0
      let s : State := withUnit 0xc0000000000
      issuesNow u s && (
      decide ((isMop 3 ((s.sduAt u).ins (s.sduAt u).cur.pc.toNat))))) = true ∧
    -- MPYD
    (
      let u : SduId := unit0
      let s : State := withUnit 0x100000000000
      issuesNow u s && (
      decide ((isMop 4 ((s.sduAt u).ins (s.sduAt u).cur.pc.toNat))))) = true ∧
    -- MACD
    (
      let u : SduId := unit0
      let s : State := withUnit 0x140000000000
      issuesNow u s && (
      decide ((isMop 5 ((s.sduAt u).ins (s.sduAt u).cur.pc.toNat))))) = true ∧
    -- MSUD
    (
      let u : SduId := unit0
      let s : State := withUnit 0x180000000000
      issuesNow u s && (
      decide ((isMop 6 ((s.sduAt u).ins (s.sduAt u).cur.pc.toNat))))) = true ∧
    -- LDX
    (
      let u : SduId := unit0
      let s : State := withUnit 0x20000000
      issuesNow u s && (
      decide ((isSop 1 ((s.sduAt u).ins (s.sduAt u).cur.pc.toNat))))) = true ∧
    -- LDY
    (
      let u : SduId := unit0
      let s : State := withUnit 0x40000000
      issuesNow u s && (
      decide ((isSop 2 ((s.sduAt u).ins (s.sduAt u).cur.pc.toNat))))) = true ∧
    -- STX
    (
      let u : SduId := unit0
      let s : State := withUnit 0x60000000
      issuesNow u s && (
      decide ((isSop 3 ((s.sduAt u).ins (s.sduAt u).cur.pc.toNat))))) = true ∧
    -- STY
    (
      let u : SduId := unit0
      let s : State := withUnit 0x80000000
      issuesNow u s && (
      decide ((isSop 4 ((s.sduAt u).ins (s.sduAt u).cur.pc.toNat))))) = true ∧
    -- IN
    (
      let u : SduId := unit0
      let s : State := withUnit 0xa0000000
      issuesNow u s && (
      decide ((isSop 5 ((s.sduAt u).ins (s.sduAt u).cur.pc.toNat))))) = true ∧
    -- OUT
    (
      let u : SduId := unit0
      let s : State := withUnit 0xc0000000
      issuesNow u s && (
      decide ((isSop 6 ((s.sduAt u).ins (s.sduAt u).cur.pc.toNat))))) = true ∧
    -- ALU_NOP
    (
      let u : SduId := unit0
      let s : State := withUnit 0x200000000000
      issuesNow u s && (
      decide ((isNop ((s.sduAt u).ins (s.sduAt u).cur.pc.toNat))))) = true ∧
    -- CLR
    (
      let u : SduId := unit0
      let s : State := withUnit 0x210000000000
      issuesNow u s && (
      decide ((isAop 1 ((s.sduAt u).ins (s.sduAt u).cur.pc.toNat))))) = true ∧
    -- MOVA
    (
      let u : SduId := unit0
      let s : State := withUnit 0x220000000000
      issuesNow u s && (
      decide ((isAop 2 ((s.sduAt u).ins (s.sduAt u).cur.pc.toNat))))) = true ∧
    -- ADDA
    (
      let u : SduId := unit0
      let s : State := withUnit 0x230000000000
      issuesNow u s && (
      decide ((isAop 3 ((s.sduAt u).ins (s.sduAt u).cur.pc.toNat))))) = true ∧
    -- SUBA
    (
      let u : SduId := unit0
      let s : State := withUnit 0x240000000000
      issuesNow u s && (
      decide ((isAop 4 ((s.sduAt u).ins (s.sduAt u).cur.pc.toNat))))) = true ∧
    -- NEGA
    (
      let u : SduId := unit0
      let s : State := withUnit 0x250000000000
      issuesNow u s && (
      decide ((isAop 5 ((s.sduAt u).ins (s.sduAt u).cur.pc.toNat))))) = true ∧
    -- ASH
    (
      let u : SduId := unit0
      let s : State := withUnit 0x260000000000
      issuesNow u s && (
      decide ((isAop 6 ((s.sduAt u).ins (s.sduAt u).cur.pc.toNat))))) = true ∧
    -- LDA
    (
      let u : SduId := unit0
      let s : State := withUnit 0x270000000000
      issuesNow u s && (
      decide ((isAop 7 ((s.sduAt u).ins (s.sduAt u).cur.pc.toNat))))) = true ∧
    -- ADDX
    (
      let u : SduId := unit0
      let s : State := withUnit 0x280000000000
      issuesNow u s && (
      decide ((isAop 8 ((s.sduAt u).ins (s.sduAt u).cur.pc.toNat))))) = true ∧
    -- EXT
    (
      let u : SduId := unit0
      let s : State := withUnit 0x290000000000
      issuesNow u s && (
      decide ((isAop 9 ((s.sduAt u).ins (s.sduAt u).cur.pc.toNat))))) = true ∧
    -- LCOMB
    (
      let u : SduId := unit0
      let s : State := withUnit 0x2a0000000000
      issuesNow u s && (
      decide ((isAop 0xA ((s.sduAt u).ins (s.sduAt u).cur.pc.toNat))))) = true ∧
    -- LCOMBS
    (
      let u : SduId := unit0
      let s : State := withUnit 0x2b0000000000
      issuesNow u s && (
      decide ((isAop 0xB ((s.sduAt u).ins (s.sduAt u).cur.pc.toNat))))) = true ∧
    -- CASCI
    (
      let u : SduId := unit0
      let s : State := withUnit 0x2c0000000000
      issuesNow u s && (
      decide ((isAop 0xC ((s.sduAt u).ins (s.sduAt u).cur.pc.toNat))))) = true ∧
    -- CASCA
    (
      let u : SduId := unit0
      let s : State := withUnit 0x2d0000000000
      issuesNow u s && (
      decide ((isAop 0xD ((s.sduAt u).ins (s.sduAt u).cur.pc.toNat))))) = true ∧
    -- CASCO
    (
      let u : SduId := unit0
      let s : State := withUnit 0x2e0000000000
      issuesNow u s && (
      decide ((isAop 0xE ((s.sduAt u).ins (s.sduAt u).cur.pc.toNat))))) = true ∧
    -- MOVX
    (
      let u : SduId := unit0
      let s : State := withUnit 0x2f0000000000
      issuesNow u s && (
      decide ((isAop 0xF ((s.sduAt u).ins (s.sduAt u).cur.pc.toNat))))) = true ∧
    -- MOVR
    (
      let u : SduId := unit0
      let s : State := withUnit 0x300000000000
      issuesNow u s && (
      decide ((isAop 0x10 ((s.sduAt u).ins (s.sduAt u).cur.pc.toNat))))) = true ∧
    -- LDI
    (
      let u : SduId := unit0
      let s : State := withUnit 0x400000000007
      issuesNow u s && (
      decide ((fld ((s.sduAt u).ins (s.sduAt u).cur.pc.toNat) 47 45 == 2)))) = true ∧
    -- BR
    (
      let u : SduId := unit0
      let s : State := withUnit 0x600050000000
      issuesNow u s && (
      decide ((isCop 0 ((s.sduAt u).ins (s.sduAt u).cur.pc.toNat))))) = true ∧
    -- LOOP
    (
      let u : SduId := unit0
      let s : State := withUnit 0x620050000003
      issuesNow u s && (
      decide ((isCop 1 ((s.sduAt u).ins (s.sduAt u).cur.pc.toNat))))) = true ∧
    -- SLEEP
    (
      let u : SduId := unit0
      let s : State := withUnit 0x640000000000
      issuesNow u s && (
      decide ((isCop 2 ((s.sduAt u).ins (s.sduAt u).cur.pc.toNat))))) = true ∧
    -- HALT
    (
      let u : SduId := unit0
      let s : State := withUnit 0x660000000000
      issuesNow u s && (
      decide ((isCop 3 ((s.sduAt u).ins (s.sduAt u).cur.pc.toNat))))) = true := by decide +kernel

theorem witness_FabricDrivenVectorCommandsComplete :
    -- FD_HOLD
    (
      let u : SduId := unit0
      let s : State := (withUnit 0).sduAtMod unit0 (fun q => { q with seq := false })
      let q := s.sduAt u
      decide ((s.sduLive u && !q.seq))) = true ∧
    -- FD_MPY
    (
      let u : SduId := unit0
      let s : State := (withUnit 0).sduAtMod unit0 (fun q => { q with seq := false })
      let q := s.sduAt u
      decide ((s.sduLive u && !q.seq))) = true ∧
    -- FD_MAC
    (
      let u : SduId := unit0
      let s : State := (withUnit 0).sduAtMod unit0 (fun q => { q with seq := false })
      let q := s.sduAt u
      decide ((s.sduLive u && !q.seq))) = true ∧
    -- FD_MSU
    (
      let u : SduId := unit0
      let s : State := (withUnit 0).sduAtMod unit0 (fun q => { q with seq := false })
      let q := s.sduAt u
      decide ((s.sduLive u && !q.seq))) = true ∧
    -- FD_MPYD
    (
      let u : SduId := unit0
      let s : State := (withUnit 0).sduAtMod unit0 (fun q => { q with seq := false })
      let q := s.sduAt u
      decide ((s.sduLive u && !q.seq))) = true ∧
    -- FD_MACD
    (
      let u : SduId := unit0
      let s : State := (withUnit 0).sduAtMod unit0 (fun q => { q with seq := false })
      let q := s.sduAt u
      decide ((s.sduLive u && !q.seq))) = true ∧
    -- FD_CASCADE_MAC
    (
      let u : SduId := unit0
      let s : State := (withUnit 0).sduAtMod unit0 (fun q => { q with seq := false })
      let q := s.sduAt u
      decide ((s.sduLive u && !q.seq))) = true ∧
    -- FD_CLEAR
    (
      let u : SduId := unit0
      let s : State := (withUnit 0).sduAtMod unit0 (fun q => { q with seq := false })
      let q := s.sduAt u
      decide ((s.sduLive u && !q.seq))) = true := by decide +kernel

theorem witness_DieLinkCommandsComplete1 :
    -- ADL_PAIR_RECEIVE
    (
      let b0 : Fin 76 := 4
      let s : State := sG.bundleAtMod 4 (fun b => { b with state := .full })
      (s.bundleAt b0.val).works) = true ∧
    -- ADL_LINK_FLIT
    (
      let f : BitVec 288 := linkFlit 2 4 false 0 0 0 false 0
      isLinkFlit f && decide (fld f 31 28 = 0xF)) = true ∧
    -- ADL_REPLAY_TIMER
    (
      let b0 : Fin 76 := 4
      let s : State := sG.bundleAtMod 4 (fun b => { b with state := .full, unacked := [(0, 1, 2)] })
      let x := s.bundleAt b0.val
      x.works && decide (x.unacked ≠ [])) = true ∧
    -- ADL_RECOVERY
    (
      (sG.bundleAtMod 75 (fun b => { b with state := .half }) |>.bundleAt (75 : Fin 76).val).works) = true ∧
    -- ADL_RECOVERY_COMPLETE
    (
      let b0 : Fin 76 := 4
      let s : State := sG.bundleAtMod 4 (fun b => { b with state := .recovery })
      decide ((s.bundleAt b0.val).state = .recovery)) = true ∧
    -- REQ_OUT
    (
      let b0 : Fin 76 := 4
      let lane0 : BitVec 7 := 9
      let s : State := (sG.bundleAtMod 4 (fun b => { b with state := .full })).bndAtMod 0 (fun b => { b with version := 2, features := 0xF })
      decide ((lane0.toNat < 78)) && (
      let b : Nat := b0.val
      let lane : Nat := lane0.toNat
      let x := s.bundleAt b
      decide ((s.rltRuns b && x.rlt == .idle && x.stag.isNone && !x.failed.getLsbD lane)))) = true ∧
    -- STEER_OUT
    (
      let lane : BitVec 7 := 0
      decide ((lane.toNat < 78))) = true ∧
    -- REQ_IN
    (
      let b0 : Fin 76 := 4
      let lane0 : BitVec 7 := 9
      let s : State := sG.bundleAtMod 4 (fun b => { b with state := .full, rlt := .returning, testLane := 9 })
      decide ((lane0.toNat < 78)) && (
      let b : Nat := b0.val
      let lane : Nat := lane0.toNat
      let x := s.bundleAt b
      decide ((x.works && x.rlt == .returning && x.testLane.toNat == lane && x.stag.isNone)))) = true ∧
    -- STEER_IN
    (
      let lane : BitVec 7 := 0
      decide ((lane.toNat < 78))) = true ∧
    -- HALF
    (
      let b : Fin 76 := 4
      let s : State := (sG.bundleAtMod 4 (fun b => { b with state := .full })).bndAtMod 0 (fun b => { b with version := 2, features := 0xF })
      let x := s.bundleAt b.val
      decide ((x.state == .full && s.feature (bundleBnd b.val) 0))) = true ∧
    -- RLT_DWELL_EXPIRY
    (
      let b0 : Fin 76 := 4
      let s : State := sG.bundleAtMod 4 (fun b => { b with state := .full, rlt := .testing, testLane := 9 })
      let b : Nat := b0.val
      let x := s.bundleAt b
      !decide ((x.rlt != .testing))) = true ∧
    -- ADL_BND_DISABLE
    (
      !(sG.bundleAtMod 75 (fun b => { b with state := .half }) |>.bundleAt (75 : Fin 76).val).dead) = true ∧
    -- ADL_BND_RECOVER
    (
      (sG.bundleAtMod 0 (fun b => { b with state := .full }) |>.bundleAt (0 : Fin 76).val).works) = true := by decide +kernel

theorem witness_DieLinkCommandsComplete2 :
    -- KEEPALIVE
    (
      let k : Fin 9 := 4
      let toLeader : Bool := true
      let f : BitVec 64 := sbFrame 0x0 0 0 0 0
      let s : State := withSideband
      !decide ((!sbOk f || fld f 63 56 != 0 || !((s.bndAt k.val).sb toLeader).up))) = true ∧
    -- ACK
    (
      let k : Fin 9 := 4
      let toLeader : Bool := true
      let f : BitVec 64 := sbFrame 0x1 0 0 0 0
      let s : State := withSideband
      !decide ((!sbOk f || fld f 63 56 != 1 || !((s.bndAt k.val).sb toLeader).up))) = true ∧
    -- HELLO
    (
      let k0 : Fin 9 := 4
      let toLeader : Bool := true
      let f : BitVec 64 := sbFrame 0x10 0 0 0 0
      let s : State := withSideband
      let k : Nat := k0.val
      !decide ((!sbOk f || fld f 63 56 != 0x10 || !((s.bndAt k).sb toLeader).up || !toLeader))) = true ∧
    -- BOOT_GO
    (
      let k : Fin 9 := 4
      let toLeader : Bool := false
      let f : BitVec 64 := sbFrame 0x11 0 0 0 0
      let s : State := withSideband
      !decide ((!sbOk f || fld f 63 56 != 0x11 || !((s.bndAt k.val).sb toLeader).up || toLeader))) = true ∧
    -- TRAIN_SYNC
    (
      let k0 : Fin 9 := 4
      let toLeader : Bool := false
      let f : BitVec 64 := sbFrame 0x12 0 0 0 0
      let s : State := withSideband
      let k : Nat := k0.val
      !decide ((!sbOk f || fld f 63 56 != 0x12 || !((s.bndAt k).sb toLeader).up))) = true ∧
    -- LANE_MAP
    (
      let k0 : Fin 9 := 4
      let toLeader : Bool := false
      let f : BitVec 64 := sbFrame 0x13 0 0 0 0
      let s : State := withSideband
      let k : Nat := k0.val
      !decide ((!sbOk f || fld f 63 56 != 0x13 || !((s.bndAt k).sb toLeader).up))) = true ∧
    -- CAP
    (
      let k0 : Fin 9 := 4
      let toLeader : Bool := true
      let f : BitVec 64 := sbFrame 0x14 0 0 0 0
      let s : State := withSideband
      let k : Nat := k0.val
      !decide ((!sbOk f || fld f 63 56 != 0x14 || !((s.bndAt k).sb toLeader).up))) = true ∧
    -- JOINED
    (
      let k0 : Fin 9 := 4
      let toLeader : Bool := false
      let f : BitVec 64 := sbFrame 0x15 0 0 0 0
      let s : State := withSideband
      let k : Nat := k0.val
      !decide ((!sbOk f || fld f 63 56 != 0x15 || !((s.bndAt k).sb toLeader).up || toLeader))) = true ∧
    -- PWR_REQ
    (
      let k : Fin 9 := 4
      let toLeader : Bool := false
      let f : BitVec 64 := sbFrame 0x20 0 0 0 0
      let s : State := withSideband
      !decide ((!sbOk f || fld f 63 56 != 0x20 || !((s.bndAt k.val).sb toLeader).up || toLeader))) = true ∧
    -- PWR_ACK
    (
      let k : Fin 9 := 4
      let toLeader : Bool := true
      let f : BitVec 64 := sbFrame 0x21 0 0 0 0
      let s : State := withSideband
      !decide ((!sbOk f || fld f 63 56 != 0x21 || !((s.bndAt k.val).sb toLeader).up || !toLeader))) = true ∧
    -- PWR_DENY
    (
      let k : Fin 9 := 4
      let toLeader : Bool := true
      let f : BitVec 64 := sbFrame 0x22 0 0 0 0
      let s : State := withSideband
      !decide ((!sbOk f || fld f 63 56 != 0x22 || !((s.bndAt k.val).sb toLeader).up || !toLeader))) = true ∧
    -- SIDEBAND_FENCE
    (
      let k : Fin 9 := 4
      let toLeader : Bool := false
      let f : BitVec 64 := sbFrame 0x30 0 0 0 0
      let s : State := withSideband
      !decide ((!sbOk f || fld f 63 56 != 0x30 || !((s.bndAt k.val).sb toLeader).up))) = true ∧
    -- REJOIN
    (
      let k : Fin 9 := 4
      let toLeader : Bool := false
      let f : BitVec 64 := sbFrame 0x31 0 0 0 0
      let s : State := withSideband
      !decide ((!sbOk f || fld f 63 56 != 0x31 || !((s.bndAt k.val).sb toLeader).up || toLeader))) = true := by decide +kernel

theorem witness_DieLinkCommandsComplete3 :
    -- RECOVER
    (
      let k : Fin 9 := 4
      let toLeader : Bool := true
      let f : BitVec 64 := sbFrame 0x32 0 0 0 0
      let s : State := withSideband
      !decide ((!sbOk f || fld f 63 56 != 0x32 || !((s.bndAt k.val).sb toLeader).up))) = true ∧
    -- DISABLE
    (
      let k : Fin 9 := 4
      let toLeader : Bool := true
      let f : BitVec 64 := sbFrame 0x33 0 0 0 0
      let s : State := withSideband
      !decide ((!sbOk f || fld f 63 56 != 0x33 || !((s.bndAt k.val).sb toLeader).up))) = true ∧
    -- NOTICE
    (
      let k : Fin 9 := 4
      let toLeader : Bool := true
      let f : BitVec 64 := sbFrame 0x40 0 0 0 0
      let s : State := withSideband
      !decide ((!sbOk f || fld f 63 56 != 0x40 || !((s.bndAt k.val).sb toLeader).up || !toLeader))) = true ∧
    -- SB_BREAK
    (
      let cycles : Nat := 2000
      !decide ((cycles < 2000))) = true ∧
    -- JOIN_STEP_TIMEOUT
    (
      let k0 : Fin 9 := 4
      let s : State := sG.bndAtMod 4 (fun b => { b with step := 3 })
      let k : Nat := k0.val
      let b := s.bndAt k
      decide ((3 ≤ b.step ∧ b.step ≤ 10))) = true ∧
    -- DIE_REJOIN
    (
      let d0 : Fin 7 := 2
      !decide ((d0.val = 0))) = true ∧
    -- ADL_FENCE_DIE
    (
      let d0 : BitVec 3 := 6
      let d : Nat := d0.toNat
      decide ((1 ≤ d ∧ d ≤ 6))) = true ∧
    -- ADL_FENCE_REJOIN
    (
      let d0 : BitVec 3 := 6
      let s : State := sG.dieAtMod 6 (fun x => { x with dstate := 3 })
      let d : Nat := d0.toNat
      decide ((1 ≤ d ∧ d ≤ 6 ∧ (s.dieAt d).dstate = 3))) = true ∧
    -- ADL_SB_STATUS
    (
      let die : Fin 5 := 0
      let k : Fin 9 := 4
      decide ((bndLeader k.val = die.val ∨ bndFollower k.val = die.val))) = true := by decide +kernel

theorem witness_LaneCommandsComplete1 :
    -- LANE_PORT_ENABLE
    (
      let l : LaneId := default
      let s : State := sG
      decide ((laneExists l)) && (
      let x := s.laneAt l
      decide ((x.state == .off && (x.owner == 0 || x.owner == 3))))) = true ∧
    -- LANE_PORT_DISABLE
    (
      let l : LaneId := default
      decide ((laneExists l))) = true ∧
    -- LANE_DETECT_TIMER
    (
      let l : LaneId := lane3
      let s : State := withLane { state := .detect }
      decide ((laneExists l)) && (
      decide (((s.laneAt l).state == .detect)))) = true ∧
    -- LANE_FAR_END_DETECT
    (
      let l : LaneId := lane3
      let s : State := withLane { state := .detect }
      decide ((laneExists l)) && (
      decide (((s.laneAt l).state == .detect)))) = true ∧
    -- TS1
    (
      let l : LaneId := lane3
      let t : List Byte := List.replicate 16 0x4A
      decide ((t.length = 16)) && (
      decide ((laneExists l)))) = true ∧
    -- TS2
    (
      let l : LaneId := lane3
      let t : List Byte := List.replicate 16 0x4A
      decide ((t.length = 16)) && (
      decide ((laneExists l)))) = true ∧
    -- LANE_TRAIN_TIMEOUT
    (
      let l : LaneId := lane3
      let s : State := withLane { state := .train }
      decide ((laneExists l)) && (
      decide (((s.laneAt l).state == .train)))) = true ∧
    -- LANE_EXCHANGE_TIMEOUT
    (
      let l : LaneId := lane3
      let s : State := withLane { state := .exchange }
      decide ((laneExists l)) && (
      decide (((s.laneAt l).state == .exchange)))) = true ∧
    -- LANE_SYNC_LOSS
    (
      let l : LaneId := lane3
      let s : State := withLane { state := .active }
      decide ((laneExists l)) && (
      decide (((s.laneAt l).state == .active)))) = true ∧
    -- LANE_SYMBOL_LOCK
    (
      let l : LaneId := lane3
      let s : State := withLane { state := .blind }
      let x := s.laneAt l
      decide (laneExists l) && ((x.pcsFed || x.pcs == 0) && (x.state == .blind || x.state == .realign || (x.state == .train && x.pcs == 4)))) = true ∧
    -- LANE_REALIGN_TIMEOUT
    (
      let l : LaneId := lane3
      let s : State := withLane { state := .realign, cfg := 0x100000 }
      decide ((laneExists l)) && (
      let x := s.laneAt l
      decide ((x.state == .realign && x.trained)))) = true ∧
    -- ETH_FEC_CODEWORD
    (
      let l : LaneId := lane3
      let n : Nat := 1
      let s : State := withLane { state := .active, cfg := 0x400000 }
      decide ((laneExists l)) && (
      let x := s.laneAt l
      !decide ((x.pcs ≠ 4 ∨ x.state != .active ∨ n = 0)))) = true ∧
    -- LN_PRBS_CLR
    (
      let l : LaneId := default
      decide ((laneExists l))) = true ∧
    -- LN_PRBS_TX_EN
    (
      let l : LaneId := default
      decide ((laneExists l))) = true ∧
    -- LN_PRBS_RX_EN
    (
      let l : LaneId := default
      decide ((laneExists l))) = true := by decide +kernel

theorem witness_LaneCommandsComplete2 :
    -- LN_LPBK
    (
      let l : LaneId := default
      decide ((laneExists l))) = true ∧
    -- LN_ADAPT_HOLD
    (
      let l : LaneId := default
      decide ((laneExists l))) = true ∧
    -- LN_PRBS_ERR_LO
    (
      let l : LaneId := default
      decide ((laneExists l))) = true ∧
    -- LN_CODE_ERR
    (
      let l : LaneId := default
      decide ((laneExists l))) = true ∧
    -- LN_FEC
    (
      let l : LaneId := default
      decide ((laneExists l))) = true ∧
    -- LN_HELD
    (
      let l : LaneId := default
      decide ((laneExists l))) = true ∧
    -- EYE_SCAN_GO
    (
      let l : LaneId := default
      decide ((laneExists l))) = true ∧
    -- EYE_SCAN_DONE
    (
      let l : LaneId := lane3
      let s : State := withLane { eyeBusy := true }
      decide ((laneExists l)) && (
      decide (((s.laneAt l).eyeBusy)))) = true ∧
    -- PCIE_LINK_UP
    (
      let c0 : Fin 2 := 1
      let s : State := sG.onXcvr (fun x => { x with pcie1 := { x.pcie1 with enabled := true } })
      let c : Nat := c0.val
      decide (((s.pcieAt c).enabled && s.mode != .greenware))) = true ∧
    -- PCIE_LINK_DOWN
    (
      let c0 : Fin 2 := 1
      let s : State := sG.onXcvr (fun x => { x with pcie1 := { x.pcie1 with enabled := true, up := true } })
      let c : Nat := c0.val
      decide (((s.pcieAt c).up))) = true ∧
    -- PCIE_INBOUND_REQUEST
    (
      let c0 : Fin 2 := 1
      let off0 : BitVec 40 := 0
      let len0 : Byte := 3
      let write : Bool := false
      let data : List (BitVec 256) := []
      let s : State := sG.onXcvr (fun x => { x with pcie1 := { x.pcie1 with enabled := true, up := true } })
      decide ((!write || data.length == dataFlits off0.toNat len0.toNat)) && (
      let c : Nat := c0.val
      !decide ((!(s.pcieAt c).up)))) = true ∧
    -- PCIE_L1_EXIT
    (
      let c0 : Fin 2 := 1
      let s : State := sG.onXcvr (fun x => { x with pcie1 := { x.pcie1 with enabled := true, up := true, inL1 := true } })
      let c : Nat := c0.val
      decide (((s.pcieAt c).up && (s.pcieAt c).inL1))) = true := by decide +kernel

theorem witness_SpanLinkCommandsComplete1 :
    -- SPAN_PORT_UP
    (
      let k0 : Fin 12 := 3
      let s : State := ((sG.portAtMod 3 (fun p => { p with state := .bringUp, deskewed := true })).onXcvr (fun x => { x with spanPorts := 8, lane := [(12, { state := .active }), (13, { state := .active }), (14, { state := .active }), (15, { state := .active })] })).onSpan (fun p => { p with portEn := 8 })
      let k : Nat := k0.val
      let p := s.portAt k
      let lanes := (List.range 4).all (fun i => (s.laneAt (laneOf 0 (4 * k + i))).state == .active)
      decide ((s.span.portEn.getLsbD k && s.xcvr.spanPorts.getLsbD k && (p.state == .bringUp || p.state == .deskew || p.state == .down) && p.deskewed && lanes))) = true ∧
    -- SPAN_PROGRESS_TIMEOUT
    (
      let k0 : Fin 12 := 3
      let s : State := withPort.portAtMod 3 (fun p => { p with txQ := [(0, okFrame 1)] })
      let k : Nat := k0.val
      decide (((s.portAt k).state == .up && (!(s.portAt k).unacked.isEmpty || !(s.portAt k).txQ.isEmpty)))) = true ∧
    -- AOS
    (
      let k0 : Fin 12 := 3
      let s : State := sG.onXcvr (fun x => { x with spanPorts := 8, lane := [(12, { state := .active }), (13, { state := .active }), (14, { state := .active }), (15, { state := .active })] })
      let k : Nat := k0.val
      let lanes := (List.range 4).all (fun i => (s.laneAt (laneOf 0 (4 * k + i))).state == .active)
      decide ((lanes))) = true ∧
    -- REQ
    (
      let k0 : Fin 12 := 3
      let f : List Word := okFrame 1
      let s : State := withPort
      decide ((f.length = 16)) && (
      let k : Nat := k0.val
      decide (((s.portAt k).state = .up)) && (
      decide ((frGood f && (s.portAt k).deskewed)) && (
      decide ((frType f = 1)) && (
      let s1 := frameAck k f s
      decide (((s1.portAt k).state = .up)) && (
      decide ((frSeq f = (s1.portAt k).rxSeq.toNat)))))))) = true ∧
    -- RSP
    (
      let k0 : Fin 12 := 3
      let f : List Word := okFrame 2
      let s : State := withPort
      decide ((f.length = 16)) && (
      let k : Nat := k0.val
      decide (((s.portAt k).state = .up)) && (
      decide ((frGood f && (s.portAt k).deskewed)) && (
      decide ((frType f = 2)) && (
      let s1 := frameAck k f s
      decide (((s1.portAt k).state = .up)) && (
      decide ((frSeq f = (s1.portAt k).rxSeq.toNat)))))))) = true ∧
    -- DATA
    (
      let k0 : Fin 12 := 3
      let f : List Word := okFrame 3
      let s : State := withPort
      decide ((f.length = 16)) && (
      let k : Nat := k0.val
      decide (((s.portAt k).state = .up)) && (
      decide ((frGood f && (s.portAt k).deskewed)) && (
      decide ((frType f = 3)) && (
      let s1 := frameAck k f s
      decide (((s1.portAt k).state = .up)) && (
      decide ((frSeq f = (s1.portAt k).rxSeq.toNat)))))))) = true ∧
    -- CMD
    (
      let k0 : Fin 12 := 3
      let f : List Word := okFrame 5
      let s : State := withPort
      decide ((f.length = 16)) && (
      let k : Nat := k0.val
      decide (((s.portAt k).state = .up)) && (
      decide ((frGood f && (s.portAt k).deskewed)) && (
      decide ((frType f = 5)) && (
      let s1 := frameAck k f s
      decide (((s1.portAt k).state = .up)) && (
      decide ((frSeq f = (s1.portAt k).rxSeq.toNat)))))))) = true ∧
    -- TRIG
    (
      let k0 : Fin 12 := 3
      let f : List Word := okFrame 6
      let s : State := withPort
      decide ((f.length = 16)) && (
      let k : Nat := k0.val
      decide (((s.portAt k).state = .up)) && (
      decide ((frGood f && (s.portAt k).deskewed)) && (
      decide ((frType f = 6)) && (
      let s1 := frameAck k f s
      decide (((s1.portAt k).state = .up)) && (
      decide ((frSeq f = (s1.portAt k).rxSeq.toNat)))))))) = true ∧
    -- ALIGN
    (
      let k0 : Fin 12 := 3
      let f : List Word := okFrame 8
      let s : State := withPort
      decide ((f.length = 16)) && (
      let k : Nat := k0.val
      decide (((s.portAt k).state = .up)) && (
      decide ((frGood f && (s.portAt k).deskewed)) && (
      decide ((frType f = 8)) && (
      let s1 := frameAck k f s
      decide (((s1.portAt k).state = .up)) && (
      decide ((markOk k f s1)))))))) = true ∧
    -- PROBE
    (
      let k0 : Fin 12 := 3
      let f : List Word := okFrame 9
      let s : State := withPort
      decide ((f.length = 16)) && (
      let k : Nat := k0.val
      decide (((s.portAt k).state = .up)) && (
      decide ((frGood f && (s.portAt k).deskewed)) && (
      decide ((frType f = 9)) && (
      let s1 := frameAck k f s
      decide (((s1.portAt k).state = .up)) && (
      decide ((markOk k f s1)))))))) = true ∧
    -- ECHO
    (
      let k0 : Fin 12 := 3
      let f : List Word := okFrame 10
      let s : State := withPort
      decide ((f.length = 16)) && (
      let k : Nat := k0.val
      decide (((s.portAt k).state = .up)) && (
      decide ((frGood f && (s.portAt k).deskewed)) && (
      decide ((frType f = 0xA)) && (
      let s1 := frameAck k f s
      decide (((s1.portAt k).state = .up)) && (
      decide ((markOk k f s1)))))))) = true ∧
    -- TAG
    (
      let k0 : Fin 12 := 3
      let f : List Word := okFrame 11
      let s : State := withPort
      decide ((f.length = 16)) && (
      let k : Nat := k0.val
      decide (((s.portAt k).state = .up)) && (
      decide ((frGood f && (s.portAt k).deskewed)) && (
      decide ((frType f = 0xB)) && (
      let s1 := frameAck k f s
      decide (((s1.portAt k).state = .up)) && (
      decide ((frSeq f = (s1.portAt k).rxSeq.toNat)))))))) = true ∧
    -- LINK
    (
      let k0 : Fin 12 := 3
      let f : List Word := okFrame 15
      let s : State := withPort
      decide ((f.length = 16)) && (
      let k : Nat := k0.val
      decide (((s.portAt k).state = .up)) && (
      decide ((frGood f && (s.portAt k).deskewed)) && (
      decide ((frType f = 0xF)))))) = true := by decide +kernel

theorem witness_SpanLinkCommandsComplete2 :
    -- DELIVER
    (
      let k0 : Fin 12 := 3
      let f : List Word := okFrame 4
      let s : State := withPort
      decide ((f.length = 16)) && (
      let k : Nat := k0.val
      decide (((s.portAt k).state = .up)) && (
      decide ((frGood f && (s.portAt k).deskewed)) && (
      decide ((frType f = 4)) && (
      let s1 := frameAck k f s
      decide (((s1.portAt k).state = .up)) && (
      decide ((frSeq f = (s1.portAt k).rxSeq.toNat)))))))) = true ∧
    -- RELEASE
    (
      let k0 : Fin 12 := 3
      let f : List Word := okFrame 4
      let s : State := withPort
      decide ((f.length = 16)) && (
      let k : Nat := k0.val
      decide (((s.portAt k).state = .up)) && (
      decide ((frGood f && (s.portAt k).deskewed)) && (
      decide ((frType f = 4)) && (
      let s1 := frameAck k f s
      decide (((s1.portAt k).state = .up)) && (
      decide ((frSeq f = (s1.portAt k).rxSeq.toNat)))))))) = true ∧
    -- SPAN_RETRY_TIMER
    (
      let k0 : Fin 12 := 3
      let s : State := withPort.portAtMod 3 (fun p => { p with unacked := [(0, okFrame 1)] })
      let k : Nat := k0.val
      decide (((s.portAt k).state == .up && !(s.portAt k).unacked.isEmpty))) = true ∧
    -- SPAN_ACK_TIMER
    (
      let k0 : Fin 12 := 3
      let s : State := withPort.portAtMod 3 (fun p => { p with accepted := 2 })
      let k : Nat := k0.val
      let p := s.portAt k
      decide ((p.state == .up && (decide (0 < p.accepted) || [0, 1, 2].any (fun v => decide (0 < sget 0 p.freed v)))))) = true ∧
    -- SPAN_TXN_TIMEOUT
    (
      let stid0 : BitVec 10 := 5
      let s : State := sG.onSpan (fun p => { p with stx := [(5, some { ddev := 5, port := 0x1A, req := {} })] })
      let stid : Nat := stid0.toNat
      (match sget none s.span.stx stid with
      | some _ =>
      !decide ((fld (s.reg 0 (blkSpn + 0x10)) 31 16 = 0))
      | _ => false)) = true ∧
    -- SPAN_ROUTE_DRAIN_END
    (
      let d0 : BitVec 12 := 5
      let s : State := sG.onSpan (fun p => { p with drains := [{ dev := 5, entry := 2 }] })
      let d : Nat := d0.toNat
      (match s.span.drains.find? (fun x => x.dev.toNat == d) with
      | some _ =>
      !decide ((s.span.stx.any (fun e => match e.2 with | some y => y.ddev.toNat == d | none => false)))
      | _ => false)) = true ∧
    -- SPAN_PROBE_TIMER
    (
      let k0 : Fin 12 := 3
      let s : State := withPort
      let k : Nat := k0.val
      decide (((s.portAt k).state == .up))) = true ∧
    -- SPAN_GROUP_TIMER
    (
      let k0 : Fin 12 := 3
      let s : State := withPort.portAtMod 3 (fun p => { p with encOn := true })
      let k : Nat := k0.val
      decide (((s.portAt k).state == .up && (s.portAt k).encOn))) = true ∧
    -- TB_MARK_LOSS
    (
      let s : State := sG.setReg 0 (blkSpn + 8) 0x80000000
      decide ((fld (s.reg 0 (blkSpn + 8)) 31 30 = 2))) = true := by decide +kernel

theorem witness_DebugCommandsComplete1 :
    -- CORE_FENCE
    (
      let hart : Fin 8 := 0
      let deviceIo : Bool := true
      let s : State := sG
      let p := corePort hart
      decide ((deviceIo && !(s.hartAt hart.val).halted && s.portTakes p && s.mode != .greenware))) = true ∧
    -- DBG_WDT_ENABLE
    (
      let w : Fin 9 := 0
      let s : State := sG
      decide ((s.dbgLive && !(s.wdtAt w.val).en))) = true ∧
    -- WDT_EXPIRY
    (
      let w : Fin 9 := 8
      let s : State := sG.wdtAtMod 8 (fun x => { x with en := true })
      let x := s.wdtAt w.val
      !decide ((!x.en || s.wdtFrozen w.val || s.mode == .greenware))) = true ∧
    -- HALTREQ
    (
      let h : Fin 9 := 0
      let s : State := sG
      decide ((s.dbgLive)) && (
      !decide ((s.authLevel < (hartLevel h.val))))) = true ∧
    -- HART_HALTED
    (
      let h : Fin 9 := 3
      let s : State := sG.hartAtMod 3 (fun x => { x with haltReq := true })
      let x := s.hartAt h.val
      !decide ((!x.haltReq || x.halted || s.hartWaits h || s.mode == .greenware))) = true ∧
    -- RESUMEREQ
    (
      let h : Fin 9 := 0
      let s : State := sG
      decide ((s.dbgLive)) && (
      !decide ((s.authLevel < (hartLevel h.val))) && (
      !decide ((s.mode == .held))))) = true ∧
    -- ACCESS_REGISTER
    (
      let h : Fin 9 := 0
      let s : State := sG
      decide ((s.dbgLive)) && (
      !decide ((s.authLevel < (hartLevel h.val))))) = true ∧
    -- HART_TRIGGER
    (
      let h : Fin 9 := 0
      let s : State := sG
      !decide (((s.hartAt h.val).halted || s.mode == .greenware))) = true ∧
    -- DBG_ACC_GO
    (
      let s : State := sG
      decide ((s.dbgLive)) && (
      !decide ((s.authLevel < 1)))) = true ∧
    -- JTAG_DBGACC_UPDATE
    (
      let s : State := sG
      !decide ((s.mode == .greenware || decide (5 ≤ (s.pdomAt 0).rung.toNat)))) = true := by decide +kernel

theorem witness_DebugCommandsComplete2 :
    -- DBG_XT_PULSE
    (
      let w : Word := 0x8001
      let s : State := sG
      decide ((s.dbgLive)) && (
      !decide ((s.authLevel < 1)) && (
      !decide ((fld w 15 0 = 0))))) = true ∧
    -- SFRZ_FREEZE
    (
      let s : State := sG
      decide ((s.dbgLive)) && (
      !decide ((s.authLevel < 1)))) = true ∧
    -- SFRZ_RELEASE
    (
      let s : State := sG
      decide ((s.dbgLive)) && (
      !decide ((s.authLevel < 1)))) = true ∧
    -- DBG_HELD_ENTER
    (
      let s : State := sG
      decide ((s.dbgLive)) && (
      !decide ((s.authLevel < 1)))) = true ∧
    -- HELD_ENTRY_COMPLETE
    (
      let s : State := sG.onDbg (fun d => { d with entering := true, hart := (List.range 8).map (fun h => (h, { halted := true })) })
      decide ((s.dbg.entering && (s.mode == .bisque || s.mode == .glazed || s.mode == .refiring) && (List.range 8).all (fun h => (s.hartAt h).halted)))) = true ∧
    -- DBG_HELD_RELEASE
    (
      let s : State := inMode .held sG
      decide ((s.dbgLive)) && (
      !decide ((s.authLevel < 1)) && (
      decide ((s.mode == .held))))) = true ∧
    -- DBG_STIM
    (
      let n : Fin 32 := 3
      let bytes0 : Fin 5 := 4
      let s : State := sG.onDbg (fun d => { d with trace := { cfg := 0xFFFF } })
      decide ((bytes0.val = 1 ∨ bytes0.val = 2 ∨ bytes0.val = 4)) && (
      decide ((s.dbgLive && bit s.dbg.trace.cfg (min n.val 15))))) = true := by decide +kernel

theorem witness_LaneChangeCommandsComplete :
    -- REQ_OUT
    (
      let b : Fin 76 := 4
      let s : State := (sG.bundleAtMod 4 (fun x => { x with state := .full })).bndAtMod (bundleBnd 4) (fun d => { d with version := 2, features := 0x3 })
      let x := s.bundleAt b.val
      let lane : BitVec 7 := 77
      decide (lane.toNat < 78) && s.rltMay b.val && decide (x.txOut = none) && decide (x.txNext = none) && !x.failed.getLsbD lane.toNat) = true ∧
    -- STEER_OUT
    (
      let b : Fin 76 := 4
      let s : State := (sG.bundleAtMod 4 (fun x => { x with state := .full })).bndAtMod (bundleBnd 4) (fun d => { d with version := 2, features := 0x3 })
      let x := s.bundleAt b.val
      decide ((77 : BitVec 7).toNat < 78) && x.works) = true ∧
    -- REQ_IN
    (
      let b : Fin 76 := 4
      let s : State := (sG.bundleAtMod 4 (fun x => { x with state := .full, txOut := some 77, rxOut := some 77 })).bndAtMod (bundleBnd 4) (fun d => { d with version := 2, features := 0x3 })
      let x := s.bundleAt b.val
      decide ((77 : BitVec 7).toNat < 78) && decide (x.txOut = some 77) && x.works) = true ∧
    -- STEER_IN
    (
      let b : Fin 76 := 4
      let s : State := (sG.bundleAtMod 4 (fun x => { x with state := .full, txOut := some 77, rxOut := some 77 })).bndAtMod (bundleBnd 4) (fun d => { d with version := 2, features := 0x3 })
      let x := s.bundleAt b.val
      decide ((77 : BitVec 7).toNat < 78) && x.works && decide (x.rxOut = some 77)) = true ∧
    -- HALF
    (
      let b : Fin 76 := 4
      let s : State := (sG.bundleAtMod 4 (fun x => { x with state := .full })).bndAtMod (bundleBnd 4) (fun d => { d with version := 2, features := 0x3 })
      let x := s.bundleAt b.val
      decide (x.state = .full) && s.feature (bundleBnd b.val) 0) = true ∧
    -- RLT_DWELL_EXPIRY
    (
      decide ((sG.bundleAtMod 4 (fun x => { x with rlt := .testing }) |>.bundleAt (4 : Fin 76).val).rlt = .testing)) = true := by decide +kernel

theorem bit_ones (n : Nat) (h : n < 32) : bit (0xFFFFFFFF : Word) n = true := by
  have : ∀ i : Fin 32, bit (0xFFFFFFFF : Word) i.val = true := by decide +kernel
  exact this ⟨n, h⟩

/-- A field of a device without configuration is 0, whatever its place. -/
theorem field_blank {s : State} (h : s.fab.frames = []) (sec f i w : Nat) : s.field sec f i w = 0 := by
  have e : ∀ (l : List Nat) (n : Nat), l.foldl (fun n b => n + b2n (planeBit [] sec f i b) * 2 ^ b) n = n := by
    intro l
    induction l with
    | nil => exact fun _ => rfl
    | cons b l ih => intro n; rw [List.foldl_cons, ih]; simp [planeBit, sget, bit, b2n]
  rw [State.field, planeField, h, e]

/-- A sector of C2 that runs. -/
def withSector : State := sG.secAtMod 200 (fun x => { x with state := .running, clkOn := true, inReset := false })

theorem witness_tileClockEdge : withSector.clocked (tileSec 1 256 0) = true ∧ withSector.ckTicks 1 256 0 false = true := by
  refine ⟨by decide +kernel, ?_⟩
  have h : ∀ sec f i w, withSector.field sec f i w = 0 := field_blank rfl
  have g : withSector.domLive 34 = true := by decide +kernel
  simp [State.ckTicks, State.ckSource, State.gckRuns, h, g]

theorem witness_bmWrite :
    let b : BmId := { die := 1, sec := 8, mem := 20 }
    let s := (asyncHold withSector).bmAtMod b (bmAdvance (bit (withSector.bmCfg b) 0) 0)
    let d := bmDecode (bmWid (withSector.bmCfg b) false) 5
    let be (we : BitVec 8) : BitVec 8 := BitVec.ofNat 8 (we.toNat % 2 ^ d.2.2 * 2 ^ d.2.1)
    be 0 = 0 ∧ be 1 ≠ 0 ∧ withSector.memRuns (1 * 192 + 8) = true ∧ (s.bmAt b).ctl.takes false d.1 = true := by
  have h : withSector.bmCfg { die := 1, sec := 8, mem := 20 } = 0 := by rw [State.bmCfg, field_blank rfl]; rfl
  simp only [h]
  decide +kernel

/-- The bridge group 0 of boundary 0 registers its wires, and both dies are present. -/
theorem witness_bridgeParityMismatch :
    withBridge.groupCfg 1 false 0 % 2 = 1 ∧ (withBridge.bridgeAt (groupKey 0 false 0)).spare.isNone = true ∧ withBridge.present 1 = true
      ∧ withBridge.present 2 = true ∧ (withBridge.bridgeAt (groupKey 0 false 0)).berr = false := by
  refine ⟨?_, by decide +kernel, by decide +kernel, by decide +kernel, by decide +kernel⟩
  have h : planeBit withBridge.fab.frames 192 fGroup 0 0 = true := by
    simp only [planeBit, withBridge, State.onFab, sget, frameKey]
    simp
    exact bit_ones _ (Nat.mod_lt _ (by decide))
  have e : withBridge.groupCfg 1 false 0 = planeField withBridge.fab.frames 192 fGroup 0 4 := rfl
  have odd : ∀ a b c : Nat, (0 + 1 * 2 ^ 0 + a * 2 ^ 1 + b * 2 ^ 2 + c * 2 ^ 3) % 2 = 1 := by intro a b c; omega
  rw [e]
  show (0 + b2n (planeBit withBridge.fab.frames 192 fGroup 0 0) * 2 ^ 0 + b2n (planeBit withBridge.fab.frames 192 fGroup 0 1) * 2 ^ 1
    + b2n (planeBit withBridge.fab.frames 192 fGroup 0 2) * 2 ^ 2 + b2n (planeBit withBridge.fab.frames 192 fGroup 0 3) * 2 ^ 3) % 2 = 1
  rw [h]
  exact odd _ _ _

/-- K28.5 at negative running disparity is the group of the comma, and D16.2 brings the disparity back (R293; IEEE 802.3 Clause 36). -/
theorem test_idleFill_groups :
    encodeRun false idleFill = [0b0011111010, 0b1001000101] ∧ isComma 0b0011111010 = true ∧ decode8b10b true 0b1001000101 = some (false, 0x50) := by
  decide +kernel

end Sys2Proof.Tests
end

section
/-! SUPPORT. The statements of the family of file 00: what the commands of eleven families answer where their conditions hold, and a read with
inspect that is not without effect. -/

namespace Sys2Proof.Machine

/-! ## How an answer is told -/

/-- Equal states are equal answers. -/
theorem next_eq {s t : State} (h : s = t) : (.next s : Host.Outcome State Fault Refusal) = .next t := congrArg _ h

/-- Equal reads are equal answers. -/
theorem read_eq {r q : Word × State} (h : r = q) : (.next (State.readTo r) : Host.Outcome State Fault Refusal) = .next (State.readTo q) :=
  congrArg (fun x => Host.Outcome.next (State.readTo x)) h

/-- A guard that refuses what does not hold lets through what does. -/
theorem not_bnot {b : Bool} (h : b = true) : ¬ (!b) = true := by simp [h]

/-! ## What shared operations do where their conditions hold -/

/-- The oldest request of a target port that is of a type named, that the port is ready for and that the firewall passes, is taken. -/
theorem targetServe_passes {p : Nat} {types : Nat → Bool} {s : State} {q : NReq} {rest : List NReq} (hq : (s.tportAt p).inq = q :: rest)
    (ht : (types q.typ.toNat && s.targetReady p q && s.portClocked p && s.mode != .greenware) = true)
    (hf : (s.tportAtMod p (fun t => { t with inq := rest, drain := t.drain - 1 })).fwPass p q = true) :
    targetServe p types s
      = targetTake p (0 < (s.tportAt p).drain) q (s.tportAtMod p (fun t => { t with inq := rest, drain := t.drain - 1 })) := by
  unfold targetServe
  rw [hq]
  exact (if_pos ht).trans (if_pos hf)

/-- A control write that the unit takes. -/
theorem sduCtrl_acts {u : SduId} {debug : Bool} {f : Sdu → Sdu} {s : State} (ho : s.areaOpen u.sk = true) (hq : (s.sduAt u).seq = true)
    (hd : debug = true → s.authLevel ≠ 0) : sduCtrl u debug f s = s.sduAtMod u f :=
  (if_neg (not_bnot ho)).trans (if_neg (not_or.mpr ⟨not_bnot hq, fun h => hd h.1 h.2⟩))

/-- A bundle that works enters recovery. -/
theorem startRecovery_works {b : Nat} {s : State} (h : (s.bundleAt b).works = true) :
    startRecovery b s =
      (s.bundleAtMod b (fun x => { x.settle with
        state := .recovery, wasHalf := x.state == .half, was := x.failed, recoveries := satInc x.recoveries, nak := false, refused := 0
        expiries := 0 })).each [true, false] (fun l t => sbSend (bundleBnd b) l 0x32 (bundleInBnd b) 0 0 t) := if_pos h

/-- A value that an unlisted key does not read as is read back, in whatever form the store is. -/
theorem sget_smod_self_of_ne {α : Type} [DecidableEq α] {d : α} {m : Store α} {f : α → α} {k : Nat} (h : f (sget d m k) ≠ d) :
    sget d (smod d m k f) k = f (sget d m k) := by
  unfold smod sput
  rw [if_neg h]
  exact sget_sinsert_self

/-- A die's link reads back as what it was changed to, unless that is the form an unlisted one has. -/
theorem State.dieAt_dieAtMod {s : State} {d : Nat} {f : DieLink → DieLink} (h : f (s.dieAt d) ≠ {}) : (s.dieAtMod d f).dieAt d = f (s.dieAt d) :=
  sget_smod_self_of_ne (m := s.adl.die) h

/-- A fenced die stays fenced when MGR no longer gives it up. -/
theorem dieAtMod_gaveUp_dstate {s : State} {d : Nat} (h : (s.dieAt d).dstate = 3) :
    ((s.dieAtMod d (fun x => { x with gaveUp := false })).dieAt d).dstate = 3 := by
  rw [State.dieAt_dieAtMod fun e => absurd (show (3 : BitVec 2) = 0 from h.symm.trans (congrArg DieLink.dstate e)) (by decide)]
  exact h

/-- An ITEM frame that is next in order joins its group on an encrypted port, and is delivered on any other (R388, R326). -/
theorem seqFrame_takes_item {s : State} {k : Nat} {f : List Word} (hu : (s.portAt k).state = .up) (hg : (frGood f && (s.portAt k).deskewed) = true)
    (ht : frType f = 4) (hu1 : ((frameAck k f s).portAt k).state = .up) (hq : frSeq f = ((frameAck k f s).portAt k).rxSeq.toNat) :
    seqFrame k 4 f s =
      (let s := (frameAck k f s).portAtMod k (fun p => { p with rxSeq := p.rxSeq + 1, nak := false, accepted := p.accepted + 1 })
       let s := if (s.portAt k).encOn then s.portAtMod k (fun p => { p with rxGroup := p.rxGroup ++ [f] })
         else deliverFrame k f (freeBuf k (s.rxVc k f) s)
       if 16 ≤ (s.portAt k).accepted then sendLink k s else s) := by
  rw [seqFrame_takes hu hg ht hu1 hq]
  dsimp only
  rw [if_neg (show ¬ (4 : Nat) = 0xB by decide)]

/-! ## Reads with inspect -/

/-- Lane 0 of H. -/
def testedLane : LaneId := { die := 0, lane := 0 }

/-- The device at reset, with the receiver of that lane checking a test sequence (R303). -/
def testedLaneOn : State := State.reset.laneAtMod testedLane (fun x => { x with prbsRx := true })

/-- Refutes O11: a read of LN_PRBS_ERR_LO with inspect first brings the counters of a lane that checks a test sequence up to date
(`lineSeen`, log 65). It takes three free values for that, the lock, the bits and the errors, so the counter of free values moves. -/
theorem not_inspectReadsHaveNoSideEffect : ¬ Obligations.InspectReadsHaveNoSideEffect := by
  unfold Obligations.InspectReadsHaveNoSideEffect
  intro h
  have same := h (.lnPrbsErrLo testedLane true) testedLaneOn _ rfl rfl
  have moved : (State.readTo (lnPrbsErrLoRead testedLane true testedLaneOn)).fresh = 3 := by decide
  have stood : testedLaneOn.fresh = 0 := by decide
  have equal : (3 : Nat) = 0 := moved.symm.trans ((congrArg State.fresh same).trans stood)
  exact absurd equal (by decide)

/-! ## The families of commands -/

/-- Settles O30: the timebase, its registers, the calendar and the locks of clocks. -/
theorem clockCommandsComplete2 : Obligations.ClockCommandsComplete2 := by
  unfold Obligations.ClockCommandsComplete2
  refine ⟨?tbTick, ?tbIndex, ?tbFramePulse, ?tbPpsEdge, ?tbcPosLo, ?tbcStatus, ?tbcCalEnt, ?calEntryDue, ?pllLock, ?aoscQualified⟩
  case tbTick => exact fun a b interval s hr => next_eq (if_neg hr)
  case tbIndex => exact fun s h => next_eq (if_pos h)
  case tbFramePulse => exact fun s h => next_eq (if_pos h)
  case tbPpsEdge => exact fun s h => next_eq (if_neg h)
  case tbcPosLo => exact fun insp s => rfl
  case tbcStatus => exact fun insp s => rfl
  case tbcCalEnt => exact fun e insp s => rfl
  case calEntryDue => exact fun e s hr hd => next_eq ((if_pos hr).trans (if_pos hd))
  case pllLock => exact fun dom s h => next_eq (if_neg h)
  case aoscQualified => exact fun s => rfl

/-- Settles O36: ports, routers, requests at targets and the registers of the network. -/
theorem networkCommandsComplete : Obligations.NetworkCommandsComplete := by
  unfold Obligations.NetworkCommandsComplete
  refine ⟨?fence, ?initiatorRequestIssue, ?flitRoute, ?nocResponseArrival, ?rspTimeout, ?qosChangeApply, ?fabricTargetResponse, ?nocCommit,
    ?nocCommitApply, ?pathSwitchDrainEnd, ?nocErrlogRead, ?nocFwLogRead, ?nocPerrCount, ?nocIportHoldClr, ?readMem, ?rd, ?wr, ?atom⟩
  case fence => exact fun p s hp => next_eq (if_pos hp)
  case initiatorRequestIssue =>
    intro p0 r s hp p hm
    refine ⟨fun h0 h1 ht => next_eq ((if_pos hp).trans ?_), fun hc hk ha hh => next_eq ((if_pos hp).trans ?_)⟩
    · exact (if_neg hm).trans ((if_neg (not_or.mpr ⟨h0, h1⟩)).trans (if_pos ht))
    · exact (if_neg hm).trans ((if_pos hc).trans (if_pos ⟨hk, ha, by rw [hh]; rfl⟩))
  case flitRoute =>
    intro router inport vc0 s hr r inp vc f rest g hdr out lport left hb hn hblocked hturn hclk
    refine next_eq ((if_pos hr).trans ?_)
    unfold flitRouteF
    rw [hb]
    dsimp only
    rw [hn]
    exact if_neg (by simp [hblocked, hturn, hclk, r, inp, vc])
  case nocResponseArrival => exact fun p txid s hp => next_eq (if_pos hp)
  case rspTimeout =>
    intro p0 txid s hp p never o ho ht
    refine next_eq ((if_pos hp).trans ?_)
    unfold rspTimeoutF
    rw [ho]
    exact if_neg ht
  case qosChangeApply =>
    refine fun p s hp v hv ho => next_eq ((if_pos hp).trans ?_)
    unfold qosChangeApplyF
    dsimp only
    rw [hv]
    exact if_pos ho
  case fabricTargetResponse =>
    intro p0 id status data poison s hp p e he
    refine next_eq ((if_pos hp).trans ?_)
    unfold fabricTargetResponseF
    rewrite [he]
    rfl
  case nocCommit => exact fun s h => next_eq (if_neg h)
  case nocCommitApply => exact fun s h => next_eq (if_pos h)
  case pathSwitchDrainEnd =>
    intro timedOut s b rest hs
    refine next_eq ?_
    unfold pathSwitchDrainEndF
    rewrite [hs]
    rfl
  case nocErrlogRead => exact fun die insp s => rfl
  case nocFwLogRead => exact fun p insp s hp => read_eq (if_pos hp)
  case nocPerrCount => exact fun die insp s => rfl
  case nocIportHoldClr => exact fun p s hp => next_eq (if_pos hp)
  case readMem =>
    exact fun id s0 c hc hl hn => next_eq
      ((startCmd_ready hc).trans ((require_ok (decide_eq_true hl)).trans (require_ok hn)))
  case rd => exact fun p s hp q rest hq ht hf => next_eq ((if_pos hp).trans (targetServe_passes hq ht hf))
  case wr => exact fun p s hp q rest hq ht hf => next_eq ((if_pos hp).trans (targetServe_passes hq ht hf))
  case atom => exact fun p s hp q rest hq ht hf => next_eq ((if_pos hp).trans (targetServe_passes hq ht hf))

/-- Settles O38. MEE_REGION first waits until no request to its range is left, and is then a packet like the others (R357). -/
theorem encryptionCommandsComplete : Obligations.EncryptionCommandsComplete := by
  unfold Obligations.EncryptionCommandsComplete
  refine ⟨?keySlotRetire, ?meeRegion, ?meeRekey, ?meeFlushComplete, ?meeReencComplete, ?meeSlotLoadGo, ?meeCount, ?meeReencGroup⟩
  case keySlotRetire => exact fun id s0 c hc hb => next_eq ((startCmd_ready hc).trans (require_ok hb))
  case meeRegion =>
    intro id s0 c r rm base size g hfree hc s hok hre
    refine next_eq ?_
    have ⟨⟨hf, _⟩, _⟩ := hc
    unfold meeRegionF
    rw [hf]
    exact (if_neg hfree).trans ((startCmd_ready hc).trans ((require_ok hok).trans (require_ok hre)))
  case meeRekey => exact fun id s0 c hc hok => next_eq ((startCmd_ready hc).trans (require_ok hok))
  case meeFlushComplete =>
    intro s e he hcl
    refine next_eq ?_
    unfold meeFlushCompleteF
    rw [he]
    exact if_neg hcl
  case meeReencComplete =>
    intro s e he r rest hr hd
    refine next_eq ?_
    unfold meeReencCompleteF
    rw [he]
    dsimp only
    rw [hr]
    exact if_pos hd
  case meeSlotLoadGo =>
    refine fun slot s => next_eq ?_
    unfold meeSlotLoadGoF
    generalize gcmItem = unwrap
    refine ite_congr rfl (fun _ => rfl) fun _ => ?_
    cases s.deviceKey false <;> rfl
  case meeCount => exact fun insp s => rfl
  case meeReencGroup =>
    intro c0 m s c e he r g hok
    refine next_eq ?_
    unfold meeReencGroupF
    rw [he]
    exact if_neg hok

/-- Settles O40: channels, training, requests, upkeep and the error registers of DRAM. -/
theorem dramCommandsComplete : Obligations.DramCommandsComplete := by
  unfold Obligations.DramCommandsComplete
  refine ⟨?ddrRemap, ?ddrTrainComplete, ?ddrTrainTimeout, ?ddrRangeOpen, ?ddrMapWrite, ?dramRead, ?dramWrite, ?dramAtomic, ?ddrAlert,
    ?ddrUpkeepTimer, ?ddrRefresh, ?ddrWbDrain, ?ddrIdleClose, ?ddrPatrolStep, ?ddrRetrain, ?ddrEcc, ?ddrErrlogRead⟩
  case ddrRemap =>
    exact fun id m s0 cmd hc hok hs hca => next_eq
      ((startCmd_ready hc).trans ((require_ok hok).trans ((require_ok hs).trans (require_ok hca))))
  case ddrTrainComplete => exact fun c r s h => next_eq (if_neg h)
  case ddrTrainTimeout => exact fun c s h => next_eq (if_pos h)
  case ddrRangeOpen => exact fun bySoftware s h => next_eq (if_pos h)
  case ddrMapWrite => exact fun c m v s => rfl
  case dramRead =>
    intro c0 m s c r hr
    refine next_eq ?_
    unfold dramReadF
    rewrite [hr]
    rfl
  case dramWrite =>
    intro c0 m s c r hr ca n ls fresh hroom
    refine next_eq ?_
    unfold dramWriteF
    rw [hr]
    exact if_neg hroom
  case dramAtomic =>
    intro c0 m s c r hr ca n la d hroom
    refine next_eq ?_
    unfold dramAtomicF
    rw [hr]
    exact if_neg hroom
  case ddrAlert => exact fun c progress s h => next_eq (if_neg h)
  case ddrUpkeepTimer => exact fun c s h => next_eq (if_pos h)
  case ddrRefresh => exact fun c bank s h => next_eq (if_pos h)
  case ddrWbDrain => exact fun c m s h => next_eq (if_neg h)
  case ddrIdleClose => exact fun c bank s => rfl
  case ddrPatrolStep => exact fun c m s h => next_eq (if_neg h)
  case ddrRetrain => exact fun c insp s => rfl
  case ddrEcc => exact fun c insp s => rfl
  case ddrErrlogRead => exact fun c insp s => rfl

/-- Settles O41: queues, TAKEs, releases, spills and refills of the work dispatcher. -/
theorem dispatchCommandsComplete : Obligations.DispatchCommandsComplete := by
  unfold Obligations.DispatchCommandsComplete
  refine ⟨?wdsQueueCfg, ?wdsStatus, ?wdsEnqueue, ?wdsTake, ?wdsTakeTimeout, ?wdsCtxRelease, ?wdsServiceTimeout, ?wdsCtxRevive,
    ?wdsSpillTimer, ?wdsSpillRetry, ?wdsRefill, ?wdsCount⟩
  case wdsQueueCfg => exact fun id s0 c hc hok => next_eq ((startCmd_ready hc).trans (require_ok hok))
  case wdsStatus =>
    exact fun id s0 c hc hok => next_eq
      ((startCmd_ready hc).trans (require_ok ((apply_ite (· = true) _ _ _).mpr hok)))
  case wdsEnqueue => exact fun item len poison s => rfl
  case wdsTake => exact fun ctx len insp bad s => rfl
  case wdsTakeTimeout =>
    intro ctx s r rest hr
    refine next_eq ?_
    unfold wdsTakeTimeoutF
    rewrite [hr]
    rfl
  case wdsCtxRelease => exact fun ctx ticket s h => next_eq (if_pos h)
  case wdsServiceTimeout => exact fun ctx ticket s h => next_eq (if_pos h)
  case wdsCtxRevive => exact fun ctx s h => next_eq (if_pos h)
  case wdsSpillTimer =>
    intro q s hon b hb ht
    refine next_eq ((if_pos hon).trans ?_)
    unfold spillWrite
    rw [hb]
    exact if_pos ht
  case wdsSpillRetry =>
    refine fun q s b hb ht => next_eq ?_
    unfold wdsSpillRetryF
    dsimp only
    rw [hb]
    exact if_pos ht
  case wdsRefill => exact fun q s => rfl
  case wdsCount => exact fun insp s => rfl

/-- Settles O42: register writes, and the ports, scrubbers, spare rows and error registers of the fabric memories. -/
theorem memoryCommandsComplete : Obligations.MemoryCommandsComplete := by
  unfold Obligations.MemoryCommandsComplete
  refine ⟨?regWrite, ?bmRead, ?bmWrite, ?dmRead, ?dmWrite, ?memInit, ?memInitComplete, ?memScrubStep, ?dmRemapReq, ?rowCopyComplete,
    ?bmErrlogRead, ?dmErrlogRead, ?bmCeCount, ?bmUeCount⟩
  case regWrite => exact fun die off w fwg s h => next_eq (if_pos h)
  case bmRead =>
    exact fun b portB addr edge s0 hrun ht => next_eq
      ((if_neg (not_bnot hrun)).trans (if_neg (not_bnot ht)))
  case bmWrite =>
    refine fun b portB we addr di edge s0 => ⟨fun hbe => next_eq (if_pos hbe), fun hbe hrun ht => next_eq ?_⟩
    exact (if_neg hbe).trans ((if_neg (not_bnot hrun)).trans (if_neg (not_bnot ht)))
  case dmRead => exact fun c addr edge s0 hrun ht => next_eq ((if_neg (not_bnot hrun)).trans (if_neg (not_bnot ht)))
  case dmWrite => exact fun c be addr data edge s0 hrun ht => next_eq ((if_neg (not_bnot hrun)).trans (if_neg (not_bnot ht)))
  case memInit => exact fun c m s h => next_eq (if_neg (not_bnot h))
  case memInitComplete => exact fun c m s => rfl
  case memScrubStep => exact fun c m s => rfl
  case dmRemapReq => exact fun c row s h => next_eq (if_pos h)
  case rowCopyComplete => exact fun c s => rfl
  case bmErrlogRead => exact fun b insp s => rfl
  case dmErrlogRead => exact fun c insp s => rfl
  case bmCeCount => exact fun c m insp s => rfl
  case bmUeCount => exact fun c m insp s => rfl

/-- Settles O44: the controls, switches and registers of a sequenced unit. -/
theorem sequencerControlCommandsComplete : Obligations.SequencerControlCommandsComplete := by
  unfold Obligations.SequencerControlCommandsComplete
  refine ⟨?sduRun, ?sduStop, ?sduHalt, ?sduResume, ?sduStep, ?sduSwreq, ?swreq, ?switchSlot, ?sduStreamReady, ?sduRegWrite,
    ?sduIstoreWrite, ?sduXyCsrAccess, ?sduEcc, ?illegalInstruction⟩
  case sduRun => exact fun u s ho hq => next_eq (sduCtrl_acts ho hq nofun)
  case sduStop => exact fun u s ho hq => next_eq (sduCtrl_acts ho hq nofun)
  case sduHalt => exact fun u s ho hq hl => next_eq (sduCtrl_acts ho hq fun _ => hl)
  case sduResume => exact fun u s ho hq hl => next_eq (sduCtrl_acts ho hq fun _ => hl)
  case sduStep => exact fun u s => rfl
  case sduSwreq => exact fun u s ho hq hl => next_eq (sduCtrl_acts ho hq fun _ => hl)
  case swreq => exact fun u s h => next_eq (if_pos h)
  case switchSlot => exact fun u s h => next_eq (if_pos h)
  case sduStreamReady => exact fun u sin soutR s h => next_eq (if_neg h)
  case sduRegWrite => exact fun u set code w s h => next_eq (if_neg h)
  case sduIstoreWrite => exact fun u n hi w s h => next_eq (if_neg h)
  case sduXyCsrAccess => exact fun u y pair write be free s => next_eq (ite_self _)
  case sduEcc => exact fun u insp s => rfl
  case illegalInstruction => exact fun u s h => next_eq (if_neg h)

/-- Settles O47: pairs, link flits, replays and recoveries of a bundle. -/
theorem dieLinkCommandsComplete1 : Obligations.DieLinkCommandsComplete1 := by
  unfold Obligations.DieLinkCommandsComplete1
  refine ⟨?adlPairReceive, ?adlLinkFlit, ?adlReplayTimer, ?adlRecovery, ?adlRecoveryComplete, ?adlBndDisable, ?adlBndRecover, ?adlBndErr⟩
  case adlPairReceive => exact fun b slot0 slot1 r s h => next_eq (if_neg (not_bnot h))
  case adlLinkFlit => exact fun b f s hl hc => next_eq (if_neg (by simp [hl, hc]))
  case adlReplayTimer => exact fun b s hw hu => next_eq (if_neg (by simp [hw, hu]))
  case adlRecovery => exact fun b s h => next_eq (startRecovery_works h)
  case adlRecoveryComplete => exact fun b bad third s h => next_eq (if_neg (by simp [h]))
  case adlBndDisable => exact fun b s h => next_eq (if_neg (by simp [h]))
  case adlBndRecover => exact fun b s h => next_eq (startRecovery_works h)
  case adlBndErr => exact fun b receiver insp s => rfl

/-- Settles O49: the sideband, fences and rejoins of a die. -/
theorem dieLinkCommandsComplete3 : Obligations.DieLinkCommandsComplete3 := by
  unfold Obligations.DieLinkCommandsComplete3
  refine ⟨?recover, ?disable, ?notice, ?sbResendTimer, ?sbKeepaliveTimer, ?sbFail, ?sbBreak, ?joinStepTimeout, ?dieFence, ?dieRejoin,
    ?adlFenceDie, ?adlFenceRejoin, ?adlSbStatus, ?adlAckTimer⟩
  case recover => exact fun k toLeader f s h => next_eq (sbTake_takes (by simpa using h))
  case disable => exact fun k toLeader f s h => next_eq (sbTake_takes (by simpa using h))
  case notice => exact fun k toLeader f s h => next_eq (sbTake_takes (by simpa using h))
  case sbResendTimer => exact fun k fromLeader s => rfl
  case sbKeepaliveTimer => exact fun k fromLeader s => rfl
  case sbFail => exact fun k s => rfl
  case sbBreak => exact fun k cycles s h => next_eq (if_neg h)
  case joinStepTimeout => exact fun k s h => next_eq (if_pos h)
  case dieFence => exact fun d cause s => rfl
  case dieRejoin => exact fun d thrice s h => next_eq (if_pos (by simpa using h))
  case adlFenceDie => exact fun d s h => next_eq (if_pos h)
  case adlFenceRejoin => exact fun d0 s h => next_eq ((if_pos h).trans (if_pos (dieAtMod_gaveUp_dstate h.2.2)))
  case adlSbStatus => exact fun die k insp s h => read_eq (if_pos h)
  case adlAckTimer => exact fun b s => rfl

/-- Settles O51: the test features and counters of a lane, and PCIe. -/
theorem laneCommandsComplete2 : Obligations.LaneCommandsComplete2 := by
  unfold Obligations.LaneCommandsComplete2
  refine ⟨?lnLpbk, ?lnAdaptHold, ?lnPrbsErrLo, ?lnCodeErr, ?lnFec, ?lnHeld, ?eyeScanGo, ?eyeScanDone, ?pcieLinkUp, ?pcieLinkDown,
    ?pcieInboundRequest, ?pcieL1Exit, ?pcieCfgdata, ?pcieOutboundAccess⟩
  case lnLpbk => exact fun l v s hl => next_eq (if_pos hl)
  case lnAdaptHold => exact fun l on s hl => next_eq (if_pos hl)
  case lnPrbsErrLo => exact fun l insp s hl => read_eq (if_pos hl)
  case lnCodeErr => exact fun l insp s hl => read_eq (if_pos hl)
  case lnFec => exact fun l insp s hl => read_eq (if_pos hl)
  case lnHeld => exact fun l insp s hl => read_eq (if_pos hl)
  case eyeScanGo => exact fun l w s hl => next_eq (if_pos hl)
  case eyeScanDone => exact fun l count s hl hb => next_eq ((if_pos hl).trans (if_pos hb))
  case pcieLinkUp => exact fun c width gen s h => next_eq (if_pos h)
  case pcieLinkDown => exact fun c s h => next_eq (if_pos h)
  case pcieInboundRequest => exact fun c bar off len write data ep s hd hu => next_eq ((if_pos hd).trans (if_neg hu))
  case pcieL1Exit => exact fun c s h => next_eq (if_pos h)
  case pcieCfgdata => exact fun c write completion insp s => rfl
  case pcieOutboundAccess => exact fun c off write completion s => rfl

/-- Settles O53: items, timers, routes and ports of the span link. -/
theorem spanLinkCommandsComplete2 : Obligations.SpanLinkCommandsComplete2 := by
  unfold Obligations.SpanLinkCommandsComplete2
  refine ⟨?deliver, ?release, ?spanRetryTimer, ?spanAckTimer, ?spanTxnTimeout, ?spnRtWrite, ?spanRouteDrainEnd, ?spnCfgWrite,
    ?spanProbeTimer, ?spanGroupTimer, ?tbMarkLoss, ?spnPerr⟩
  case deliver => exact fun k f s hl hu hg ht hu1 hq => next_eq ((if_pos (beq_iff_eq.mpr hl)).trans (seqFrame_takes_item hu hg ht hu1 hq))
  case release => exact fun k f s hl hu hg ht hu1 hq => next_eq ((if_pos (beq_iff_eq.mpr hl)).trans (seqFrame_takes_item hu hg ht hu1 hq))
  case spanRetryTimer => exact fun k s h => next_eq (if_pos h)
  case spanAckTimer => exact fun k s h => next_eq (if_pos h)
  case spanTxnTimeout =>
    intro stid0 s stid x hx ht
    refine next_eq ?_
    unfold spanTxnTimeoutF
    rw [hx]
    exact if_neg ht
  case spnRtWrite => exact fun w v s => rfl
  case spanRouteDrainEnd =>
    intro d0 s d x hx ht
    refine next_eq ?_
    unfold spanRouteDrainEndF
    rw [hx]
    exact if_neg ht
  case spnCfgWrite => exact fun v s => rfl
  case spanProbeTimer => exact fun k t1 s h => next_eq (if_pos h)
  case spanGroupTimer => exact fun k s h => next_eq (if_pos h)
  case tbMarkLoss => exact fun s h => next_eq (if_pos h)
  case spnPerr => exact fun k insp s => rfl

end Sys2Proof.Machine
end

section
/-! SUPPORT. The statements of the family of file 01: sector windows that are closed, the interleave of DRAM, the repair map, and what the test
commands answer where their conditions hold. -/

namespace Sys2Proof.Machine

/-! ## Sectors of a compute die -/

theorem sector_div_die (d : Nat) (sec : Fin 192) : (d * 192 + sec.val) / 192 = d := by omega

theorem sector_mod_die (d : Nat) (sec : Fin 192) : (d * 192 + sec.val) % 192 = sec.val := by omega

theorem winSec_key (d : Fin 4) (sec : Fin 192) : (winSec d.val sec.val).key = d.val * 192 + sec.val := by
  simp only [SecId.key, winSec, Fin.ofNat_val_eq_self]

/-! ## The areas of a sector that takes no accesses (R33) -/

/-- The areas of a sector are closed while it is unavailable or held in reset by a partial load, and while its die is power-gated. -/
theorem State.areaOpen_closed {s : State} {n : Nat} (h : (s.secAt n).state = .unavailable ∨ (s.secAt n).state = .inRegion
    ∨ (s.secAt n).state = .held ∨ 3 ≤ (s.pdomAt (n / 192 + 1)).rung.toNat) : s.areaOpen n = false := by
  unfold State.areaOpen
  rcases h with h | h | h | hgated
  · rw [h]
  · rw [h]
  · rw [h]
  · have hrung : decide ((s.pdomAt (n / 192 + 1)).rung.toNat ≤ 2) = false := decide_eq_false (by omega)
    rw [hrung]
    cases (s.secAt n).state <;> rfl

/-- An answer of zero with no error and no effect. -/
theorem csrWord_zero (s : State) : csrWord 0 s = ((0, false), s) := rfl

section
variable {c : SecId} {rel : Nat} {w : Word} {s : State}

theorem sduAreaRead_closed {unit : Fin 24} {insp : Bool} (h : s.areaOpen c.key = false) :
    sduAreaRead { die := c.die, sec := c.sec, unit := unit } rel insp s = csrWord 0 s := if_pos (congrArg (!·) h)

theorem sduAreaWrite_closed {unit : Fin 24} {be : BitVec 4} (h : s.areaOpen c.key = false) :
    sduAreaWrite { die := c.die, sec := c.sec, unit := unit } rel w be s = s := if_pos (congrArg (!·) h)

theorem memCsrRead_closed {m : MemSel} {insp : Bool} (h : s.areaOpen c.key = false) : memCsrRead c m rel insp s = csrWord 0 s :=
  if_pos (congrArg (!·) h)

theorem memCsrWrite_closed {m : MemSel} (h : s.areaOpen c.key = false) : memCsrWrite c m rel w s = s := if_pos (congrArg (!·) h)

end

section
variable {d sec rel : Nat} {s : State}

/-- Above its controls, a closed sector reads zero, in its areas and between them. -/
theorem secRead_closed {insp : Bool} (h : s.areaOpen (winSec d sec).key = false) (hrel : 0x10000 ≤ rel) :
    secRead d sec rel insp s = csrWord 0 s := by
  unfold secRead
  dsimp only
  rw [if_neg (Nat.not_lt.mpr hrel), sduAreaRead_closed h, memCsrRead_closed h, memCsrRead_closed h]
  simp only [ite_self]

/-- Above its controls, a closed sector ignores every write. -/
theorem secWrite_closed {w : Word} {be : BitVec 4} (h : s.areaOpen (winSec d sec).key = false) (hrel : 0x10000 ≤ rel) :
    secWrite d sec rel w be s = s := by
  unfold secWrite
  dsimp only
  rw [if_neg (Nat.not_lt.mpr hrel), sduAreaWrite_closed h, memCsrWrite_closed h, memCsrWrite_closed h]
  simp only [ite_self]

end

/-- The status word is read whatever the state of the sector (R33). -/
theorem secRead_status {d sec : Nat} {insp : Bool} {s : State} : secRead d sec 0 insp s = csrWord (scStatus (d * 192 + sec) s) s := rfl

/-- Settles O12: each reason of R33 closes the areas, and a closed area answers zero and keeps the state. -/
theorem unavailableSectorAreasReadZero : Obligations.UnavailableSectorAreasReadZero := by
  unfold Obligations.UnavailableSectorAreasReadZero
  intro d sec rel w be insp s n hclosed
  have hkey : s.areaOpen (winSec d.val sec.val).key = false := by
    rw [winSec_key]
    exact State.areaOpen_closed (by rwa [sector_div_die])
  refine ⟨fun harea => ?_, secRead_status⟩
  have hrel : 0x10000 ≤ rel := by omega
  exact ⟨(secRead_closed hkey hrel).trans (csrWord_zero s), secWrite_closed hkey hrel⟩

/-! ## The interleave of DRAM (R332) -/

/-- When an address maps, and to what: the range is open, the address lies below the installed capacity, and blocks of 256 bytes go round the
interleave set. -/
theorem State.dramMap_eq_some {s : State} {a c ca : Nat} : s.dramMap a = some (c, ca) ↔
    s.ddr.isOpen = true ∧ 0 < s.ddrSet.length ∧ a < s.ddrSet.length * s.ddr.usable * 1048576
      ∧ s.ddrSet[a / 256 % s.ddrSet.length]? = some c ∧ ca = a / 256 / s.ddrSet.length * 256 + a % 256 := by
  unfold State.dramMap
  dsimp only
  split
  case isTrue h =>
    obtain ⟨hopen, hpos, hlt⟩ := h
    have hidx : a / 256 % s.ddrSet.length < s.ddrSet.length := Nat.mod_lt _ hpos
    simp [hopen, hpos, hlt, hidx, eq_comm]
  case isFalse h => exact ⟨nofun, fun ⟨hopen, hpos, hlt, _⟩ => absurd ⟨hopen, hpos, hlt⟩ h⟩

/-- No channel stands in the interleave set twice. -/
theorem State.ddrSet_nodup (s : State) : s.ddrSet.Nodup := List.nodup_range.filter _

/-- A channel of the interleave set is found at its own place in the set. -/
theorem State.ddrSet_findIdx {s : State} {i c : Nat} (h : s.ddrSet[i]? = some c) : s.ddrSet.findIdx (· == c) = i := by
  obtain ⟨hi, rfl⟩ := List.getElem?_eq_some_iff.mp h
  exact s.ddrSet_nodup.idxOf_getElem i hi

/-- The channel address of an address below the capacity of `n` channels lies below the usable size of one. -/
theorem chanAddr_lt {a n u : Nat} (h : a < n * u * 1048576) : a / 256 / n * 256 + a % 256 < u * 1048576 := by
  have hblock : a / 256 < u * 4096 * n := by
    rw [Nat.mul_right_comm, Nat.mul_comm u]
    omega
  have hline : a / 256 / n < u * 4096 := Nat.div_lt_of_lt_mul (by rwa [Nat.mul_comm])
  omega

/-- The place of a block in the set and its number within its channel give the address back. -/
theorem dramLocal_chanAddr {s : State} {a c : Nat} (h : s.ddrSet[a / 256 % s.ddrSet.length]? = some c) :
    s.dramLocal c (a / 256 / s.ddrSet.length * 256 + a % 256) = a := by
  have hblock : (a / 256 / s.ddrSet.length * 256 + a % 256) / 256 = a / 256 / s.ddrSet.length := by omega
  have hbyte : (a / 256 / s.ddrSet.length * 256 + a % 256) % 256 = a % 256 := by omega
  unfold State.dramLocal
  dsimp only
  rw [State.ddrSet_findIdx h, hblock, hbyte, Nat.div_add_mod', Nat.div_add_mod']

/-- Settles O19: what an address maps to is said once by `State.dramMap_eq_some`, and dividing by 256 and by the number of channels loses nothing. -/
theorem dramAddressMapIsOneToOne : Obligations.DramAddressMapIsOneToOne := by
  unfold Obligations.DramAddressMapIsOneToOne
  refine ⟨?maps, ?unmapped⟩
  case maps =>
    intro s a c ca hmap n
    obtain ⟨-, -, hlt, hc, rfl⟩ := State.dramMap_eq_some.mp hmap
    refine ⟨hc, rfl, List.mem_of_getElem? hc, chanAddr_lt hlt, dramLocal_chanAddr hc, ?_⟩
    intro b c' cb hb hmap'
    obtain ⟨-, -, -, hc', -⟩ := State.dramMap_eq_some.mp hmap'
    rw [hb, hc] at hc'
    exact (Option.some.inj hc').symm
  case unmapped =>
    refine fun s a hno => Option.eq_none_iff_forall_ne_some.mpr fun ⟨c, ca⟩ hmap => ?_
    obtain ⟨hopen, -, hlt, -⟩ := State.dramMap_eq_some.mp hmap
    rcases hno with hclosed | hbeyond
    · exact absurd (hclosed.symm.trans hopen) nofun
    · exact absurd hlt (Nat.not_lt.mpr hbeyond)

/-! ## Physical rows of logical sectors (R18) -/

/-- A sector that is not unavailable stands in its own row, or in the next from the failed row of its column on. -/
theorem State.prow_available {s : State} {d : Nat} {sec : Fin 192} (h : (s.secAt (d * 192 + sec.val)).state ≠ .unavailable) :
    s.prow (d * 192 + sec.val) =
      if s.repairEnt d (sec.val % 16) ≤ 12 ∧ s.repairEnt d (sec.val % 16) ≤ sec.val / 16 then sec.val / 16 + 1 else sec.val / 16 := by
  unfold State.prow
  dsimp only
  rw [sector_div_die, sector_mod_die, if_neg (fun hu => h (by simpa using hu))]

/-- Settles O24: the example is the general rule at the entry 7. -/
theorem repairMapSkipsTheFailedRow : Obligations.RepairMapSkipsTheFailedRow := by
  unfold Obligations.RepairMapSkipsTheFailedRow
  refine ⟨?rule, ?exampleOfFile⟩
  case rule =>
    intro s d sec hs e r
    rw [State.prow_available hs]
    exact ⟨fun _ hr => if_neg (by omega), fun hle hr => if_pos ⟨hle, hr⟩, fun hgt => if_neg (by omega)⟩
  case exampleOfFile =>
    intro s he hs
    have hrow (sec : Fin 192) (hcol : sec.val % 16 = 5) :
        s.prow (1 * 192 + sec.val) = if 7 ≤ 12 ∧ 7 ≤ sec.val / 16 then sec.val / 16 + 1 else sec.val / 16 := by
      rw [State.prow_available (hs _), hcol, he]
    exact ⟨hrow 101 rfl, hrow 117 rfl, hrow 181 rfl⟩

/-! ## Test, repair and manufacturing -/

/-- Settles O39: a packet that is ready passes its checks, and an event passes the guards its clause lists. -/
theorem testCommandsComplete : Obligations.TestCommandsComplete := by
  unfold Obligations.TestCommandsComplete
  refine ⟨?telRead, ?telThresh, ?bistRun, ?bistComplete, ?bistResult, ?repairMapRead, ?laneTest, ?scanEnter, ?telSample, ?coolingComplete,
    ?sectorTestRow, ?repairRecordWrite, ?bgBistTimer, ?telSampleTimer⟩
  case telRead => exact fun id s0 c hc hok => next_eq ((startCmd_ready hc).trans (require_ok hok))
  case telThresh => exact fun id s0 c hc hok => next_eq ((startCmd_ready hc).trans (require_ok hok))
  case bistRun => exact fun id s0 c hc hok => next_eq ((startCmd_ready hc).trans (require_ok hok))
  case bistComplete =>
    intro die0 failed failRow duration s die b hb
    refine next_eq ?_
    unfold bistCompleteF
    rewrite [hb]
    rfl
  case bistResult => exact fun id s0 c hc hok => next_eq ((startCmd_ready hc).trans (require_ok hok))
  case repairMapRead => exact fun id s0 c hc hok => next_eq ((startCmd_ready hc).trans (require_ok hok))
  case laneTest =>
    exact fun id errors compared s0 c hc hok hroom => next_eq ((startCmd_ready hc).trans ((require_ok hok).trans (require_ok hroom)))
  case scanEnter =>
    exact fun id s0 c hc hallowed hok => next_eq ((startCmd_ready hc).trans ((require_ok hallowed).trans (require_ok hok)))
  case telSample =>
    intro group values s hruns e he hgroup
    refine next_eq ((if_neg hruns).trans ?_)
    rw [he]
    exact if_neg hgroup
  case coolingComplete =>
    intro bridgeFails lanePass flashOk s k hk hdone
    refine next_eq ?_
    unfold coolingCompleteF
    rw [hk]
    exact if_neg hdone
  case sectorTestRow =>
    intro die0 col0 row0 pass deepRows s die col row k hk hnew
    refine next_eq ?_
    unfold sectorTestRowF
    rw [hk]
    exact if_neg hnew
  case repairRecordWrite => exact fun failSlots s h => next_eq (if_neg h)
  case bgBistTimer => exact fun s h => next_eq (if_neg h)
  case telSampleTimer => exact fun values s h => next_eq (if_neg h)

end Sys2Proof.Machine
end

section
/-! SUPPORT. The statements of the family of file 02: how a step takes its command, how a command packet starts, the queue of notices, what a fatal
outcome leaves, and what the commands of four families answer where their conditions hold. -/

namespace Sys2Proof.Machine

/-! ## How a step takes its command -/

/-- A step runs the command at the front of the queue. -/
theorem step_cons {s : State} {c : Instr} {rest : List Instr} (h : s.pending = c :: rest) : step s = exec c { s with pending := rest } := by
  unfold step
  rw [h]

/-- Settles O1: the queue is not empty, so its front command runs. -/
theorem stepRunsFrontCommand : Obligations.StepRunsFrontCommand := fun _ _ _ h => step_cons h

/-- Every command keeps the queue of waiting commands, the programmed fuse bits, the canonical form of DRAM and the order of the free values. -/
theorem exec_keeps {i : Instr} {s t : State} (h : exec i s = .next t) : Keeps s t := by
  cases i with
  | hubPowerGood => exact execHubPowerGood_keeps h
  | ioscQualified => exact execIoscQualified_keeps h
  | refclkQualifyDone => exact execRefclkQualifyDone_keeps h
  | refclkHQualTimeout => exact execRefclkHQualTimeout_keeps h
  | flashDiscovery => exact execFlashDiscovery_keeps h
  | settingsSelect => exact execSettingsSelect_keeps h
  | firmwareVerify => exact execFirmwareVerify_keeps h
  | dieRelease => exact execDieRelease_keeps h
  | vccCGoodTimeout => exact execVccCGoodTimeout_keeps h
  | dieJoinTimeout => exact execDieJoinTimeout_keeps h
  | flashLoadStart => exact execFlashLoadStart_keeps h
  | porstAssert => exact execPorstAssert_keeps h
  | railLoss => exact execRailLoss_keeps h
  | vddAoDip => exact execVddAoDip_keeps h
  | brownOut => exact execBrownOut_keeps h
  | autoRestart => exact execAutoRestart_keeps h
  | fatalAutoRestart => exact execFatalAutoRestart_keeps h
  | mgrLockstepMismatch => exact execMgrLockstepMismatch_keeps h
  | packetArrival => exact execPacketArrival_keeps h
  | packetTimeout => exact execPacketTimeout_keeps h
  | mgrcmdUpdateDr => exact execMgrcmdUpdateDr_keeps h
  | mgrcmdCaptureDr => exact execMgrcmdCaptureDr_keeps h
  | smbusBlockWrite => exact execSmbusBlockWrite_keeps h
  | smbusBlockRead => exact execSmbusBlockRead_keeps h
  | smbusReadByte => exact execSmbusReadByte_keeps h
  | mbxSubmit => exact execMbxSubmit_keeps h
  | mbxFlush => exact execMbxFlush_keeps h
  | mbxRspDone => exact execMbxRspDone_keeps h
  | nop => exact execNop_keeps h
  | getStatus => exact execGetStatus_keeps h
  | getId => exact execGetId_keeps h
  | abort => exact execAbort_keeps h
  | resetDevice => exact execResetDevice_keeps h
  | setMode => exact execSetMode_keeps h
  | getNotices => exact execGetNotices_keeps h
  | cfgBegin => exact execCfgBegin_keeps h
  | cfgFrames => exact execCfgFrames_keeps h
  | cfgKeyRoll => exact execCfgKeyRoll_keeps h
  | cfgEnd => exact execCfgEnd_keeps h
  | cfgSignature => exact execCfgSignature_keeps h
  | cfgMeminit => exact execCfgMeminit_keeps h
  | cfgCommit => exact execCfgCommit_keeps h
  | cfgRegionOpen => exact execCfgRegionOpen_keeps h
  | cfgRegionClear => exact execCfgRegionClear_keeps h
  | regionDrainComplete => exact execRegionDrainComplete_keeps h
  | regionDrainTimeout => exact execRegionDrainTimeout_keeps h
  | regionBlankComplete => exact execRegionBlankComplete_keeps h
  | commitDue => exact execCommitDue_keeps h
  | regionReleaseComplete => exact execRegionReleaseComplete_keeps h
  | doneLineHigh => exact execDoneLineHigh_keeps h
  | doneWaitTimeout => exact execDoneWaitTimeout_keeps h
  | startupComplete => exact execStartupComplete_keeps h
  | streamInactivityTimeout => exact execStreamInactivityTimeout_keeps h
  | loadFallbackDecision => exact execLoadFallbackDecision_keeps h
  | cfgStreamData => exact execCfgStreamData_keeps h
  | cfgStreamAbort => exact execCfgStreamAbort_keeps h
  | capture => exact execCapture_keeps h
  | captureSnapshot => exact execCaptureSnapshot_keeps h
  | readback => exact execReadback_keeps h
  | readbackTimeout => exact execReadbackTimeout_keeps h
  | readMem => exact execReadMem_keeps h
  | pwrVote => exact execPwrVote_keeps h
  | pwrStatus => exact execPwrStatus_keeps h
  | watchSet => exact execWatchSet_keeps h
  | clkSwitch => exact execClkSwitch_keeps h
  | clkRampStep => exact execClkRampStep_keeps h
  | tbConfig => exact execTbConfig_keeps h
  | calSet => exact execCalSet_keeps h
  | calClear => exact execCalClear_keeps h
  | calStatus => exact execCalStatus_keeps h
  | setRead => exact execSetRead_keeps h
  | setWrite => exact execSetWrite_keeps h
  | flashRead => exact execFlashRead_keeps h
  | flashProgram => exact execFlashProgram_keeps h
  | logRead => exact execLogRead_keeps h
  | keyLoadBbram => exact execKeyLoadBbram_keeps h
  | keySlotRetire => exact execKeySlotRetire_keeps h
  | authChallenge => exact execAuthChallenge_keeps h
  | authRespond => exact execAuthRespond_keeps h
  | fuseRead => exact execFuseRead_keeps h
  | fuseProgram => exact execFuseProgram_keeps h
  | telRead => exact execTelRead_keeps h
  | telThresh => exact execTelThresh_keeps h
  | bistRun => exact execBistRun_keeps h
  | bistComplete => exact execBistComplete_keeps h
  | bistResult => exact execBistResult_keeps h
  | repairMapRead => exact execRepairMapRead_keeps h
  | laneTest => exact execLaneTest_keeps h
  | scanEnter => exact execScanEnter_keeps h
  | meeRegion => exact execMeeRegion_keeps h
  | meeRekey => exact execMeeRekey_keeps h
  | meeFlushComplete => exact execMeeFlushComplete_keeps h
  | meeReencComplete => exact execMeeReencComplete_keeps h
  | ddrRemap => exact execDdrRemap_keeps h
  | wdsQueueCfg => exact execWdsQueueCfg_keeps h
  | wdsStatus => exact execWdsStatus_keeps h
  | regWrite => exact execRegWrite_keeps h
  | bmRead => exact execBmRead_keeps h
  | bmWrite => exact execBmWrite_keeps h
  | dmRead => exact execDmRead_keeps h
  | dmWrite => exact execDmWrite_keeps h
  | memInit => exact execMemInit_keeps h
  | memInitComplete => exact execMemInitComplete_keeps h
  | memScrubStep => exact execMemScrubStep_keeps h
  | dmRemapReq => exact execDmRemapReq_keeps h
  | rowCopyComplete => exact execRowCopyComplete_keeps h
  | bmErrlogRead => exact execBmErrlogRead_keeps h
  | dmErrlogRead => exact execDmErrlogRead_keeps h
  | bmCeCount => exact execBmCeCount_keeps h
  | bmUeCount => exact execBmUeCount_keeps h
  | bridgeParityMismatch => exact execBridgeParityMismatch_keeps h
  | sduRun => exact execSduRun_keeps h
  | sduStop => exact execSduStop_keeps h
  | sduHalt => exact execSduHalt_keeps h
  | sduResume => exact execSduResume_keeps h
  | sduStep => exact execSduStep_keeps h
  | sduSwreq => exact execSduSwreq_keeps h
  | swreq => exact execSwreq_keeps h
  | switchSlot => exact execSwitchSlot_keeps h
  | sduStreamReady => exact execSduStreamReady_keeps h
  | sduRegWrite => exact execSduRegWrite_keeps h
  | sduIstoreWrite => exact execSduIstoreWrite_keeps h
  | sduXyCsrAccess => exact execSduXyCsrAccess_keeps h
  | sduEcc => exact execSduEcc_keeps h
  | mpy => exact execMpy_keeps h
  | mac => exact execMac_keeps h
  | msu => exact execMsu_keeps h
  | mpyd => exact execMpyd_keeps h
  | macd => exact execMacd_keeps h
  | msud => exact execMsud_keeps h
  | ldx => exact execLdx_keeps h
  | ldy => exact execLdy_keeps h
  | stx => exact execStx_keeps h
  | sty => exact execSty_keeps h
  | inSlot => exact execInSlot_keeps h
  | outSlot => exact execOutSlot_keeps h
  | aluNop => exact execAluNop_keeps h
  | clr => exact execClr_keeps h
  | mova => exact execMova_keeps h
  | adda => exact execAdda_keeps h
  | suba => exact execSuba_keeps h
  | nega => exact execNega_keeps h
  | ash => exact execAsh_keeps h
  | lda => exact execLda_keeps h
  | addx => exact execAddx_keeps h
  | ext => exact execExt_keeps h
  | lcomb => exact execLcomb_keeps h
  | lcombs => exact execLcombs_keeps h
  | casci => exact execCasci_keeps h
  | casca => exact execCasca_keeps h
  | casco => exact execCasco_keeps h
  | movx => exact execMovx_keeps h
  | movr => exact execMovr_keeps h
  | ldi => exact execLdi_keeps h
  | br => exact execBr_keeps h
  | loopOp => exact execLoopOp_keeps h
  | sleep => exact execSleep_keeps h
  | halt => exact execHalt_keeps h
  | illegalInstruction => exact execIllegalInstruction_keeps h
  | fdHold => exact execFdHold_keeps h
  | fdMpy => exact execFdMpy_keeps h
  | fdMac => exact execFdMac_keeps h
  | fdMsu => exact execFdMsu_keeps h
  | fdMpyd => exact execFdMpyd_keeps h
  | fdMacd => exact execFdMacd_keeps h
  | fdCascadeMac => exact execFdCascadeMac_keeps h
  | fdClear => exact execFdClear_keeps h
  | vccioLost => exact execVccioLost_keeps h
  | vccioRestored => exact execVccioRestored_keeps h
  | islip => exact execIslip_keeps h
  | ioTapMeasure => exact execIoTapMeasure_keeps h
  | ioTapMove => exact execIoTapMove_keeps h
  | ioPinDlyWrite => exact execIoPinDlyWrite_keeps h
  | rd => exact execRd_keeps h
  | wr => exact execWr_keeps h
  | atom => exact execAtom_keeps h
  | fence => exact execFence_keeps h
  | initiatorRequestIssue => exact execInitiatorRequestIssue_keeps h
  | flitRoute => exact execFlitRoute_keeps h
  | nocResponseArrival => exact execNocResponseArrival_keeps h
  | rspTimeout => exact execRspTimeout_keeps h
  | qosChangeApply => exact execQosChangeApply_keeps h
  | fabricTargetResponse => exact execFabricTargetResponse_keeps h
  | nocCommit => exact execNocCommit_keeps h
  | nocCommitApply => exact execNocCommitApply_keeps h
  | pathSwitchDrainEnd => exact execPathSwitchDrainEnd_keeps h
  | nocErrlogRead => exact execNocErrlogRead_keeps h
  | nocFwLogRead => exact execNocFwLogRead_keeps h
  | nocPerrCount => exact execNocPerrCount_keeps h
  | nocIportHoldClr => exact execNocIportHoldClr_keeps h
  | adlPairReceive => exact execAdlPairReceive_keeps h
  | adlLinkFlit => exact execAdlLinkFlit_keeps h
  | adlReplayTimer => exact execAdlReplayTimer_keeps h
  | adlRecovery => exact execAdlRecovery_keeps h
  | adlRecoveryComplete => exact execAdlRecoveryComplete_keeps h
  | adlBndDisable => exact execAdlBndDisable_keeps h
  | adlBndRecover => exact execAdlBndRecover_keeps h
  | adlBndErr => exact execAdlBndErr_keeps h
  | reqOut => exact execReqOut_keeps h
  | steerOut => exact execSteerOut_keeps h
  | reqIn => exact execReqIn_keeps h
  | steerIn => exact execSteerIn_keeps h
  | half => exact execHalf_keeps h
  | rltDwellExpiry => exact execRltDwellExpiry_keeps h
  | keepalive => exact execKeepalive_keeps h
  | ack => exact execAck_keeps h
  | hello => exact execHello_keeps h
  | bootGo => exact execBootGo_keeps h
  | trainSync => exact execTrainSync_keeps h
  | laneMap => exact execLaneMap_keeps h
  | cap => exact execCap_keeps h
  | joined => exact execJoined_keeps h
  | pwrReq => exact execPwrReq_keeps h
  | pwrAck => exact execPwrAck_keeps h
  | pwrDeny => exact execPwrDeny_keeps h
  | pwrReqTimeout => exact execPwrReqTimeout_keeps h
  | sidebandFence => exact execSidebandFence_keeps h
  | rejoin => exact execRejoin_keeps h
  | recover => exact execRecover_keeps h
  | disable => exact execDisable_keeps h
  | notice => exact execNotice_keeps h
  | sbResendTimer => exact execSbResendTimer_keeps h
  | sbKeepaliveTimer => exact execSbKeepaliveTimer_keeps h
  | sbFail => exact execSbFail_keeps h
  | sbBreak => exact execSbBreak_keeps h
  | joinStepTimeout => exact execJoinStepTimeout_keeps h
  | dieFence => exact execDieFence_keeps h
  | dieRejoin => exact execDieRejoin_keeps h
  | adlFenceDie => exact execAdlFenceDie_keeps h
  | adlFenceRejoin => exact execAdlFenceRejoin_keeps h
  | adlSbStatus => exact execAdlSbStatus_keeps h
  | lanePortEnable => exact execLanePortEnable_keeps h
  | lanePortDisable => exact execLanePortDisable_keeps h
  | laneDetectTimer => exact execLaneDetectTimer_keeps h
  | laneFarEndDetect => exact execLaneFarEndDetect_keeps h
  | ts1 => exact execTs1_keeps h
  | ts2 => exact execTs2_keeps h
  | laneTrainTimeout => exact execLaneTrainTimeout_keeps h
  | laneExchangeTimeout => exact execLaneExchangeTimeout_keeps h
  | laneSyncLoss => exact execLaneSyncLoss_keeps h
  | laneSymbolLock => exact execLaneSymbolLock_keeps h
  | laneRealignTimeout => exact execLaneRealignTimeout_keeps h
  | ethFecCodeword => exact execEthFecCodeword_keeps h
  | lnPrbsClr => exact execLnPrbsClr_keeps h
  | lnPrbsTxEn => exact execLnPrbsTxEn_keeps h
  | lnPrbsRxEn => exact execLnPrbsRxEn_keeps h
  | lnLpbk => exact execLnLpbk_keeps h
  | lnAdaptHold => exact execLnAdaptHold_keeps h
  | lnPrbsErrLo => exact execLnPrbsErrLo_keeps h
  | lnCodeErr => exact execLnCodeErr_keeps h
  | lnFec => exact execLnFec_keeps h
  | lnHeld => exact execLnHeld_keeps h
  | eyeScanGo => exact execEyeScanGo_keeps h
  | eyeScanDone => exact execEyeScanDone_keeps h
  | pcieLinkUp => exact execPcieLinkUp_keeps h
  | pcieLinkDown => exact execPcieLinkDown_keeps h
  | pcieInboundRequest => exact execPcieInboundRequest_keeps h
  | pcieL1Exit => exact execPcieL1Exit_keeps h
  | pcieCfgdata => exact execPcieCfgdata_keeps h
  | pcieOutboundAccess => exact execPcieOutboundAccess_keeps h
  | spanPortUp => exact execSpanPortUp_keeps h
  | spanProgressTimeout => exact execSpanProgressTimeout_keeps h
  | aos => exact execAos_keeps h
  | req => exact execReq_keeps h
  | rsp => exact execRsp_keeps h
  | data => exact execData_keeps h
  | cmd => exact execCmd_keeps h
  | trig => exact execTrig_keeps h
  | align => exact execAlign_keeps h
  | probe => exact execProbe_keeps h
  | echo => exact execEcho_keeps h
  | tag => exact execTag_keeps h
  | link => exact execLink_keeps h
  | deliver => exact execDeliver_keeps h
  | release => exact execRelease_keeps h
  | spanRetryTimer => exact execSpanRetryTimer_keeps h
  | spanAckTimer => exact execSpanAckTimer_keeps h
  | spanTxnTimeout => exact execSpanTxnTimeout_keeps h
  | spnRtWrite => exact execSpnRtWrite_keeps h
  | spanRouteDrainEnd => exact execSpanRouteDrainEnd_keeps h
  | spnCfgWrite => exact execSpnCfgWrite_keeps h
  | spanProbeTimer => exact execSpanProbeTimer_keeps h
  | spanGroupTimer => exact execSpanGroupTimer_keeps h
  | tbMarkLoss => exact execTbMarkLoss_keeps h
  | spnPerr => exact execSpnPerr_keeps h
  | ddrTrainComplete => exact execDdrTrainComplete_keeps h
  | ddrTrainTimeout => exact execDdrTrainTimeout_keeps h
  | ddrRangeOpen => exact execDdrRangeOpen_keeps h
  | ddrMapWrite => exact execDdrMapWrite_keeps h
  | dramRead => exact execDramRead_keeps h
  | dramWrite => exact execDramWrite_keeps h
  | dramAtomic => exact execDramAtomic_keeps h
  | ddrAlert => exact execDdrAlert_keeps h
  | ddrUpkeepTimer => exact execDdrUpkeepTimer_keeps h
  | ddrRefresh => exact execDdrRefresh_keeps h
  | ddrWbDrain => exact execDdrWbDrain_keeps h
  | ddrIdleClose => exact execDdrIdleClose_keeps h
  | ddrPatrolStep => exact execDdrPatrolStep_keeps h
  | ddrRetrain => exact execDdrRetrain_keeps h
  | ddrEcc => exact execDdrEcc_keeps h
  | ddrErrlogRead => exact execDdrErrlogRead_keeps h
  | meeSlotLoadGo => exact execMeeSlotLoadGo_keeps h
  | meeCount => exact execMeeCount_keeps h
  | wdsEnqueue => exact execWdsEnqueue_keeps h
  | wdsTake => exact execWdsTake_keeps h
  | wdsTakeTimeout => exact execWdsTakeTimeout_keeps h
  | wdsCtxRelease => exact execWdsCtxRelease_keeps h
  | wdsServiceTimeout => exact execWdsServiceTimeout_keeps h
  | wdsCtxRevive => exact execWdsCtxRevive_keeps h
  | wdsSpillTimer => exact execWdsSpillTimer_keeps h
  | wdsSpillRetry => exact execWdsSpillRetry_keeps h
  | wdsRefill => exact execWdsRefill_keeps h
  | wdsCount => exact execWdsCount_keeps h
  | kilnWriteback => exact execKilnWriteback_keeps h
  | mgrAlertLatchClear => exact execMgrAlertLatchClear_keeps h
  | mgrFatalClr => exact execMgrFatalClr_keeps h
  | coreFence => exact execCoreFence_keeps h
  | dbgWdtKick => exact execDbgWdtKick_keeps h
  | dbgWdtEnable => exact execDbgWdtEnable_keeps h
  | wdtExpiry => exact execWdtExpiry_keeps h
  | haltreq => exact execHaltreq_keeps h
  | hartHalted => exact execHartHalted_keeps h
  | resumereq => exact execResumereq_keeps h
  | accessRegister => exact execAccessRegister_keeps h
  | hartTrigger => exact execHartTrigger_keeps h
  | dbgAccGo => exact execDbgAccGo_keeps h
  | jtagDbgaccUpdate => exact execJtagDbgaccUpdate_keeps h
  | jtagTestLogicReset => exact execJtagTestLogicReset_keeps h
  | extest => exact execExtest_keeps h
  | xtiEvent => exact execXtiEvent_keeps h
  | dbgXtPulse => exact execDbgXtPulse_keeps h
  | sfrzFreeze => exact execSfrzFreeze_keeps h
  | sfrzRelease => exact execSfrzRelease_keeps h
  | dbgHeldEnter => exact execDbgHeldEnter_keeps h
  | heldEntryComplete => exact execHeldEntryComplete_keeps h
  | dbgHeldRelease => exact execDbgHeldRelease_keeps h
  | dbgStim => exact execDbgStim_keeps h
  | traceFlushTimer => exact execTraceFlushTimer_keeps h
  | clockFail => exact execClockFail_keeps h
  | ioscFail => exact execIoscFail_keeps h
  | refclkRequalTimer => exact execRefclkRequalTimer_keeps h
  | tbTick => exact execTbTick_keeps h
  | tbIndex => exact execTbIndex_keeps h
  | tbFramePulse => exact execTbFramePulse_keeps h
  | tbPpsEdge => exact execTbPpsEdge_keeps h
  | tbcPosLo => exact execTbcPosLo_keeps h
  | tbcStatus => exact execTbcStatus_keeps h
  | tbcCalEnt => exact execTbcCalEnt_keeps h
  | calEntryDue => exact execCalEntryDue_keeps h
  | telSample => exact execTelSample_keeps h
  | calPwrVote => exact execCalPwrVote_keeps h
  | fabPowerBeat => exact execFabPowerBeat_keeps h
  | pwrDomainMove => exact execPwrDomainMove_keeps h
  | pwrDrainTimeout => exact execPwrDrainTimeout_keeps h
  | pwrMgrClr => exact execPwrMgrClr_keeps h
  | pwrWarmWrite => exact execPwrWarmWrite_keeps h
  | wakeNLow => exact execWakeNLow_keeps h
  | wakeTimer => exact execWakeTimer_keeps h
  | watchSample => exact execWatchSample_keeps h
  | wakeVoteWithdraw => exact execWakeVoteWithdraw_keeps h
  | coolingComplete => exact execCoolingComplete_keeps h
  | sectorTestRow => exact execSectorTestRow_keeps h
  | repairRecordWrite => exact execRepairRecordWrite_keeps h
  | bgBistTimer => exact execBgBistTimer_keeps h
  | telSampleTimer => exact execTelSampleTimer_keeps h
  | railGood => exact execRailGood_keeps h
  | adlAckTimer => exact execAdlAckTimer_keeps h
  | meeReencGroup => exact execMeeReencGroup_keeps h
  | pwrMoveComplete => exact execPwrMoveComplete_keeps h
  | pllLock => exact execPllLock_keeps h
  | aoscQualified => exact execAoscQualified_keeps h
  | tileClockEdge => exact execTileClockEdge_keeps h

/-- Settles O7: the command runs on the state with the queue's rest, and keeps that queue. -/
theorem stepTakesOneCommand : Obligations.StepTakesOneCommand := by
  unfold Obligations.StepTakesOneCommand
  intro s t c rest hpending hstep
  rw [step_cons hpending] at hstep
  exact (exec_keeps hstep).pending

/-! ## How a packet starts -/

section
variable {o : Host.Outcome State Fault Refusal} {id : CmdId} {op : Nat} {s : State}

/-- What starts through `startCmd` starts through `startCmdOr`. -/
theorem startsOr_of_startCmd (h : ∃ body, o = .next (startCmd id op body s)) : ∃ bad body, o = .next (startCmdOr bad id op body s) :=
  h.elim fun _ he => ⟨_, _, he⟩

/-- What starts through `startSess` starts through `startCmdOr`. -/
theorem startsOr_of_startSess (h : ∃ body, o = .next (startSess id op body s)) : ∃ bad body, o = .next (startCmdOr bad id op body s) :=
  h.elim fun _ he => ⟨_, _, he⟩

end

/-- Every command packet starts in one way: through `startCmdOr`, on its identity and its opcode. -/
theorem exec_packet {i : Instr} {id : CmdId} {op : Nat} {s : State} (h : Safety.packet i = some (id, op)) :
    ∃ bad body, exec i s = .next (startCmdOr bad id op body s) := by
  cases i
  case cfgBegin =>
    cases h
    exact ⟨beginWrongMode, _, rfl⟩
  case cfgFrames | cfgKeyRoll | cfgEnd | cfgSignature | cfgMeminit =>
    cases h
    exact startsOr_of_startSess ⟨_, rfl⟩
  case nop | getStatus | getId | abort | resetDevice | setMode | getNotices | cfgCommit | cfgRegionOpen | cfgRegionClear | capture | readback
      | readbackTimeout | readMem | pwrVote | pwrStatus | watchSet | clkSwitch | tbConfig | calSet | calClear | calStatus | setRead | setWrite
      | flashRead | flashProgram | logRead | keyLoadBbram | keySlotRetire | authChallenge | authRespond | fuseRead | fuseProgram | telRead
      | telThresh | bistRun | bistResult | repairMapRead | laneTest | scanEnter | meeRekey | ddrRemap | wdsQueueCfg | wdsStatus =>
    cases h
    exact startsOr_of_startCmd ⟨_, rfl⟩
  all_goals cases h

/-- Settles O9: the start of a packet finds nothing that it may start. -/
theorem packetThatCannotStartDoesNothing : Obligations.PacketThatCannotStartDoesNothing := by
  unfold Obligations.PacketThatCannotStartDoesNothing
  intro i id op s hp
  obtain ⟨bad, body, he⟩ := exec_packet (s := s) hp
  rw [he]
  exact ⟨fun hnone => next_eq (startCmdOr_absent hnone), fun c hc hw => next_eq (startCmdOr_waits hc hw)⟩

/-- A CFG_BEGIN whose mode check fails ends through `beginWrongMode`. -/
theorem cfgBegin_wrongMode {id : CmdId} {c : Cmd} {s : State} (hq : Safety.queued id 0x10 c s) (hm : (Safety.begun id s).modeOk c = false) :
    exec (.cfgBegin id) s = .next (beginWrongMode c (Safety.begun id s)) := next_eq (startCmdOr_wrongMode hq hm)

/-- A CFG_BEGIN of transport 3, the configuration port. -/
def portBegin : Cmd := { id := { t := .stream, tag := 0 }, hdr := 0x10000000 }

/-- A device in Glazed whose MGR runs, with that CFG_BEGIN outstanding. Glazed does not allow a CFG_BEGIN (R50). -/
def portBeginWaits : State :=
  { State.reset with
    mode := .glazed
    boot := { State.reset.boot with fwRuns := true }
    clk := { State.reset.clk with dom := [(1, { state := .running })] }
    mgr := { State.reset.mgr with cmds := [portBegin] } }

/-- Refutes O10: the status of a CFG_BEGIN of transport 3 is also shown in CFG_STREAM_STATUS (R187), in the wrong mode too, so its reply is not
its only effect. -/
theorem not_packetInTheWrongModeIsAnswered : ¬ Obligations.PacketInTheWrongModeIsAnswered := by
  unfold Obligations.PacketInTheWrongModeIsAnswered
  intro h
  have queued : Safety.queued portBegin.id 0x10 portBegin portBeginWaits := ⟨rfl, rfl, rfl, by decide, by decide⟩
  have wrong : (Safety.begun portBegin.id portBeginWaits).modeOk portBegin = false := by decide
  have same := (cfgBegin_wrongMode queued wrong).symm.trans (h (.cfgBegin portBegin.id) _ _ _ _ rfl queued wrong)
  have shown : (beginWrongMode portBegin (Safety.begun portBegin.id portBeginWaits)).cfg.port.done = true := rfl
  have unshown : (finish portBegin rcWrongMode [] (Safety.begun portBegin.id portBeginWaits)).cfg.port.done = false := rfl
  injection same with same
  have equal : true = false := shown.symm.trans ((congrArg (·.cfg.port.done) same).trans unshown)
  exact absurd equal (by decide)

/-! ## The queue of notices -/

/-- A code that has an entry advances that entry's repeat count. -/
theorem queueNotice_known {code : BitVec 16} {pos : Word} {m : Mgr} (h : code ∈ m.notices.map (·.code)) :
    queueNotice code.toNat pos m
      = { m with notices := m.notices.map (fun n => if n.code = code then { n with rep := satInc n.rep } else n) } := by
  have hany : m.notices.any (fun n => n.code.toNat == code.toNat) = true := by
    obtain ⟨n, hn, rfl⟩ := List.mem_map.mp h
    exact List.any_eq_true.mpr ⟨n, hn, beq_self_eq_true _⟩
  unfold queueNotice
  rw [if_pos hany]
  simp only [BitVec.toNat_inj]

/-- A new code enters last while there is room, and is counted as lost when there is none. -/
theorem queueNotice_new {code : BitVec 16} {pos : Word} {m : Mgr} (h : code ∉ m.notices.map (·.code)) :
    queueNotice code.toNat pos m
      = if m.notices.length < 256 then { m with notices := m.notices ++ [{ code := code, rep := 0, pos := pos }] }
        else { m with lost := satInc m.lost, lostPos := if m.lost = 0 then pos else m.lostPos } := by
  have hany : ¬ m.notices.any (fun n => n.code.toNat == code.toNat) = true := by
    intro hany
    obtain ⟨n, hn, he⟩ := List.any_eq_true.mp hany
    exact h (List.mem_map.mpr ⟨n, hn, BitVec.eq_of_toNat_eq (beq_iff_eq.mp he)⟩)
  unfold queueNotice
  rw [if_neg hany, BitVec.ofNat_toNat, BitVec.setWidth_eq]

/-- Advancing the repeat count of one code's entry changes no code. -/
theorem map_code_repeat (code : BitVec 16) (l : List Notice) :
    (l.map (fun n => if n.code = code then { n with rep := satInc n.rep } else n)).map (·.code) = l.map (·.code) := by
  rw [List.map_map]
  refine List.map_congr_left fun n _ => ?_
  dsimp only [Function.comp]
  split <;> rfl

/-- Settles O22: a known code leaves the codes as they are, a new one joins them while there is room, and a full queue stays as it is. -/
theorem noticeQueueKeepsOneEntryPerCode : Obligations.NoticeQueueKeepsOneEntryPerCode := by
  unfold Obligations.NoticeQueueKeepsOneEntryPerCode
  intro code pos m hlen hnodup t
  by_cases hknown : code ∈ m.notices.map (·.code)
  case pos =>
    have ht : t = _ := queueNotice_known hknown
    rw [ht]
    refine ⟨?_, ?_, fun _ => rfl, absurd hknown, absurd hknown⟩
    · rwa [List.length_map]
    · rwa [map_code_repeat]
  case neg =>
    have ht : t = _ := queueNotice_new hknown
    by_cases hroom : m.notices.length < 256
    case pos =>
      rw [if_pos hroom] at ht
      rw [ht]
      refine ⟨?_, ?_, fun h => absurd h hknown, fun _ _ => rfl, fun _ hfull => absurd hroom (by omega)⟩
      · rwa [List.length_append]
      · rw [List.map_append]
        refine List.nodup_append.mpr ⟨hnodup, List.pairwise_singleton _ _, fun a ha b hb hab => hknown ?_⟩
        have hb : b = code := List.mem_singleton.mp hb
        rwa [← hb, ← hab]
    case neg =>
      rw [if_neg hroom] at ht
      rw [ht]
      exact ⟨hlen, hnodup, fun h => absurd h hknown, fun _ h => absurd h hroom, fun _ _ => rfl⟩

/-! ## Fatal outcomes -/

/-- Settles O25: `fatal` writes its record over the state that `greenware` leaves, field by field. -/
theorem fatalOutcomeReturnsToGreenware : Obligations.FatalOutcomeReturnsToGreenware := by
  unfold Obligations.FatalOutcomeReturnsToGreenware
  exact fun code s => ⟨rfl, rfl, rfl, rfl, fun k => rfl, rfl, rfl, rfl, rfl, rfl, rfl, rfl⟩

/-! ## The families of commands -/

/-- Settles O28: each command of the start takes the branch of the conditions its clause lists. -/
theorem startCommandsComplete : Obligations.StartCommandsComplete := by
  unfold Obligations.StartCommandsComplete
  refine ⟨?hubPowerGood, ?ioscQualified, ?refclkHQualTimeout, ?flashDiscovery, ?settingsSelect, ?firmwareVerify, ?dieRelease, ?vccCGoodTimeout,
    ?dieJoinTimeout, ?flashLoadStart, ?porstAssert, ?autoRestart, ?fatalAutoRestart, ?mgrLockstepMismatch⟩
  case hubPowerGood => exact fun s h => next_eq (if_pos h)
  case ioscQualified => exact fun straps s h => next_eq (if_pos h)
  case refclkHQualTimeout => exact fun s h => next_eq (if_pos h)
  case flashDiscovery => exact fun valid0 size0 valid1 size1 s h => next_eq (if_pos h)
  case settingsSelect => exact fun s h => next_eq (if_pos h)
  case firmwareVerify => exact fun s h => next_eq (if_pos h)
  case dieRelease => exact fun s h => next_eq (if_pos h)
  case vccCGoodTimeout => exact fun s h => next_eq (if_pos h)
  case dieJoinTimeout => exact fun d s h => next_eq (if_pos h)
  case flashLoadStart => exact fun s h => next_eq (if_pos h)
  case porstAssert => exact fun ns s => rfl
  case autoRestart => exact fun s h => next_eq (if_pos h)
  case fatalAutoRestart => exact fun s h => next_eq (if_pos h)
  case mgrLockstepMismatch => exact fun s h => next_eq (if_neg h)

/-- Settles O31: rails, votes and rungs. -/
theorem powerCommandsComplete1 : Obligations.PowerCommandsComplete1 := by
  unfold Obligations.PowerCommandsComplete1
  refine ⟨?railLoss, ?vddAoDip, ?brownOut, ?pwrVote, ?pwrStatus, ?watchSet, ?calPwrVote, ?fabPowerBeat, ?pwrDomainMove⟩
  case railLoss =>
    intro r s h
    refine next_eq ((if_neg h).trans ?_)
    cases r <;> rfl
  case vddAoDip => exact fun mv ns s h => next_eq (if_pos h)
  case brownOut => exact fun s h => next_eq (if_pos h)
  case pwrVote => exact fun id s0 c hc hok => next_eq ((startCmd_ready hc).trans (require_ok hok))
  case pwrStatus => exact fun id s0 c hc hok => next_eq ((startCmd_ready hc).trans (require_ok hok))
  case watchSet => exact fun id s0 c hc hok => next_eq ((startCmd_ready hc).trans (require_ok hok))
  case calPwrVote =>
    intro dom rung s e he hsame
    refine next_eq ?_
    unfold calPwrVoteF
    rw [he]
    exact if_neg hsame
  case fabPowerBeat => exact fun die dom rung s h => next_eq (if_neg h)
  case pwrDomainMove => exact fun dom s h => next_eq (if_neg h)

/-- Settles O33: packets that arrive, the registers of their transports, the mailbox and the system packets. -/
theorem managerCommandsComplete : Obligations.ManagerCommandsComplete := by
  unfold Obligations.ManagerCommandsComplete
  refine ⟨?packetArrival, ?packetTimeout, ?mgrcmdUpdateDr, ?mgrcmdCaptureDr, ?smbusBlockWrite, ?smbusBlockRead, ?smbusReadByte, ?mbxSubmit,
    ?mbxFlush, ?mbxRspDone, ?nop, ?getStatus, ?getId, ?getNotices, ?abort, ?resetDevice, ?setMode⟩
  case packetArrival => exact fun t dev words s => rfl
  case packetTimeout =>
    intro t s rx h rest hrx
    refine next_eq ?_
    unfold packetTimeoutF
    dsimp only
    split
    case h_1 hnone => exact absurd (hnone.symm.trans hrx) nofun
    case h_2 hsome =>
      obtain ⟨rfl, -⟩ := List.cons.inj (hsome.symm.trans hrx)
      rfl
  case mgrcmdUpdateDr => exact fun dr s h => next_eq (if_neg h)
  case mgrcmdCaptureDr => exact fun s => rfl
  case smbusBlockWrite =>
    intro count words pecOk s h
    refine next_eq ?_
    unfold smbusBlockWriteF
    dsimp only
    rw [h]
    rfl
  case smbusBlockRead => exact fun s h => next_eq (if_neg h)
  case smbusReadByte => exact fun s h => next_eq (if_neg h)
  case mbxSubmit => exact fun v s => rfl
  case mbxFlush => exact fun s => rfl
  case mbxRspDone => exact fun s => rfl
  case nop => exact fun id s0 c hc => next_eq (startCmd_ready hc)
  case getStatus => exact fun id s0 c hc => next_eq (startCmd_ready hc)
  case getId => exact fun id s0 c hc => next_eq (startCmd_ready hc)
  case getNotices => exact fun id s0 c hc hn => next_eq ((startCmd_ready hc).trans (require_ok hn))
  case abort => exact fun id s0 c hc hbits => next_eq ((startCmd_ready hc).trans (require_ok hbits))
  case resetDevice => exact fun id s0 c hc hbits => next_eq ((startCmd_ready hc).trans (require_ok hbits))
  case setMode => exact fun id s0 c hc hbits => next_eq ((startCmd_ready hc).trans (require_ok hbits))

/-- Settles O35: the end of a load, the configuration port, captures and readbacks. -/
theorem configurationCommandsComplete2 : Obligations.ConfigurationCommandsComplete2 := by
  unfold Obligations.ConfigurationCommandsComplete2
  refine ⟨?regionReleaseComplete, ?doneLineHigh, ?doneWaitTimeout, ?startupComplete, ?streamInactivityTimeout, ?loadFallbackDecision,
    ?cfgStreamData, ?cfgStreamAbort, ?capture, ?captureSnapshot, ?readback, ?readbackTimeout⟩
  case regionReleaseComplete => exact fun r us s h => next_eq (if_neg h)
  case doneLineHigh => exact fun s h => next_eq (if_neg h)
  case doneWaitTimeout =>
    intro s x hx h
    refine next_eq ?_
    unfold doneWaitTimeoutF
    rw [hx]
    exact if_pos h
  case startupComplete =>
    intro s x hx h
    refine next_eq ?_
    unfold startupCompleteF
    rw [hx]
    exact if_pos h
  case streamInactivityTimeout =>
    intro s x hx holds h
    refine next_eq ?_
    unfold streamInactivityTimeoutF
    rw [hx]
    exact if_neg h
  case loadFallbackDecision =>
    intro s x hx h
    refine next_eq ?_
    unfold loadFallbackDecisionF
    rw [hx]
    exact if_neg h
  case cfgStreamData => exact fun w s h => next_eq (if_neg h)
  case cfgStreamAbort => exact fun s => rfl
  case capture =>
    exact fun id s0 c hc hlevel hparam hdie => next_eq
      ((startCmd_ready hc).trans ((require_ok (decide_eq_true hlevel)).trans ((require_ok hparam).trans (require_ok hdie))))
  case captureSnapshot =>
    intro s k hk
    refine next_eq ?_
    unfold captureSnapshotF
    rw [hk]
  case readback =>
    exact fun id s0 c hc hlevel hparam hdie => next_eq
      ((startCmd_ready hc).trans ((require_ok (decide_eq_true hlevel)).trans ((require_ok hparam).trans (require_ok hdie))))
  case readbackTimeout =>
    exact fun id units s0 c hc hlevel hparam hdie => next_eq
      ((startCmd_ready hc).trans ((require_ok (decide_eq_true hlevel)).trans ((require_ok hparam).trans (require_ok hdie))))

end Sys2Proof.Machine
end

section
/-! SUPPORT. The statement of the family of file 03: what the security commands answer where their conditions hold. -/

namespace Sys2Proof.Machine

/-! ## The family of commands -/

/-- Settles O37: a packet passes the checks its clause lists, FUSE_PROGRAM also the refusals of R209, and MGR runs for a write of the kiln log. -/
theorem securityCommandsComplete : Obligations.SecurityCommandsComplete := by
  unfold Obligations.SecurityCommandsComplete
  refine ⟨?setRead, ?setWrite, ?flashRead, ?flashProgram, ?logRead, ?keyLoadBbram, ?authChallenge, ?authRespond, ?fuseRead, ?fuseProgram,
    ?kilnWriteback, ?mgrAlertLatchClear, ?mgrFatalClr⟩
  case setRead => exact fun id s0 c hc hrange => next_eq ((startCmd_ready hc).trans (require_ok (decide_eq_true hrange)))
  case setWrite =>
    exact fun id flashOk s0 c hc hvalid hslot => next_eq ((startCmd_ready hc).trans ((require_ok hvalid).trans (require_ok hslot)))
  case flashRead =>
    exact fun id s0 c hc hbits hport hrange => next_eq
      ((startCmd_ready hc).trans ((require_ok hbits).trans ((require_ok hport).trans (require_ok (decide_eq_true hrange)))))
  case flashProgram =>
    exact fun id flashOk s0 c hc hbits hport hrange hsecs => next_eq
      ((startCmd_ready hc).trans ((require_ok hbits).trans ((require_ok hport).trans ((require_ok (decide_eq_true hrange)).trans
        (require_ok hsecs)))))
  case logRead => exact fun id s0 c hc hcount => next_eq ((startCmd_ready hc).trans (require_ok hcount))
  case keyLoadBbram => exact fun id s0 c hc hauth => next_eq ((startCmd_ready hc).trans (require_ok hauth))
  case authChallenge =>
    exact fun id s0 c hc hlevel hopen => next_eq
      ((startCmd_ready hc).trans ((require_ok (decide_eq_true hlevel)).trans (require_ok hopen)))
  case authRespond => exact fun id late s0 c hc => next_eq (startCmd_ready hc)
  case fuseRead => exact fun id s0 c hc hfield => next_eq ((startCmd_ready hc).trans (require_ok hfield))
  case fuseProgram =>
    intro id stuck s0 c hc s f n v hfield hrefusal hauth
    refine next_eq ((startCmd_ready hc).trans ((require_ok hfield).trans ?_))
    dsimp only
    rw [hrefusal]
    exact require_ok hauth
  case kilnWriteback => exact fun flashOk s hruns => next_eq (if_neg hruns)
  case mgrAlertLatchClear => exact fun s => rfl
  case mgrFatalClr => exact fun s => rfl

end Sys2Proof.Machine
end

section
/-! SUPPORT. The statements of the family of file 04: the commands that one unit keeps to itself, and what the commands of the fabric and of the
pins answer where their conditions hold. -/

namespace Sys2Proof.Machine

/-! ## What changes one part at most -/

section
variable {s t u : State} {p : Safety.Part}

/-- No change is confined to every part. -/
theorem onlyPart_refl : Safety.onlyPart s s p := by
  cases p
  case ddr => exact ⟨rfl, rfl, rfl⟩
  all_goals rfl

theorem onlyPart_ite {c : Prop} [Decidable c] (ht : Safety.onlyPart s t p) (hu : Safety.onlyPart s u p) :
    Safety.onlyPart s (if c then t else u) p := by split <;> assumption

theorem onlyPart_when {b : Bool} {f : State → State} (hf : Safety.onlyPart s (f t) p) (ht : Safety.onlyPart s t p) :
    Safety.onlyPart s (t.when b f) p := onlyPart_ite hf ht

/-- The state of an answer is the one the command computes. -/
theorem onlyPart_of_next (h : (.next u : Host.Outcome State Fault Refusal) = .next t) (hu : Safety.onlyPart s u p) : Safety.onlyPart s t p := by
  cases h
  exact hu

end

/-! ## The die link -/

section
variable {s t : State} {b k : Nat} {l : Bool}

/-- A change of the die link goes on from one that is confined to it. -/
theorem onAdl_onlyAdl {f : Adl → Adl} (h : Safety.onlyPart s t .adl) : Safety.onlyPart s (t.onAdl f) .adl :=
  (congrArg (State.onAdl fun _ => f t.adl) h :)

theorem bundleAtMod_onlyAdl {f : Bundle → Bundle} (h : Safety.onlyPart s t .adl) : Safety.onlyPart s (t.bundleAtMod b f) .adl := onAdl_onlyAdl h

theorem bndAtMod_onlyAdl {f : Boundary → Boundary} (h : Safety.onlyPart s t .adl) : Safety.onlyPart s (t.bndAtMod k f) .adl := onAdl_onlyAdl h

theorem sbEndMod_onlyAdl {f : SbEnd → SbEnd} (h : Safety.onlyPart s t .adl) : Safety.onlyPart s (sbEndMod k l f t) .adl := bndAtMod_onlyAdl h

theorem sbSend_onlyAdl {msg bnd data arg : Nat} (h : Safety.onlyPart s t .adl) : Safety.onlyPart s (sbSend k l msg bnd data arg t) .adl :=
  onlyPart_ite h (sbEndMod_onlyAdl h)

/-- A sideband message stays within the die link when what it asks for does. -/
theorem sbTake_onlyAdl {msg : Nat} {fl ff : Bool} {f : BitVec 64} {body : State → State}
    (hbody : ∀ u, Safety.onlyPart s u .adl → Safety.onlyPart s (body u) .adl) (h : Safety.onlyPart s t .adl) :
    Safety.onlyPart s (sbTake msg fl ff k l f body t) .adl :=
  onlyPart_ite h (hbody _ (onlyPart_ite (sbEndMod_onlyAdl h) h))

theorem linkSend_onlyAdl {f : BitVec 288} (h : Safety.onlyPart s t .adl) : Safety.onlyPart s (linkSend b f t) .adl := bundleAtMod_onlyAdl h

theorem linkBack_onlyAdl {f : BitVec 288} (h : Safety.onlyPart s t .adl) : Safety.onlyPart s (linkBack b f t) .adl := by
  unfold linkBack
  split
  · exact linkSend_onlyAdl h
  · exact h

theorem sendAck_onlyAdl (h : Safety.onlyPart s t .adl) : Safety.onlyPart s (sendAck b t) .adl := by
  unfold sendAck
  split
  · exact h
  · exact linkSend_onlyAdl (bundleAtMod_onlyAdl h)

theorem steerSend_onlyAdl (h : Safety.onlyPart s t .adl) : Safety.onlyPart s (steerSend b t) .adl := by
  unfold steerSend
  dsimp only
  split
  · exact h
  · exact onlyPart_ite (linkSend_onlyAdl (bundleAtMod_onlyAdl h)) h

theorem rltBegin_onlyAdl (h : Safety.onlyPart s t .adl) : Safety.onlyPart s (rltBegin b t) .adl :=
  onlyPart_ite h (onlyPart_ite (linkBack_onlyAdl (bundleAtMod_onlyAdl h)) (onlyPart_ite (linkBack_onlyAdl (bundleAtMod_onlyAdl h)) h))

theorem spareWidth_onlyAdl (h : Safety.onlyPart s t .adl) : Safety.onlyPart s (spareWidth b t) .adl :=
  onlyPart_ite (bundleAtMod_onlyAdl h) h

theorem startRecovery_onlyAdl (h : Safety.onlyPart s t .adl) : Safety.onlyPart s (startRecovery b t) .adl :=
  onlyPart_ite (State.each_induct _ (P := (Safety.onlyPart s · .adl)) (fun _ _ _ hu => sbSend_onlyAdl hu) (bundleAtMod_onlyAdl h)) h

/-- The lane under test goes back into use: of the changes a receiver makes, one that marks no lane and raises no notice (R274). -/
theorem rxTurn_back_onlyAdl {stag : Byte} {lane : BitVec 7} (hc : (t.bundleAt b).rxNext = some (stag, .back lane))
    (h : Safety.onlyPart s t .adl) : Safety.onlyPart s (rxTurn b t) .adl := by
  unfold rxTurn
  dsimp only
  rw [hc]
  exact onlyPart_ite h (rltBegin_onlyAdl (bundleAtMod_onlyAdl (bundleAtMod_onlyAdl h)))

/-- The change that a bundle waits for is the one it was told. -/
theorem bundleAt_bundleAtMod_rxNext {c : Byte × LaneChange} :
    ((t.bundleAtMod b (fun x => { x with rxNext := some c })).bundleAt b).rxNext = some c := by
  have listed : { t.bundleAt b with rxNext := some c } ≠ ({} : Bundle) := fun e => nomatch congrArg Bundle.rxNext e
  exact congrArg Bundle.rxNext (sget_smod_self_of_ne (m := t.adl.bundle) (f := fun x => { x with rxNext := some c }) listed)

theorem rxChange_back_onlyAdl {stag : Byte} {lane : BitVec 7} (h : Safety.onlyPart s t .adl) :
    Safety.onlyPart s (rxChange b stag (.back lane) t) .adl :=
  onlyPart_ite (rxTurn_back_onlyAdl bundleAt_bundleAtMod_rxNext (bundleAtMod_onlyAdl h)) h

theorem reqOutF_onlyAdl {lane : Nat} {test : Bool} : Safety.onlyPart s (reqOutF b lane test s) .adl :=
  onlyPart_ite (steerSend_onlyAdl (bundleAtMod_onlyAdl onlyPart_refl)) onlyPart_refl

theorem reqInF_onlyAdl {lane : Nat} : Safety.onlyPart s (reqInF b lane s) .adl :=
  onlyPart_ite (steerSend_onlyAdl (bundleAtMod_onlyAdl onlyPart_refl)) onlyPart_refl

theorem steerInF_onlyAdl {lane : Nat} {stag : Byte} : Safety.onlyPart s (steerInF b lane stag s) .adl :=
  onlyPart_ite (rxChange_back_onlyAdl onlyPart_refl) onlyPart_refl

theorem laneMapF_onlyAdl {f : BitVec 64} : Safety.onlyPart s (laneMapF k l f s) .adl := by
  refine sbTake_onlyAdl (fun u hu => ?_) onlyPart_refl
  split
  · exact hu
  · exact onlyPart_ite (bundleAtMod_onlyAdl hu)
      (onlyPart_ite (onlyPart_when (spareWidth_onlyAdl (bundleAtMod_onlyAdl hu)) (bundleAtMod_onlyAdl hu)) hu)

end

/-! ## Debug -/

/-- A debug operation that its level does not allow sets `denied`, which is debug's own. -/
theorem dbgWrite_onlyDbg {need : Nat} {f : State → State} {s : State} (hf : Safety.onlyPart s (f s) .dbg) :
    Safety.onlyPart s (dbgWrite need f s) .dbg := onlyPart_ite onlyPart_refl (onlyPart_ite rfl hf)

theorem accessRegister_onlyDbg {h r : Nat} {write : Option (BitVec 64)} {s : State} : Safety.onlyPart s (accessRegister h r write s) .dbg := by
  refine onlyPart_ite onlyPart_refl (onlyPart_ite rfl (onlyPart_ite rfl ?_))
  split <;> rfl

theorem wdtFreeze_onlyDbg {w : Nat} {f : Watchdog → Watchdog} {s : State} : Safety.onlyPart s (wdtFreeze w (s.wdtAtMod w f)) .dbg :=
  onlyPart_when rfl rfl

/-! ## The device manager -/

theorem mbxPost_onlyMgr {f : Mgr → Mgr} {s : State} : Safety.onlyPart s (mbxPost (s.onMgr f)) .mgr := by
  unfold mbxPost
  split
  · rfl
  · exact onlyPart_ite rfl rfl

theorem mgrcmdCaptureDrF_onlyMgr {s : State} : Safety.onlyPart s (mgrcmdCaptureDrF s) .mgr := by
  refine onlyPart_ite rfl ?_
  dsimp only
  split <;> rfl

/-! ## Sequenced units -/

section
variable {s : State} {u : SduId}

theorem sduCtrl_onlySdu {debug : Bool} {f : Sdu → Sdu} : Safety.onlyPart s (sduCtrl u debug f s) .sdu :=
  onlyPart_ite onlyPart_refl (onlyPart_ite rfl rfl)

theorem fdOp_onlySdu {fop : Nat} {fa fb : BitVec 16} {acc : Bool} {sgn : BitVec 2} : Safety.onlyPart s (fdOp u fop fa fb acc sgn s) .sdu :=
  onlyPart_ite onlyPart_refl rfl

theorem takeSwitch_onlySdu : Safety.onlyPart s (takeSwitch u s) .sdu := onlyPart_ite rfl rfl

theorem sduRegWriteF_onlySdu {set : Bool} {code : BitVec 5} {w : Word} : Safety.onlyPart s (sduRegWriteF u set code w s) .sdu :=
  onlyPart_ite onlyPart_refl (onlyPart_ite rfl rfl)

theorem sduIstoreWriteF_onlySdu {n : BitVec 9} {hi : Bool} {w : Word} : Safety.onlyPart s (sduIstoreWriteF u n hi w s) .sdu :=
  onlyPart_ite onlyPart_refl (onlyPart_ite rfl rfl)

end

/-! ## Lanes -/

/-- A command to a lane does what its meaning does, or nothing where the die has no such lane. -/
theorem laneCmd_onlyXcvr {l : LaneId} {f : State → State} {s t : State} (h : laneCmd l f s = .next t) (hf : Safety.onlyPart s (f s) .xcvr) :
    Safety.onlyPart s t .xcvr := onlyPart_of_next h (onlyPart_when hf onlyPart_refl)

/-! ## The frame -/

/-- Settles O27: each command that `Safety.part` confines changes the state through updates of its part alone. -/
theorem onePartCommandsLeaveTheRest : Obligations.OnePartCommandsLeaveTheRest := by
  unfold Obligations.OnePartCommandsLeaveTheRest
  intro i p s t hp h
  cases i
  case adlRecovery | adlBndRecover => cases hp; exact onlyPart_of_next h (startRecovery_onlyAdl onlyPart_refl)
  case adlAckTimer => cases hp; exact onlyPart_of_next h (onlyPart_when (sendAck_onlyAdl onlyPart_refl) onlyPart_refl)
  case reqOut => cases hp; exact onlyPart_of_next h reqOutF_onlyAdl
  case reqIn => cases hp; exact onlyPart_of_next h reqInF_onlyAdl
  case steerIn => cases hp; exact onlyPart_of_next h steerInF_onlyAdl
  case keepalive => cases hp; exact onlyPart_of_next h (sbTake_onlyAdl (fun _ hu => hu) onlyPart_refl)
  case ack => cases hp; exact onlyPart_of_next h (sbTake_onlyAdl (fun _ hu => sbEndMod_onlyAdl hu) onlyPart_refl)
  case laneMap => cases hp; exact onlyPart_of_next h laneMapF_onlyAdl
  case pwrReq => cases hp; exact onlyPart_of_next h (sbTake_onlyAdl (fun _ hu => onlyPart_when (sbSend_onlyAdl hu) hu) onlyPart_refl)
  case pwrAck | pwrDeny => cases hp; exact onlyPart_of_next h (sbTake_onlyAdl (fun _ hu => bndAtMod_onlyAdl hu) onlyPart_refl)
  case pwrReqTimeout => cases hp; exact onlyPart_of_next h (bndAtMod_onlyAdl onlyPart_refl)
  case sbKeepaliveTimer => cases hp; exact onlyPart_of_next h (sbSend_onlyAdl onlyPart_refl)
  case mgrFatalClr => cases hp; exact onlyPart_of_next h rfl
  case tbIndex => cases hp; exact onlyPart_of_next h (onlyPart_ite rfl onlyPart_refl)
  case dbgWdtKick => cases hp; exact onlyPart_of_next h (onlyPart_when rfl onlyPart_refl)
  case dbgWdtEnable => cases hp; exact onlyPart_of_next h (onlyPart_ite wdtFreeze_onlyDbg onlyPart_refl)
  case haltreq => cases hp; exact onlyPart_of_next h (dbgWrite_onlyDbg rfl)
  case accessRegister => cases hp; exact onlyPart_of_next h (dbgWrite_onlyDbg accessRegister_onlyDbg)
  case jtagTestLogicReset | extest => cases hp; exact onlyPart_of_next h rfl
  case ddrMapWrite | ddrIdleClose => cases hp; exact onlyPart_of_next h ⟨rfl, rfl, rfl⟩
  case ddrUpkeepTimer | ddrRefresh => cases hp; exact onlyPart_of_next h (onlyPart_ite ⟨rfl, rfl, rfl⟩ onlyPart_refl)
  case mgrcmdCaptureDr => cases hp; exact onlyPart_of_next h mgrcmdCaptureDrF_onlyMgr
  case smbusReadByte => cases hp; exact onlyPart_of_next h (onlyPart_ite onlyPart_refl rfl)
  case mbxFlush | mgrAlertLatchClear => cases hp; exact onlyPart_of_next h rfl
  case mbxRspDone => cases hp; exact onlyPart_of_next h mbxPost_onlyMgr
  case nocCommit => cases hp; exact onlyPart_of_next h (onlyPart_ite onlyPart_refl rfl)
  case islip => cases hp; exact onlyPart_of_next h (onlyPart_ite rfl onlyPart_refl)
  case ioTapMove => cases hp; exact onlyPart_of_next h rfl
  case fabPowerBeat => cases hp; exact onlyPart_of_next h (onlyPart_ite onlyPart_refl (onlyPart_ite rfl rfl))
  case pwrWarmWrite => cases hp; exact onlyPart_of_next h (onlyPart_ite onlyPart_refl rfl)
  case wakeVoteWithdraw => cases hp; exact onlyPart_of_next h (onlyPart_ite rfl onlyPart_refl)
  case sduRun | sduStop | sduHalt | sduResume | sduSwreq => cases hp; exact onlyPart_of_next h sduCtrl_onlySdu
  case swreq => cases hp; exact onlyPart_of_next h (onlyPart_ite rfl onlyPart_refl)
  case switchSlot => cases hp; exact onlyPart_of_next h (onlyPart_ite takeSwitch_onlySdu onlyPart_refl)
  case sduRegWrite => cases hp; exact onlyPart_of_next h sduRegWriteF_onlySdu
  case sduIstoreWrite => cases hp; exact onlyPart_of_next h sduIstoreWriteF_onlySdu
  case fdHold | fdMpy | fdMac | fdMsu | fdMpyd | fdMacd | fdCascadeMac | fdClear => cases hp; exact onlyPart_of_next h fdOp_onlySdu
  case aos => cases hp; exact onlyPart_of_next h (onlyPart_ite rfl onlyPart_refl)
  case lanePortEnable | laneDetectTimer | laneFarEndDetect | laneSyncLoss | eyeScanDone =>
    cases hp
    exact laneCmd_onlyXcvr h (onlyPart_ite rfl onlyPart_refl)
  case laneSymbolLock => cases hp; exact laneCmd_onlyXcvr h (onlyPart_ite (onlyPart_when rfl rfl) onlyPart_refl)
  case lnPrbsClr | lnAdaptHold | eyeScanGo => cases hp; exact laneCmd_onlyXcvr h rfl
  all_goals cases hp

/-! ## The family of commands -/

/-- Settles O43: each command takes the branch of the conditions its clause lists. -/
theorem fabricAndPinCommandsComplete : Obligations.FabricAndPinCommandsComplete := by
  unfold Obligations.FabricAndPinCommandsComplete
  refine ⟨?bridgeParityMismatch, ?tileClockEdge, ?vccioLost, ?vccioRestored, ?islip, ?ioTapMeasure, ?ioTapMove, ?ioPinDlyWrite⟩
  case bridgeParityMismatch => exact fun boundary westward group s h => next_eq (if_pos h)
  case tileClockEdge => exact fun t ck1 pad s0 hclocked hticks => next_eq (if_neg (by simp [hclocked, hticks]))
  case vccioLost => exact fun die bank s h => next_eq (if_neg h)
  case vccioRestored => exact fun die bank meas tapQ s => rfl
  case islip => exact fun p s h => next_eq (if_pos h)
  case ioTapMeasure => exact fun die bank tapQ s => rfl
  case ioTapMove => exact fun p s => rfl
  case ioPinDlyWrite => exact fun p w s h => next_eq (if_neg h)

end Sys2Proof.Machine
end

section
/-! SUPPORT. The statements of the family of file 06: what a sequenced unit and a fabric-driven one answer where their conditions hold. -/

namespace Sys2Proof.Machine

/-! ## The families of commands -/

/-- Settles O45: each command runs the issue slot of the instruction that holds its operation, whichever operation that is. -/
theorem sequencerInstructionCommandsComplete : Obligations.SequencerInstructionCommandsComplete := by
  unfold Obligations.SequencerInstructionCommandsComplete
  and_intros
  all_goals exact fun u s hissues hop => next_eq (issueIf_issues hissues hop)

/-- A fabric-driven operation is not ignored by a unit that is clocked and not sequenced (R157). -/
theorem not_fdIgnored {u : SduId} {s : State} (h : (s.sduLive u && !(s.sduAt u).seq) = true) : ¬ (!s.sduLive u || (s.sduAt u).seq) = true := by
  rw [Bool.and_eq_true, Bool.not_eq_true'] at h
  simp [h]

/-- Settles O46: the unit takes the operation, and the operation's code selects the value that its clause writes. -/
theorem fabricDrivenVectorCommandsComplete : Obligations.FabricDrivenVectorCommandsComplete := by
  unfold Obligations.FabricDrivenVectorCommandsComplete
  and_intros
  all_goals exact fun u fa fb acc sgn s hdriven => next_eq (if_neg (not_fdIgnored hdriven))

end Sys2Proof.Machine
end

section
/-! SUPPORT. The statements of the family of file 08: a programmed fuse bit stays through every step, and what the packets of a configuration session
and the events of a region answer where their conditions hold. -/

namespace Sys2Proof.Machine

/-! ## Programmed fuse bits -/

/-- On an empty queue nothing happens. -/
theorem step_idle {s : State} (h : s.pending = []) : step s = .next s := by
  unfold step
  rw [h]

/-- A step keeps, up to the command that it takes off the queue, what every command keeps. -/
theorem step_keeps {s t : State} (h : step s = .next t) : Keeps { s with pending := s.pending.tail } t := by
  cases hq : s.pending with
  | nil =>
    cases (step_idle hq).symm.trans h
    exact ⟨hq, Nat.le_refl _, fun _ _ hb => hb, fun hm => hm⟩
  | cons c rest => exact exec_keeps ((step_cons hq).symm.trans h)

/-- Settles O6: no command clears a fuse bit, as FUSE_PROGRAM, the one that writes them, writes a word over with its own bits and others
(`fuseWrite_keeps`, R209). -/
theorem programmedFuseBitsStay : Obligations.ProgrammedFuseBitsStay := by
  unfold Obligations.ProgrammedFuseBitsStay
  exact fun s t k i hb hstep => (step_keeps hstep).fuses k i hb

/-! ## The family of commands -/

/-- Settles O34: a packet that is ready passes the checks its clause lists, and an event of a region finds it in the phase its clause names. -/
theorem configurationCommandsComplete1 : Obligations.ConfigurationCommandsComplete1 := by
  unfold Obligations.ConfigurationCommandsComplete1
  refine ⟨?cfgBegin, ?cfgFrames, ?cfgKeyRoll, ?cfgEnd, ?cfgSignature, ?cfgMeminit, ?cfgCommit, ?cfgRegionOpen, ?cfgRegionClear,
    ?regionDrainComplete, ?regionDrainTimeout, ?regionBlankComplete, ?commitDue⟩
  case cfgBegin => exact fun id s0 c hc => next_eq (startCmdOr_ready hc)
  case cfgFrames =>
    exact fun id s0 c x hc hlength hparam => next_eq ((startSess_ready hc).trans ((sessCheck_ok hlength).trans (sessCheck_ok hparam)))
  case cfgKeyRoll => exact fun id s0 c x hc henc => next_eq ((startSess_ready hc).trans (sessCheck_ok henc))
  case cfgEnd => exact fun id s0 c x hc hlength => next_eq ((startSess_ready hc).trans (sessCheck_ok hlength))
  case cfgSignature => exact fun id s0 c x hc hsigned => next_eq ((startSess_ready hc).trans (sessCheck_ok hsigned))
  case cfgMeminit => exact fun id s0 c x hc hparam => next_eq ((startSess_ready hc).trans (sessCheck_ok hparam))
  case cfgCommit => exact fun id s0 c hc hparam => next_eq ((startCmd_ready hc).trans (require_ok hparam))
  case cfgRegionOpen =>
    exact fun id s0 c hc hparam hdie => next_eq ((startCmd_ready hc).trans ((require_ok hparam).trans (require_ok hdie)))
  case cfgRegionClear => exact fun id s0 c hc hopen => next_eq ((startCmd_ready hc).trans (require_ok hopen))
  case regionDrainComplete => exact fun r s hdrained => next_eq (if_pos hdrained)
  case regionDrainTimeout => exact fun r s hdraining => next_eq (if_pos hdraining)
  case regionBlankComplete => exact fun r s hblanking => next_eq (if_neg hblanking)
  case commitDue => exact fun r s => rfl

end Sys2Proof.Machine
end

section
/-! SUPPORT. The statements of the family of file 10: a FENCE in its initiator port, a transaction that ends with TIMEOUT, and that every command
completes, one that is not well formed without effect. -/

namespace Sys2Proof.Machine

/-! ## Initiator ports -/

/-- A change of an initiator port that leaves transactions in it reads back. -/
theorem State.iportAt_iportAtMod_of_out {s : State} {p : Nat} {f : IPort → IPort} (h : (f (s.iportAt p)).out ≠ []) :
    (s.iportAtMod p f).iportAt p = f (s.iportAt p) :=
  sget_smod_self_of_ne (m := s.noc.iport) fun he => h (congrArg IPort.out he)

/-- A response carries the type of its request plus 8 (R239). -/
@[simp] theorem rspFor_typ (r : NReq) (st : BitVec 4) (data : List (BitVec 256)) (bad : List Bool) : (rspFor r st data bad).typ = r.typ + 8 := rfl

/-- A response carries the status it is formed with. -/
@[simp] theorem rspFor_status (r : NReq) (st : BitVec 4) (data : List (BitVec 256)) (bad : List Bool) : (rspFor r st data bad).status = st := rfl

/-! ## FENCE (R245) -/

/-- Issuing a FENCE changes its port alone: the FENCE goes behind what is there, without a response, and the port holds it. -/
theorem issueAs_fence {p : Nat} {r : NocReq} {qos : BitVec 2} {fwg : BitVec 5} {sdev : BitVec 12} {hp : Bool} {s : State} (h : r.typ = 3) :
    ∃ o : Outst, o.req.typ = 3 ∧ o.req.otag = r.otag ∧ o.rsp = none ∧ issueAs p r qos fwg sdev hp s
      = (s.iportAtMod p (fun q => { q with out := q.out ++ [o], nextId := q.nextId + 1 })).iportAtMod p (fun q => { q with fence := some r.otag }) := by
  refine ⟨_, ?typ, ?otag, ?rsp, if_pos h⟩
  case typ => exact h
  case otag => rfl
  case rsp => rfl

/-- A port that has taken a FENCE reads back as it was, with the FENCE behind what was there. -/
theorem State.iportAt_takesFence {s : State} {p : Nat} {o : Outst} {tag : BitVec 4} :
    ((s.iportAtMod p (fun q => { q with out := q.out ++ [o], nextId := q.nextId + 1 })).iportAtMod p (fun q => { q with fence := some tag })).iportAt p
      = { s.iportAt p with out := (s.iportAt p).out ++ [o], nextId := (s.iportAt p).nextId + 1, fence := some tag } := by
  have hne : (s.iportAt p).out ++ [o] ≠ [] := by simp
  have hin : (s.iportAtMod p (fun q => { q with out := q.out ++ [o], nextId := q.nextId + 1 })).iportAt p
      = { s.iportAt p with out := (s.iportAt p).out ++ [o], nextId := (s.iportAt p).nextId + 1 } := State.iportAt_iportAtMod_of_out hne
  rw [State.iportAt_iportAtMod_of_out (by rw [hin]; exact hne), hin]

/-- A port that holds a FENCE takes no request. -/
theorem portTakes_of_fence {p : Nat} {s : State} (h : (s.iportAt p).fence.isSome) : s.portTakes p = false := by
  have hnone : (s.iportAt p).fence.isNone = false := by rw [Option.isNone_eq_false_iff]; exact h
  simp [State.portTakes, hnone]

/-- While another transaction is left beside it, a FENCE waits: what is due is returned and no more. -/
theorem fenceF_waits {p : Nat} {s : State} (h : 2 ≤ ((retire p s).iportAt p).out.length) : fenceF p s = retire p s := by
  unfold fenceF
  dsimp only
  split
  next hone => simp [hone] at h
  next => rfl

/-- A FENCE that is left alone is answered OK, and what is due is returned. -/
theorem fenceF_alone {p : Nat} {s : State} {o : Outst} (hout : ((retire p s).iportAt p).out = [o]) (htyp : o.req.typ = 3) :
    fenceF p s = retire p ((retire p s).iportAtMod p (fun q => { q with out := [{ o with rsp := some (rspFor o.req stOk [] []) }] })) := by
  unfold fenceF
  dsimp only
  rw [hout]
  exact if_pos htyp

/-- A FENCE command at an initiator port runs. -/
theorem exec_fence {p : BitVec 10} {s : State} (h : isIport p.toNat) : exec (.fence p) s = .next (fenceF p.toNat s) :=
  next_eq (if_pos h)

/-- Settles O15: a FENCE issued joins its port's list and holds it (`issueAs_fence`), a port that holds one takes nothing, and the command
answers it once it is alone (`fenceF_waits`, `fenceF_alone`). -/
theorem fenceHoldsItsPort : Obligations.FenceHoldsItsPort := by
  unfold Obligations.FenceHoldsItsPort
  refine ⟨?issue, fun p s h => portTakes_of_fence h, ?command⟩
  case issue =>
    intro p r qos fwg sdev hp s h
    obtain ⟨o, htyp, hotag, hrsp, hissue⟩ := issueAs_fence (p := p) (qos := qos) (fwg := fwg) (sdev := sdev) (hp := hp) (s := s) h
    dsimp only
    rw [hissue, State.iportAt_takesFence]
    exact ⟨rfl, rfl, o, htyp, hotag, hrsp, rfl⟩
  case command =>
    intro p s hp
    rw [exec_fence hp]
    refine ⟨fun hlen => next_eq (fenceF_waits hlen), fun o hout htyp => ⟨next_eq (fenceF_alone hout htyp), ?_, rfl⟩⟩
    rw [rspFor_typ, htyp]
    rfl

/-! ## Response timeouts (R262) -/

/-- What a timeout makes of a transaction: that of its `txid` without a response takes TIMEOUT, and any other stays. -/
def timedOut (txid : BitVec 16) (o : Outst) : Outst :=
  if o.req.txid == txid && o.rsp.isNone then { o with rsp := some (rspFor o.req stTimeout [] []), sent := true } else o

/-- A timeout leaves the request of a transaction as it is. -/
@[simp] theorem timedOut_req (txid : BitVec 16) (o : Outst) : (timedOut txid o).req = o.req := by
  unfold timedOut
  split <;> rfl

/-- The transaction of that number without a response takes TIMEOUT. -/
theorem timedOut_rsp {txid : BitVec 16} {o : Outst} (htxid : o.req.txid = txid) (hrsp : o.rsp = none) :
    (timedOut txid o).rsp = some (rspFor o.req stTimeout [] []) := by
  simp [timedOut, htxid, hrsp]

/-- Ending with TIMEOUT changes each transaction of the port in its place. -/
theorem endTxn_timeout_out {p : Nat} {txid : BitVec 16} {s : State} (h : (s.iportAt p).out ≠ []) :
    ((endTxn p txid (fun r => rspFor r stTimeout [] []) s).iportAt p).out = (s.iportAt p).out.map (timedOut txid) :=
  congrArg IPort.out (State.iportAt_iportAtMod_of_out (by simpa using h))

/-- RSP_TIMEOUT at an initiator port finds the transaction of that number that has left and has no response; a timer that is set ends it, unless
Held freezes it. -/
theorem exec_rspTimeout {p : BitVec 10} {txid : BitVec 16} {s : State} {o : Outst} (hp : isIport p.toNat)
    (hset : fld (s.reg (portDie p.toNat) (blkNoc + 0x4000 + 0x20 * (p.toNat % 128))) 31 16 ≠ 0)
    (hfind : (s.iportAt p.toNat).out.find? (fun o => o.req.txid == txid && o.rsp.isNone && o.sent && o.req.typ != 3) = some o) :
    exec (.rspTimeout p txid) s = .next (if s.mode = .held then s else retire p.toNat (timeoutTxn p.toNat o s)) := by
  refine next_eq ((if_pos hp).trans ?_)
  unfold rspTimeoutF
  rw [hfind, beq_false_of_ne hset]
  simp

/-- A read that times out raises notice 0x3A05 and holds nothing (R262). -/
theorem timeoutTxn_read {p : Nat} {o : Outst} {s : State} (h : o.req.typ = 0) :
    timeoutTxn p o s = raiseFrom (portDie p) 0x3A05
      ((endTxn p o.req.txid (fun r => rspFor r stTimeout [] []) s).iportAtMod p (fun q => { q with timeoutSeen := true })) :=
  if_neg (by simp [h])

/-- Settles O16: the timer ends the transaction (`exec_rspTimeout`), in its place of the list (`endTxn_timeout_out`); a write or an atomic is the
branch of `timeoutTxn` that holds the target. -/
theorem responseTimeoutEndsTheTransaction : Obligations.ResponseTimeoutEndsTheTransaction := by
  unfold Obligations.ResponseTimeoutEndsTheTransaction
  refine ⟨?command, ?slot, fun p o s h => timeoutTxn_read h, fun p o s h => if_pos h⟩
  case command =>
    intro p txid s o hp hset hfind
    rw [exec_rspTimeout hp hset hfind]
    exact ⟨fun hmode => next_eq (if_neg hmode), fun hmode => next_eq (if_pos hmode)⟩
  case slot =>
    intro p txid s
    dsimp only
    intro hout
    rw [endTxn_timeout_out hout]
    refine ⟨by simp, fun n o hn htxid hrsp => ⟨timedOut txid o, ?_, timedOut_rsp htxid hrsp, rfl⟩⟩
    rw [List.getElem?_map, hn]
    rfl

/-! ## Every command completes -/

/-- Every arm of `exec` answers a next state. -/
theorem exec_next (i : Instr) (s : State) : ∃ t, exec i s = .next t := by
  cases i <;> exact ⟨_, rfl⟩

/-- An answer without effect: the old state, but for the value read out. -/
def NoEffect (s : State) (o : Host.Outcome State Fault Refusal) : Prop := ∃ t, o = .next t ∧ t = { s with readOut := t.readOut }

section
variable {s : State} {b : Bool} {l : LaneId}

/-- The old state is without effect. -/
theorem NoEffect.of_eq {t : State} (h : t = s) : NoEffect s (.next t) := ⟨t, rfl, by rw [h]⟩

/-- A command whose guard fails has no effect. -/
theorem NoEffect.of_when {f : State → State} (h : b = false) : NoEffect s (.next (s.when b f)) := .of_eq (by rw [h]; rfl)

/-- The same, with the guard as `Instr.wellFormed` writes it. -/
theorem NoEffect.of_whenDecide {f : State → State} (h : decide (b = true) = false) : NoEffect s (.next (s.when b f)) :=
  .of_when (by rwa [Bool.decide_eq_true] at h)

/-- A read whose guard fails answers zero and has no other effect. -/
theorem NoEffect.of_read {c : Prop} [Decidable c] {r : Word × State} (h : ¬ c) : NoEffect s (.next (State.readTo (if c then r else (0, s)))) :=
  ⟨_, rfl, by rw [if_neg h]; rfl⟩

/-- A command of a lane that the part does not have has no effect. -/
theorem NoEffect.of_laneCmd {f : State → State} (h : laneExists l = false) : NoEffect s (laneCmd l f s) := .of_when h

/-- A read of a lane that the part does not have has no effect. -/
theorem NoEffect.of_laneReadCmd {f : State → Word × State} (h : laneExists l = false) : NoEffect s (laneReadCmd l f s) :=
  .of_read (ne_true_of_eq_false h)

/-- A training set that is not of 16 symbols, or of a lane that the part does not have, has no effect. -/
theorem NoEffect.of_trainSet {t : List Byte} {f : State → State} (h : (decide (t.length = 16) && laneExists l) = false) :
    NoEffect s (laneCmd l (fun s => s.when (t.length == 16) f) s) := by
  rw [Bool.and_eq_false_iff] at h
  rcases h with hlength | hlane
  · refine .of_eq ?_
    unfold State.when
    split
    · exact if_neg (ne_true_of_eq_false hlength)
    · rfl
  · exact .of_laneCmd hlane

/-- A debug stimulus that is not of 1, 2 or 4 bytes has no effect. -/
theorem NoEffect.of_stimWidth {n : Nat} {f : State → State} (h : decide (n = 1 ∨ n = 2 ∨ n = 4) = false) :
    NoEffect s (.next (s.when (n == 1 || n == 2 || n == 4) f)) := .of_when (by simpa [and_assoc] using h)

/-- A lane command of the die link whose condition asks for a lane below 78 has no effect on one that is not. -/
theorem NoEffect.of_bundleLane {n : Nat} {c : Prop} [Decidable c] {t : State} (hc : c → n < 78) (h : decide (n < 78) = false) :
    NoEffect s (.next (if c then t else s)) := .of_eq (if_neg fun hyes => of_decide_eq_false h (hc hyes))

end

/-- A command that is not well formed has no effect: the check of `Instr.wellFormed` is the guard of its arm. -/
theorem exec_illFormed {i : Instr} {s : State} (h : i.wellFormed = false) : NoEffect s (exec i s) := by
  cases i
  case rd | wr | atom | fence | initiatorRequestIssue | flitRoute | nocResponseArrival | rspTimeout | qosChangeApply | fabricTargetResponse
      | nocIportHoldClr | pcieInboundRequest => exact .of_whenDecide h
  case nocFwLogRead | adlSbStatus => exact .of_read (of_decide_eq_false h)
  case reqOut => exact .of_bundleLane And.left h
  case steerOut => exact .of_bundleLane id h
  case reqIn | steerIn => exact .of_bundleLane And.right h
  case req | rsp | data | cmd | trig | align | probe | echo | tag | link | deliver | release | dieRejoin => exact .of_when h
  case dbgStim => exact .of_stimWidth h
  case lanePortEnable | lanePortDisable | laneDetectTimer | laneFarEndDetect | laneTrainTimeout | laneExchangeTimeout | laneSyncLoss
      | laneSymbolLock | laneRealignTimeout | ethFecCodeword | lnPrbsClr | lnPrbsTxEn | lnPrbsRxEn | lnLpbk | lnAdaptHold | eyeScanGo
      | eyeScanDone => exact .of_laneCmd h
  case lnPrbsErrLo | lnCodeErr | lnFec | lnHeld => exact .of_laneReadCmd h
  case ts1 | ts2 => exact .of_trainSet h
  all_goals cases h

/-- Settles O8: every arm answers a next state (`exec_next`), and one whose check fails without effect (`exec_illFormed`). -/
theorem everyCommandCompletes : Obligations.EveryCommandCompletes := by
  unfold Obligations.EveryCommandCompletes
  intro i s
  cases hwf : i.wellFormed with
  | true => exact (exec_next i s).imp fun _ he => ⟨he, nofun⟩
  | false => exact (exec_illFormed hwf).imp fun _ ⟨he, hs⟩ => ⟨he, fun _ => hs⟩

end Sys2Proof.Machine
end

section
/-! SUPPORT. The statements of the family of file 11: what H rewrites in the requests of a guest, and what the commands of the sideband and of the
lane changes of a bundle answer where their conditions hold. -/

namespace Sys2Proof.Machine

/-! ## Requests from a guest link (R281) -/

/-- A flit carries the data it was made of below its parity bits. -/
@[simp] theorem flitData_flitWith (d : BitVec 256) (bad : Nat → Bool) : flitData (flitWith d bad) = d := by
  unfold flitData flitWith
  exact BitVec.setWidth_append_eq_right

/-- A bit that lies outside a replaced field keeps its value. -/
theorem bit_setFld_other {w : Nat} (v : BitVec w) {hi lo i : Nat} (n : Nat) (hl : lo ≤ hi) (hw : hi < w) (hd : i < lo ∨ hi < i) :
    bit (setFld v hi lo n) i = bit v i := by
  unfold bit
  rw [setFld_getLsbD v n i hl hw, if_neg (by omega)]

/-- The data of a request's header with the three fields as H passes them on; the copy of its first two words is made from them. -/
def guestHeader (s : State) (site : Nat) (d : BitVec 256) : BitVec 256 :=
  setFld (setFld (setFld d 144 140 (fld (s.reg 0 (blkAdl + 0x40 + 4 * site)) 4 0)) 139 128 s.devId) 20 20 0

section
variable (s : State) (site : Nat) (d : BitVec 256)

theorem fwg_guestHeader : fld (guestHeader s site d) 144 140 = fld (s.reg 0 (blkAdl + 0x40 + 4 * site)) 4 0 := by
  have hfits := fld_lt (s.reg 0 (blkAdl + 0x40 + 4 * site)) 4 0
  unfold guestHeader
  rw [fld_setFld_other _ _ (by decide) (by decide) (by decide), fld_setFld_other _ _ (by decide) (by decide) (by decide),
    fld_setFld_self _ _ (by decide) (by decide)]
  exact Nat.mod_eq_of_lt hfits

theorem sdev_guestHeader : fld (guestHeader s site d) 139 128 = s.devId := by
  unfold guestHeader
  rw [fld_setFld_other _ _ (by decide) (by decide) (by decide), fld_setFld_self _ _ (by decide) (by decide)]
  exact Nat.mod_eq_of_lt s.span.devId.isLt

theorem insp_guestHeader : bit (guestHeader s site d) 20 = false := bit_setBit_self _ false (by decide)

end

/-- The rewrite of a request that has a good copy of every header byte, by its data. -/
theorem flitData_guestRewrite {s : State} {site : Nat} {f : BitVec 288} (hreq : hdrIsRsp f = false) (hcopy : headerLost f = false) :
    flitData (guestRewrite s site f)
      = setFld (guestHeader s site (flitData f)) 255 192 (fld (guestHeader s site (flitData f)) 63 0) := by
  unfold guestRewrite
  rw [hreq, hcopy]
  exact flitData_flitWith _ _

/-- A header that a router takes from a router of a guest site is rewritten, by the values after its check. -/
theorem checkFlit_fromGuest {s : State} {r inp q : Nat} {f : BitVec 288} (hinp : inp ≠ 0) (hnbr : nbr r inp = some q) (hsite : 5 ≤ q / 32) :
    (checkFlit r inp true f s).1 = guestRewrite (checkFlit r inp true f s).2 (q / 32 - 5) (repairHeader f).2.2 := by
  unfold checkFlit
  dsimp only
  rw [hnbr]
  exact if_pos ⟨hinp, hsite⟩

/-- Settles O17: the three fields lie beside each other and below the copy that H makes anew, so each keeps what it was given. -/
theorem guestRequestsAreRewritten : Obligations.GuestRequestsAreRewritten := by
  unfold Obligations.GuestRequestsAreRewritten
  refine ⟨?fields, ?intake⟩
  case fields =>
    intro s site f hreq hcopy
    dsimp only
    rw [flitData_guestRewrite hreq hcopy, fld_setFld_other _ _ (by decide) (by decide) (by decide),
      fld_setFld_other _ _ (by decide) (by decide) (by decide), bit_setFld_other _ _ (by decide) (by decide) (by decide)]
    exact ⟨fwg_guestHeader s site.val _, sdev_guestHeader s site.val _, insp_guestHeader s site.val _⟩
  case intake =>
    intro s r inp q f hinp hnbr hsite
    exact checkFlit_fromGuest hinp hnbr (by omega)

/-! ## Lane changes of a bundle (R264, R273, R274) -/

/-- A bundle reads back as what it was changed to, unless that is the form an unlisted one has. -/
theorem State.bundleAt_bundleAtMod {s : State} {b : Nat} {f : Bundle → Bundle} (h : f (s.bundleAt b) ≠ {}) :
    (s.bundleAtMod b f).bundleAt b = f (s.bundleAt b) := sget_smod_self_of_ne (m := s.adl.bundle) h

/-- A bundle that was asked for a lane reads back so. -/
theorem State.bundleAt_asked {s : State} {b : Nat} {a : Bool × Bool × BitVec 7} :
    (s.bundleAtMod b (fun x => { x with ask := some a })).bundleAt b = { s.bundleAt b with ask := some a } :=
  State.bundleAt_bundleAtMod (f := fun x => { x with ask := some a }) fun e => nomatch congrArg Bundle.ask e

/-- A bundle that keeps a lane change for its tag reads back so. -/
theorem State.bundleAt_kept {s : State} {b : Nat} {c : Byte × LaneChange} :
    (s.bundleAtMod b (fun x => { x with rxNext := some c })).bundleAt b = { s.bundleAt b with rxNext := some c } :=
  State.bundleAt_bundleAtMod (f := fun x => { x with rxNext := some c }) fun e => nomatch congrArg Bundle.rxNext e

/-- A bundle that the rolling test may run on works. -/
theorem works_of_rltMay {s : State} {b : Nat} (h : s.rltMay b = true) : (s.bundleAt b).works = true := by
  unfold State.rltMay at h
  rw [Bool.and_eq_true, Bool.and_eq_true] at h
  obtain ⟨⟨hfull, _⟩, _⟩ := h
  unfold Bundle.works
  rw [hfull]
  rfl

/-- A bundle that works answers what it was asked at once, unless its previous lane change is unacknowledged or the quiet window is shut. -/
theorem steerSend_asked {s : State} {b : Nat} {out test : Bool} {lane : BitVec 7} (hworks : (s.bundleAt b).works = true) :
    let x := s.bundleAt b
    let asked := s.bundleAtMod b (fun x => { x with ask := some (out, test, lane) })
    let t : Byte := x.txTag + BitVec.ofNat 8 (8 + x.txLink.length)
    steerSend b asked =
      if x.stag.isNone && s.laneWindow b then
        linkSend b (linkFlit (if out then 1 else 2) 0x7F false 0 0 t.toNat test lane.toNat)
          (asked.bundleAtMod b (fun x => { x with ask := none, stag := some t, txNext := some (t, if out then .out lane test else .back lane) }))
      else asked := by
  have hturn : ∀ l : Bool, ((s.bundleAt b).works && (s.bundleAt b).stag.isNone && l) = ((s.bundleAt b).stag.isNone && l) := by simp [hworks]
  dsimp only
  rw [← hturn]
  unfold steerSend
  dsimp only
  rw [State.bundleAt_asked]
  rfl

/-- What a lane change does at the receiver once its tag has come. -/
def laneChanged (b : Nat) (c : LaneChange) (s : State) : State :=
  match c with
  | .out l true => s.bundleAtMod b (fun x => { x with rxOut := some l, rlt := .testing, testLane := l })
  | .out l false => failLane b l.toNat s
  | .back _ => rltBegin b (s.bundleAtMod b (fun x => { x with rxOut := none, rlt := .idle }))
  | .half =>
    raise 0x2B03 (s.bundleAtMod b (fun x => { x with state := .half, rlt := .idle, rxOut := none, txOut := none, txNext := none, ask := none }))

/-- The receiver makes the lane change it keeps once the tag is past. -/
theorem rxTurn_next {s : State} {b : Nat} {t : Byte} {c : LaneChange} (h : (s.bundleAt b).rxNext = some (t, c)) :
    rxTurn b s = if tagPast t (s.bundleAt b).rxTag then laneChanged b c (s.bundleAtMod b (fun x => { x with rxNext := none })) else s := by
  unfold rxTurn
  dsimp only
  rw [h]
  dsimp only
  cases tagPast t (s.bundleAt b).rxTag <;> rfl

/-- A lane change that reaches a bundle that works is made at once when its tag is past, and kept for its tag otherwise. -/
theorem rxChange_works {s : State} {b : Nat} {stag : Byte} {c : LaneChange} (hworks : (s.bundleAt b).works = true) :
    let kept := s.bundleAtMod b (fun x => { x with rxNext := some (stag, c) })
    rxChange b stag c s =
      if tagPast stag (s.bundleAt b).rxTag then laneChanged b c (kept.bundleAtMod b (fun x => { x with rxNext := none })) else kept := by
  have hkept := State.bundleAt_kept (s := s) (b := b) (c := (stag, c))
  have hturn := rxTurn_next (congrArg Bundle.rxNext hkept)
  rw [hkept] at hturn
  exact (if_pos hworks).trans hturn

section
variable {s : State} {b : Nat} {lane : BitVec 7} {test : Bool} {stag : Byte}

/-- A lane that may be given out is asked of the transmitter. -/
theorem reqOutF_asks (hlane : lane.toNat < 78) (hmay : s.rltMay b = true) (hout : (s.bundleAt b).txOut = none) (hnext : (s.bundleAt b).txNext = none)
    (hgood : (s.bundleAt b).failed.getLsbD lane.toNat = false) :
    reqOutF b lane.toNat test s = steerSend b (s.bundleAtMod b (fun x => { x with ask := some (true, test, lane) })) := by
  unfold reqOutF
  rw [BitVec.ofNat_toNat, BitVec.setWidth_eq]
  exact if_pos ⟨hlane, hmay, hout, hnext, by rw [hgood]; rfl⟩

/-- The lane that is out is asked back. -/
theorem reqInF_asks (hlane : lane.toNat < 78) (hout : (s.bundleAt b).txOut = some lane) :
    reqInF b lane.toNat s = steerSend b (s.bundleAtMod b (fun x => { x with ask := some (false, true, lane) })) := by
  unfold reqInF
  rw [BitVec.ofNat_toNat, BitVec.setWidth_eq]
  exact if_pos ⟨hout, hlane⟩

/-- The receiver is told that a lane goes out. -/
theorem steerOutF_changes (hlane : lane.toNat < 78) : steerOutF b lane.toNat test stag s = rxChange b stag (.out lane test) s := by
  unfold steerOutF
  rw [BitVec.ofNat_toNat, BitVec.setWidth_eq]
  exact if_pos hlane

/-- The receiver is told that the lane it has out comes back. -/
theorem steerInF_changes (hlane : lane.toNat < 78) (hout : (s.bundleAt b).rxOut = some lane) :
    steerInF b lane.toNat stag s = rxChange b stag (.back lane) s := by
  unfold steerInF
  rw [BitVec.ofNat_toNat, BitVec.setWidth_eq]
  exact if_pos ⟨hout, hlane⟩

/-- The receiver of a bundle at full width is told to halve it. -/
theorem halfF_changes (hfull : (s.bundleAt b).state = .full) (hfeature : s.feature (bundleBnd b) 0 = true) :
    halfF b stag s = rxChange b stag .half s := by
  unfold halfF
  rw [hfull, hfeature]
  rfl

end

/-- Settles O56: a request is answered by `steerSend_asked`, and a lane change is made or kept by `rxChange_works`. -/
theorem laneChangeCommandsComplete : Obligations.LaneChangeCommandsComplete := by
  unfold Obligations.LaneChangeCommandsComplete
  refine ⟨?reqOut, ?steerOut, ?reqIn, ?steerIn, ?half, ?rltDwellExpiry⟩
  case reqOut =>
    exact fun b lane test s hlane hmay hout hnext hgood =>
      next_eq ((reqOutF_asks hlane hmay hout hnext hgood).trans (steerSend_asked (works_of_rltMay hmay)))
  case steerOut =>
    intro b lane test stag s x kept now hlane hworks
    refine next_eq ((steerOutF_changes hlane).trans ((rxChange_works hworks).trans ?_))
    cases test <;> rfl
  case reqIn => exact fun b lane s hlane hout hworks => next_eq ((reqInF_asks hlane hout).trans (steerSend_asked hworks))
  case steerIn => exact fun b lane stag s hlane hworks hout => next_eq ((steerInF_changes hlane hout).trans (rxChange_works hworks))
  case half =>
    intro b stag s x kept now hfull hfeature
    have hworks : x.works = true := by simp [Bundle.works, hfull]
    exact next_eq ((halfF_changes hfull hfeature).trans (rxChange_works hworks))
  case rltDwellExpiry => exact fun b err s h => next_eq (if_neg (by simp [h]))

/-! ## The sideband -/

/-- Settles O48: a frame that its end takes is acknowledged, unless it is ACK or KEEPALIVE, and acted on (`sbTake_takes`). -/
theorem dieLinkCommandsComplete2 : Obligations.DieLinkCommandsComplete2 := by
  unfold Obligations.DieLinkCommandsComplete2
  refine ⟨?keepalive, ?ack, ?hello, ?bootGo, ?trainSync, ?laneMap, ?cap, ?joined, ?pwrReq, ?pwrAck, ?pwrDeny, ?pwrReqTimeout, ?sidebandFence,
    ?rejoin⟩
  case pwrReqTimeout => exact fun k s => rfl
  case joined => exact fun k toLeader f bridgeFails s h => next_eq (sbTake_takes (by simpa using h))
  case keepalive | ack | hello | bootGo | trainSync | laneMap | cap | pwrReq | pwrAck | pwrDeny | sidebandFence | rejoin =>
    exact fun k toLeader f s h => next_eq (sbTake_takes (by simpa using h))

end Sys2Proof.Machine
end

section
/-! SUPPORT. The statement of the family of file 12: what the commands of a lane's bring-up, of the loss and return of its lock and of its test
sequences answer where their conditions hold. -/

namespace Sys2Proof.Machine

/-! ## Commands of a lane -/

section
variable {l : LaneId} {f : State → State} {s : State}

/-- A command of a lane that the die has does what its meaning does. -/
theorem laneCmd_of_exists (hl : laneExists l = true) : laneCmd l f s = .next (f s) := next_eq (if_pos hl)

/-- A whole training set that a lane of the die receives is acted on (R290). -/
theorem laneCmd_trainingSet {t : List Byte} (ht : t.length = 16) (hl : laneExists l = true) :
    laneCmd l (fun s => s.when (t.length == 16) f) s = .next (f s) :=
  (laneCmd_of_exists hl).trans (next_eq (if_pos (beq_iff_eq.mpr ht)))

end

/-! ## The family of commands -/

/-- Settles O50: of a lane that the die has, each command takes the branch of the conditions its clause lists. -/
theorem laneCommandsComplete1 : Obligations.LaneCommandsComplete1 := by
  unfold Obligations.LaneCommandsComplete1
  refine ⟨?lanePortEnable, ?lanePortDisable, ?laneDetectTimer, ?laneFarEndDetect, ?ts1, ?ts2, ?laneTrainTimeout, ?laneExchangeTimeout,
    ?laneSyncLoss, ?laneSymbolLock, ?laneRealignTimeout, ?ethFecCodeword, ?lnPrbsClr, ?lnPrbsTxEn, ?lnPrbsRxEn⟩
  case lanePortEnable | laneDetectTimer | laneFarEndDetect | laneTrainTimeout | laneExchangeTimeout | laneSymbolLock | laneRealignTimeout =>
    exact fun l s hl h => (laneCmd_of_exists hl).trans (next_eq (if_pos h))
  case laneSyncLoss => exact fun l errs s hl hactive => (laneCmd_of_exists hl).trans (next_eq (if_pos hactive))
  case ethFecCodeword => exact fun l n s hl hcounts => (laneCmd_of_exists hl).trans (next_eq (if_neg hcounts))
  case ts1 | ts2 => exact fun l t s ht hl => laneCmd_trainingSet ht hl
  case lanePortDisable | lnPrbsClr => exact fun l s hl => laneCmd_of_exists hl
  case lnPrbsTxEn | lnPrbsRxEn => exact fun l on s hl => laneCmd_of_exists hl

end Sys2Proof.Machine
end

section
/-! SUPPORT. The statement of the family of file 13: what the commands of a port's bring-up and the frames that arrive at it answer where their
conditions hold. -/

namespace Sys2Proof.Machine

/-! ## Frames that arrive -/

section
variable {s t : State} {k ty : Nat} {f : List Word} {g : State → State}

/-- A whole frame is acted on (R311). -/
theorem wholeFrame_acts (hl : f.length = 16) (h : g s = t) :
    (.next (s.when (f.length == 16) g) : Host.Outcome State Fault Refusal) = .next t :=
  next_eq ((if_pos (beq_iff_eq.mpr hl)).trans h)

/-- A sequenced frame that is next in order, and is no TAG, joins its group on an encrypted port, and is delivered on any other (R315, R326). -/
theorem seqFrame_takes_untagged (hy : ty ≠ 0xB) (hu : (s.portAt k).state = .up) (hg : (frGood f && (s.portAt k).deskewed) = true)
    (ht : frType f = ty) (hu1 : ((frameAck k f s).portAt k).state = .up) (hq : frSeq f = ((frameAck k f s).portAt k).rxSeq.toNat) :
    seqFrame k ty f s =
      (let s := (frameAck k f s).portAtMod k (fun p => { p with rxSeq := p.rxSeq + 1, nak := false, accepted := p.accepted + 1 })
       let s := if (s.portAt k).encOn then s.portAtMod k (fun p => { p with rxGroup := p.rxGroup ++ [f] })
         else deliverFrame k f (freeBuf k (s.rxVc k f) s)
       if 16 ≤ (s.portAt k).accepted then sendLink k s else s) := by
  rw [seqFrame_takes hu hg ht hu1 hq]
  dsimp only
  rw [if_neg hy]

/-- A TAG frame that is next in order closes its group (R326). -/
theorem seqFrame_takes_tag (hu : (s.portAt k).state = .up) (hg : (frGood f && (s.portAt k).deskewed) = true) (ht : frType f = 0xB)
    (hu1 : ((frameAck k f s).portAt k).state = .up) (hq : frSeq f = ((frameAck k f s).portAt k).rxSeq.toNat) :
    seqFrame k 0xB f s =
      (let s := (frameAck k f s).portAtMod k (fun p => { p with rxSeq := p.rxSeq + 1, nak := false, accepted := p.accepted + 1 })
       let s := takeTag k f s
       if 16 ≤ (s.portAt k).accepted then sendLink k s else s) := by
  rw [seqFrame_takes hu hg ht hu1 hq]
  dsimp only
  rw [if_pos rfl]

/-- A LINK frame that arrives well only brings its acknowledgement, NAK and credits, whether or not they take the port down (R312). -/
theorem unseqFrame_link (hu : (s.portAt k).state = .up) (hg : (frGood f && (s.portAt k).deskewed) = true) (ht : frType f = 0xF) :
    unseqFrame k 0xF f g s = frameAck k f s := by
  obtain ⟨hgood, hdeskewed⟩ := (Bool.and_eq_true _ _).mp hg
  unfold unseqFrame
  rw [if_neg (by simp [hu]), if_neg (by simp [hgood, hdeskewed]), if_neg (fun hty => hty ht)]
  exact if_pos (.inr rfl)

end

/-! ## The family of commands -/

/-- Settles O52: a command of a port takes the branch of the conditions its clause lists, and a frame that arrives whole, well and, where it is
sequenced, in order is taken. -/
theorem spanLinkCommandsComplete1 : Obligations.SpanLinkCommandsComplete1 := by
  unfold Obligations.SpanLinkCommandsComplete1
  refine ⟨?spanPortUp, ?spanProgressTimeout, ?aos, ?req, ?rsp, ?data, ?cmd, ?trig, ?align, ?probe, ?echo, ?tag, ?link⟩
  case spanPortUp => exact fun k s h => next_eq (if_pos h)
  case spanProgressTimeout => exact fun k s h => next_eq (if_pos h)
  case aos => exact fun k aligned s h => next_eq (if_pos h)
  case req | rsp | data | cmd | trig =>
    exact fun k f s hl hu hg ht hu1 hq => wholeFrame_acts hl (seqFrame_takes_untagged (by decide) hu hg ht hu1 hq)
  case align => exact fun k f s hl hu hg ht hu1 hm => wholeFrame_acts hl (unseqFrame_takes hu hg ht (by decide) hu1 hm)
  case probe | echo => exact fun k f t s hl hu hg ht hu1 hm => wholeFrame_acts hl (unseqFrame_takes hu hg ht (by decide) hu1 hm)
  case tag => exact fun k f s hl hu hg ht hu1 hq => wholeFrame_acts hl (seqFrame_takes_tag hu hg ht hu1 hq)
  case link => exact fun k f s hl hu hg ht => wholeFrame_acts hl (unseqFrame_link hu hg ht)

end Sys2Proof.Machine
end

section
/-! SUPPORT. The statements of the families of files 14, 18, 19 and 20: the canonical form of DRAM and the store of a line, the levels at a start, the
advance of a calendar entry, the quiet window, the settled rung, and what the commands of debug, clocks and power answer where their conditions hold. -/

namespace Sys2Proof

/-! ## Runs of writes to a store -/

section
variable {α : Type} [DecidableEq α] {d : α} {m : Store α} {base : Nat} {f : Nat → α}

/-- A run of writes from `base` on leaves every key outside it alone. -/
theorem sget_foldl_sput_outside {n a : Nat} (h : ¬ (base ≤ a ∧ a < base + n)) :
    sget d ((List.range n).foldl (fun m i => sput d m (base + i) (f i)) m) a = sget d m a := by
  induction n with
  | zero => rfl
  | succ n ih =>
    rw [List.range_succ, List.foldl_append, List.foldl_cons, List.foldl_nil, sget_sput_ne (by omega), ih (by omega)]

/-- A read after a run of writes to a canonical store gives the value written at that key. -/
theorem sget_foldl_sput_inside {n i : Nat} (hwf : Store.wf d m = true) (h : i < n) :
    sget d ((List.range n).foldl (fun m i => sput d m (base + i) (f i)) m) (base + i) = f i := by
  induction n with
  | zero => exact absurd h (Nat.not_lt_zero i)
  | succ n ih =>
    rw [List.range_succ, List.foldl_append, List.foldl_cons, List.foldl_nil]
    by_cases hlast : i = n
    · rw [hlast, sget_sput_self (wf_foldl hwf)]
    · rw [sget_sput_ne (by omega), ih (by omega)]

end

end Sys2Proof

namespace Sys2Proof.Machine

/-! ## The canonical form of DRAM -/

/-- Settles O2: a step on an empty queue is idle (log 2). -/
theorem emptyQueueIdles : Obligations.EmptyQueueIdles := fun _ => step_idle

/-- Settles O4: DRAM lists no cell at reset. -/
theorem dramCanonicalAtReset : Obligations.DramCanonicalAtReset := wf_nil

/-- Settles O5: among what every command keeps (`exec_keeps`) is the canonical form of DRAM, since commands write cells one by one through `sput`
(`dramStore_keeps`) or lose DRAM whole (`Keeps.ddrLost`). -/
theorem everyStepKeepsDramCanonical : Obligations.EveryStepKeepsDramCanonical := by
  unfold Obligations.EveryStepKeepsDramCanonical
  exact fun s t hcanonical hstep => (step_keeps hstep).mem hcanonical

/-! ## The store of a DRAM line (R341, R344, R345) -/

/-- A vector of whole bytes is the number of its bytes. -/
theorem bytesNat_natBytes_toNat {k : Nat} (v : BitVec (8 * k)) : bytesNat (natBytes v.toNat k) = v.toNat := by
  rw [bytesNat_natBytes, show 256 ^ k = 2 ^ (8 * k) from (Nat.pow_mul 2 8 k).symm, Nat.mod_eq_of_lt v.isLt]

section
variable {c line : Nat} {v : BitVec 512} {poison : Bool} {s : State}

/-- A line is stored byte by byte, least significant first. -/
theorem dramStore_mem : (dramStore c line v poison s).ddr.mem =
    (List.range 64).foldl (fun m i => sput 0 m (c * 2 ^ 38 + line * 64 + i) (BitVec.ofNat 8 (v.toNat >>> (8 * i)))) s.ddr.mem := rfl

/-- A line of DRAM reads back as what was stored there. -/
theorem dramLine_dramStore (h : Safety.memoryCanonical s) : (dramStore c line v poison s).dramLine c line = v := by
  have hbytes : (List.range 64).map (fun i => sget 0 (dramStore c line v poison s).ddr.mem (c * 2 ^ 38 + line * 64 + i)) = natBytes v.toNat 64 := by
    rw [dramStore_mem]
    exact List.map_congr_left fun i hi => sget_foldl_sput_inside h (List.mem_range.mp hi)
  unfold State.dramLine
  rw [hbytes, bytesNat_natBytes_toNat (k := 64) v, BitVec.ofNat_toNat, BitVec.setWidth_eq]

/-- A store to a line of DRAM leaves every byte outside the line alone. -/
theorem dramStore_mem_outside {a : Nat} (h : ¬ (c * 2 ^ 38 + line * 64 ≤ a ∧ a < c * 2 ^ 38 + line * 64 + 64)) :
    sget 0 (dramStore c line v poison s).ddr.mem a = sget 0 s.ddr.mem a := by
  rw [dramStore_mem]
  exact sget_foldl_sput_outside h

end

/-- Settles O20: the store is a run of writes of 64 bytes, read back by `dramLine_dramStore` and framed by `dramStore_mem_outside`. -/
theorem dramLineStoreChangesOnlyItsLine : Obligations.DramLineStoreChangesOnlyItsLine := by
  unfold Obligations.DramLineStoreChangesOnlyItsLine
  intro c line v poison s
  refine ⟨dramLine_dramStore, fun hpoison => ?_, fun a => dramStore_mem_outside, rfl⟩
  subst hpoison
  exact sget_sinsert_self

/-! ## The levels at a start (R413) -/

/-- The level of every transport at a start is the one that the fuse gives. -/
theorem sget_startLevels (fuse : Nat) (x : Transport) : (sget 0 (startLevels fuse) x.id).toNat = if fuse = 0 then 2 else 0 := by
  unfold startLevels
  split
  · cases x <;> rfl
  · rfl

/-- Settles O26: the start senses the fuses and sets the levels from them, and no notice follows straps that are not reserved. -/
theorem startLevelsFollowTheFuse : Obligations.StartLevelsFollowTheFuse := by
  unfold Obligations.StartLevelsFollowTheFuse
  intro straps s hmode hhub hiosc h3 h5 h6 h7
  have hstarts : (s.mode == .greenware && s.boot.hubGood && !s.boot.ioscOk) = true := by simp [hmode, hhub, hiosc]
  have hallowed : ¬ (straps == 3 || straps == 5 || straps == 6 || straps == 7) = true := by
    simpa using ⟨⟨⟨h3, h5⟩, h6⟩, h7⟩
  exact ⟨_, next_eq ((if_pos hstarts).trans (if_neg hallowed)), rfl, rfl, rfl, fun x => sget_startLevels _ x⟩

/-! ## Calendar entries (R443) -/

/-- A repeating entry advances by the intervals that it is late, and one more. -/
theorem CalEnt.advance_repeating {x : CalEnt} {pos : BitVec 48} (h : x.interval ≠ 0) :
    x.advance pos =
      (let k := (pos - x.t).toNat / x.interval.toNat + 1
       ({ x with t := x.t + BitVec.ofNat 48 (x.interval.toNat * k), missed := satAdd x.missed (k - 1) }, k - 1)) :=
  if_neg fun e => h (BitVec.eq_of_toNat_eq e)

/-- An entry that moves ahead of the position, by no more than an interval, is not due there. -/
theorem not_due_ahead {late : BitVec 48} {n : Nat} (hahead : late.toNat < n) (hnear : n ≤ late.toNat + 2 ^ 32) :
    2 ^ 47 ≤ (late - BitVec.ofNat 48 n).toNat := by
  rw [BitVec.toNat_sub, BitVec.toNat_ofNat]
  omega

/-- Settles O18: an entry late by `l` positions advances by `l / interval + 1` intervals, the least number of them that is more than `l`. -/
theorem dueCalendarEntryAdvances : Obligations.DueCalendarEntryAdvances := by
  unfold Obligations.DueCalendarEntryAdvances
  refine ⟨?due, ?oneShot, ?repeating⟩
  case due => simp [State.calDue]
  case oneShot => exact fun x pos h => if_pos (congrArg BitVec.toNat h)
  case repeating =>
    intro x pos hrepeats hdue
    have hinterval : 0 < x.interval.toNat := Nat.pos_of_ne_zero fun e => hrepeats (BitVec.eq_of_toNat_eq e)
    have hahead := Nat.lt_mul_div_succ (pos - x.t).toNat hinterval
    have hwhole := Nat.mul_div_le (pos - x.t).toNat x.interval.toNat
    have hword := x.interval.isLt
    refine ⟨_, Nat.le_add_left 1 _, hahead, fun j _ hj => Nat.div_lt_of_lt_mul hj, CalEnt.advance_repeating hrepeats, ?_⟩
    rw [CalEnt.advance_repeating hrepeats]
    dsimp only
    rw [← BitVec.sub_sub]
    refine not_due_ahead hahead ?_
    rw [Nat.mul_succ]
    omega

/-! ## The quiet window (R446) -/

/-- A quiet window that is open, and a bundle at full width whose rolling test is switched on with `rlt_qw` and has not begun: it was switched on
while the bundle was asleep, and a bundle that relocks does not begin it (`bundleFree`, R437). -/
def idleBundleInWindow : State :=
  ((((State.reset.bundleAtMod 0 (fun x => { x with state := .full })).bndAtMod (bundleBnd 0) (fun b => { b with features := 2, version := 2 })).setReg
    (bundleTo 0 / 32) (blkAdl + 0x30) 0xC0000000).onClk (fun c => { c with quiet := true }))

/-- Refutes O13: QW_OPEN in an open window is not without effect. It resumes the rolling test of every bundle (`rltResume`) whether or not the window
was closed before, so a test that stood idle begins. -/
theorem not_quietWindowGatesBackgroundWork : ¬ Obligations.QuietWindowGatesBackgroundWork := by
  unfold Obligations.QuietWindowGatesBackgroundWork
  rintro ⟨-, hactions, -⟩
  obtain ⟨hopen, -⟩ := hactions 0 0 idleBundleInWindow
  have same : calAct 0 2 0 idleBundleInWindow = idleBundleInWindow := hopen rfl
  have begun : ((calAct 0 2 0 idleBundleInWindow).bundleAt 0).rlt = .asked := by decide +kernel
  have stood : (idleBundleInWindow.bundleAt 0).rlt = .idle := rfl
  rw [same, stood] at begun
  cases begun

/-! ## The settled rung (R456) -/

/-- The votes for a domain that name a rung, those for a guest bounded by the deepest rung it offers. -/
def State.rungVotes (s : State) (d : Nat) : List Nat :=
  let named := [s.mgrVote d, (s.pdomAt d).host.toNat, (s.pdomAt d).fab.toNat, (s.pdomAt d).dbg.toNat, (s.pdomAt d).cal.toNat].filter (fun v => v < 8)
  if d = 5 ∨ d = 6 then named.map (fun v => min v (s.guestDeepest d)) else named

/-- The settled rung is the least vote, or the floor where there is none. -/
theorem State.settled_eq_min? (s : State) (d : Nat) : s.settled d = (s.rungVotes d).min?.getD (s.floor d) := by
  unfold State.settled
  dsimp only
  split
  case h_1 hnone =>
    rw [show s.rungVotes d = [] from hnone]
    rfl
  case h_2 v vs hsome =>
    rw [show s.rungVotes d = v :: vs from hsome]
    rfl

/-- Settles O14: the least of a list that is not empty is in it, and none of it is less. -/
theorem settledRungFollowsTheVotes : Obligations.SettledRungFollowsTheVotes := by
  unfold Obligations.SettledRungFollowsTheVotes
  intro s d named votes
  rw [State.settled_eq_min?, show s.rungVotes d = votes from rfl]
  refine ⟨fun hnone => by rw [hnone]; rfl, fun hsome => ?_⟩
  obtain ⟨r, hr⟩ := Option.isSome_iff_exists.mp (List.isSome_min?_of_ne_nil hsome)
  rw [hr]
  exact List.min?_eq_some_iff.mp hr

/-! ## The families of commands -/

/-- Settles O29: each command takes the branch of the conditions its clause lists, and a packet that is ready passes its checks. -/
theorem clockCommandsComplete1 : Obligations.ClockCommandsComplete1 := by
  unfold Obligations.ClockCommandsComplete1
  refine ⟨?refclkQualifyDone, ?clkSwitch, ?clkRampStep, ?tbConfig, ?calSet, ?calClear, ?calStatus, ?clockFail, ?ioscFail, ?refclkRequalTimer⟩
  case refclkQualifyDone => exact fun dom counts s h => next_eq (if_neg h)
  case clkSwitch => exact fun id s0 c hc hok => next_eq ((startCmd_ready hc).trans (require_ok hok))
  case clkRampStep =>
    intro dom s d src n cmd hramp hn
    refine next_eq ?_
    unfold clkRampStepF
    rw [hramp]
    exact if_neg hn
  case tbConfig => exact fun id s0 c hc hok => next_eq ((startCmd_ready hc).trans (require_ok hok))
  case calSet => exact fun id s0 c hc hok => next_eq ((startCmd_ready hc).trans (require_ok hok))
  case calClear => exact fun id s0 c hc hok => next_eq ((startCmd_ready hc).trans (require_ok hok))
  case calStatus => exact fun id s0 c hc hok => next_eq ((startCmd_ready hc).trans (require_ok hok))
  case clockFail => exact fun dom bundle s h => next_eq (if_neg h)
  case ioscFail => exact fun s h => next_eq (if_neg h)
  case refclkRequalTimer => exact fun dom counts s h => next_eq (if_neg h)

/-- Settles O32: the second half of the power ladder. -/
theorem powerCommandsComplete2 : Obligations.PowerCommandsComplete2 := by
  unfold Obligations.PowerCommandsComplete2
  refine ⟨?pwrDrainTimeout, ?pwrMgrClr, ?pwrWarmWrite, ?wakeNLow, ?wakeTimer, ?watchSample, ?wakeVoteWithdraw, ?railGood, ?pwrMoveComplete⟩
  case pwrDrainTimeout => exact fun dom s h => next_eq (if_pos h)
  case pwrMgrClr => exact fun w s h => next_eq (if_neg h)
  case pwrWarmWrite => exact fun word v s h => next_eq (if_neg h)
  case wakeNLow => exact fun ns s h => next_eq (if_neg h)
  case wakeTimer => exact fun s h => next_eq (if_pos h)
  case watchSample => exact fun temp edges wakeN s h => next_eq (if_neg h)
  case wakeVoteWithdraw => exact fun s => rfl
  case railGood =>
    intro r s h
    refine next_eq ((if_neg h).trans ?_)
    cases r <;> rfl
  case pwrMoveComplete =>
    intro dom s d p t hmoving busy h
    refine next_eq ?_
    unfold pwrMoveCompleteF
    dsimp only
    rw [hmoving]
    exact if_neg h

/-- A debug write that the block takes at the level held acts. -/
theorem dbgWrite_acts {need : Nat} {f : State → State} {s : State} (hlive : s.dbgLive = true) (hlevel : ¬ s.authLevel < need) :
    dbgWrite need f s = f s := (if_neg (not_bnot hlive)).trans (if_neg hlevel)

/-- Settles O54: halts, watchdogs, registers of harts and the debug access path. -/
theorem debugCommandsComplete1 : Obligations.DebugCommandsComplete1 := by
  unfold Obligations.DebugCommandsComplete1
  refine ⟨?coreFence, ?dbgWdtKick, ?dbgWdtEnable, ?wdtExpiry, ?haltreq, ?hartHalted, ?resumereq, ?accessRegister, ?hartTrigger, ?dbgAccGo,
    ?jtagDbgaccUpdate⟩
  case coreFence => exact fun hart deviceIo s h => next_eq (if_pos h)
  case dbgWdtKick => exact fun w s => rfl
  case dbgWdtEnable => exact fun w s h => next_eq (if_pos h)
  case wdtExpiry => exact fun w s h => next_eq (if_neg h)
  case haltreq => exact fun h s hlive hlevel => next_eq (dbgWrite_acts hlive hlevel)
  case hartHalted => exact fun h pc s hc => next_eq (if_neg hc)
  case resumereq => exact fun h s hlive hlevel hheld => next_eq ((dbgWrite_acts hlive hlevel).trans (if_neg hheld))
  case accessRegister => exact fun h reg write s hlive hlevel => next_eq (dbgWrite_acts hlive hlevel)
  case hartTrigger => exact fun h t action timing s hc => next_eq (if_neg hc)
  case dbgAccGo => exact fun w s hlive hlevel => next_eq (dbgWrite_acts hlive hlevel)
  case jtagDbgaccUpdate => exact fun dr s h => next_eq (if_neg h)

/-- Settles O55: the probe port, cross-triggers, sector freeze, Held and trace. -/
theorem debugCommandsComplete2 : Obligations.DebugCommandsComplete2 := by
  unfold Obligations.DebugCommandsComplete2
  refine ⟨?jtagTestLogicReset, ?extest, ?xtiEvent, ?dbgXtPulse, ?sfrzFreeze, ?sfrzRelease, ?dbgHeldEnter, ?heldEntryComplete, ?dbgHeldRelease,
    ?dbgStim, ?traceFlushTimer⟩
  case jtagTestLogicReset => exact fun s => rfl
  case extest => exact fun s => rfl
  case xtiEvent => exact fun die line s => rfl
  case dbgXtPulse => exact fun w s hlive hlevel hlines => next_eq ((dbgWrite_acts hlive hlevel).trans (if_neg hlines))
  case sfrzFreeze => exact fun die s hlive hlevel => next_eq (dbgWrite_acts hlive hlevel)
  case sfrzRelease => exact fun die s hlive hlevel => next_eq (dbgWrite_acts hlive hlevel)
  case dbgHeldEnter => exact fun s hlive hlevel => next_eq (dbgWrite_acts hlive hlevel)
  case heldEntryComplete => exact fun s h => next_eq (if_pos h)
  case dbgHeldRelease => exact fun s hlive hlevel hheld => next_eq ((dbgWrite_acts hlive hlevel).trans (if_pos hheld))
  case dbgStim =>
    intro n v bytes s hbytes _ h
    refine next_eq ((if_pos ?_).trans (if_pos h))
    simpa [or_assoc] using hbytes
  case traceFlushTimer => exact fun s => rfl

end Sys2Proof.Machine
end
